-- ==== Sys2Proof/Word.lean ====
section
/-! DEFINITION. The words, unit numbers and message types that commands and state are written in (spec/00, spec/01). -/

namespace Sys2Proof

/-- A byte, the smallest addressable unit (R6). -/
abbrev Byte := BitVec 8
/-- A 16-bit field. -/
abbrev W16 := BitVec 16
/-- A 32-bit field; an FP32 value is carried in its encoding. -/
abbrev W32 := BitVec 32
/-- A 64-bit word: an instruction word, a register of the register space or a scalar register. -/
abbrev W64 := BitVec 64
/-- One 64-byte line; byte `j` of the line is bits `8j+7 .. 8j` (R6). -/
abbrev Line := BitVec 512

/-- A tensor engine by its global index (R5). -/
abbrev TeId := Fin 256
/-- A resident slot of a tensor engine (R215). -/
abbrev SlotId := Fin 4
/-- An accumulation group (R84). -/
abbrev GroupId := Fin 8
/-- A compute die C0 to C3. -/
abbrev CDie := Fin 4
/-- A host die H0 or H1. -/
abbrev HDie := Fin 2
/-- A near-memory stack S0 to S11. -/
abbrev StackId := Fin 12
/-- A memory controller: 0 to 11 the stacks, 12 and 13 the deep-tier controllers of H0 and H1. -/
abbrev CtrlId := Fin 14
/-- A deep-memory package D0 to D17. -/
abbrev DeepId := Fin 18
/-- A host core by its hart ID (R10). -/
abbrev Hart := Fin 80
/-- A session (R12, R182). -/
abbrev Session := Fin 65536
/-- A partition-table entry (R223). -/
abbrev PartId := Fin 64
/-- A coherence agent number (R299, Table 11-1); 92 to 127 are reserved. -/
abbrev Agent := Fin 92
/-- A line of package memory, named by its system address divided by 64. -/
abbrev LineNo := Nat
/-- An Orfin ring (R350). -/
abbrev RingId := Fin 1024
/-- A region of a C-die, numbered 4 × die + region. -/
abbrev RegionId := Fin 16
/-- An XF port (R26). -/
abbrev XfPort := Fin 16

/-- The six dies; the index of R5-style die fields is 0 to 3 for C0 to C3, 4 and 5 for H0 and H1. -/
inductive Die where
  | c (d : CDie)
  | h (d : HDie)
deriving DecidableEq, Repr

/-- Die number: 0 to 3 for C0 to C3, 4 for H0, 5 for H1. -/
def Die.num : Die → Nat
  | .c d => d.val
  | .h d => 4 + d.val

/-- The links: seven Seam links in the order of Table 1-4, the XF ports, Orfin and the mirror ports. -/
inductive LinkId where
  | seam (l : Fin 7)
  | xf (p : XfPort)
  | orfin
  | mirror (n : Fin 2)
deriving DecidableEq, Repr

/-- A number for each link: 0 to 6 Seam, 7 to 22 XF, 23 Orfin, 24 and 25 the mirror ports. -/
def LinkId.num : LinkId → Nat
  | .seam l => l.val
  | .xf p => 7 + p.val
  | .orfin => 23
  | .mirror n => 24 + n.val

/-- The port number of a LINK record (Table 17-2): 0 to 15 XF, 16 Orfin, 17 and 18 the mirror ports. -/
def LinkId.port : LinkId → Nat
  | .seam l => l.val
  | .xf p => p.val
  | .orfin => 16
  | .mirror n => 17 + n.val

/-- A flit that arrives on a link of Seam: the link and the bytes of the flit (R372). -/
structure SeamFlit where
  link : Fin 7
  bytes : List Byte
deriving DecidableEq, Repr

/-- A flit that arrives on a SerDes link (R343, R381). -/
structure SerdesFlit where
  link : LinkId
  bytes : List Byte
deriving DecidableEq, Repr

/-- A NAK that arrives on a link, with the last SEQ that the other end has received right (R344, R375). -/
structure NakFlit where
  link : LinkId
  ack : BitVec 12
deriving DecidableEq, Repr

/-- A rising edge of STITCH_IN: how many nanoseconds after the last boundary, and for how many the input stays high (R401). -/
structure StitchPulse where
  ns : W32
  high : W32
deriving DecidableEq, Repr

/-- A packet on XF or on a mirror port: transport header (Table 14-8), payload in clear, and whether its authentication tag verifies under the key that its header names. -/
structure XfPacket where
  hdr : BitVec 256
  payload : List Byte
  tagOk : Bool
deriving DecidableEq, Repr

/-- A line of package memory, named by bits [51:6] of its system address (R272). -/
abbrev LineAddr := BitVec 46

/-- A message of the key exchange as it reaches Thimble (R474, R475): the XF port that brings it, DST_NODE and SRC_NODE of its header, the slot, whether its signature and its chain verify, the digest of the sender's M0 to M6, and its content. -/
structure KexMsg where
  port : XfPort
  dst : W16
  src : W16
  slot : BitVec 8
  job : W16
  sigOk : Bool
  chainOk : Bool
  digest : BitVec 512
  stitch : BitVec 48
  body : List Byte
deriving DecidableEq, Repr

/-- A firmware image as read from flash (R469): the signed bytes 0x000 to 0x07F of its header, ADV_KEY (0x080), ADV_SIG (0x800), OWN_SIG (0xD00), OWN_KEY (0x1200) and the body (0x2000), and whether each signature verifies over the signed bytes under its key. -/
structure Image where
  signed : BitVec 1024
  advKey : List Byte
  advSig : List Byte
  ownSig : List Byte
  ownKey : List Byte
  body : List Byte
  advSigOk : Bool
  ownSigOk : Bool
deriving DecidableEq, Repr

/-- What the hardware and the firmware report at the end of a start-up phase (Table 19-2, Table 19-3). -/
structure PhaseWork where
  pllOk : Bool
  slotA : List Image
  slotB : List Image
  seamOk : Bool
  stackMask : BitVec 12
  packageMask : BitVec 18
  hartsOk : Bool
deriving DecidableEq, Repr

/-- A plain integer operation of an atomic (R152, R333). -/
inductive AtomOp where
  | add
  | min
  | max
  | swap
  | cas
  | minu
  | maxu
  | and
  | or
  | xor
deriving DecidableEq, Repr

/-- What a host core does with memory (R324, R336, R338). Addresses are system addresses; `drain` is its oldest buffered store leaving for the L1, `taken` its oldest acknowledged register write being taken (R335). `load` is a load that reads and retires at once; `loadBegin`, `loadRead` and `loadRetire` are the parts of one that stays in flight, the last two by its place among those (R325). The bits of a fence are its predecessor set I, O, R, W, then its successor set. -/
inductive HostOp where
  | load (addr : BitVec 52) (width : Fin 4)
  | store (addr : BitVec 52) (width : Fin 4) (value : W64)
  | drain
  | taken
  | loadBegin (addr : BitVec 52) (width : Fin 4)
  | loadRead (place : Fin 128)
  | loadRetire
  | amo (addr : BitVec 52) (wide : Bool) (op : AtomOp) (operand : W64) (aq rl : Bool)
  | loadReserved (addr : BitVec 52) (wide : Bool) (aq rl : Bool)
  | storeConditional (addr : BitVec 52) (wide : Bool) (value : W64) (aq rl : Bool)
  | zeroBlock (addr : BitVec 52)
  | fence (preI preO preR preW sucI sucO sucR sucW : Bool)
  | fenceI
  | fetch (addr : BitVec 52)
deriving DecidableEq, Repr

/-- A resident context is named by its tensor engine and slot (R222). -/
structure CtxId where
  te : TeId
  slot : SlotId
deriving DecidableEq, Repr

/-- The C-die of a tensor engine (R5). -/
def dieOf (te : TeId) : CDie := ⟨te.val / 64, by have := te.isLt; omega⟩

/-- The package-wide number of a tensor engine's cluster, 16 × die + 4 × region + cluster (R5). -/
def clusterOf (te : TeId) : Fin 64 := ⟨te.val / 4, by have := te.isLt; omega⟩

/-- The package-wide number of a tensor engine's region, 4 × die + region (R5). -/
def regionOf (te : TeId) : RegionId := ⟨te.val / 16, by have := te.isLt; omega⟩

/-- The levels at which tallies are held (R332, Table 5-17). -/
inductive TallyLevel where
  | cluster
  | region
  | die
deriving DecidableEq, Repr

/-- Bits `hi` down to `lo` of a word, as a number (R6). -/
def bits {n : Nat} (w : BitVec n) (hi lo : Nat) : Nat := (w.extractLsb' lo (hi + 1 - lo)).toNat

/-- Bit `i` of a word. -/
def bitAt {n : Nat} (w : BitVec n) (i : Nat) : Bool := w.getLsbD i

/-- A word with bits `hi` down to `lo` replaced by the low bits of `v`. -/
def setBits {n : Nat} (w : BitVec n) (hi lo v : Nat) : BitVec n :=
  let mask : BitVec n := (BitVec.ofNat n (2 ^ (hi + 1 - lo) - 1)) <<< lo
  (w &&& ~~~mask) ||| (((BitVec.ofNat n v) <<< lo) &&& mask)

/-- A word with bit `i` replaced. -/
def setBit {n : Nat} (w : BitVec n) (i : Nat) (b : Bool) : BitVec n := setBits w i i (if b then 1 else 0)

/-- A list of the byte values of a little-endian word (R6), lowest address first. -/
def bytesOf (n : Nat) (v : Nat) : List Byte :=
  (List.range n).map fun i => BitVec.ofNat 8 (v / 256 ^ i)

/-- The number that a little-endian run of bytes spells (R6). -/
def leNat : List Byte → Nat
  | [] => 0
  | b :: t => b.toNat + 256 * leNat t

/-- Rounds up to a multiple of `a`. -/
def roundUp (n a : Nat) : Nat := (n + a - 1) / a * a

/-- The quotient rounded up, written ceil(a ÷ b) in the spec. -/
def ceilDiv' (a b : Nat) : Nat := (a + b - 1) / b

/-- The signed reading of a 32-bit difference is at least zero (R139, R151). -/
def geZero32 (a : W32) : Bool := !a.msb

end Sys2Proof
end

