-- ==== Sys2Proof/Syntax.lean ====
section
/-! DEFINITION. The commands of the block: one constructor for each row of the opcode table (spec/opcode_table.json), with the operands that the command carries. -/

namespace Sys2Proof

/-- The commands. An instruction of a sequencer names its context and carries its base word and extension word (R115); a write of a register carries the value written; an event carries what the outside world contributes to it. -/
inductive Instr where
  /-- NOP (R116): Sequencer instruction that does nothing. -/
  | nop (c : CtxId) (w x : W64)
  /-- END (R127): Issues once all earlier work of the context has completed, then ends the context and discards its remaining groups. -/
  | endKernel (c : CtxId) (w x : W64)
  /-- STOPK (R128): Stops the context and places a software error record carrying CODE. -/
  | stopk (c : CtxId) (w x : W64)
  /-- SRD (R126): Reads the value that a selector of Table 5-5 names into a scalar register. -/
  | srd (c : CtxId) (w x : W64)
  /-- SALU (R125): Scalar register-register arithmetic or logic operation. -/
  | salu (c : CtxId) (w x : W64)
  /-- SALUI (R125): Scalar arithmetic or logic operation with a sign-extended immediate. -/
  | salui (c : CtxId) (w x : W64)
  /-- LI (R116): Loads the 64-bit extension word into a scalar register. -/
  | li (c : CtxId) (w x : W64)
  /-- BR (R126): Branches by OFF when the condition COND holds. -/
  | br (c : CtxId) (w x : W64)
  /-- BDNZ (R116): Decrements a register and branches if the result is not zero. -/
  | bdnz (c : CtxId) (w x : W64)
  /-- SLD (R126): Loads 1 to 8 tile-store bytes into a scalar register. -/
  | sld (c : CtxId) (w x : W64)
  /-- SST (R126): Stores the low bytes of a scalar register into the tile store. -/
  | sst (c : CtxId) (w x : W64)
  /-- TMOV (R129): Copies a two-dimensional array between spaces, converting format and layout. -/
  | tmov (c : CtxId) (w x : W64)
  /-- TMOV_COMPLETE (R135): Once all writes of a move are performed, adds its count to the named tally. -/
  | tmovComplete (c : CtxId)
  /-- MMA (R136): Issues a matrix multiply-accumulate into the array queue. -/
  | mma (c : CtxId) (w x : W64)
  /-- ARRAY_TAKE_MMA (R80): The array takes the next queued MMA round-robin among resident contexts. -/
  | arrayTakeMma (te : TeId)
  /-- ARRAY_REFORM (R79): The array re-forms in 8 cycles after the last pass of the old form lands. -/
  | arrayReform (te : TeId)
  /-- RING_READY (R139): The ready tally condition of a pass-tile ring holds and the weight load of the pass begins. -/
  | ringReady (te : TeId)
  /-- WEIGHT_LOAD_DONE (R73): A pass's weight load completes, and a ring's freed tally rises by 1. -/
  | weightLoadDone (te : TeId)
  /-- PASS_ROWS_ENTER (R75): The first row of a pass enters the array once its load and the previous pass allow. -/
  | passRowsEnter (te : TeId)
  /-- GROUP_LANDING (R76): The last result of a group is added into the accumulator. -/
  | groupLanding (te : TeId) (g : GroupId)
  /-- OPEN (R85): Makes a group open and unbound, in normal or compensated mode. -/
  | openGroup (c : CtxId) (w x : W64)
  /-- CLOSE (R85): Ends accumulation into a group and requests its drain with the drain controls. -/
  | close (c : CtxId) (w x : W64)
  /-- SWAP (R108): In shadow mode, closes the live bank for draining and makes the other bank live. -/
  | swap (c : CtxId) (w x : W64)
  /-- SCALE_ROWS (R99): Requests that each row of an open group be multiplied by a per-row factor. -/
  | scaleRows (c : CtxId) (w x : W64)
  /-- SCALE_ROWS_BEGIN (R99): The scaling begins once earlier passes have landed and earlier drains have ended. -/
  | scaleRowsBegin (te : TeId) (g : GroupId)
  /-- DISCARD (R85): Frees a group without draining it. -/
  | discard (c : CtxId) (w x : W64)
  /-- DRAIN_START (R78): The drain of a closed group begins on the drain path. -/
  | drainStart (te : TeId) (g : GroupId)
  /-- DRAIN_END (R107): The drain's last cycle passes; the group becomes free or retained, and the output is readable four cycles later. -/
  | drainEnd (te : TeId)
  /-- VALU (R143): Elementwise vector operation selected by FN. -/
  | valu (c : CtxId) (w x : W64)
  /-- VRED (R145): Vector lane reduction into a scalar register. -/
  | vred (c : CtxId) (w x : W64)
  /-- VLD (R144): Loads tile-store elements into a vector register, converting them exactly to FP32. -/
  | vld (c : CtxId) (w x : W64)
  /-- VST (R144): Converts a vector register and stores it to the tile store. -/
  | vst (c : CtxId) (w x : W64)
  /-- VSORT (R146): Sorts lanes in descending order with their source indices. -/
  | vsort (c : CtxId) (w x : W64)
  /-- VSCAN (R147): Writes inclusive running sums of the lanes. -/
  | vscan (c : CtxId) (w x : W64)
  /-- VRNG (R148): Fills lanes from the counter-based Philox generator. -/
  | vrng (c : CtxId) (w x : W64)
  /-- SFN (R81): Applies exp, reciprocal or rsqrt to the lanes. -/
  | sfn (c : CtxId) (w x : W64)
  /-- VACT (R81): Applies SiLU or GELU to the lanes. -/
  | vact (c : CtxId) (w x : W64)
  /-- TWAIT (R151): Holds the context's issue until a tally reaches a value. -/
  | twait (c : CtxId) (w x : W64)
  /-- TWAIT_SATISFIED (R151): A held TWAIT finds its tally condition met, and issue resumes. -/
  | twaitSatisfied (c : CtxId)
  /-- TSIG (R151): Adds a value to a tally. -/
  | tsig (c : CtxId) (w x : W64)
  /-- BAR (R327): Holds later instructions until earlier accesses are performed at the scope, then acts as ACQ. -/
  | bar (c : CtxId) (w x : W64)
  /-- ACQ (R327): Holds later accesses until earlier reads complete, and discards stale copies for the scope. -/
  | acq (c : CtxId) (w x : W64)
  /-- REL (R327): Holds later writes and tally operations until earlier accesses are performed at the scope. -/
  | rel (c : CtxId) (w x : W64)
  /-- ATOM (R152): Performs one read-modify-write at the home of an address or at a tally. -/
  | atom (c : CtxId) (w x : W64)
  /-- DC_ZERO (R153): Makes lines zero by allocating them in the die cache without reading memory. -/
  | dcZero (c : CtxId) (w x : W64)
  /-- GATHER (R154): Copies indexed memory rows into the tile store. -/
  | gather (c : CtxId) (w x : W64)
  /-- SCATTER (R154): Copies tile-store rows to indexed memory rows. -/
  | scatter (c : CtxId) (w x : W64)
  /-- KVGATHER (R167): Delivers a session's keys, values or tree bias to the tile store through its block table. -/
  | kvgather (c : CtxId) (w x : W64)
  /-- KVAPPEND (R168): Appends K and V rows to a session's KV blocks. -/
  | kvappend (c : CtxId) (w x : W64)
  /-- DISPATCH_INSTR_COMPLETE (R157): Once every copy, append or combine of a dispatch instruction is performed, adds 1 to its tally. -/
  | dispatchInstrComplete (c : CtxId)
  /-- DISPATCH (R197): A ROUTE with a DISPATCH descriptor selects experts and opens a route. -/
  | dispatch (c : CtxId) (w x : W64)
  /-- ROUTE_TAG_ASSIGN (R204): A queued DISPATCH receives a free ROUTE_TAG once fewer than 1,024 routes are open. -/
  | routeTagAssign (d : CDie)
  /-- TOKEN_SEND (R202): Sends one TOKEN packet to its chosen home, testing absence at the moment of sending. -/
  | tokenSend (d : CDie) (tag : Fin 1024)
  /-- RETURN (R207): A ROUTE with a RETURN descriptor sends results for inbox rows back to their sources. -/
  | returnRoute (c : CtxId) (w x : W64)
  /-- VERIFY (R175): A ROUTE with a VERIFY descriptor has the session unit perform acceptance and write the result. -/
  | verify (c : CtxId) (w x : W64)
  /-- COMMIT (R194): A ROUTE with a COMMIT descriptor advances LEN and ROOT and clears the tree. -/
  | commit (c : CtxId) (w x : W64)
  /-- MIRROR_ACK_TIMEOUT (R195): No mirror acknowledgement arrives within 1 stitch, and the commit completes with cause 0x0B. -/
  | mirrorAckTimeout (session : Session)
  /-- TOKEN_ARRIVE (R206): An arriving TOKEN is placed in its inbox bank, or refused or discarded. -/
  | tokenArrive (d : CDie) (port : Option XfPort) (p : XfPacket)
  /-- RESULT_ARRIVE (R210): An arriving RESULT lands in STAGE or is discarded as late or stray. -/
  | resultArrive (d : CDie) (port : Option XfPort) (p : XfPacket)
  /-- DISPATCH_DEADLINE (R208): The deadline of a DISPATCH expires, and its unresolved pairs count as zero. -/
  | dispatchDeadline (d : CDie)
  /-- COMBINE_DONE (R212): The combine finishes writing the output and MISS, and the route's tally rises. -/
  | combineDone (d : CDie) (tag : Fin 1024)
  /-- SES_TABLE_WRITE (R186): A host store to a session entry writes its permitted fields. -/
  | sesTableWrite (hart : Hart) (session : Session) (word : Fin 32) (v : W64)
  /-- SESSION_LIVE (R188): A host write of LIVE makes an entry LIVE when its fields are valid. -/
  | sessionLive (session : Session)
  /-- SESSION_HELD (R187): A host write of HELD moves a LIVE entry to HELD. -/
  | sessionHeld (session : Session)
  /-- SESSION_FREE (R189): A host write of FREE wipes the whole entry in one operation. -/
  | sessionFree (session : Session)
  /-- TE_SLOTCFG_WRITE (R216): Sets the four slot shares of a TE, when every slot is empty. -/
  | teSlotcfgWrite (te : TeId) (v : W64)
  /-- TE_PART_WRITE (R224): Writes a partition entry under the checks of R224 and R226. -/
  | tePartWrite (p : PartId) (word : Fin 8) (v : W64)
  /-- PARTITION_WIPE_END (R225): The cluster-store window wipe of a partition ends, and launches of the job may be placed. -/
  | partitionWipeEnd (p : PartId)
  /-- LAUNCH_PLACE (R230): A TE with an empty slot takes a fitting launch from its own queue or steals one. -/
  | launchPlace (te : TeId)
  /-- SLOT_WIPE_END (R221): The wipe of a slot's tile-store share ends, ahead of the launch checks. -/
  | slotWipeEnd (c : CtxId)
  /-- CONTEXT_STOP_COMPLETE (R442): The handed-off work of a stopped context finishes; the slot empties and the completion reads STOPPED. -/
  | contextStopComplete (c : CtxId)
  /-- TE_SVC_OUT (R236): The OUT command drains a TE out of service. -/
  | teSvcOut (te : TeId)
  /-- TE_SVC_OUT_NOW (R236): The OUT_NOW command stops every resident context and takes the TE out of service. -/
  | teSvcOutNow (te : TeId)
  /-- TE_SVC_IN (R238): The IN command starts the wipe that brings a TE back. -/
  | teSvcIn (te : TeId)
  /-- TE_WIPE_END (R238): A returning TE's wipe of 2,048 cycles ends, and its patrol pass begins. -/
  | teWipeEnd (te : TeId)
  /-- RETURN_PATROL_END (R238): A returning TE's patrol pass ends, and the TE enters JOINING or OUT with FAILED. -/
  | returnPatrolEnd (te : TeId) (failing : Option (Fin 192 × W64))
  /-- PATROL_SLICE (R447): A patrol slice of 256 array cycles runs and compares its signature. -/
  | patrolSlice (te : TeId) (observed : W64)
  /-- STACK_SENSOR_READ (R250): A stack controller reads its temperature every 1 µs and raises its refresh rate. -/
  | stackSensorRead (st : StackId) (temp : Byte)
  /-- STACK_SENSOR_FAIL (R252): A stack sensor gives no valid reading for 1 ms; the stack goes to 4× refresh. -/
  | stackSensorFail (st : StackId)
  /-- REFRESH (R251): A controller issues refresh commands ahead of every class. -/
  | refresh (st : StackId)
  /-- LPDDR_REFRESH_INDICATION (R253): An LPDDR5X controller sets a package's refresh rate from its indication. -/
  | lpddrRefreshIndication (pkg : DeepId) (code : Byte)
  /-- CONTROLLER_SERVE (R248): A memory controller serves the next line transfer by class and P2 accounting. -/
  | controllerServe (ctrl : CtrlId)
  /-- P1_PROMOTE (R248): A P1 request that has waited longer than P1_AGE is promoted. -/
  | p1Promote (ctrl : CtrlId)
  /-- LANE_REPAIR (R254): STK_TEST_CMD KIND 0x1 maps a failed lane to a spare. -/
  | laneRepair (st : StackId) (v : W64)
  /-- SOFT_PPR (R254): STK_TEST_CMD KIND 0x2 repairs a row with a spare row until power-off. -/
  | softPpr (st : StackId) (v : W64)
  /-- HARD_PPR (R254): STK_TEST_CMD KIND 0x3 repairs a row permanently with a fused spare. -/
  | hardPpr (st : StackId) (v : W64)
  /-- REPAIR_DONE (R255): A repair command ends, BUSY clears and RESULT is written. -/
  | repairDone (st : StackId) (result : Fin 4)
  /-- DC_DISABLE (R264): Writing DC_CTRL.ENABLE to 0 starts a die-cache disable. -/
  | dcDisable (d : CDie)
  /-- DC_DISABLE_DONE (R264): The disable has written back and released every line, and DISABLING clears. -/
  | dcDisableDone (d : CDie)
  /-- DC_ENABLE (R266): Writing DC_CTRL.ENABLE to 1 enables the cache, flagging a stale enable. -/
  | dcEnable (d : CDie)
  /-- DC_INVAL (R265): Starts invalidation of every non-quarantined way of a disabled cache. -/
  | dcInval (d : CDie)
  /-- DC_INVAL_DONE (R265): The invalidation ends after 8,192 cycles. -/
  | dcInvalDone (d : CDie)
  /-- QCMD_DISCARD (R269): Releases a quarantined line and frees its way and slot. -/
  | qcmdDiscard (die : Fin 6) (v : W64)
  /-- QCMD_RETIRE (R269): Releases a quarantined line and retires its way until reset. -/
  | qcmdRetire (die : Fin 6) (v : W64)
  /-- XLT_INVAL (R283): A hart's invalidation is broadcast to every C-die. -/
  | xltInval (hart : Hart) (v : W64)
  /-- XLT_ACK (R283): A C-die acknowledges once its removed entries' accesses have completed. -/
  | xltAck (d : CDie) (hart : Hart)
  /-- XLT_OVERDUE (R286): An invalidation still pending one stitch after its write sets OVERDUE and places a record. -/
  | xltOverdue (hart : Hart)
  /-- TLT_MAP_WRITE (R289): Writes a tier-map entry under the validity checks. -/
  | tltMapWrite (slab : Fin 16384) (v : W64)
  /-- TLT_MAP_INVALIDATE (R290): Clearing VALID recalls the slab's lines and drains resolved accesses before completing. -/
  | tltMapInvalidate (slab : Fin 16384)
  /-- TLT_MOVE (R292): Queues a move of a pooled slab to a destination slab. -/
  | tltMove (v : W64)
  /-- MOVE_MARK (R293): Tilth starts the next queued move by setting MOVING and DEST in every replica. -/
  | moveMark
  /-- MOVE_MARK_ACK (R293): All six dies have acknowledged MARK and COPY begins. -/
  | moveMarkAck (die : Fin 6)
  /-- MOVE_COPY_TILE (R293): Tilth copies one 64 KiB tile while the source home holds writes to it. -/
  | moveCopyTile
  /-- MOVE_SWITCH (R294): The switch-over holds accesses, waits for issued ones and recalls the slab. -/
  | moveSwitch
  /-- MOVE_DONE (R293): Every replica takes the destination as backing, and held accesses proceed. -/
  | moveDone
  /-- MOVE_SWITCH_OVERDUE (R294): A switch-over pause beyond one stitch sets OVERDUE and places a record. -/
  | moveSwitchOverdue
  /-- MOVE_WIPE_SOURCE (R293): Tilth writes zeros to the old backing after DONE. -/
  | moveWipeSource
  /-- MOVE_ABANDON (R296): A move ends without switching and keeps its old backing. -/
  | moveAbandon (cause : Byte)
  /-- FETCH_S (R311): A home takes a shared read request. -/
  | fetchS (a : Agent) (line : LineAddr)
  /-- FETCH_X (R311): A home takes a request for the only copy in order to write. -/
  | fetchX (a : Agent) (line : LineAddr)
  /-- CLAIM (R312): A home takes a request to own a line already held, without data. -/
  | claim (a : Agent) (line : LineAddr)
  /-- CLAIM_ZERO (R311): A home takes a request for the only copy as all zeros. -/
  | claimZero (a : Agent) (line : LineAddr)
  /-- PEEK (R313): A home takes a request for current data without keeping a copy. -/
  | peek (a : Agent) (line : LineAddr)
  /-- PUT_LINE (R313): A home writes a whole line after invalidating every copy. -/
  | putLine (a : Agent) (line : LineAddr) (data : Line)
  /-- PUT_BYTES (R313): A home recalls the line, merges the bytes and writes memory. -/
  | putBytes (a : Agent) (line : LineAddr) (data : Line) (mask : W64)
  /-- HOME_ATOMIC (R314): A home recalls the line and performs an atomic on memory. -/
  | homeAtomic (a : Agent) (line : LineAddr) (offset : Fin 64) (op : AtomOp) (wide : Bool) (operand compare : W64)
  /-- EVICT_DIRTY (R316): A home takes a dirty eviction notice with its data. -/
  | evictDirty (a : Agent) (line : LineAddr)
  /-- EVICT_CLEAN (R310): A home takes a clean eviction notice. -/
  | evictClean (a : Agent) (line : LineAddr)
  /-- PROBE_SHARE (R311): A holder keeps a shared copy and supplies the data. -/
  | probeShare (a : Agent) (line : LineAddr)
  /-- PROBE_TAKE (R317): A holder gives up its copy and supplies the data, possibly after its pending write. -/
  | probeTake (a : Agent) (line : LineAddr)
  /-- PROBE_KILL (R311): A holder gives up its copy without data. -/
  | probeKill (a : Agent) (line : LineAddr)
  /-- PROBE_PEEK (R313): A holder supplies the data and keeps its state. -/
  | probePeek (a : Agent) (line : LineAddr)
  /-- PROBE_RECALL (R306): A holder gives up its copy and returns dirty data to the home. -/
  | probeRecall (a : Agent) (line : LineAddr)
  /-- SET_RECALL (R307): An agent writes back and drops every line that maps to a named directory set. -/
  | setRecall (a : Agent) (die : Fin 6) (slice : Fin 16) (set : Fin 16384)
  /-- PROBE_ACK (R316): A home takes a probe answer with its final state and flags. -/
  | probeAck (a : Agent) (line : LineAddr)
  /-- DONE (R304): A requester receives the home's end of a transaction that carries no data. -/
  | done (a : Agent) (line : LineAddr)
  /-- DONE_ACK (R304): A home receives the requester's confirmation and ends the transaction. -/
  | doneAck (a : Agent) (line : LineAddr)
  /-- EVICT_ACK (R310): An evicting cache frees its write-back buffer. -/
  | evictAck (a : Agent) (line : LineAddr)
  /-- FAIL (R319): A requester learns its request cannot be served and stops. -/
  | fail (a : Agent) (line : LineAddr)
  /-- LINE_DATA (R311): A requester receives a line with its granted state and sends DoneAck. -/
  | lineData (a : Agent) (line : LineAddr)
  /-- SNOOP_HOLD_EXPIRE (R318): A snoop held for a pending write reaches HOLD_MAX and is answered. -/
  | snoopHoldExpire (a : Agent) (line : LineAddr)
  /-- DIE_TALLY_ADD (R342): A host write adds a value to a die, region or cluster tally. -/
  | dieTallyAdd (d : CDie) (level : TallyLevel) (index : Fin 4096) (v : W32)
  /-- ORF_RING_CFG_WRITE (R350): Configures a ring, or enables it and resets its counts. -/
  | orfRingCfgWrite (r : RingId) (v : W64)
  /-- DOORBELL_WRITE (R354): A doorbell write announces descriptors or consumed completions. -/
  | doorbellWrite (r : RingId) (v : W64)
  /-- BULK_SYNC_READ (R366): A read of BULK_SYNC returns only once earlier BulkWrites are visible. -/
  | bulkSyncRead
  /-- DESCRIPTOR_FETCH (R355): The ring engine fetches the next descriptor when the completion ring has room. -/
  | descriptorFetch (r : RingId) (line : Option (BitVec 512))
  /-- DESCRIPTOR_REREAD (R356): A stale descriptor is re-read after its interval, and DB_AHEAD is set after the fourth. -/
  | descriptorReread (r : RingId) (line : Option (BitVec 512))
  /-- LAUNCH (R359): A LAUNCH descriptor is checked and queued at its TE's launch queue. -/
  | launch (r : RingId)
  /-- COPY_IN (R362): Copies companion lines into package memory. -/
  | copyIn (r : RingId) (lines : List Line)
  /-- COPY_OUT (R362): Copies package lines to companion memory as BulkWrites. -/
  | copyOut (r : RingId)
  /-- DESCRIPTOR_NOP (R358): A NOP descriptor does nothing and yields a completion. -/
  | descriptorNop (r : RingId)
  /-- COMPLETION_WRITE (R363): The completion writer writes a 32 B completion entry. -/
  | completionWrite (r : RingId) (ok : Bool)
  /-- BULK_FLUSH_RESP (R365): The companion's flush response arrives, and waiting completions or BULK_SYNC reads proceed. -/
  | bulkFlushResp
  /-- IO_READ (R348): A companion register read within the ORF_ window. -/
  | ioRead (off : BitVec 20) (width : Byte)
  /-- IO_WRITE (R348): A companion register write within the ORF_ window. -/
  | ioWrite (off : BitVec 20) (width : Byte) (v : W64)
  /-- SEAM_FLIT_ERROR (R375): A Seam flit fails its CRC and is answered with NAK. -/
  | seamFlitError (l : SeamFlit)
  /-- SERDES_FLIT_ERROR (R344): An Orfin, XF or mirror-port flit fails its CRC and is answered with NAK. -/
  | serdesFlitError (l : SerdesFlit)
  /-- NAK_REPLAY (R344): A NAK makes the sender replay, retraining after 16 replays of one flit. -/
  | nakReplay (l : NakFlit)
  /-- LINK_TRAIN_DONE (R380): A link ends training and sends VERSION, or becomes DOWN after failed retrains. -/
  | linkTrainDone (l : LinkId) (ok : Bool) (spares : Byte)
  /-- SEAM_CTRL_RETRAIN (R375): Writing RETRAIN trains a Seam link again. -/
  | seamCtrlRetrain (l : Fin 7)
  /-- VERSION_RECEIVE (R380): A VERSION control flit is compared, and READY follows or VER_ERR is set. -/
  | versionReceive (l : LinkId) (v : W64)
  /-- READY_RECEIVE (R380): A READY control flit lets message flits flow. -/
  | readyReceive (l : LinkId)
  /-- RETRAIN_RECEIVE (R379): A RETRAIN control flit requests the link to retrain. -/
  | retrainReceive (l : LinkId)
  /-- SYNC_RECEIVE (R391): A SYNC control flit is compared with the local stitch count. -/
  | syncReceive (l : LinkId) (count : BitVec 48) (ns : W32)
  /-- PKEY_RECEIVE (R477): A mirror-port key-exchange message is processed, and the port key is installed. -/
  | pkeyReceive (n : Fin 2) (m : KexMsg)
  /-- LINK_TIMEOUT (R445): An up SerDes link receives no good flit for 10 µs and goes DOWN. -/
  | linkTimeout (l : LinkId)
  /-- XF_PACKET_SEND (R386): A DISP or ABORT packet is sent once the destination's credit covers its charge. -/
  | xfPacketSend (l : LinkId)
  /-- CRED_SEND (R386): A CRED packet is sent at most 1 µs after the first unreturned charge. -/
  | credSend (node : BitVec 11)
  /-- CRED_RECEIVE (R386): A returned charge restores the sender's credit counter. -/
  | credReceive (l : LinkId) (p : XfPacket)
  /-- XF_E2E_RESET (R388): Restores a destination's credit counter to LINES. -/
  | xfE2eReset (v : W64)
  /-- XF_ABORT (R392): Software starts an abort wave for a job. -/
  | xfAbort (v : W64)
  /-- ABORT_RECEIVE (R392): A new ABORT is acted on and forwarded; a duplicate is dropped. -/
  | abortReceive (port : XfPort) (p : XfPacket)
  /-- MKV_SEND (R395): The MIR_ unit reads back appended rows and sends them as MKV. -/
  | mkvSend
  /-- MKV_RECEIVE (R396): The partner writes mirrored KV rows, or discards them. -/
  | mkvReceive (n : Fin 2) (p : XfPacket)
  /-- MENT_RECEIVE (R398): The partner applies a mirrored entry as STANDBY and sends MACK. -/
  | mentReceive (n : Fin 2) (p : XfPacket)
  /-- MACK_RECEIVE (R396): The sender takes a mirror acknowledgement and completes the waiting commit. -/
  | mackReceive (n : Fin 2) (p : XfPacket)
  /-- MIR_TAKEOVER (R399): Adds a job to the takeover set for the next boundary. -/
  | mirTakeover (v : W64)
  /-- HELLO_RECEIVE (R474): The bind leader checks a peer's HELLO and wraps the job key to it. -/
  | helloReceive (m : KexMsg)
  /-- WRAP_RECEIVE (R474): A peer checks the leader, installs the job key and returns ACK. -/
  | wrapReceive (m : KexMsg)
  /-- KEX_ACK_RECEIVE (R474): The leader installs the key once every ACK has arrived. -/
  | kexAckReceive (m : KexMsg)
  /-- SWITCH_RECEIVE (R476): A peer schedules the new epoch from boundary S. -/
  | switchReceive (m : KexMsg)
  /-- STITCH_EDGE (R401): A rising edge arrives on STITCH_IN. -/
  | stitchEdge (ns : StitchPulse)
  /-- STITCH_EDGE_ACCEPT (R402): An edge held high for 20 ns is accepted and treated by its timing. -/
  | stitchEdgeAccept
  /-- SUBSTITUTE_BOUNDARY (R402): No edge by P + W gives a substitute boundary and begins holdover. -/
  | substituteBoundary
  /-- HOLDOVER_BOUNDARY (R403): In holdover, a substitute boundary is placed every P. -/
  | holdoverBoundary
  /-- STC_RELOCK (R404): Arms a re-lock during holdover. -/
  | stcRelock
  /-- RELOCK_TIMEOUT (R404): No edge by 1.5 P gives a substitute boundary and disarms the re-lock. -/
  | relockTimeout
  /-- STC_PERIOD_WRITE (R405): Sets the period and tolerance from the next boundary. -/
  | stcPeriodWrite (v : W64)
  /-- STC_LOAD (R407): Loads the stitch count for the next boundary. -/
  | stcLoad (v : W64)
  /-- PWR_MBOX_WRITE (R419): Writes the rack manager's budget into the mailbox. -/
  | pwrMboxWrite (v : W64)
  /-- PWR_LOOP_WRITE (R420): Records the firmware heartbeat of a dealing. -/
  | pwrLoopWrite (v : W64)
  /-- POWER_SAMPLE (R417): Every 1 µs the package limiter samples power and stretches clocks above E. -/
  | powerSample (watts : BitVec 13)
  /-- EXCURSION_LIMIT (R417): Samples above B for 1 ms make every die step down. -/
  | excursionLimit
  /-- DIE_LIMITER_TICK (R422): Every 10 µs a die limiter steps its V/F point down or up. -/
  | dieLimiterTick (die : Fin 6) (watts : BitVec 12)
  /-- VF_STEP_DONE (R422): A V/F step completes after 2 µs. -/
  | vfStepDone (die : Fin 6)
  /-- REGION_LIMITER_TICK (R423): A region limiter adds or removes 1/8 of clock stretch. -/
  | regionLimiterTick (rgn : Fin 24) (watts : BitVec 12)
  /-- DROOP_TRIP (R425): A droop detector trips and doubles the domain's clock period. -/
  | droopTrip (rgn : Fin 24)
  /-- DROOP_RECOVER (R425): The supply stays above threshold for 64 cycles and the stretch ends. -/
  | droopRecover (rgn : Fin 24)
  /-- REGION_OFF (R426): PWR_GATE KIND 0x1 removes power from a region. -/
  | regionOff (target : Byte)
  /-- REGION_ON (R426): PWR_GATE KIND 0x2 returns a region and wipes its TEs. -/
  | regionOn (target : Byte)
  /-- HOST_CORE_OFF (R426): PWR_GATE KIND 0x3 removes power or clock from a host core. -/
  | hostCoreOff (target : Byte)
  /-- HOST_CORE_ON (R426): PWR_GATE KIND 0x4 returns a host core. -/
  | hostCoreOn (target : Byte)
  /-- JUNCTION_SENSOR_READ (R429): Reads die junction sensors every 1 µs and steps down a die at 105 °C. -/
  | junctionSensorRead (die : Fin 6) (temp : Byte)
  /-- DIE_SENSOR_FAIL (R429): A die sensor invalid for 1 ms holds the die at its BOOT point. -/
  | dieSensorFail (die : Fin 6)
  /-- COOLANT_STOP (R431): COOLANT_OK low for 2 µs while armed gates every clock and asserts THERMTRIP_N. -/
  | coolantStop (lowNs : W32)
  /-- THM_CTRL_WRITE (R431): Sets or, in test states, clears COOLANT_ARM. -/
  | thmCtrlWrite (v : W64)
  /-- THERMAL_TRIP (R432): The 125 °C comparator trips, gating every clock and asserting THERMTRIP_N. -/
  | thermalTrip (die : Fin 6)
  /-- CLOCK_LOSS (R446): A clock monitor detects REFCLK loss or PLL unlock and stops the domains. -/
  | clockLoss (die : Fin 6) (pll : Option Byte)
  /-- ERR_Q_CONS_WRITE (R441): The consumer reports the records it has consumed. -/
  | errQConsWrite (h : HDie) (v : W64)
  /-- ERR_STOP_CONTEXT (R453): Stops one named context. -/
  | errStopContext (v : W64)
  /-- ERR_STOP_PARTITION (R454): Takes the abort actions for a job on this package only. -/
  | errStopPartition (v : W64)
  /-- ERR_RESET (R456): Begins a compute reset, with or without the host cores. -/
  | errReset (v : W64)
  /-- RESET_CAPTURE_END (R458): The capture phase of a compute reset ends and QUIESCE begins. -/
  | resetCaptureEnd
  /-- RESET_QUIESCE_END (R458): The quiesce phase ends and WIPE begins. -/
  | resetQuiesceEnd
  /-- RESET_WIPE_END (R458): The wipe phase ends and RELEASE begins. -/
  | resetWipeEnd
  /-- RESET_RELEASE_END (R458): The release phase ends, PHASE returns to 0 and COUNT increments. -/
  | resetReleaseEnd
  /-- CAP_RELEASE_A (R459): Releases capture slot A. -/
  | capReleaseA (h : HDie)
  /-- CAP_RELEASE_B (R459): Releases capture slot B. -/
  | capReleaseB (h : HDie)
  /-- RESET_N_FALL (R461): A falling RESET_N starts a capture before the reset takes hold. -/
  | resetNFall
  /-- RESET_N_CAPTURE_DONE (R461): The RESET_N capture completes and the reset takes hold. -/
  | resetNCaptureDone
  /-- RESET_N_RELEASE (R492): Releasing RESET_N starts a cold or warm start. -/
  | resetNRelease
  /-- PWR_GOOD_RISE (R489): The regulators raise the internal rails in fixed order. -/
  | pwrGoodRise
  /-- RAIL_FAIL (R489): A rail not in regulation within 5 ms holds reset and drives ALERT_N. -/
  | railFail
  /-- PWR_GOOD_FALL (R491): Gates every clock and holds the package in reset without capture. -/
  | pwrGoodFall
  /-- START_PHASE_END (R492): A start-up phase ends and the next begins. -/
  | startPhaseEnd (work : PhaseWork)
  /-- START_PHASE_TIMEOUT (R495): A phase exceeds its maximum time and start-up stops with cause 0x06. -/
  | startPhaseTimeout
  /-- FULL_WIPE_DONE (R486): Every part of the full wipe finishes and WIPE_BUSY clears. -/
  | fullWipeDone
  /-- TRANSITION (R479): Requests a life-cycle transition and opens a presence window. -/
  | transition (v : W64)
  /-- DEBUG_UNLOCK (R484): Requests the debug port opened beyond boundary scan. -/
  | debugUnlock
  /-- ROLLBACK (R470): Arms the next start-up to accept an image down to ALLOW_SVN. -/
  | rollback (v : W64)
  /-- KEY_RESET (R479): Revokes the current owner slot and returns to PROVISIONED. -/
  | keyReset
  /-- CANCEL (R480): Cancels the command whose presence window is open. -/
  | cancel
  /-- SVN_COMMIT (R471): Burns SVN_MIN up to the running management image's SVN. -/
  | svnCommit
  /-- PRESENCE_PROVEN (R480): PRESENCE_N held low for 100 ms proves presence and the command executes. -/
  | presenceProven (fallNs : BitVec 36) (burnOk : Bool)
  /-- PRESENCE_EXPIRE (R482): The 30 s window ends without presence; RESULT EXPIRED. -/
  | presenceExpire
  /-- SEAL_BREAK (R481): SEAL_OK low for 1 µs latches SEAL_BROKEN and extends M5. -/
  | sealBreak (lowNs : W32)
  /-- ALIAS_REDERIVED (R468): After M5 or M6 changes, the new alias key and certificate replace the old. -/
  | aliasRederived
  /-- SEC_MEAS_GO (R472): Extends a measurement register M8 to M15 with the staged digest. -/
  | secMeasGo (v : W64)
  /-- BIND (R474): Starts agreement of a job key for a key slot. -/
  | bind (v : W64)
  /-- ROTATE (R476): Installs a new job key in the unused epoch. -/
  | rotate (v : W64)
  /-- CLEAR (R476): Erases both epochs of a key slot. -/
  | clear (v : W64)
  /-- BIND_TIMEOUT (R474): A bind not complete after 1 s leaves the slot invalid and names the missing node. -/
  | bindTimeout
  /-- GET_VERSION (R473): SPDM request for supported versions. -/
  | getVersion
  /-- GET_CAPABILITIES (R473): SPDM request for capabilities. -/
  | getCapabilities
  /-- NEGOTIATE_ALGORITHMS (R473): SPDM algorithm negotiation. -/
  | negotiateAlgorithms
  /-- GET_DIGESTS (R473): SPDM request for certificate digests. -/
  | getDigests
  /-- GET_CERTIFICATE (R473): SPDM request for the certificate chain. -/
  | getCertificate (offset length : W16)
  /-- CHALLENGE (R473): SPDM challenge signed with the alias key. -/
  | challenge (nonce : BitVec 256)
  /-- GET_MEASUREMENTS (R473): SPDM request that returns the measurement registers. -/
  | getMeasurements (index : Byte)
  /-- SPDM_UNSUPPORTED (R473): KEY_EXCHANGE, PSK_EXCHANGE and secured messages return UnsupportedRequest. -/
  | spdmUnsupported (code : Byte)
  /-- REGISTER_ACCESS_HELD (R506): A held register access is performed after RELEASE against reset values. -/
  | registerAccessHeld (hart : Hart) (addr : BitVec 52) (write : Bool) (v : W64)
  /-- REGISTER_DEAD_DIE_TIMEOUT (R507): An access to a die with stopped domains faults after 100 µs. -/
  | registerDeadDieTimeout (hart : Hart) (addr : BitVec 52)
  /-- REGISTER_MISALIGNED (R502): A register access of wrong width or alignment faults. -/
  | registerMisaligned (hart : Hart) (addr : BitVec 52) (width : Byte)
  /-- UNMAPPED_ACCESS (R503): An access naming no register sets UNMAPPED and records its address. -/
  | unmappedAccess (hart : Hart) (addr : BitVec 52) (write : Bool)
  /-- REGISTER_READ_CLEAR (R9): A read of an RC field returns and clears it. -/
  | registerReadClear (hart : Hart) (addr : BitVec 52)
  /-- REGISTER_WRITE (R504): A write to a register without a row of its own applies its fields. -/
  | registerWrite (hart : Hart) (addr : BitVec 52) (v : W64)
  /-- HOST_CORE_LOAD_STORE (R324): A host core executes a load, store, AMO, LR/SC or FENCE to package memory under RVWMO, including store-buffer drain, re-execution under R325 and the exception of R339. -/
  | hostCoreLoadStore (hart : Hart) (op : HostOp)
  /-- WIPE_PART_END (R492): One part of the start-up wipe finishes: a stack sets STK_CTRL.ONLINE, or a C-die's SRAMs finish and its DC_CTRL.ENABLE is set, and accesses held on that part proceed. -/
  | wipePartEnd (part : Fin 16)
  /-- PATROL_INTERVAL (R412): At a stitch period above 4 ms, a patrol interval boundary inside the stitch starts a new per-TE patrol allowance of MIN plus EXTRA cycles. -/
  | patrolInterval
deriving DecidableEq, Repr

end Sys2Proof
end

