-- ==== Sys2Proof/WellFormed.lean ====
section
/-! DEFINITION. Which commands are well formed. Unit numbers and field widths are bounded by their types; what remains is checked here. -/

namespace Sys2Proof

/-- A little-endian payload is whole lines of 64 bytes (R203, R383). -/
def wholeLines (p : List Byte) : Bool := p.length % 64 == 0

/-- A packet carries the payload that its transport header's LINES names, in whole lines (Table 14-8). -/
def packetOk (p : XfPacket) : Bool := wholeLines p.payload && (bits p.hdr 138 128 * 64 == p.payload.length)

/-- An image report belongs to one of the four images of a slot (R469). -/
def imagesOk (l : List Image) : Bool := decide (l.length ≤ 4)

/-- A command that the block can be sent. -/
def wellFormed : Instr → Bool
  | .tokenArrive _ _ p => packetOk p
  | .resultArrive _ _ p => packetOk p
  | .credReceive _ p => packetOk p
  | .abortReceive _ p => packetOk p
  | .mkvReceive _ p => packetOk p
  | .mentReceive _ p => packetOk p
  | .mackReceive _ p => packetOk p
  | .copyIn _ lines => decide (lines.length ≤ 16777215)
  | .startPhaseEnd work => imagesOk work.slotA && imagesOk work.slotB
  | _ => true

end Sys2Proof
end

