-- ==== Sys2Proof/Machine/Registers.lean ====
section
/-! DEFINITION. The registers of the register space: for each, its address (R500, R501), its reset value and the bits of each access code (R8), written from the register tables of the chapters. -/

namespace Sys2Proof.Machine

/-- A register: its address, its reset value, and which of its bits are RW, W1C and RC (Table 0-3). Other bits are RO, WO or RSV. -/
structure Reg where
  addr : Nat
  reset : W64
  rw : W64
  w1c : W64
  rc : W64
deriving DecidableEq, Repr

/-- The base of a block's slot on a die (R500). -/
def regBase (die slot : Nat) : Nat := 0x000F000000000000 + die * 4294967296 + slot * 16777216

/-- DSP_CTRL (Table 7-11, R213). -/
def Reg.dspCtrl (d : CDie) : Reg := ⟨regBase (d.val) 5 + 0, 0xc80000, 0xffff0001, 0x0, 0x0⟩

/-- DSP_INBOX_BASE (Table 7-11, R213). -/
def Reg.dspInboxBase (d : CDie) : Reg := ⟨regBase (d.val) 5 + 8, 0x0, 0xffffffffffffffff, 0x0, 0x0⟩

/-- DSP_STATUS (Table 7-11, R213). -/
def Reg.dspStatus (d : CDie) : Reg := ⟨regBase (d.val) 5 + 16, 0x0, 0x0, 0x10000, 0x0⟩

/-- DSP_EVT0 (Table 7-11, R213). -/
def Reg.dspEvt0 (d : CDie) : Reg := ⟨regBase (d.val) 5 + 24, 0x0, 0x0, 0x0, 0xffffffffffffffff⟩

/-- DSP_EVT1 (Table 7-11, R213). -/
def Reg.dspEvt1 (d : CDie) : Reg := ⟨regBase (d.val) 5 + 32, 0x0, 0x0, 0x0, 0xffffffffffff⟩

/-- DSP_ABSENT_n (Table 7-11, R213). -/
def Reg.dspAbsent (d : CDie) (n : Nat) : Reg := ⟨regBase (d.val) 5 + 256 + (8 * n), 0x0, 0xffffffffffffffff, 0x0, 0x0⟩

/-- SES_STATUS (Table 7-12, R214). -/
def Reg.sesStatus (h : HDie) : Reg := ⟨regBase (4 + h.val) 9 + 0, 0x0, 0x0, 0x3, 0x0⟩

/-- SES_COUNT (Table 7-12, R214). -/
def Reg.sesCount (h : HDie) : Reg := ⟨regBase (4 + h.val) 9 + 8, 0x0, 0x0, 0x0, 0x0⟩

/-- SES_REFUSED (Table 7-12, R214). -/
def Reg.sesRefused (h : HDie) : Reg := ⟨regBase (4 + h.val) 9 + 16, 0x0, 0x0, 0x0, 0x0⟩

/-- TE_CTRL (Table 8-6, R240). -/
def Reg.teCtrl : Reg := ⟨regBase (4) 13 + 0, 0x1801000, 0xffffff01, 0x0, 0x0⟩

/-- TE_JOBS (Table 8-6, R240). -/
def Reg.teJobs : Reg := ⟨regBase (4) 13 + 8, 0x0, 0x0, 0x0, 0x0⟩

/-- TE_STATUS (Table 8-6, R240). -/
def Reg.teStatus : Reg := ⟨regBase (4) 13 + 16, 0x0, 0x0, 0x1, 0x0⟩

/-- TE_SVC_g (Table 8-6, R240). -/
def Reg.teSvc (g : Nat) : Reg := ⟨regBase (4) 13 + (262144 + 256 * g), 0x0, 0x0, 0x0, 0x0⟩

/-- TE_SLOT_g_s (Table 8-6, R240). -/
def Reg.teSlot (g : Nat) (s : Nat) : Reg := ⟨regBase (4) 13 + (262160 + 256 * g) + (8 * s), 0xffff000000000000, 0x0, 0x0, 0x0⟩

/-- TE_SLOW_g_s (Table 8-6, R240). -/
def Reg.teSlow (g : Nat) (s : Nat) : Reg := ⟨regBase (4) 13 + (262192 + 256 * g) + (8 * s), 0x0, 0x0, 0x0, 0x0⟩

/-- TE_QUEUE_g (Table 8-6, R240). -/
def Reg.teQueue (g : Nat) : Reg := ⟨regBase (4) 13 + (262224 + 256 * g), 0x0, 0x0, 0x0, 0xffffffff00⟩

/-- STK_CTRL (Table 9-7, R271). -/
def Reg.stkCtrl (st : StackId) : Reg := ⟨regBase (st.val / 3) 4 + 1048576 * (st.val % 3) + 0, 0x0, 0x7, 0x0, 0x0⟩

/-- STK_PRIO (Table 9-7, R271). -/
def Reg.stkPrio (st : StackId) : Reg := ⟨regBase (st.val / 3) 4 + 1048576 * (st.val % 3) + 8, 0x400800010, 0xff03ff03ff, 0x0, 0x0⟩

/-- LPD_PRIO (Table 9-7, R271). -/
def Reg.lpdPrio (h : HDie) : Reg := ⟨regBase (4 + h.val) 8 + 8, 0x400800010, 0xff03ff03ff, 0x0, 0x0⟩

/-- STK_STATUS (Table 9-7, R271). -/
def Reg.stkStatus (st : StackId) : Reg := ⟨regBase (st.val / 3) 4 + 1048576 * (st.val % 3) + 16, 0x0, 0x0, 0xf0000, 0x0⟩

/-- LPD_STATUS (Table 9-7, R271). -/
def Reg.lpdStatus (h : HDie) : Reg := ⟨regBase (4 + h.val) 8 + 16, 0x0, 0x0, 0x3, 0x0⟩

/-- STK_ECC (Table 9-7, R271). -/
def Reg.stkEcc (st : StackId) : Reg := ⟨regBase (st.val / 3) 4 + 1048576 * (st.val % 3) + 24, 0x0, 0x0, 0x0, 0xffffffffffffffff⟩

/-- LPD_ECC (Table 9-7, R271). -/
def Reg.lpdEcc (h : HDie) : Reg := ⟨regBase (4 + h.val) 8 + 24, 0x0, 0x0, 0x0, 0xffffffffffffffff⟩

/-- STK_USE (Table 9-7, R271). -/
def Reg.stkUse (st : StackId) : Reg := ⟨regBase (st.val / 3) 4 + 1048576 * (st.val % 3) + 32, 0x0, 0x0, 0x0, 0x0⟩

/-- LPD_USE (Table 9-7, R271). -/
def Reg.lpdUse (h : HDie) : Reg := ⟨regBase (4 + h.val) 8 + 32, 0x0, 0x0, 0x0, 0x0⟩

/-- STK_TEST_CMD (Table 9-7, R271). -/
def Reg.stkTestCmd (st : StackId) : Reg := ⟨regBase (st.val / 3) 4 + 1048576 * (st.val % 3) + 40, 0x0, 0x0, 0x0, 0x0⟩

/-- STK_TEST_STATUS (Table 9-7, R271). -/
def Reg.stkTestStatus (st : StackId) : Reg := ⟨regBase (st.val / 3) 4 + 1048576 * (st.val % 3) + 48, 0x0, 0x0, 0x0, 0x0⟩

/-- DC_CTRL (Table 9-7, R271). -/
def Reg.dcCtrl (d : CDie) : Reg := ⟨regBase (d.val) 3 + 0, 0x802, 0xff03, 0x0, 0x0⟩

/-- DC_INVAL (Table 9-7, R271). -/
def Reg.dcInval (d : CDie) : Reg := ⟨regBase (d.val) 3 + 8, 0x0, 0x0, 0x0, 0x0⟩

/-- DC_STATUS (Table 9-7, R271). -/
def Reg.dcStatus (d : CDie) : Reg := ⟨regBase (d.val) 3 + 16, 0x0, 0x0, 0x1c, 0x0⟩

/-- DC_ECC (Table 9-7, R271). -/
def Reg.dcEcc (d : CDie) : Reg := ⟨regBase (d.val) 3 + 24, 0x0, 0x0, 0x0, 0xffffffffffffffff⟩

/-- XLT_INVAL_h (Table 10-10, R297). -/
def Reg.xltInval (h : Nat) : Reg := ⟨regBase (4) 14 + 4096 + (16 * h), 0x0, 0x0, 0x0, 0x0⟩

/-- XLT_STATUS_h (Table 10-10, R297). -/
def Reg.xltStatus (h : Nat) : Reg := ⟨regBase (4) 14 + 4104 + (16 * h), 0x0, 0x0, 0x6, 0x0⟩

/-- TLT_CTRL (Table 10-10, R297). -/
def Reg.tltCtrl : Reg := ⟨regBase (4) 15 + 0, 0x0, 0x1, 0x0, 0x0⟩

/-- TLT_MOVE (Table 10-10, R297). -/
def Reg.tltMove : Reg := ⟨regBase (4) 15 + 8, 0x0, 0x0, 0x0, 0x0⟩

/-- TLT_STATUS (Table 10-10, R297). -/
def Reg.tltStatus : Reg := ⟨regBase (4) 15 + 16, 0x0, 0x0, 0x700, 0x0⟩

/-- TLT_ACTIVE (Table 10-10, R297). -/
def Reg.tltActive : Reg := ⟨regBase (4) 15 + 24, 0x0, 0x0, 0x0, 0x0⟩

/-- TLT_DONE (Table 10-10, R297). -/
def Reg.tltDone : Reg := ⟨regBase (4) 15 + 32, 0x0, 0x0, 0x0, 0x0⟩

/-- DIE_COH_CTRL (Table 11-9, R321). -/
def Reg.dieCohCtrl (d : Die) : Reg := ⟨regBase (d.num) 1 + 2048, 0x200, 0x3ff, 0x0, 0x0⟩

/-- DIE_COH_STATUS (Table 11-9, R321). -/
def Reg.dieCohStatus (d : Die) : Reg := ⟨regBase (d.num) 1 + 2056, 0x0, 0x0, 0x3, 0x0⟩

/-- DIE_COH_EVT (Table 11-9, R321). -/
def Reg.dieCohEvt (d : Die) : Reg := ⟨regBase (d.num) 1 + 2064, 0x0, 0x0, 0x0, 0xffffffffffffffff⟩

/-- DIE_DIR_OCC (Table 11-9, R321). -/
def Reg.dieDirOcc (d : Die) : Reg := ⟨regBase (d.num) 1 + 2072, 0x0, 0x0, 0x0, 0x0⟩

/-- DIE_TALLY_D_t (Table 12-6, R342). -/
def Reg.dieTallyD (d : Die) (t : Nat) : Reg := ⟨regBase (d.num) 1 + 131072 + (16 * t), 0x0, 0x0, 0x0, 0x0⟩

/-- DIE_TALLY_D_ADD_t (Table 12-6, R342). -/
def Reg.dieTallyDAdd (d : Die) (t : Nat) : Reg := ⟨regBase (d.num) 1 + 131080 + (16 * t), 0x0, 0x0, 0x0, 0x0⟩

/-- DIE_TALLY_R_r_t (Table 12-6, R342). -/
def Reg.dieTallyR (d : Die) (r : Nat) (t : Nat) : Reg := ⟨regBase (d.num) 1 + 196608 + (16 * (1024 * r + t)), 0x0, 0x0, 0x0, 0x0⟩

/-- DIE_TALLY_R_ADD_r_t (Table 12-6, R342). -/
def Reg.dieTallyRAdd (d : Die) (r : Nat) (t : Nat) : Reg := ⟨regBase (d.num) 1 + 196616 + (16 * (1024 * r + t)), 0x0, 0x0, 0x0, 0x0⟩

/-- DIE_TALLY_C_c_t (Table 12-6, R342). -/
def Reg.dieTallyC (d : Die) (c : Nat) (t : Nat) : Reg := ⟨regBase (d.num) 1 + 262144 + (16 * (256 * c + t)), 0x0, 0x0, 0x0, 0x0⟩

/-- DIE_TALLY_C_ADD_c_t (Table 12-6, R342). -/
def Reg.dieTallyCAdd (d : Die) (c : Nat) (t : Nat) : Reg := ⟨regBase (d.num) 1 + 262152 + (16 * (256 * c + t)), 0x0, 0x0, 0x0, 0x0⟩

/-- ORF_CTRL (Table 13-11, R371). -/
def Reg.orfCtrl : Reg := ⟨regBase (4) 16 + 65536, 0x0, 0x1, 0x0, 0x0⟩

/-- ORF_STATUS (Table 13-11, R371). -/
def Reg.orfStatus : Reg := ⟨regBase (4) 16 + 65544, 0x0, 0x0, 0x7e, 0x0⟩

/-- ORF_EVT0 (Table 13-11, R371). -/
def Reg.orfEvt0 : Reg := ⟨regBase (4) 16 + 65552, 0x0, 0x0, 0x0, 0x0⟩

/-- ORF_EVT1 (Table 13-11, R371). -/
def Reg.orfEvt1 : Reg := ⟨regBase (4) 16 + 65560, 0x0, 0x0, 0x0, 0x0⟩

/-- ORF_LAST_EVT (Table 13-11, R371). -/
def Reg.orfLastEvt : Reg := ⟨regBase (4) 16 + 65568, 0x0, 0x0, 0x0, 0x0⟩

/-- ORF_SQ_BASE_r (Table 13-11, R371). -/
def Reg.orfSqBase (r : Nat) : Reg := ⟨regBase (4) 16 + (131072 + 64 * r), 0x0, 0xffffffffffffff, 0x0, 0x0⟩

/-- ORF_CQ_BASE_r (Table 13-11, R371). -/
def Reg.orfCqBase (r : Nat) : Reg := ⟨regBase (4) 16 + (131080 + 64 * r), 0x0, 0xffffffffffffff, 0x0, 0x0⟩

/-- ORF_RING_CFG_r (Table 13-11, R371). -/
def Reg.orfRingCfg (r : Nat) : Reg := ⟨regBase (4) 16 + (131088 + 64 * r), 0x0, 0xffffffff007f, 0x0, 0x0⟩

/-- ORF_WIN_r (Table 13-11, R371). -/
def Reg.orfWin (r : Nat) : Reg := ⟨regBase (4) 16 + (131096 + 64 * r), 0x0, 0xffffff00ffffff, 0x0, 0x0⟩

/-- ORF_RING_STATUS_r (Table 13-11, R371). -/
def Reg.orfRingStatus (r : Nat) : Reg := ⟨regBase (4) 16 + (131104 + 64 * r), 0x0, 0x0, 0x0, 0x0⟩

/-- ORF_RING_CNT_r (Table 13-11, R371). -/
def Reg.orfRingCnt (r : Nat) : Reg := ⟨regBase (4) 16 + (131112 + 64 * r), 0x0, 0x0, 0x0, 0x0⟩

/-- SEAM_CTRL_l (Table 14-12, R400). -/
def Reg.seamCtrl (d : Die) (l : Nat) : Reg := ⟨regBase (d.num) 2 + 0 + (64 * l), 0x0, 0x0, 0x0, 0x0⟩

/-- SEAM_STATUS_l (Table 14-12, R400). -/
def Reg.seamStatus (d : Die) (l : Nat) : Reg := ⟨regBase (d.num) 2 + 8 + (64 * l), 0x0, 0x0, 0x30000, 0x0⟩

/-- SEAM_EVT_l (Table 14-12, R400). -/
def Reg.seamEvt (d : Die) (l : Nat) : Reg := ⟨regBase (d.num) 2 + 16 + (64 * l), 0x0, 0x0, 0x0, 0xffffffffffff⟩

/-- XF_CTRL (Table 14-12, R400). -/
def Reg.xfCtrl : Reg := ⟨regBase (4) 17 + 0, 0x0, 0x1, 0x0, 0x0⟩

/-- XF_NODE (Table 14-12, R400). -/
def Reg.xfNode : Reg := ⟨regBase (4) 17 + 8, 0x0, 0xffff, 0x0, 0x0⟩

/-- XF_E2E (Table 14-12, R400). -/
def Reg.xfE2e : Reg := ⟨regBase (4) 17 + 16, 0x200, 0x1fff, 0x0, 0x0⟩

/-- XF_STATUS (Table 14-12, R400). -/
def Reg.xfStatus : Reg := ⟨regBase (4) 17 + 24, 0x0, 0x0, 0x7, 0x0⟩

/-- XF_EVT (Table 14-12, R400). -/
def Reg.xfEvt : Reg := ⟨regBase (4) 17 + 32, 0x0, 0x0, 0x0, 0xffffffffffffffff⟩

/-- XF_ABORT (Table 14-12, R400). -/
def Reg.xfAbort : Reg := ⟨regBase (4) 17 + 40, 0x0, 0x0, 0x0, 0x0⟩

/-- XF_E2E_RESET (Table 14-12, R400). -/
def Reg.xfE2eReset : Reg := ⟨regBase (4) 17 + 48, 0x0, 0x0, 0x0, 0x0⟩

/-- XF_PORT_p (Table 14-12, R400). -/
def Reg.xfPort (p : Nat) : Reg := ⟨regBase (4) 17 + 64 + (8 * p), 0x0, 0x0, 0x18, 0x0⟩

/-- XF_ROUTE_n (Table 14-12, R400). -/
def Reg.xfRoute (n : Nat) : Reg := ⟨regBase (4) 17 + 65536 + (8 * n), 0x20, 0x1f, 0x0, 0x0⟩

/-- XF_CREDIT_n (Table 14-12, R400). -/
def Reg.xfCredit (n : Nat) : Reg := ⟨regBase (4) 17 + 131072 + (8 * n), 0x200, 0x0, 0x0, 0x0⟩

/-- XF_KEYSLOT_k (Table 14-12, R400). -/
def Reg.xfKeyslot (k : Nat) : Reg := ⟨regBase (4) 17 + 196608 + (16 * k), 0x0, 0x0, 0x0, 0x0⟩

/-- MIR_CTRL (Table 14-12, R400). -/
def Reg.mirCtrl : Reg := ⟨regBase (5) 12 + 0, 0x0, 0x1, 0x0, 0x0⟩

/-- MIR_PORT_n (Table 14-12, R400). -/
def Reg.mirPort (n : Nat) : Reg := ⟨regBase (5) 12 + 8 + (8 * n), 0x0, 0xffff, 0x80000, 0x0⟩

/-- MIR_TAKEOVER (Table 14-12, R400). -/
def Reg.mirTakeover : Reg := ⟨regBase (5) 12 + 24, 0x0, 0x0, 0x0, 0x0⟩

/-- MIR_STATUS (Table 14-12, R400). -/
def Reg.mirStatus : Reg := ⟨regBase (5) 12 + 32, 0x0, 0x0, 0xe, 0x0⟩

/-- MIR_EVT (Table 14-12, R400). -/
def Reg.mirEvt : Reg := ⟨regBase (5) 12 + 40, 0x0, 0x0, 0x0, 0xffffffffffff⟩

/-- STC_CTRL (Table 15-4, R415). -/
def Reg.stcCtrl : Reg := ⟨regBase (4) 18 + 0, 0x0, 0x0, 0x0, 0x0⟩

/-- STC_PERIOD (Table 15-4, R415). -/
def Reg.stcPeriod : Reg := ⟨regBase (4) 18 + 8, 0x64000030d4, 0x1ffff000fffff, 0x0, 0x0⟩

/-- STC_COUNT (Table 15-4, R415). -/
def Reg.stcCount : Reg := ⟨regBase (4) 18 + 16, 0x0, 0x0, 0x0, 0x0⟩

/-- STC_LOAD (Table 15-4, R415). -/
def Reg.stcLoad : Reg := ⟨regBase (4) 18 + 24, 0x0, 0x0, 0x0, 0x0⟩

/-- STC_STATUS (Table 15-4, R415). -/
def Reg.stcStatus : Reg := ⟨regBase (4) 18 + 32, 0x0, 0x0, 0xfa, 0x0⟩

/-- STC_OFFSET (Table 15-4, R415). -/
def Reg.stcOffset : Reg := ⟨regBase (4) 18 + 40, 0x0, 0x0, 0x0, 0x0⟩

/-- STC_EVT (Table 15-4, R415). -/
def Reg.stcEvt : Reg := ⟨regBase (4) 18 + 48, 0x0, 0x0, 0x0, 0xffffffff⟩

/-- STC_P2SHARE (Table 15-4, R415). -/
def Reg.stcP2share : Reg := ⟨regBase (4) 18 + 56, 0x40004000400, 0x7ff07ff07ff, 0x0, 0x0⟩

/-- STC_PATROL (Table 15-4, R415). -/
def Reg.stcPatrol : Reg := ⟨regBase (4) 18 + 64, 0x30000000000, 0xffffff, 0x0, 0x0⟩

/-- STC_MGT (Table 15-4, R415). -/
def Reg.stcMgt : Reg := ⟨regBase (4) 18 + 72, 0x4001000, 0xffffffff, 0x0, 0x0⟩

/-- STC_OVL (Table 15-4, R415). -/
def Reg.stcOvl : Reg := ⟨regBase (4) 18 + 80, 0x880, 0xffff, 0x0, 0x0⟩

/-- STC_OVL_LAST (Table 15-4, R415). -/
def Reg.stcOvlLast : Reg := ⟨regBase (4) 18 + 88, 0x0, 0x0, 0x0, 0x0⟩

/-- STC_TICK_d_k (Table 15-4, R415). -/
def Reg.stcTick (d : Nat) (k : Nat) : Reg := ⟨regBase (4) 18 + 256 + (64 * d + 8 * k), 0x0, 0x1ffffffff, 0x0, 0x0⟩

/-- PWR_MBOX (Table 16-3, R435). -/
def Reg.pwrMbox : Reg := ⟨regBase (4) 19 + 0, 0x100000e10, 0x1ffff0fff, 0x0, 0x0⟩

/-- PWR_MBOX_ACK (Table 16-3, R435). -/
def Reg.pwrMboxAck : Reg := ⟨regBase (4) 19 + 8, 0x0, 0x0, 0x0, 0x0⟩

/-- PWR_STATUS (Table 16-3, R435). -/
def Reg.pwrStatus : Reg := ⟨regBase (4) 19 + 16, 0x0, 0x0, 0xf, 0x0⟩

/-- PWR_PKG (Table 16-3, R435). -/
def Reg.pwrPkg : Reg := ⟨regBase (4) 19 + 24, 0x0, 0x0, 0x0, 0x0⟩

/-- PWR_LOOP (Table 16-3, R435). -/
def Reg.pwrLoop : Reg := ⟨regBase (4) 19 + 32, 0x0, 0x0, 0x0, 0x0⟩

/-- PWR_GATE (Table 16-3, R435). -/
def Reg.pwrGate : Reg := ⟨regBase (4) 19 + 40, 0x0, 0x0, 0x0, 0x0⟩

/-- PWR_MARGIN_CFG (Table 16-3, R435). -/
def Reg.pwrMarginCfg : Reg := ⟨regBase (4) 19 + 48, 0x0, 0x1ffffffff, 0x0, 0x0⟩

/-- PWR_MARGIN (Table 16-3, R435). -/
def Reg.pwrMargin : Reg := ⟨regBase (4) 19 + 56, 0xfffff00000000, 0x0, 0x0, 0xfffff00000000⟩

/-- PWR_DROOP (Table 16-3, R435). -/
def Reg.pwrDroop : Reg := ⟨regBase (4) 19 + 64, 0x28, 0xff, 0x0, 0x0⟩

/-- PWR_UNATTR (Table 16-3, R435). -/
def Reg.pwrUnattr : Reg := ⟨regBase (4) 19 + 72, 0x0, 0x0, 0x0, 0x0⟩

/-- PWR_DIE_d (Table 16-3, R435). -/
def Reg.pwrDie (d : Nat) : Reg := ⟨regBase (4) 19 + 256 + (8 * d), 0x0, 0x0, 0x0, 0x0⟩

/-- PWR_RGN_i (Table 16-3, R435). -/
def Reg.pwrRgn (i : Nat) : Reg := ⟨regBase (4) 19 + 320 + (8 * i), 0x0, 0x0, 0x0, 0xffff00000000⟩

/-- PWR_VF_d_k (Table 16-3, R435). -/
def Reg.pwrVf (d : Nat) (k : Nat) : Reg := ⟨regBase (4) 19 + 1024 + (8 * (16 * d + k)), 0x0, 0x0, 0x0, 0x0⟩

/-- PWR_JOB_E_p (Table 16-3, R435). -/
def Reg.pwrJobE (p : Nat) : Reg := ⟨regBase (4) 19 + 4096 + (8 * p), 0x0, 0x0, 0x0, 0x0⟩

/-- THM_CTRL (Table 16-3, R435). -/
def Reg.thmCtrl : Reg := ⟨regBase (4) 20 + 0, 0x0, 0x1, 0x0, 0x0⟩

/-- THM_STATUS (Table 16-3, R435). -/
def Reg.thmStatus : Reg := ⟨regBase (4) 20 + 8, 0x0, 0x0, 0x3f7f, 0x0⟩

/-- THM_DIE_d (Table 16-3, R435). -/
def Reg.thmDie (d : Nat) : Reg := ⟨regBase (4) 20 + 16 + (8 * d), 0x0, 0x0, 0x0, 0xff00⟩

/-- THM_ALERT_MASK (Table 16-3, R435). -/
def Reg.thmAlertMask : Reg := ⟨regBase (4) 20 + 64, 0x0, 0xffff, 0x0, 0x0⟩

/-- ERR_Q_CTRL (Table 17-12, R465). -/
def Reg.errQCtrl (h : HDie) : Reg := ⟨regBase (4 + h.val) 10 + 0, 0x100, 0x7ffff, 0x0, 0x0⟩

/-- ERR_Q_PROD (Table 17-12, R465). -/
def Reg.errQProd (h : HDie) : Reg := ⟨regBase (4 + h.val) 10 + 8, 0x0, 0x0, 0x0, 0x0⟩

/-- ERR_Q_CONS (Table 17-12, R465). -/
def Reg.errQCons (h : HDie) : Reg := ⟨regBase (4 + h.val) 10 + 16, 0x0, 0xffffffff, 0x0, 0x0⟩

/-- ERR_Q_STATUS (Table 17-12, R465). -/
def Reg.errQStatus (h : HDie) : Reg := ⟨regBase (4 + h.val) 10 + 24, 0x0, 0x0, 0x50000, 0x0⟩

/-- ERR_Q_DROP (Table 17-12, R465). -/
def Reg.errQDrop (h : HDie) : Reg := ⟨regBase (4 + h.val) 10 + 32, 0x0, 0x0, 0x0, 0xffffffffff⟩

/-- ERR_WDOG (Table 17-12, R465). -/
def Reg.errWdog (h : HDie) : Reg := ⟨regBase (4 + h.val) 10 + 256, 0x108, 0x1ff, 0x0, 0x0⟩

/-- ERR_STOP (Table 17-12, R465). -/
def Reg.errStop (h : HDie) : Reg := ⟨regBase (4 + h.val) 10 + 264, 0x0, 0x0, 0x0, 0x0⟩

/-- ERR_RESET (Table 17-12, R465). -/
def Reg.errReset (h : HDie) : Reg := ⟨regBase (4 + h.val) 10 + 272, 0x0, 0x0, 0x0, 0x0⟩

/-- ERR_RESET_STATUS (Table 17-12, R465). -/
def Reg.errResetStatus (h : HDie) : Reg := ⟨regBase (4 + h.val) 10 + 280, 0x0, 0x0, 0x8, 0x0⟩

/-- ERR_AUTO_ABORT (Table 17-12, R465). -/
def Reg.errAutoAbort (h : HDie) : Reg := ⟨regBase (4 + h.val) 10 + 288, 0x0, 0xffffffffffffffff, 0x0, 0x0⟩

/-- ERR_PATROL_FAIL_w (Table 17-12, R465). -/
def Reg.errPatrolFail (h : HDie) (w : Nat) : Reg := ⟨regBase (4 + h.val) 10 + 320 + (8 * w), 0x0, 0x0, 0x0, 0x0⟩

/-- CAP_STATUS (Table 17-12, R465). -/
def Reg.capStatus (h : HDie) : Reg := ⟨regBase (4 + h.val) 11 + 0, 0x0, 0x0, 0x0, 0xff00⟩

/-- CAP_RELEASE (Table 17-12, R465). -/
def Reg.capRelease (h : HDie) : Reg := ⟨regBase (4 + h.val) 11 + 8, 0x0, 0x0, 0x0, 0x0⟩

/-- SEC_LC (Table 18-8, R487). -/
def Reg.secLc : Reg := ⟨regBase (4) 21 + 0, 0x0, 0x0, 0x0, 0x0⟩

/-- SEC_STATUS (Table 18-8, R487). -/
def Reg.secStatus : Reg := ⟨regBase (4) 21 + 8, 0x20, 0x0, 0x40, 0x0⟩

/-- SEC_CMD (Table 18-8, R487). -/
def Reg.secCmd : Reg := ⟨regBase (4) 21 + 16, 0x0, 0x0, 0x0, 0x0⟩

/-- SEC_CMD_STATUS (Table 18-8, R487). -/
def Reg.secCmdStatus : Reg := ⟨regBase (4) 21 + 24, 0x0, 0x0, 0x0, 0x0⟩

/-- SEC_OWNER_w (Table 18-8, R487). -/
def Reg.secOwner (w : Nat) : Reg := ⟨regBase (4) 21 + 64 + (8 * w), 0x0, 0xffffffffffffffff, 0x0, 0x0⟩

/-- SEC_POLICY_w (Table 18-8, R487). -/
def Reg.secPolicy (w : Nat) : Reg := ⟨regBase (4) 21 + 128 + (8 * w), 0x0, 0xffffffffffffffff, 0x0, 0x0⟩

/-- SEC_MEAS_EXT_w (Table 18-8, R487). -/
def Reg.secMeasExt (w : Nat) : Reg := ⟨regBase (4) 21 + 192 + (8 * w), 0x0, 0x0, 0x0, 0x0⟩

/-- SEC_MEAS_GO (Table 18-8, R487). -/
def Reg.secMeasGo : Reg := ⟨regBase (4) 21 + 256, 0x0, 0x0, 0x0, 0x0⟩

/-- SEC_KEYREQ (Table 18-8, R487). -/
def Reg.secKeyreq : Reg := ⟨regBase (4) 21 + 264, 0x0, 0x0, 0x0, 0x0⟩

/-- SEC_KEY_STATUS (Table 18-8, R487). -/
def Reg.secKeyStatus : Reg := ⟨regBase (4) 21 + 272, 0x0, 0x0, 0x0, 0x0⟩

/-- MGT_BOOT (Table 19-5, R499). -/
def Reg.mgtBoot : Reg := ⟨regBase (4) 22 + 0, 0x1, 0x0, 0x0, 0x0⟩

/-- MGT_BOOT_STK (Table 19-5, R499). -/
def Reg.mgtBootStk : Reg := ⟨regBase (4) 22 + 8, 0x0, 0x0, 0x0, 0x0⟩

/-- MGT_BOOT_LINK (Table 19-5, R499). -/
def Reg.mgtBootLink : Reg := ⟨regBase (4) 22 + 16, 0x0, 0x0, 0x0, 0x0⟩

/-- MGT_BOOT_TIME (Table 19-5, R499). -/
def Reg.mgtBootTime : Reg := ⟨regBase (4) 22 + 24, 0x0, 0x0, 0x0, 0x0⟩

/-- ID_VENDOR (Table 20-4, R510). -/
def Reg.idVendor : Reg := ⟨regBase (4) 0 + 0, 0x4030ad7, 0x0, 0x0, 0x0⟩

/-- ID_VERSION (Table 20-4, R510). -/
def Reg.idVersion : Reg := ⟨regBase (4) 0 + 8, 0x10001, 0x0, 0x0, 0x0⟩

/-- ID_SERIAL (Table 20-4, R510). -/
def Reg.idSerial : Reg := ⟨regBase (4) 0 + 16, 0x0, 0x0, 0x0, 0x0⟩

/-- ID_STATUS (Table 20-4, R510). -/
def Reg.idStatus : Reg := ⟨regBase (4) 0 + 24, 0x0, 0x0, 0x3, 0x0⟩

/-- ID_LAST_ADDR (Table 20-4, R510). -/
def Reg.idLastAddr : Reg := ⟨regBase (4) 0 + 32, 0x0, 0x0, 0x0, 0x0⟩

/-- ID_CAP0 (Table 20-4, R510). -/
def Reg.idCap0 : Reg := ⟨regBase (4) 0 + 256, 0x1021050120c44424, 0x0, 0x0, 0x0⟩

/-- ID_CAP1 (Table 20-4, R510). -/
def Reg.idCap1 : Reg := ⟨regBase (4) 0 + 264, 0x40080e74e6048, 0x0, 0x0, 0x0⟩

/-- ID_CAP2 (Table 20-4, R510). -/
def Reg.idCap2 : Reg := ⟨regBase (4) 0 + 272, 0x1080100087c8800, 0x0, 0x0, 0x0⟩

/-- ID_CAP3 (Table 20-4, R510). -/
def Reg.idCap3 : Reg := ⟨regBase (4) 0 + 280, 0x81020190aff82d90, 0x0, 0x0, 0x0⟩

/-- ID_CAP4 (Table 20-4, R510). -/
def Reg.idCap4 : Reg := ⟨regBase (4) 0 + 288, 0x210aca40ca8, 0x0, 0x0, 0x0⟩

/-- ID_CAP5 (Table 20-4, R510). -/
def Reg.idCap5 : Reg := ⟨regBase (4) 0 + 296, 0x1fff, 0x0, 0x0, 0x0⟩

end Sys2Proof.Machine
end

