-- ==== Sys2Proof/Config.lean ====
section
/-! DEFINITION. What a part's fuses and training fix, and the values that the spec leaves open. Every constant here is opaque: a claim holds whatever it is. -/

namespace Sys2Proof.Config

/-- LC fuses: the life-cycle state sensed at start-up, 0 to 4 for MANUFACTURE to RETIRED (Table 18-1, Table 18-4). -/
opaque fusedLc : Fin 5
/-- How many owner slots are used (Table 18-1). -/
opaque fusedOwners : Fin 5
/-- OWNER_HASH_k (Table 18-1). -/
opaque fusedOwnerHash : Nat → BitVec 512
/-- OWNER_REVOKED (Table 18-1). -/
opaque fusedRevoked : BitVec 4
/-- Burned SVC bits (Table 18-1). -/
opaque fusedSvc : Fin 63
/-- SVN_MIN (Table 18-1). -/
opaque fusedSvnMin : Fin 65
/-- The identity seed, SEED (Table 18-1). -/
opaque fusedSeed : BitVec 256
/-- ID_SERIAL.SERIAL (Table 20-4). -/
opaque serial : W64
/-- ID_VENDOR.STEPPING (Table 20-4). -/
opaque stepping : BitVec 8
/-- PWR_VF_d_k.FREQ for `16 d + k` (Table 16-3). -/
opaque vfFreq : Nat → W16
/-- PWR_VF_d_k.VOLT for `16 d + k` (Table 16-3). -/
opaque vfVolt : Nat → W16
/-- The point marked BOOT of die 0 to 5 (R418, Table 16-3). -/
opaque bootPoint : Nat → Fin 16
/-- Hard repair rows left in a pseudo-channel, `64 stack + pc` (Table 9-7). -/
opaque pprLeft : Nat → BitVec 8
/-- SPARES_USED of a Seam link end, from training (Table 14-12). -/
opaque sparesTrained : Nat → BitVec 8
/-- The fused signature of a patrol slice, `192 te + slice` (R447). -/
opaque patrolSignature : Nat → W64

/-- The cycles of a stitch that a context loses to tile-store bank conflicts (R61, R233), by draw: which bank an address lies in is not stated. -/
opaque bankConflicts : Nat → Nat

/-- exp on an input for which R83 gives no result (R81 bounds its error). -/
opaque expValue : W32 → W32
/-- reciprocal on an input for which R83 gives no result (R81 bounds its error). -/
opaque rcpValue : W32 → W32
/-- rsqrt on an input for which R83 gives no result (R81 bounds its error). -/
opaque rsqrtValue : W32 → W32
/-- SiLU on an input for which R83 gives no result (R81 bounds its error). -/
opaque siluValue : W32 → W32
/-- GELU, tanh form, on an input for which R83 gives no result (R81 bounds its error). -/
opaque geluValue : W32 → W32
/-- The random integer of one stochastic rounding, by its place in the sequence of draws (R43, R44). -/
opaque srDraw : Nat → W32

/-- ROOT_HASH (Table 18-1). -/
opaque fusedRootHash : BitVec 512
/-- The digest that stands for the revision of Thimble's ROM in M0 (Table 18-3). -/
opaque romDigest : BitVec 512
/-- The root and identity certificates of the xSPI flash, by the identity public key that they certify (R467, R468). -/
opaque identityCerts : List Byte → List Byte
/-- SHAKE256 with a 384-bit output (R467, R468). -/
opaque shake384 : List Byte → BitVec 384
/-- The public key of the Falcon-1024 key pair that a 48-byte stream generates (R467, R468). -/
opaque falconPublic : BitVec 384 → List Byte
/-- The Falcon-1024 signature of a message by the key pair that a 48-byte stream generates. -/
opaque falconSign : BitVec 384 → List Byte → List Byte
/-- What a CAPABILITIES answer says beyond what R473 states. -/
opaque spdmCapabilities : List Byte
/-- What an ALGORITHMS answer says beyond what R473 states. -/
opaque spdmAlgorithms : List Byte
/-- SHA3-512, the transcript hash of SPDM (R473). -/
opaque sha3 : List Byte → BitVec 512
/-- SHAKE256 with a 512-bit output. -/
opaque shake256 : List Byte → BitVec 512
/-- Thimble's random source: a 256-bit draw by its place in the sequence of draws. -/
opaque draw256 : Nat → BitVec 256
/-- Thimble's random source: a 512-bit draw by its place in the sequence of draws (R478). -/
opaque draw512 : Nat → BitVec 512
/-- The ML-KEM-1024 encapsulation key of a secret (R474). -/
opaque kemPublic : BitVec 512 → List Byte
/-- The ML-KEM-1024 ciphertext of an encapsulation to a key, by its randomness (R474). -/
opaque kemCipher : List Byte → BitVec 256 → List Byte
/-- The shared secret of an encapsulation to a key, by its randomness (R474). -/
opaque kemSecret : List Byte → BitVec 256 → BitVec 256
/-- The shared secret that a secret finds in a ciphertext (R474). -/
opaque kemOpen : BitVec 512 → List Byte → BitVec 256
/-- A key sealed with AES-256-GCM under another (R474). -/
opaque sealKey : BitVec 256 → BitVec 256 → List Byte
/-- The key in a sealed one (R474). -/
opaque openKey : BitVec 256 → List Byte → BitVec 256
/-- The header slot of an Orfin message, by its class and address: how it spells them is not stated (Table 13-1). -/
opaque orfHeader : Nat → Nat → BitVec 128
/-- The header of a Seam message, by its class and the dies that it joins: how it spells them is not stated (R373). -/
opaque seamHeader : Nat → Nat → Nat → BitVec 128
/-- Which of its lines a full L2 gives up for another (Table 11-1), by draw. -/
opaque l2Victim : Nat → Nat
/-- Which of its lines the full Orfin proxy gives up for another (Table 11-1), by draw. -/
opaque proxyVictim : Nat → Nat
/-- The grant of the companion's home for a FetchS of the proxy (Table 11-5), by draw: 0 E, 1 F, 2 S modulo 3. -/
opaque companionGrant : Nat → Nat
/-- Lines that a cluster mover reads ahead of a run of reads, by its place in the sequence of runs (R328). -/
opaque readAheadLines : Nat → Nat
/-- The line at a direct line number whose row a post-package repair has replaced (R255), by draw. -/
opaque repairedLine : Nat → Nat → Line
/-- Whether a bank and row of a pseudo-channel, as STK_TEST_CMD names them, hold a location of R242. -/
opaque rowHolds : W64 → Nat → Bool
/-- The energy in µJ that a tensor engine is estimated to have used in a stitch (R428), by draw. -/
opaque teEnergy : Nat → W64
/-- The energy in µJ of every other block in a stitch (R428), by draw. -/
opaque restEnergy : Nat → W64
/-- AES-256-XTS on a 64-byte line, by key and tweak: a permutation of lines, otherwise uninterpreted (R246, R478). -/
opaque xts : BitVec 512 → Nat → Line ≃ Line
/-- The key stream of AES-256-GCM, by key, nonce and byte (R383, R389). -/
opaque gcmStream : BitVec 256 → BitVec 96 → Nat → Byte
/-- The tag of AES-256-GCM, by key, nonce, additional data and encrypted payload (R383, R389). -/
opaque gcmTag : BitVec 256 → BitVec 96 → BitVec 256 → List Byte → BitVec 128
/-- What companion memory holds, by draw and companion address. -/
opaque companionLine : Nat → Nat → Line
/-- What a line of the destination of an abandoned move holds (R296), by draw and direct line number. -/
opaque abandonedLine : Nat → Nat → Line

end Sys2Proof.Config
end

