-- ==== Sys2Proof/Machine/Hem.lean ====
section
/-! DEFINITION. The hem code RS(72,64) over GF(2^8): check bytes, syndromes and the decoder that corrects three symbols (R256, R257, Table 9-5), and the CRC-32 of the links. -/

namespace Sys2Proof.Machine

/-! ### The field (Table 9-5) -/

/-- A field element times α, modulo x^8 + x^4 + x^3 + x^2 + 1. -/
def gfX (a : Nat) : Nat := if 128 ≤ a then (2 * a) ^^^ 0x11D else 2 * a
/-- The product of two field elements: `n` bits of the second are used. -/
def gfMulBits : Nat → Nat → Nat → Nat
  | 0, _, _ => 0
  | n + 1, a, b => (if b % 2 = 1 then a else 0) ^^^ gfMulBits n (gfX a) (b / 2)
/-- The product of two field elements. -/
def gfMul (a b : Nat) : Nat := gfMulBits 8 a b
/-- A field element to a power. -/
def gfPow (a : Nat) : Nat → Nat
  | 0 => 1
  | n + 1 => gfMul a (gfPow a n)
/-- The inverse of a field element other than zero. -/
def gfInv (a : Nat) : Nat := gfPow a 254
/-- α to a power. -/
def gfAlpha (n : Nat) : Nat := gfPow 2 n

/-! ### Code words -/

/-- A stored code word, or a pattern of wrong symbols: the 64 data bytes, byte 0 lowest, then the 8 check bytes. -/
abbrev Hem := BitVec 576
/-- The generator's coefficients of x^7 down to x^0 for each bit of the byte that leaves the register: bit `i` stands for α^i. -/
def hemTaps (i : Nat) : Nat :=
  [255, 11, 81, 54, 239, 173, 200, 24].zipIdx.foldl (fun v g => v + gfMul g.1 (2 ^ i) * 2 ^ (8 * g.2)) 0
/-- The taps of the eight bits. -/
def hemTapTable : List Nat := (List.range 8).map hemTaps
/-- The register of the encoder takes a data byte; check byte 0 lies lowest. -/
def hemStep (r : Nat) (b : Nat) : Nat :=
  let f := (r % 256) ^^^ b
  hemTapTable.zipIdx.foldl (fun v t => if f / 2 ^ t.2 % 2 = 1 then v ^^^ t.1 else v) (r / 256)
/-- The check bytes of a line: the remainder of its data times x^8 by the generator, check byte 0 lowest (Table 9-5). -/
def hemCheck (v : Line) : W64 :=
  BitVec.ofNat 64 ((List.range 64).foldl (fun r j => hemStep r (v.toNat / 2 ^ (8 * j) % 256)) 0)
/-- The code word of a line. -/
def hemEncode (v : Line) : Hem := hemCheck v ++ v
/-- The data bytes of a stored word. -/
def hemData (w : Hem) : Line := w.extractLsb' 0 512
/-- The check bytes of a stored word. -/
def hemChecks (w : Hem) : W64 := w.extractLsb' 512 64
/-- Symbol `j` of a stored word; it is the coefficient of x^(71 - j). -/
def hemSym (w : Hem) (j : Nat) : Nat := w.toNat / 2 ^ (8 * j) % 256

/-- The eight syndromes of a stored word, or of its wrong symbols: its value at α^0 to α^7. -/
def hemSyndromes (w : Hem) : List Nat :=
  (List.range 8).map fun i => (List.range 72).foldl (fun a j => gfMul a (gfAlpha i) ^^^ hemSym w j) 0

/-- The locator polynomial of the fewest errors with these syndromes, lowest coefficient first, with their number (Berlekamp and Massey). -/
def hemLocator (ss : List Nat) : List Nat × Nat :=
  let coef (l : List Nat) (i : Nat) : Nat := l.getD i 0
  let step (st : List Nat × List Nat × Nat × Nat × Nat) (n : Nat) : List Nat × List Nat × Nat × Nat × Nat :=
    let (c, b, l, m, d0) := st
    let d := (List.range (l + 1)).foldl (fun d i => d ^^^ gfMul (coef c i) (ss.getD (n - i) 0)) 0
    if d = 0 then (c, b, l, m + 1, d0)
    else
      let k := gfMul d (gfInv d0)
      let c' := (List.range 9).map fun i => coef c i ^^^ (if m ≤ i then gfMul k (coef b (i - m)) else 0)
      if 2 * l ≤ n then (c', c, n + 1 - l, 1, d) else (c', b, l, m + 1, d0)
  let r := (List.range 8).foldl step ([1], [1], 0, 1, 1)
  (r.1, r.2.2.1)
/-- The value of a polynomial, lowest coefficient first. -/
def gfEval (p : List Nat) (x : Nat) : Nat := p.reverse.foldl (fun a c => gfMul a x ^^^ c) 0
/-- The symbols whose locators are roots. -/
def hemPlaces (p : List Nat) : List Nat :=
  (List.range 72).filter fun j => decide (gfEval p (gfInv (gfAlpha (71 - j))) = 0)
/-- The wrong symbols at given places that these syndromes ask for: each value by interpolation. -/
def hemValues (ss : List Nat) (js : List Nat) : Hem :=
  js.foldl (fun w j =>
    let x := gfAlpha (71 - j)
    let others := (js.filter fun k => decide (k ≠ j)).map fun k => gfAlpha (71 - k)
    let poly := others.foldl (fun p y => (List.range (p.length + 1)).map fun i => gfMul y (p.getD i 0) ^^^ (if i = 0 then 0 else p.getD (i - 1) 0)) [1]
    let num := poly.zipIdx.foldl (fun a c => a ^^^ gfMul c.1 (ss.getD c.2 0)) 0
    w ||| BitVec.ofNat 576 (gfMul num (gfInv (gfEval poly x)) * 2 ^ (8 * j))) 0

/-- The decoder's answer to syndromes: the wrong symbols, at most three, that give them; none where there are no such (R257). -/
def hemSolve (ss : List Nat) : Option Hem :=
  if ss.all (fun x => decide (x = 0)) then some 0
  else
    let (p, n) := hemLocator ss
    let js := hemPlaces p
    if 3 < n ∨ js.length ≠ n then none
    else
      let w := hemValues ss js
      if hemSyndromes w = ss then some w else none
/-- What the decoder takes for the wrong symbols of a stored word: exact up to three, none for four and five, and for heavier errors what the code makes of them (R256, R257). -/
def hemFix (e : Hem) : Option Hem := if e = 0 then some 0 else hemSolve (hemSyndromes e)
/-- What a stored word reads as: the corrected line, or none where it is uncorrectable; and whether anything was corrected. -/
def hemRead (data : Line) (checks : W64) : Option (Line × Bool) :=
  let r := hemCheck data ^^^ checks
  if r = 0 then some (data, false)
  else (hemSolve (hemSyndromes (r ++ (0 : Line)))).map fun e => (data ^^^ hemData e, true)
/-- By how much the data of a word with wrong symbols differ, once it has been read, from what was written: zero unless it was miscorrected. -/
def hemMiss (e : Hem) : Line := match hemFix e with | some p => hemData (e ^^^ p) | none => 0

/-! ### CRC-32 (Table 13-1, Table 14-1, Table 14-6) -/

/-- Eight shifts of the reflected IEEE 802.3 polynomial. -/
def crcShift : Nat → Nat → Nat
  | 0, r => r
  | n + 1, r => crcShift n (if r % 2 = 1 then (r / 2) ^^^ 0xEDB88320 else r / 2)
/-- CRC-32 of bytes. -/
def crc32 (bs : List Byte) : W32 :=
  BitVec.ofNat 32 ((bs.foldl (fun r b => crcShift 8 (r ^^^ b.toNat)) 0xFFFFFFFF) ^^^ 0xFFFFFFFF)

end Sys2Proof.Machine
end

