-- ==== Sys2Proof/Machine/SMap.lean ====
section
/-! DEFINITION. Sparse maps by number, in one canonical form: keys strictly rising, no entry equal to what an unlisted key reads as. -/

namespace Sys2Proof.Machine

/-- A sparse map. Every map of the state is read with the value its unlisted keys have. -/
abbrev SMap (α : Type) := List (Nat × α)

/-- What key `k` holds; `d` where nothing is listed. -/
def smGet {α : Type} (d : α) : SMap α → Nat → α
  | [], _ => d
  | (i, v) :: t, k => if i = k then v else smGet d t k

/-- The map without any entry for `k`. -/
def smErase {α : Type} : SMap α → Nat → SMap α
  | [], _ => []
  | (i, v) :: t, k => if i = k then smErase t k else (i, v) :: smErase t k

/-- The map with `(k, v)` put before the first greater key. -/
def smInsert {α : Type} : SMap α → Nat → α → SMap α
  | [], k, v => [(k, v)]
  | (i, w) :: t, k, v => if k < i then (k, v) :: (i, w) :: t else (i, w) :: smInsert t k v

/-- Key `k` takes `v`; an entry equal to the unlisted value is not listed. -/
def smSet {α : Type} [DecidableEq α] (d : α) (m : SMap α) (k : Nat) (v : α) : SMap α :=
  if v = d then smErase m k else smInsert (smErase m k) k v

/-- Key `k` takes `f` of what it holds. -/
def smMod {α : Type} [DecidableEq α] (d : α) (m : SMap α) (k : Nat) (f : α → α) : SMap α :=
  smSet d m k (f (smGet d m k))

/-- The canonical form. -/
abbrev smWf {α : Type} [DecidableEq α] (d : α) (m : SMap α) : Prop :=
  List.Pairwise (fun a b : Nat × α => a.1 < b.1) m ∧ ∀ e ∈ m, e.2 ≠ d

/-- `n` consecutive values from key `k`. -/
def smGetRange {α : Type} (d : α) (m : SMap α) (k n : Nat) : List α :=
  (List.range n).map fun i => smGet d m (k + i)

/-- Consecutive values from key `k` on, lowest key first. -/
def smSetRange {α : Type} [DecidableEq α] (d : α) (m : SMap α) (k : Nat) : List α → SMap α
  | [] => m
  | v :: t => smSetRange d (smSet d m k v) (k + 1) t

/-- The map with every key from `lo` up to and not including `hi` unlisted. -/
def smClear {α : Type} (m : SMap α) (lo hi : Nat) : SMap α :=
  m.filter fun e => !(decide (lo ≤ e.1) && decide (e.1 < hi))

end Sys2Proof.Machine
end

