-- ==== Sys2Proof/Machine/EngineState.lean ====
section
/-! DEFINITION. State of the tensor engines, clusters and dispatch engines (spec/03 to spec/08), part of the machine's state. -/

namespace Sys2Proof.Machine

/-- Fold forms (Table 3-4). -/
inductive FoldForm where
  | f128
  | f256
  | f512
  | f1024
deriving DecidableEq, Repr

/-- Service states of a tensor engine (Table 8-4). -/
inductive SvcState where
  | inService
  | draining
  | out
  | wiping
  | patrol
  | joining
deriving DecidableEq, Repr

/-- What a resident slot holds (TE_SLOT_g_s.OCC, Table 8-6). -/
inductive Occ where
  | empty
  | wiping
  | running
  | ending
deriving DecidableEq, Repr

/-- States of an accumulation group (Table 4-2). -/
inductive GState where
  | free
  | opened
  | closed
  | draining
deriving DecidableEq, Repr

/-- Scopes of BAR, ACQ and REL (R326). -/
inductive Scope where
  | te
  | cluster
  | package
deriving DecidableEq, Repr

/-- An instruction that holds the later instructions of its context (R151, R327); REL names the cycle in which it issued, since it holds no later read. -/
inductive Hold where
  | twait (handle : W32) (value : W32)
  | bar (scope : Scope)
  | acq (scope : Scope)
  | rel (scope : Scope) (cycle : Nat)
deriving DecidableEq, Repr

/-- What an outstanding operation of a context is (R135, R157): a TMOV by the cluster mover or, from tile store to tile store, by its engine (R130); a signal is the addition of a TSIG or of a weight ring that waits for its turn (R331); a copy is GATHER (1), SCATTER (2) or KVGATHER (3). -/
inductive OpKind where
  | tmov (mover : Bool)
  | copy (code : Nat)
  | append (session : Nat) (layer : Nat) (head : Nat) (pos : Nat) (tokens : Nat)
  | route
  | signal
deriving DecidableEq, Repr

/-- A tile move, dispatch instruction or ROUTE that has issued and is not complete. Ranges are tile-store bytes, first and one past last; `loads` tells that it reads memory or the cluster store. -/
structure Op where
  kind : OpKind
  tally : Option W32
  count : Nat
  reads : List (Nat × Nat)
  writes : List (Nat × Nat)
  seg : Nat
  number : Nat
  issuedAt : Nat
  loads : Bool
  performed : Bool := false
deriving DecidableEq, Repr

/-- A memory write that its cluster mover has accepted and that has not reached its home (R338): bytes of one line, or a row of KVAPPEND, which is written as a unit (R168). `sent` tells that it has left the mover and that Seam holds it (R18, R455). `table` and `index` name the segment that it was translated through (index 16: none, a KV block's address is a system address), `era` the number of invalidations accepted before (R283). -/
structure BufWrite where
  ctx : CtxId
  number : Nat
  addr : Nat
  data : List Byte
  table : Nat := 0
  index : Nat := 0
  era : Nat := 0
  sent : Bool := false
deriving DecidableEq, Repr

/-- An issued MMA (R136), its registers already read. `dropped` tells that a DISCARD has followed: its passes run and their results are dropped (R85); `bound` is the form its group had then; `opAt` is the number that its context's next operation had, its place in program order (R331). -/
structure Mma where
  slot : SlotId
  addr : W64
  word : W64
  ext : W64
  g : GroupId
  hint : Nat
  fa : Nat
  fb : Nat
  m : Nat
  n : Nat
  k : Nat
  aBase : Nat
  aPitch : Nat
  bBase : Nat
  bStride : Nat
  aScale : Nat
  ring : Nat
  ready : W64
  freed : W32
  queuedAt : Nat
  dropped : Bool := false
  bound : Option FoldForm := none
  opAt : Nat := 0
deriving DecidableEq, Repr

/-- The MMA whose passes the array is running (R69, R73). -/
structure Running where
  mma : Mma
  form : FoldForm
  passes : Nat
  loadNext : Nat
  loadStart : Option Nat
  loaded : Option Nat
  enterNext : Nat
  heldFrom : Option Nat
deriving DecidableEq, Repr

/-- A pass whose rows have entered the array and whose results have not landed (R76): for each element of the group the block values to be added, in order. -/
structure Flight where
  g : GroupId
  slot : SlotId
  landing : Nat
  m : Nat
  n : Nat
  adds : List (Nat × List W32)
deriving DecidableEq, Repr

/-- A drain or a row scaling that has been requested (R78, R99). -/
structure Drain where
  slot : SlotId
  scaleRows : Bool
  base : W64
  ext : W64
  scalar : W32
  factors : Nat
  requestedAt : Nat
deriving DecidableEq, Repr

/-- The drain or scaling that occupies the drain path, with what each row overwrote in the tile store (R88). -/
structure DrainRun where
  g : GroupId
  drain : Drain
  start : Nat
  cycles : Nat
  rowCycles : Nat
  undo : List (List (Nat × Byte))
deriving DecidableEq, Repr

/-- An accumulation group (R84 to R87). -/
structure Group where
  st : GState := .free
  comp : Bool := false
  form : Option FoldForm := none
  m : Nat := 0
  n : Nat := 0
  retain : Bool := false
  landedAt : Nat := 0
  reqs : List Drain := []
  discard : Bool := false
deriving DecidableEq, Repr

/-- A launch as its descriptor names it (R227, R359); `any` tells that its target was ANY. -/
structure Launch where
  job : W16
  cid : BitVec 12
  header : W64
  args : W64
  seg : Nat
  priority : Nat
  affinity : Bool
  any : Bool
  part : PartId
  home : TeId
  ring : RingId
  index : Nat
  tag : W32
  age : Nat
  upset : Nat := 0
deriving DecidableEq, Repr

/-- Kinds of error record that a context's stop can carry. -/
structure StopInfo where
  cls : Nat
  cause : Nat
  addr : W64
  word : W64
  ext : W64
deriving DecidableEq, Repr

/-- A resident context: what its launch named and where it stands (R113, R120); `idle` is the stitches that have ended since its last progress cycle, `lastPc` the address of the last instruction issued (the first instruction's until then), and `upset` the most bits that are wrong in a word that its next instruction reads of a structure under SEC-DED: the register file, a tally, the session table, a segment or the tier map (R260, R444; log entry 150). -/
structure Ctx where
  launch : Launch
  codeBase : W64
  codeBytes : Nat
  shadow : Bool
  liveBank : Nat
  pc : W64
  lastPc : W64
  firstIssue : Option Nat
  hold : List Hold
  wait : Nat
  ops : List Op
  opCount : Nat
  stop : Option StopInfo
  idle : Nat
  hangReported : Bool
  ended : Bool
  upset : Nat
deriving DecidableEq, Repr

/-- One resident slot of a tensor engine. `queue` holds the issued MMAs that the array has not taken; one beyond the two places of R63 is the MMA that waits at issue. Intervals are arithmetic-clock cycles, first and one past last; `readyFrom` is the cycle from which the next instruction may have been ready (R233). -/
structure Slot where
  occ : Occ := .empty
  lastJob : W16 := 0xFFFF
  ctx : Option Ctx := none
  wipeEnd : Nat := 0
  queue : List Mma := []
  since : Nat := 0
  readyFrom : Nat := 0
  progress : List (Nat × Nat) := []
  stalled : List (Nat × Nat) := []
  slowBusy : Nat := 0
  slowStalled : Nat := 0
  slowRatio : Nat := 0
  slowHold : Nat := 0
deriving DecidableEq, Repr

/-- A tensor engine apart from its stores, registers, groups and slots. `patrolUsed` is the patrol cycles of the interval, `patrolAt` the cycle in which the pass of a return began, `exercised` when each form was last exercised, `lastGood` the stitch count at the end of the last passing pass (R449), `outNext` that a returning engine goes out when its wipe ends. `form` is the form in which the array stands, `current` that of the last pass it issued (R68). `fresh` lists tile-store ranges that a drain has written, first byte, one past the last, and the first cycle in which they can be read (R107); `freshRows` are those of them that are row state (R105). `leaving` names groups that stay in progress until the end of a cycle though nothing else of them is left (R77); `issues` are the issue cycles of the stitch, each with its slot (R233); `drainFrom` is the first cycle of the last drain. `patrolPart` is the cycles that the pass's current slice has run (R412), `patrolSums` the draw that the contents of the 16 KiB patrol buffer come from, none while nothing has landed there (R447), and `mustExercise` that the array has entered a form that a slice must exercise before a context's pass (R447). -/
structure Te where
  svc : SvcState := .inService
  failed : Bool := false
  slotcfg : W64 := 0x0088008800880088
  form : FoldForm := .f128
  current : FoldForm := .f128
  running : Option Running := none
  shadowW : List Byte := []
  liveW : List Byte := []
  flights : List Flight := []
  rowsFree : Nat := 0
  reformEnd : Nat := 0
  occupiedBy : Option SlotId := none
  occupiedFrom : Nat := 0
  lastTaken : SlotId := 3
  drain : Option DrainRun := none
  drainFrom : Nat := 0
  drainFree : Nat := 0
  drainOwner : Option SlotId := none
  fresh : List (Nat × Nat × Nat) := []
  freshRows : List (Nat × Nat × Nat) := []
  leaving : List (GroupId × Nat) := []
  lastIssue : Nat := 0
  issuedYet : Bool := false
  issues : List (SlotId × Nat) := []
  queue : List Launch := []
  stolenFrom : Nat := 0
  stolenBy : Nat := 0
  wipeEnd : Nat := 0
  outNext : Bool := false
  patrolSlice : Nat := 0
  patrolPart : Nat := 0
  patrolUsed : Nat := 0
  patrolAt : Nat := 0
  patrolSums : Option Nat := none
  mustExercise : Bool := false
  exercised : List Nat := [0, 0, 0, 0]
  lastGood : Nat := 0
  patrolFail : Bool := false
deriving DecidableEq, Repr

/-- All tensor engines. Keys: `te`; `4 te + slot`; `8 te + group`; `32 ctx + register` with `ctx = 4 te + slot`; and for vector registers and accumulators the element below that. -/
structure Engines where
  te : SMap Te := []
  slots : SMap Slot := []
  groups : SMap Group := []
  sregs : SMap W64 := []
  vregs : SMap W32 := []
  masks : SMap (BitVec 256) := []
  tiles : SMap Byte := []
  tileErr : SMap Hem := []
  acc : SMap W32 := []
deriving DecidableEq, Repr

/-- A cached segment of a segment table (R280), with the segments of lower index that the table held when it was read: it serves no slab that one of them covers (R276). -/
structure SegEntry where
  table : Nat
  index : Nat
  raw : BitVec 128
  lower : List (BitVec 128) := []
deriving DecidableEq, Repr

/-- Cluster and die stores and caches of translation (Table 3-2, R280, R328). Keys of `store`: `2^23 cluster + byte`; of `readAhead` and `writes`, the cluster; of `lastLine`, the context, with the line after the last one that it read through its mover and how many it has read in a row (R328). -/
structure Clusters where
  store : SMap Byte := []
  storeErr : SMap Hem := []
  xlt : SMap (List SegEntry) := []
  dieXlt : SMap (List SegEntry) := []
  readAhead : SMap (List (CtxId × Nat × Line)) := []
  writes : SMap (List BufWrite) := []
  lastLine : SMap (Nat × Nat) := []
deriving DecidableEq, Repr

/-- A token or result packet: its header (Table 7-8) and its payload. -/
structure Packet where
  hdr : BitVec 512
  payload : List Byte
deriving DecidableEq, Repr

/-- What has become of one (row, rank) pair of a route (R208). -/
inductive Pair where
  | unsent
  | sent
  | result
  | zero
deriving DecidableEq, Repr

/-- An open or queued DISPATCH route (R204); `at_` is the address of its descriptor. -/
structure Route where
  ctx : CtxId
  job : W16
  cid : BitVec 12
  seg : Nat
  desc : BitVec 512
  tally : Option W32
  opNumber : Nat
  stitch : Nat
  deadline : Nat
  tag : Option Nat
  experts : List Nat
  weights : List W32
  homes : List (BitVec 128)
  pairs : List Pair
  closedAt : Option Nat
  aborted : Bool
  at_ : Nat := 0
deriving DecidableEq, Repr

/-- The dispatch engines (R204 to R212). Keys of `fill`: `(4096 die + slot) × 2 + bank`. -/
structure Dispatchers where
  routes : SMap (List Route) := []
  fill : SMap Nat := []
  badTally : SMap Bool := []
  inboxTold : SMap Bool := []
deriving DecidableEq, Repr

/-- A COMMIT that waits for its mirror partner (R195): the entry to be copied, whether the copy has been sent, its time and the stitch boundaries since (R7), the address and EXPECT_LEN of its descriptor, and whether it has completed with cause 0x0B and only its copy is still to be sent. -/
structure CommitWait where
  session : Nat
  seq : W32
  ctx : CtxId
  opNumber : Nat
  stat : Nat
  boundaries : Nat
  entry : BitVec 2048
  sent : Bool
  since : Nat := 0
  at_ : Nat := 0
  expect : W32 := 0
  failed : Bool := false
deriving DecidableEq, Repr

end Sys2Proof.Machine
end

