-- ==== Sys2Proof/Machine/MemoryState.lean ====
section
/-! DEFINITION. State of the memory controllers, caches, homes, translation and migration, and of the host cores (spec/09 to spec/12), part of the machine's state. -/

namespace Sys2Proof.Machine

/-- Priority classes of a controller (R247). -/
inductive MemClass where
  | p0
  | p1
  | p2
deriving DecidableEq, Repr

/-- What a waiting line transfer is for. -/
inductive ReqKind where
  | read
  | write
  | scrub
  | correct
  | migrate
  | mirror
deriving DecidableEq, Repr

/-- A line transfer that waits at a controller (R248). `since` is the time of its arrival. -/
structure MemReq where
  cls : MemClass
  kind : ReqKind
  line : LineNo
  since : Nat
  promoted : Bool
deriving DecidableEq, Repr

/-- A row that a post-package repair has replaced, as STK_TEST_CMD named it, the draw of its undefined contents, and the lines written since (R255). -/
structure UndefRow where
  row : W64
  draw : Nat
  written : List LineNo := []
deriving DecidableEq, Repr

/-- A stack controller or a deep-tier controller. `turn` is the P2 activity served last (R411); `pprUsed`, `softUsed` and `lanes` are what repairs have used and mapped (Table 9-4); `rates` are the refresh rates of an H-die's packages (R253). -/
structure Ctrl where
  reqs : List MemReq := []
  p2Served : Nat := 0
  p0p1Served : Nat := 0
  migServed : Nat := 0
  mirServed : Nat := 0
  scrubServed : Nat := 0
  p2Last : Nat := 0
  p0p1Last : Nat := 0
  scrubNext : Nat := 0
  scrubPasses : Nat := 0
  refreshes : Nat := 0
  rate : Nat := 0
  maxTemp : Nat := 0
  temp : Nat := 0
  lastValid : Nat := 0
  sensorFailed : Bool := false
  busy : Bool := false
  result : Nat := 0
  testCmd : W64 := 0
  pprUsed : SMap Nat := []
  softUsed : List Nat := []
  lanes : SMap Nat := []
  undef : List UndefRow := []
  turn : Nat := 3
  rates : SMap Nat := []
deriving DecidableEq, Repr

/-- Line states (Table 11-2). -/
inductive CState where
  | m
  | o
  | e
  | s
  | f
  | i
deriving DecidableEq, Repr

/-- Why an access fails: the record it leads to, apart from the requester (Table 17-2). `held` tells that it has not failed but that a Seam link on its route is not up, so that it waits (R18). -/
structure Bad where
  cls : Nat
  cause : Nat
  addr : W64
  d0 : W64 := 0
  d1 : W64 := 0
  quar : Bool := false
  held : Bool := false
deriving DecidableEq, Repr

/-- A copy of a line in a cache of the coherent set. `errs` is what its stored code word differs by from the right one; `written` tells whether the store that the ownership was asked for has been performed (R317). -/
structure Copy where
  st : CState := .i
  data : Line := 0
  errs : Hem := 0
  written : Bool := true
deriving DecidableEq, Repr

/-- The summary of a directory entry (R305). -/
inductive DirSummary where
  | none
  | shared
  | sharedF
  | owner
  | oOwner
deriving DecidableEq, Repr

/-- A directory entry (R305); the vector has a bit for each of agents 0 to 83. `upset` is the most bits that are wrong in one of the entry's words, of which one is corrected and two are not (R260, R307); `busy` keeps the way of a request in progress that will have a holder (R306). -/
structure DirEntry where
  sum : DirSummary := .none
  ptr : Nat := 0
  holders : BitVec 84 := 0
  pinned : Bool := false
  way : Nat := 0
  upset : Nat := 0
  busy : Bool := false
deriving DecidableEq, Repr

/-- Requests to a home (Table 11-4). -/
inductive Ask where
  | fetchS
  | fetchX
  | claim
  | claimZero
  | peek
  | putLine
  | putBytes
  | homeAtomic
deriving DecidableEq, Repr

/-- Probes from a home (Table 11-4). -/
inductive Probe where
  | share
  | take
  | kill
  | peek
  | recall
deriving DecidableEq, Repr

/-- A request at a home. `data` and `mask` are the bytes written; the next five fields are of an atomic; `tag` is the requester's tag of the transaction (R308, R322), `since` the cycle of its arrival (R304). -/
structure HomeReq where
  ask : Ask
  agent : Agent
  cls : MemClass := .p1
  data : Line := 0
  mask : BitVec 64 := 0
  op : AtomOp := .add
  offset : Nat := 0
  wide : Bool := false
  operand : W64 := 0
  compare : W64 := 0
  tag : Nat := 0
  since : Nat := 0
deriving DecidableEq, Repr

/-- A probe that has not been answered. `heldTo` is the time until which a holder keeps it (R318). -/
structure ProbeOut where
  agent : Nat
  probe : Probe
  heldTo : Option Nat := none
deriving DecidableEq, Repr

/-- An answer on its way to the home (ProbeAck, R308, R311), with dirty data where the probe was a recall. -/
structure AckIn where
  agent : Nat
  final : CState
  superseded : Bool := false
  miss : Bool := false
  quar : Bool := false
  data : Option Line := none
deriving DecidableEq, Repr

/-- A transaction in progress at a home for one line (R304): a request, or the recall of a directory victim for the request of line `recallFor` (R306). `line` is LineData on its way to the requester from `lineDie`, `confirm` a DoneAck on its way to the home, `fail` a Fail on its way to the requester, with its reason. -/
structure Txn where
  req : HomeReq
  recallFor : Option Nat := none
  probes : List ProbeOut := []
  acks : List AckIn := []
  line : Option (CState × Line) := none
  lineDie : Nat := 0
  granted : Option CState := none
  confirm : Bool := false
  refused : Bool := false
  fail : Option Bad := none
deriving DecidableEq, Repr

/-- A Done on its way to a requester (R304), with its tag and the old value of an atomic. -/
structure DoneMsg where
  line : Nat
  agent : Nat
  ask : Ask
  value : W64
  tag : Nat
deriving DecidableEq, Repr

/-- A dirty or clean copy that its holder has given up and keeps until EvictAck (R310). `taken` tells that the home has taken the notice and sent EvictAck; `tag` is the sender's tag of the message (R308). -/
structure EvictBuf where
  dirty : Bool
  data : Line
  superseded : Bool := false
  taken : Bool := false
  tag : Nat := 0
deriving DecidableEq, Repr

/-- What a home has for one line: its transaction, and the requests that wait in order of arrival. -/
structure HomeLine where
  txn : Option Txn := none
  waiting : List HomeReq := []
deriving DecidableEq, Repr

/-- A way of a die cache or system cache (R262, R267). A die cache's data lie with its copy, and those of a line that a disable has left stale in `staleData`, with `errs` what its stored code word differs by from the right one; `data`, `dirty` and `errs` are a system cache's, whose way holds a line of data or, with `check`, the check line of the group that begins at `line` (R245). -/
structure Way where
  line : Nat := 0
  valid : Bool := false
  age : Nat := 0
  stale : Bool := false
  staleData : Line := 0
  staleDirty : Bool := false
  quarantined : Bool := false
  retired : Bool := false
  check : Bool := false
  data : Line := 0
  dirty : Bool := false
  errs : Hem := 0
deriving DecidableEq, Repr

/-- A store stream that a die-cache slice tracks (R263). -/
structure StoreStream where
  requester : Nat
  next : LineNo
  count : Nat
deriving DecidableEq, Repr

/-- The caches, homes and directories. Keys: `copies` and `evicts`, `128 line + agent`; `dir` and `home`, the line; `dirErr`, `65536 × (32 home + slice) + set`, the agents that have not answered a SetRecall; `ways`, `16 × (8192 × (16 cache + slice) + set) + way` with cache 0 to 3 the die caches and 4, 5 the system caches; `streams`, `16 die + slice`; `qslots`, `16 × (16 cache + slice) + slot` with a QSLOT value; `unclean`, a die cache that has been disabled and not invalidated since (R266), and `invalEnd`, the cycle in which its invalidation ends, by die; `tags` counts the tags that each agent has used. -/
structure Coherence where
  copies : SMap Copy := []
  evicts : SMap (Option EvictBuf) := []
  dir : SMap DirEntry := []
  home : SMap HomeLine := []
  dirErr : SMap (List Nat) := []
  ways : SMap Way := []
  streams : SMap (List StoreStream) := []
  qslots : SMap W64 := []
  dones : List DoneMsg := []
  unclean : SMap Bool := []
  invalEnd : SMap Nat := []
  tags : SMap Nat := []
deriving DecidableEq, Repr

/-- An invalidation that waits for its C-dies (R283): its place in order of arrival (R285) and the stitch boundaries since its write, at the time `since` (R7, R286). `reached` are the dies to which Seam has brought it, with the invalidations accepted before then. -/
structure XltPend where
  scope : Nat
  seg : Nat
  table : Nat
  acked : List CDie
  era : Nat
  boundaries : Nat
  overdue : Bool
  since : Nat := 0
  reached : SMap Nat := []
deriving DecidableEq, Repr

/-- Phases of a move (Table 10-7, TLT_ACTIVE.PHASE). -/
inductive MovePhase where
  | mark
  | copy
  | switch
  | wipe
deriving DecidableEq, Repr

/-- A queued move (R292). -/
structure MoveReq where
  slab : Nat
  dest : Nat
  wipe : Bool
deriving DecidableEq, Repr

/-- The running move (R293). `acks` are the dies that have acknowledged MARK; `boundaries` counts the stitch boundaries of the pause, which began at the time `pausedAt` (R7, R294); `badWrite` tells that the destination home has reported an uncorrectable write (R296). -/
structure MoveRun where
  req : MoveReq
  phase : MovePhase
  acks : List Nat
  tile : Nat
  source : Nat
  boundaries : Nat
  recalled : Bool
  overdue : Bool
  badWrite : Bool := false
  pausedAt : Nat := 0
deriving DecidableEq, Repr

/-- The destination of an abandoned move: its contents are undefined but for the lines written since (R296). -/
structure UndefSlab where
  slab : Nat
  draw : Nat
  written : List LineNo := []
deriving DecidableEq, Repr

/-- Translation caches' invalidations, the tier map and Tilth (spec/10). `era` counts the invalidations accepted. -/
structure Translation where
  era : Nat := 0
  pend : SMap (Option XltPend) := []
  map : SMap W64 := []
  moves : List MoveReq := []
  run : Option MoveRun := none
  completed : Nat := 0
  abandoned : Nat := 0
  undef : List UndefSlab := []
deriving DecidableEq, Repr

/-- A store that its hart has retired and that has not left the store buffer (R338). -/
structure BufStore where
  addr : Nat
  data : List Byte
deriving DecidableEq, Repr

/-- A load in flight (R325): the bytes it reads, and its value once it has read. -/
structure LoadOut where
  addr : Nat
  bytes : Nat
  value : Option W64 := none
deriving DecidableEq, Repr

/-- A host core as far as the spec gives it state (R300, R324, R338, R339). `loads` are its loads in flight in program order, `fetched` the instruction lines that it has fetched and may run from until FENCE.I, `waiting` a load of BULK_SYNC that has not returned (R366), `inval` the XLT_INVAL register that it has written, whose drain its next access awaits (R283, R335). -/
structure HartState where
  stores : List BufStore := []
  reservation : Option Nat := none
  result : W64 := 0
  accessFault : Bool := false
  gated : Bool := false
  inReset : Bool := false
  regWrites : List (Nat × W64) := []
  loads : List LoadOut := []
  fetched : List (Nat × Line) := []
  waiting : Bool := false
  inval : Option Nat := none
deriving DecidableEq, Repr

end Sys2Proof.Machine
end

