-- ==== Sys2Proof/Machine/LinkState.lean ====
section
/-! DEFINITION. State of Orfin, Seam, the Expert Fabric, the mirror ports, the session table and the key agreement (spec/07, spec/13, spec/14, spec/18), part of the machine's state. -/

namespace Sys2Proof.Machine

/-- A packet that waits at a port: its header still lacks SEQ, EPOCH and RET_LINES. `owner` is the operation that ends once XF has accepted it (R212). -/
structure Queued where
  packet : XfPacket
  node : Nat
  job : W16
  owner : Option (CtxId × Nat) := none
deriving DecidableEq, Repr

/-- Training state of a link, as STATE codes it (Table 14-12). -/
inductive LinkPhase where
  | down
  | training
  | up
  | retraining
deriving DecidableEq, Repr

/-- A flit of any link (Tables 13-1, 14-1, 14-6): its header fields and the bytes of its message area. -/
structure Flit where
  seq : BitVec 12
  ack : BitVec 12
  nak : Bool
  kind : BitVec 2
  credits : W64
  body : List Byte
deriving DecidableEq, Repr

/-- A link (R344, R375, R380, R445). Times are in thirds of a nanosecond. `nak` tells that a flit has failed its CRC and its replay has not come; `syncSent` is the count that the last SYNC carried. `sent` and `got` are the SEQ of the last flit sent and received right, `replay` the flits sent and not acknowledged, `back` the link credits to be returned and `credit` those held for sending, by class (R345, R372, R382); `helloSent` tells that Thimble has sent its PKEY HELLO since the port trained, with the secret `kem` (R477). -/
structure Link where
  phase : LinkPhase := .down
  nak : Bool := false
  replays : Nat := 0
  failedRetrains : Nat := 0
  sparesUsed : Nat := 0
  spareInUse : Bool := false
  versionSent : Bool := false
  versionOk : Bool := false
  readySent : Bool := false
  readyGot : Bool := false
  minor : Nat := 0
  peer : W16 := 0
  lastGood : Nat := 0
  syncOffset : W32 := 0
  syncSent : Nat := 0
  keyValid : Bool := false
  portKey : BitVec 256 := 0
  keyHello : Bool := false
  sendQ : List Queued := []
  sent : BitVec 12 := 0xFFF
  got : BitVec 12 := 0xFFF
  replay : List Flit := []
  back : SMap Nat := []
  credit : SMap Nat := []
  helloSent : Bool := false
  kem : BitVec 512 := 0
deriving DecidableEq, Repr

/-- A descriptor that a ring engine has fetched (R357): `asked` tells that a BulkFlush has been sent for its completion, `flushed` that the response has come (R365). -/
structure Desc where
  index : Nat
  raw : BitVec 512
  started : Bool := false
  done : Bool := false
  status : Nat := 0
  detail : Nat := 0
  te : Nat := 0
  slot : Nat := 0
  asked : Bool := false
  flushed : Bool := false
deriving DecidableEq, Repr

/-- A ring engine (R350 to R356). `held` is the last accepted doorbell, `announced` the descriptors it announces; `atHead` tells that the next descriptor is a LAUNCH that PLACE_EN keeps (R229), `clearedAt` when ENABLE was last cleared (R351). -/
structure Ring where
  held : W64 := 0
  announced : Nat := 0
  consumed : Nat := 0
  written : Nat := 0
  taken : Nat := 0
  fetched : List Desc := []
  rereads : Nat := 0
  staleAt : Option Nat := none
  ahead : Bool := false
  cause : Nat := 0
  holding : Bool := false
  atHead : Bool := false
  clearedAt : Option Nat := none
deriving DecidableEq, Repr

/-- A message that leaves the package on Orfin (Table 13-2): requests, notices and answers of the proxy by companion address, a completion (a PutBytes at its slot's address), and the rest. -/
inductive OrfMsg where
  | ask (kind : Ask) (caddr : Nat)
  | evict (dirty : Bool) (caddr : Nat) (line : Line)
  | probeAck (caddr : Nat) (final : CState) (superseded miss : Bool)
  | doneAck (caddr : Nat)
  | lineData (caddr : Nat) (granted : CState) (line : Line)
  | completion (ring : Nat) (caddr : Nat) (entry : BitVec 256)
  | notify (ring : Nat) (vector : W16)
  | bulkWrite (caddr : Nat) (line : Line)
  | bulkFlush
  | ioAck (off : Nat) (value : W64) (error : Bool)
deriving DecidableEq, Repr

/-- A read of BULK_SYNC that waits: the hart or the offset of the IoRead that it answers, and whether a BulkFlush has been sent since it arrived (R366). -/
structure SyncWait where
  hart : Option Nat
  off : Option Nat
  asked : Bool
deriving DecidableEq, Repr

/-- The Orfin block (spec/13). `proxy` are the proxy's copies of companion lines, `proxyAsk` its requests at the companion's home, `proxyEvict` its write-back buffers, by line (R315, R345); `wait` are the messages that wait for a credit of their class or for the link, `bulkSeqs` the SEQs of the flits whose BulkWrites have not been acknowledged (R344, R345). -/
structure Orfin where
  rings : SMap Ring := []
  bulkSent : Nat := 0
  bulkVisible : Nat := 0
  flushSent : Option Nat := none
  syncWaits : List SyncWait := []
  syncValue : W64 := 0
  proxy : SMap Copy := []
  proxyAsk : SMap (Option Ask) := []
  proxyEvict : SMap (Option EvictBuf) := []
  out : List OrfMsg := []
  wait : List OrfMsg := []
  bulkSeqs : List (BitVec 12) := []
  heldSince : Option Nat := none
  heldTime : Nat := 0
deriving DecidableEq, Repr

/-- A key slot (R389, R390, Table 14-12). `seqOut` by destination, `seqIn` by `65536 epoch + source`; `kem` is the secret of the HELLO that answers a rotation (R476). -/
structure KeySlot where
  job : W16 := 0
  valid : Bool := false
  epoch : Bool := false
  aborted : Bool := false
  key0 : BitVec 256 := 0
  key1 : BitVec 256 := 0
  has0 : Bool := false
  has1 : Bool := false
  seqOut : SMap Nat := []
  seqIn : SMap Nat := []
  kem : BitVec 512 := 0
deriving DecidableEq, Repr

/-- A key agreement in progress (R474, R476); `kem` is the secret of the own HELLO. -/
structure KeyAgree where
  slot : Nat
  job : W16
  rotate : Bool
  leader : Bool
  peers : List Nat
  hellos : List Nat
  acks : List Nat
  key : BitVec 256
  since : Nat
  helloSent : Bool
  kem : BitVec 512 := 0
deriving DecidableEq, Repr

/-- A switch of epochs that waits for its boundary (R476): `stage` false before boundary S, true until S + 1. -/
structure EpochSwitch where
  slot : Nat
  stitch : BitVec 48
  stage : Bool
deriving DecidableEq, Repr

/-- A message that leaves the package on XF or a mirror port. -/
structure LinkOut where
  link : Nat
  packet : XfPacket
deriving DecidableEq, Repr

/-- A message that Seam carries between two dies of the package, in one of its classes (Table 14-2), and that a link on its route holds (R18, R373). `queued` is the port and the place in its queue that a packet for another package goes on to. -/
structure SeamMsg where
  cls : Nat
  source : Nat
  dest : Nat
  packet : XfPacket
  queued : Option (Nat × Queued) := none
deriving DecidableEq, Repr

/-- A KEX message of Thimble (R474), with its signature, which leaves as a packet of class 3 (R382). -/
structure KexOut where
  kind : Nat
  slot : Nat
  dst : Nat
  body : List Byte
deriving DecidableEq, Repr

/-- The links, the fabric and the key slots (spec/14, spec/18). `used` is the charge in flight to each node, `owed` what is to be returned; `seam` are the messages that Seam holds, oldest first, and `wire` the flits that links have sent, with their link, `kexOut` Thimble's messages that wait to be sent, `writes` the writes to memory on their way that Seam holds and whose contexts a reset has ended (R455). -/
structure Fabric where
  links : SMap Link := []
  used : SMap Nat := []
  owed : SMap Nat := []
  owedSince : Option Nat := none
  slots : SMap KeySlot := []
  peers : SMap (BitVec 2048) := []
  seen : List (Nat × Nat) := []
  abortCount : Nat := 0
  agree : Option KeyAgree := none
  switches : List EpochSwitch := []
  out : List LinkOut := []
  kexOut : List KexOut := []
  seam : List SeamMsg := []
  wire : List (Nat × Flit) := []
  writes : List BufWrite := []
deriving DecidableEq, Repr

/-- A mirror request that a KVAPPEND has queued (R395). -/
structure MirReq where
  session : Nat
  layer : Nat
  head : Nat
  pos : Nat
  tokens : Nat
  since : Nat
deriving DecidableEq, Repr

/-- The first copy of a session that waits for its acknowledgement, with its time and the stitch boundaries since (R7, R395). -/
structure FirstCopy where
  session : Nat
  boundaries : Nat := 0
  since : Nat := 0
deriving DecidableEq, Repr

/-- The mirror unit (R394 to R399). The takeover set holds each job with the time of its write; `initial` are the first copies that wait for their acknowledgement. -/
structure Mirror where
  takeover : List (W16 × Nat) := []
  reqs : List MirReq := []
  commits : List CommitWait := []
  initial : List FirstCopy := []
  failedInit : SMap Bool := []
  refuseNext : SMap Bool := []
deriving DecidableEq, Repr

end Sys2Proof.Machine
end

