-- ==== Sys2Proof/Machine/ManageState.lean ====
section
/-! DEFINITION. State of the stitch, power, heat, error, reset, security and start-up blocks (spec/15 to spec/19, spec/21), part of the machine's state. -/

namespace Sys2Proof.Machine

/-- Tray signals and the clocks and resets they act on (spec/21, R431, R432, R461, R489, R491). `trained` tells that a start since power-on has completed TRAIN, `trainedStacks` which stacks it trained (R493), `stitchUp` that the stitch blocks have run since power-on (R24, R494). -/
structure Board where
  pwrGood : Bool := true
  resetN : Bool := true
  coolantOk : Bool := true
  sealOk : Bool := true
  presenceN : Bool := true
  thermtripN : Bool := true
  inReset : Bool := false
  gated : Bool := false
  latched : Bool := false
  railFail : Bool := false
  resetCapture : Bool := false
  trained : Bool := false
  trainedStacks : BitVec 12 := 0
  stitchUp : Bool := false
  clockLost : BitVec 6 := 0
deriving DecidableEq, Repr

/-- The stitch blocks (R401 to R409). Times are in thirds of a nanosecond, periods in 10 ns units. `last` is the last boundary, `edge` an edge that has arrived and is not accepted, `armed` the time at which a re-lock was armed; `nextPeriod` and `nextLoad` are writes that wait for their boundary, oldest first, with the time of the write. `dieCounts` lists the counts of dies that have stood without their clock, and are not H0's (R406). `marginAt` is the time of the addition of R427, `mgt` the management messages of the stitch, by link and the die that sends (R410). -/
structure Stitch where
  count : BitVec 48 := 0
  dieCounts : SMap (Option (BitVec 48)) := []
  last : Nat := 0
  edge : Option Nat := none
  holdover : Bool := false
  armed : Option Nat := none
  period : Nat := 12500
  tol : Nat := 100
  nextPeriod : List (Nat × Nat × Nat) := []
  nextLoad : List (BitVec 48 × Nat) := []
  offset : W32 := 0
  overFor : Nat := 0
  overTold : Bool := false
  held : Nat := 0
  maxRatio : Nat := 0
  tickTold : SMap Bool := []
  marginAt : Option Nat := none
  patrolIntervals : Nat := 0
  mgt : SMap Nat := []
deriving DecidableEq, Repr

/-- A die's power state (R421, R422, R429). Dies 0 to 5; no point stands for the BOOT point, `stepping` is a step's target and start, `below` counts ticks below 95% of the budget. -/
structure DiePower where
  dealt : Nat := 0
  drawn : Nat := 0
  sum : Nat := 0
  samples : Nat := 0
  point : Option Nat := none
  limited : Bool := false
  below : Nat := 0
  tickAt : Nat := 0
  stepping : Option (Nat × Nat) := none
  temp : Nat := 0
  lastValid : Nat := 0
  sensorFailed : Bool := false
deriving DecidableEq, Repr

/-- A region's or host-core domain's power state (R423, R425, R426); `droop` is the time of the trip. -/
structure RegionPower where
  dealt : Nat := 0
  drawn : Nat := 0
  sum : Nat := 0
  samples : Nat := 0
  stretch : Nat := 0
  below : Nat := 0
  tickAt : Nat := 0
  droop : Option Nat := none
  gated : Bool := false
deriving DecidableEq, Repr

/-- Package power (spec/16). `inForce` is the mailbox value of the last dealing, `writes` the mailbox writes since with their times; `run` is the microseconds of the current run above B, and until `barred` no new excursion is allowed. -/
structure Power where
  dies : SMap DiePower := []
  regions : SMap RegionPower := []
  now : Nat := 0
  sum : Nat := 0
  samples : Nat := 0
  avg : Nat := 0
  run : Nat := 0
  barred : Nat := 0
  sampledAt : Nat := 0
  clockStretch : Bool := false
  excursion : Bool := false
  dealtYet : Bool := false
  loopSeen : Bool := false
  sinceLoop : Nat := 0
  loopStitch : BitVec 48 := 0
  inForce : W64 := 0x100000E10
  writes : List (Nat × W64) := []
  ackSeq : W16 := 0
  ackStitch : BitVec 48 := 0
  dealtUnder : Option W64 := none
  energy : SMap W64 := []
  unattr : W64 := 0
deriving DecidableEq, Repr

/-- What a record says beyond its place in the queue (Table 17-1). -/
structure Rec where
  cls : Nat
  action : Nat := 0
  quar : Bool := false
  cause : Nat := 0
  die : Nat := 4
  te : Nat := 0
  slot : Nat := 0
  teValid : Bool := false
  job : W16 := 0xFFFF
  ctx : Nat := 0
  agent : Nat := 0x7F
  addr : W64 := 0
  d0 : W64 := 0
  d1 : W64 := 0
  d2 : W64 := 0
  d3 : W64 := 0
deriving DecidableEq, Repr

/-- An error record queue (R439 to R441). -/
structure ErrQueue where
  prod : W32 := 0
  records : SMap (BitVec 512) := []
deriving DecidableEq, Repr

/-- A field of a captured structure: byte offset, bytes, value (Tables 17-10 to 17-16). -/
structure Piece where
  off : Nat
  size : Nat
  val : Nat
deriving DecidableEq, Repr

/-- A capture slot, with the number of its capture (R459, R460). -/
structure CapSlot where
  valid : Bool := false
  bytes : SMap Byte := []
  number : Nat := 0
deriving DecidableEq, Repr

/-- What a capture holds of a C-die and Seam has not brought to its H-die: the half, the slot, the capture's number, the management messages that it takes, and its fields (R18, R410, Table 14-2). -/
structure CapFill where
  half : HDie
  slot : Nat
  number : Nat
  die : Nat
  msgs : Nat
  pieces : List Piece
deriving DecidableEq, Repr

/-- Error queues, capture slots and the compute reset (spec/17). `held` are the register accesses that a compute reset keeps waiting: hart, address, whether it writes, and the value (R506), or a Seam link that is not up (R18), `heldAdds` the additions to tallies, by key, that it keeps waiting (R342); `heldRecs` the records and `capHeld` the parts of captures that Seam holds; `fixed` counts by die the single-bit errors that SEC-DED has corrected (R260). -/
structure Recovery where
  queues : SMap ErrQueue := []
  slots : SMap CapSlot := []
  captures : SMap Nat := []
  capBusy : Bool := false
  phase : Nat := 0
  hosts : Bool := false
  phaseAt : Nat := 0
  resets : Nat := 0
  progress : SMap Bool := []
  stallTold : SMap Bool := []
  pending : SMap Bool := []
  held : List (Nat × Nat × Bool × W64) := []
  fixed : SMap Nat := []
  heldAdds : List (Nat × W32) := []
  heldRecs : List (Rec × BitVec 48) := []
  capHeld : List CapFill := []
deriving DecidableEq, Repr

/-- Life-cycle states (Table 18-4). -/
inductive LifeCycle where
  | manufacture
  | provisioned
  | field
  | service
  | retired
deriving DecidableEq, Repr

/-- A Thimble command that waits for presence (R480, R482). -/
structure ThimbleCmd where
  op : Nat
  target : Nat
  allowSvn : Nat
  since : Nat
deriving DecidableEq, Repr

/-- Thimble: fuses, measurements, commands and keys (spec/18). `wipeKey` is the deep-tier key that was in force when the deep tier was wiped last (R478); `kexWaiting` are the key-exchange messages that wait for the alias certificate, each with its kind (R468). -/
structure Thimble where
  lc : LifeCycle
  ownerSlot : Nat
  ownersUsed : Nat
  ownerHash : SMap (BitVec 512)
  ownerRevoked : BitVec 4
  svcUsed : Nat
  svnMin : Nat
  seedKilled : Bool
  meas : SMap (BitVec 512)
  measExt : SMap W64
  cmd : Option ThimbleCmd
  result : Nat
  sealBroken : Bool
  debugUnlocked : Bool
  bootFail : Bool
  bootSlot : Bool
  wipeBusy : Bool
  runningSvn : Nat
  armedSvn : Option Nat
  aliasReady : Bool
  aliasGen : Nat
  deepKey : BitVec 512
  wipeKey : BitVec 512
  keyResult : Nat
  keyNode : Nat
  rootHash : BitVec 512
  kexWaiting : List (Nat × KexMsg)
  spdm : List (Nat × List Byte)
  spdmVersion : Bool
  spdmCaps : Bool
  spdmAlgs : Bool
deriving DecidableEq, Repr

/-- Start-up (spec/19). `wipeAt` is the time at which the full wipe began, `delegate` tells that the delegate core of H1 has booted (R11). -/
structure StartUp where
  phase : Nat := 1
  warm : Bool := false
  degraded : Bool := false
  failPhase : Nat := 0
  failCause : Nat := 0
  stackOk : BitVec 12 := 0
  lpdOk : BitVec 18 := 0
  linkUp : BitVec 19 := 0
  elapsed : W32 := 0
  phaseAt : Nat := 0
  releasedAt : Nat := 0
  wipeAt : Nat := 0
  delegate : Bool := false
  wipeDone : Bool := false
  bootDone : Bool := false
  seamDone : Bool := false
  wipedParts : BitVec 16 := 0
  i3cNotice : Bool := false
deriving DecidableEq, Repr

end Sys2Proof.Machine
end

