-- ==== Sys2Proof/Machine/State.lean ====
section
/-! DEFINITION. The machine's state as plain data, its stops, and the state right after reset. -/

namespace Sys2Proof.Machine

/-- Reasons for which the block stops. -/
inductive Fault where
  /-- Raised by no command: the spec gives every command an effect. It stands for a stop of the machine; safe. -/
  | stuck
deriving DecidableEq, Repr

/-- Reasons for which a command has no meaning. -/
inductive Refusal where
  /-- A command whose meaning is not written yet, by its mnemonic; safe. -/
  | notModelled (mnemonic : String)
deriving DecidableEq, Repr

/-- The whole package. Times are in thirds of a nanosecond; one cycle of the arithmetic clock at 1.5 GHz is two of them. `rf` holds the register space's stored registers by address, each read with its own reset value; tallies are keyed as `tallyKey` says; `mem` is package memory as its devices store it, by the key of a device byte (`nearCell`, `deepCell`): data bytes, those of the deep tier encrypted, and check bytes. -/
structure State where
  pending : List Instr
  now : Nat
  draws : Nat
  rf : SMap W64
  eng : Engines
  cl : Clusters
  tallies : SMap W32
  dsp : Dispatchers
  ses : SMap (BitVec 2048)
  parts : SMap (BitVec 512)
  partWipe : SMap Nat
  ctrls : SMap Ctrl
  mem : List Host.Cell
  coh : Coherence
  xlt : Translation
  harts : SMap HartState
  orf : Orfin
  fab : Fabric
  mir : Mirror
  stc : Stitch
  pwr : Power
  err : Recovery
  sec : Thimble
  boot : StartUp
  brd : Board
deriving DecidableEq, Repr

/-- The life-cycle state that the LC fuses give (Table 18-4). -/
def LifeCycle.ofFuse : Fin 5 → LifeCycle
  | 0 => .manufacture
  | 1 => .provisioned
  | 2 => .field
  | 3 => .service
  | 4 => .retired

/-- Thimble as a start-up finds it: fuses as they are burned, everything else at its reset value (Table 18-8). -/
def Thimble.atReset : Thimble where
  lc := LifeCycle.ofFuse Config.fusedLc
  ownerSlot := Config.fusedOwners.val - 1
  ownersUsed := Config.fusedOwners.val
  ownerHash := []
  ownerRevoked := Config.fusedRevoked
  svcUsed := Config.fusedSvc.val
  svnMin := Config.fusedSvnMin.val
  seedKilled := decide (LifeCycle.ofFuse Config.fusedLc = .retired)
  meas := []
  measExt := []
  cmd := none
  result := 0
  sealBroken := false
  debugUnlocked := false
  bootFail := false
  bootSlot := false
  wipeBusy := true
  runningSvn := 0
  armedSvn := none
  aliasReady := false
  aliasGen := 0
  deepKey := 0
  wipeKey := 0
  keyResult := 0
  keyNode := 0
  rootHash := Config.fusedRootHash
  kexWaiting := []
  spdm := []
  spdmVersion := false
  spdmCaps := false
  spdmAlgs := false

/-- The package at the release of RESET_N after power-on: every register at its reset value, every store empty, start-up in its first phase (R485, R492). -/
def State.reset : State where
  pending := []
  now := 0
  draws := 0
  rf := []
  eng := {}
  cl := {}
  tallies := []
  dsp := {}
  ses := []
  parts := []
  partWipe := []
  ctrls := []
  mem := []
  coh := {}
  xlt := {}
  harts := []
  orf := {}
  fab := {}
  mir := {}
  stc := {}
  pwr := {}
  err := {}
  sec := Thimble.atReset
  boot := {}
  brd := {}

end Sys2Proof.Machine
end

