-- ==== Sys2Proof/Machine/Ops.lean ====
section
/-! DEFINITION. The named operations over registers, stores, tallies, time and error records that every meaning is built from. -/

namespace Sys2Proof.Machine

/-- What a command answers. -/
abbrev Res := Host.Outcome State Fault Refusal

/-! ### Time -/

/-- Nanoseconds in the model's unit of time. -/
def nsT (n : Nat) : Nat := 3 * n
/-- Microseconds in the model's unit of time. -/
def usT (n : Nat) : Nat := 3000 * n
/-- Arithmetic-clock cycles at 1.5 GHz in the model's unit of time. -/
def cycT (n : Nat) : Nat := 2 * n
/-- The arithmetic-clock cycle that the present lies in. -/
def cycleNow (s : State) : Nat := s.now / 2
/-- Time moves forward to `t`; it never moves back. -/
def advanceTo (s : State) (t : Nat) : State := { s with now := max s.now t }
/-- Time moves forward to the start of cycle `c`. -/
def advanceCycle (s : State) (c : Nat) : State := advanceTo s (cycT c)

/-! ### Registers of the register space -/

/-- What a register's stored bits hold. -/
def getR (s : State) (r : Reg) : W64 := smGet r.reset s.rf r.addr
/-- A register's stored bits take a value. -/
def setR (s : State) (r : Reg) (v : W64) : State := { s with rf := smSet r.reset s.rf r.addr v }
/-- A field of a register. -/
def fieldR (s : State) (r : Reg) (hi lo : Nat) : Nat := bits (getR s r) hi lo
/-- A bit of a register. -/
def flagR (s : State) (r : Reg) (i : Nat) : Bool := bitAt (getR s r) i
/-- A field of a register takes a value. -/
def setFieldR (s : State) (r : Reg) (hi lo v : Nat) : State := setR s r (setBits (getR s r) hi lo v)
/-- Hardware sets a bit of a register (R9). -/
def raise (s : State) (r : Reg) (i : Nat) : State := setR s r (getR s r ||| (1#64 <<< i))
/-- Hardware clears a bit of a register. -/
def lower (s : State) (r : Reg) (i : Nat) : State := setFieldR s r i i 0
/-- Hardware adds to a counter field, which saturates at its largest value. -/
def countR (s : State) (r : Reg) (hi lo n : Nat) : State :=
  setFieldR s r hi lo (min (fieldR s r hi lo + n) (2 ^ (hi + 1 - lo) - 1))
/-- Hardware adds to a counter field, which wraps (R370). -/
def wrapR (s : State) (r : Reg) (hi lo n : Nat) : State :=
  setFieldR s r hi lo ((fieldR s r hi lo + n) % 2 ^ (hi + 1 - lo))

/-- UNMAPPED (bit 0) or RSV_WRITE (bit 1) of ID_STATUS, with the address (R503, R504). -/
def idEvent (s : State) (bit addr : Nat) : State := setR (raise s Reg.idStatus bit) Reg.idLastAddr (BitVec.ofNat 64 addr)

/-! ### V/F points (R424) -/

/-- Fused values that rise with the point number, by their distance from point 15: a fused value that does not lie below the next one is no part's (R424). -/
def vfDown (raw : Nat → Nat) (top : Nat) : Nat → Nat
  | 0 => top
  | n + 1 => max (14 - n) (min (raw (14 - n)) (vfDown raw top n - 1))
/-- FREQ of a point in MHz: 1,500 at point 15 of a C-die, 3,200 at that of an H-die (R424). -/
def vfFreqOf (d k : Nat) : Nat := vfDown (fun k => (Config.vfFreq (16 * d + k)).toNat) (if d < 4 then 1500 else 3200) (15 - k)
/-- VOLT of a point in mV (R424). -/
def vfVoltOf (d k : Nat) : Nat := vfDown (fun k => (Config.vfVolt (16 * d + k)).toNat) (max 15 (Config.vfVolt (16 * d + 15)).toNat) (15 - k)

/-! ### Units of the engines -/

/-- The number of a context among all slots. -/
def ctxKey (c : CtxId) : Nat := 4 * c.te.val + c.slot.val
/-- The context at a number. -/
def ctxAt (te : TeId) (s : Nat) : CtxId := ⟨te, ⟨s % 4, by omega⟩⟩
/-- The four slots. -/
def allSlots : List SlotId := [0, 1, 2, 3]
/-- The eight groups. -/
def allGroups : List GroupId := [0, 1, 2, 3, 4, 5, 6, 7]
/-- The tensor engines of the package. -/
def allTes : List TeId := List.finRange 256

/-- A resident slot. -/
def getSlot (s : State) (c : CtxId) : Slot := smGet {} s.eng.slots (ctxKey c)
/-- A resident slot takes a value. -/
def setSlot (s : State) (c : CtxId) (v : Slot) : State :=
  { s with eng := { s.eng with slots := smSet {} s.eng.slots (ctxKey c) v } }
/-- A tensor engine. -/
def getTe (s : State) (te : TeId) : Te := smGet {} s.eng.te te.val
/-- A tensor engine takes a value. -/
def setTe (s : State) (te : TeId) (v : Te) : State :=
  { s with eng := { s.eng with te := smSet {} s.eng.te te.val v } }
/-- An accumulation group. -/
def getGroup (s : State) (te : TeId) (g : GroupId) : Group := smGet {} s.eng.groups (8 * te.val + g.val)
/-- An accumulation group takes a value. -/
def setGroup (s : State) (te : TeId) (g : GroupId) (v : Group) : State :=
  { s with eng := { s.eng with groups := smSet {} s.eng.groups (8 * te.val + g.val) v } }

/-- A scalar register; s0 reads zero (R120). -/
def sreg (s : State) (c : CtxId) (r : Nat) : W64 :=
  if r = 0 then 0 else smGet 0 s.eng.sregs (32 * ctxKey c + r)
/-- A scalar register takes a value; writes to s0 are discarded (R120). -/
def setSreg (s : State) (c : CtxId) (r : Nat) (v : W64) : State :=
  if r = 0 then s else { s with eng := { s.eng with sregs := smSet 0 s.eng.sregs (32 * ctxKey c + r) v } }
/-- A lane of a vector register (R120). -/
def vlane (s : State) (c : CtxId) (r i : Nat) : W32 := smGet 0 s.eng.vregs ((32 * ctxKey c + r) * 256 + i)
/-- All lanes of a vector register. -/
def vreg (s : State) (c : CtxId) (r : Nat) : List W32 := smGetRange 0 s.eng.vregs ((32 * ctxKey c + r) * 256) 256
/-- All lanes of a vector register take values. -/
def setVreg (s : State) (c : CtxId) (r : Nat) (v : List W32) : State :=
  { s with eng := { s.eng with vregs := smSetRange 0 s.eng.vregs ((32 * ctxKey c + r) * 256) v } }
/-- A mask; vm0 reads all ones (R120). -/
def vmask (s : State) (c : CtxId) (r : Nat) : BitVec 256 :=
  if r = 0 then BitVec.allOnes 256 else smGet 0 s.eng.masks (8 * ctxKey c + r)
/-- A mask takes a value. -/
def setVmask (s : State) (c : CtxId) (r : Nat) (v : BitVec 256) : State :=
  { s with eng := { s.eng with masks := smSet 0 s.eng.masks (8 * ctxKey c + r) v } }

/-- Bytes of a tile store. -/
def tsRead (s : State) (te : TeId) (a n : Nat) : List Byte := smGetRange 0 s.eng.tiles (2097152 * te.val + a) n
/-- The wrong symbols of the lines that a write of `n` bytes at `a` covers whole are gone (R259). -/
def healLines (errs : SMap Hem) (a n : Nat) : SMap Hem :=
  smClear errs ((a + 63) / 64) ((a + n) / 64)
/-- Bytes of a tile store take values. -/
def tsWrite (s : State) (te : TeId) (a : Nat) (v : List Byte) : State :=
  { s with eng := { s.eng with
      tiles := smSetRange 0 s.eng.tiles (2097152 * te.val + a) v
      tileErr := healLines s.eng.tileErr (2097152 * te.val + a) v.length } }
/-- Bytes of a cluster store. -/
def csRead (s : State) (cl : Fin 64) (a n : Nat) : List Byte := smGetRange 0 s.cl.store (8388608 * cl.val + a) n
/-- Bytes of a cluster store take values. -/
def csWrite (s : State) (cl : Fin 64) (a : Nat) (v : List Byte) : State :=
  { s with cl := { s.cl with
      store := smSetRange 0 s.cl.store (8388608 * cl.val + a) v
      storeErr := healLines s.cl.storeErr (8388608 * cl.val + a) v.length } }
/-- A byte range reaches a line. -/
def reachesLine (a n l : Nat) : Bool := decide (0 < n) && decide (a / 64 ≤ l) && decide (l ≤ (a + n - 1) / 64)
/-- The first line of a byte range whose stored code word cannot be corrected (R256, R257). -/
def badLine (errs : SMap Hem) (a n : Nat) : Option Nat :=
  (errs.find? fun e => reachesLine a n e.1 && (hemFix e.2).isNone).map (·.1)

/-- An accumulator element of a group (R84). -/
def accAt (s : State) (te : TeId) (g i : Nat) : W32 := smGet 0 s.eng.acc ((8 * te.val + g) * 16384 + i)
/-- An accumulator element takes a value. -/
def setAcc (s : State) (te : TeId) (g i : Nat) (v : W32) : State :=
  { s with eng := { s.eng with acc := smSet 0 s.eng.acc ((8 * te.val + g) * 16384 + i) v } }

/-! ### Shares (R215) -/

/-- TS_UNITS of slot `k`. -/
def tsUnits (cfg : W64) (k : Nat) : Nat := bits cfg (16 * k + 5) (16 * k)
/-- GROUPS of slot `k`. -/
def grpCount (cfg : W64) (k : Nat) : Nat := bits cfg (16 * k + 9) (16 * k + 6)
/-- The first tile-store byte of a slot's share, and its size in bytes. -/
def tsShare (s : State) (c : CtxId) : Nat × Nat :=
  let cfg := (getTe s c.te).slotcfg
  (65536 * ((List.range c.slot.val).map (tsUnits cfg)).sum, 65536 * tsUnits cfg c.slot.val)
/-- The first group of a slot's share, and how many groups it has. -/
def grpShare (s : State) (c : CtxId) : Nat × Nat :=
  let cfg := (getTe s c.te).slotcfg
  (((List.range c.slot.val).map (grpCount cfg)).sum, grpCount cfg c.slot.val)
/-- A byte range lies in the share (R62, R121). -/
def inShare (s : State) (c : CtxId) (a n : Nat) : Bool :=
  let sh := tsShare s c
  decide (sh.1 ≤ a) && decide (a + n ≤ sh.1 + sh.2)

/-! ### Tallies (R150, R332) -/

/-- The key of a tally: cluster tallies first, then region tallies, then die tallies. `unit` numbers the cluster, region or die in the package. -/
def tallyKey (l : TallyLevel) (unit index : Nat) : Nat :=
  match l with
  | .cluster => 256 * unit + index
  | .region => 65536 + 1024 * unit + index
  | .die => 131072 + 4096 * unit + index
/-- The tally that a handle names; none where the handle is invalid (R150, Table 5-17). -/
def handleKey (h : W32) : Option Nat :=
  let index := bits h 11 0
  let cluster := bits h 15 14
  let region := bits h 17 16
  let die := bits h 20 18
  if bits h 31 21 ≠ 0 ∨ 3 < die then none
  else match bits h 13 12 with
    | 0 => if index < 256 then some (tallyKey .cluster (16 * die + 4 * region + cluster) index) else none
    | 1 => if index < 1024 ∧ cluster = 0 then some (tallyKey .region (4 * die + region) index) else none
    | 2 => if cluster = 0 ∧ region = 0 then some (tallyKey .die die index) else none
    | _ => none
/-- The value of a tally. -/
def tally (s : State) (k : Nat) : W32 := smGet 0 s.tallies k
/-- Adds to a tally, modulo 2^32 (R332); the first addition in a stitch to the tally that PWR_MARGIN_CFG names is timed (R427). -/
def tallyAdd (s : State) (k : Nat) (v : W32) : State :=
  let timed := flagR s Reg.pwrMarginCfg 32
    && decide (handleKey (BitVec.ofNat 32 (fieldR s Reg.pwrMarginCfg 31 0)) = some k) && s.stc.marginAt.isNone
  { s with tallies := smMod 0 s.tallies k (· + v)
           stc := if timed then { s.stc with marginAt := some s.now } else s.stc }
/-- Adds to the tally that a handle names; nothing where the handle is invalid. -/
def handleAdd (s : State) (h : Option W32) (v : W32) : State :=
  match h.bind handleKey with
  | some k => tallyAdd s k v
  | none => s

/-! ### Free values -/

/-- The number of the next free value, and the state after it is taken. -/
def draw (s : State) : Nat × State := (s.draws, { s with draws := s.draws + 1 })
/-- Takes a run of random integers where rounding is stochastic: the first one's number (R43, R44). -/
def drawsFor (s : State) (sr : Bool) (n : Nat) : Option Nat × State :=
  if sr then (some s.draws, { s with draws := s.draws + n }) else (none, s)

/-! ### Seam routes (R16 to R18, Table 1-4, Table 1-5) -/

/-- The dies at the two ends of each Seam link, 0 to 6, with the end's number on each, clockwise from its top edge (Table 1-4, Table 14-3). -/
def seamEnds : Nat → List (Nat × Nat)
  | 0 => [(0, 1), (2, 0)]
  | 1 => [(4, 1), (5, 0)]
  | 2 => [(1, 0), (3, 0)]
  | 3 => [(0, 0), (4, 2)]
  | 4 => [(1, 1), (4, 0)]
  | 5 => [(2, 1), (5, 2)]
  | 6 => [(3, 1), (5, 1)]
  | _ => []
/-- A die's row and column on the package: C0, H0, C1 above C2, H1, C3. -/
def diePlace (d : Nat) : Nat × Nat := if d < 4 then (d / 2, 2 * (d % 2)) else (d - 4, 1)
/-- The die at a row and column. -/
def dieOfPlace (r c : Nat) : Nat := if c = 1 then 4 + r else 2 * r + c / 2
/-- The Seam link between two neighbours. -/
def seamLink (a b : Nat) : Option Nat := (List.range 7).find? fun k => let e := (seamEnds k).map (·.1); e.contains a && e.contains b && decide (a ≠ b)
/-- The dies of a route: the vertical link of the source's column first, then along the destination's row (R16). -/
def routeDies (a b : Nat) : List Nat :=
  let (ra, ca) := diePlace a
  let (rb, cb) := diePlace b
  let cols := if ca ≤ cb then (List.range (cb - ca + 1)).map (ca + ·) else (List.range (ca - cb + 1)).map (ca - ·)
  (if ra = rb then [] else [a]) ++ cols.map (dieOfPlace rb)
/-- The Seam links of a route in order (Table 1-5). -/
def seamRoute (a b : Nat) : List Nat :=
  let ds := routeDies a b
  (ds.zip (ds.drop 1)).filterMap fun p => seamLink p.1 p.2
/-- Every Seam link of a route is up (R18). -/
def routeUp (s : State) (a b : Nat) : Bool := (seamRoute a b).all fun l => decide ((smGet {} s.fab.links l).phase = .up)
/-- Packets pass between any two of these dies, both ways. -/
def diesJoined (s : State) (ds : List Nat) : Bool := ds.all fun a => ds.all fun b => routeUp s a b
/-- Packets have passed between some dies: no flit of the links on their routes is in a row of replays (R375). -/
def crossed (s : State) (ds : List Nat) : State :=
  if (List.range 7).all (fun l => decide ((smGet {} s.fab.links l).replays = 0)) then s
  else
    let used : List Nat := (ds.map fun a => (ds.map fun b => seamRoute a b).flatten).flatten
    let links : SMap Link := s.fab.links.map fun e => if used.contains e.1 && !e.2.nak then (e.1, { e.2 with replays := 0 }) else e
    { s with fab := { s.fab with links := links } }
/-! ### Error records (R436 to R441) -/

/-- A record as it lies in its queue (Table 17-1). -/
def Rec.encode (r : Rec) (stitch : BitVec 48) (seq : W32) : BitVec 512 :=
  let low : Nat := r.cls + r.action * 2 ^ 8 + (if r.quar then 2 ^ 11 else 0) + r.cause * 2 ^ 16 + r.die * 2 ^ 24
    + r.te * 2 ^ 32 + r.slot * 2 ^ 40 + (if r.teValid then 2 ^ 42 else 0) + r.job.toNat * 2 ^ 48
    + r.ctx * 2 ^ 64 + r.agent * 2 ^ 80 + stitch.toNat * 2 ^ 96 + seq.toNat * 2 ^ 144
    + r.addr.toNat * 2 ^ 192 + r.d0.toNat * 2 ^ 256 + r.d1.toNat * 2 ^ 320 + r.d2.toNat * 2 ^ 384 + r.d3.toNat * 2 ^ 448
  BitVec.ofNat 512 low

/-- The queue of a detecting die; the other one while the die's H-die has lost its clock (R439, R446). -/
def queueOf (s : State) (die : Nat) : HDie :=
  let home : HDie := if die = 0 ∨ die = 1 ∨ die = 4 then 0 else 1
  if bitAt s.brd.clockLost (4 + home.val) then (if home = 0 then 1 else 0) else home
/-- An error queue. -/
def errQueue (s : State) (h : HDie) : ErrQueue := smGet {} s.err.queues h.val
/-- Records pending in a queue: PROD − CONS (Table 17-12). -/
def errPending (s : State) (h : HDie) : Nat :=
  ((errQueue s h).prod - BitVec.ofNat 32 (fieldR s (Reg.errQCons h) 31 0)).toNat
/-- The error interrupt of a queue (R441). -/
def errInterrupt (s : State) (h : HDie) : Bool :=
  flagR s (Reg.errQCtrl h) 7 && decide (fieldR s (Reg.errQCtrl h) 18 8 ≤ errPending s h)
/-- The error interrupts asserted at a hart: of the queues that name it (R441). -/
def errInterruptAt (s : State) (hart : Hart) : Bool :=
  [0, 1].any fun h : HDie => errInterrupt s h && decide (fieldR s (Reg.errQCtrl h) 6 0 = hart.val)

/-- A record that a block which a compute reset covers would place: one detected on a C-die, but for those of stacks, homes, links, clocks and stitch blocks, which the reset spares (Table 17-7, R458). -/
def coveredRec (r : Rec) : Bool :=
  decide (r.die < 4) && !([0x32, 0x34, 0x35, 0x36, 0x37, 0x39].contains r.cls) && !(decide (r.cls = 0x09) && decide (r.cause = 2))
    && !(decide (r.cls = 0x0F) && decide (bits r.d0 7 0 = 5)) && !(decide (r.cls = 0x38) && decide (r.cause = 6))

/-- A record reaches its queue, which places it, or drops and counts it by its fill level (R440); `stitch` is the count of its detection. -/
def placeAt (s : State) (r : Rec) (stitch : BitVec 48) : State :=
  let h := queueOf s r.die
  let q := errQueue s h
  let pending := errPending s h
  if pending < 960 ∨ (pending < 1024 ∧ r.action ≠ 0) then
    let q' : ErrQueue := ⟨q.prod + 1, smSet 0 q.records (q.prod.toNat % 1024) (r.encode stitch q.prod)⟩
    { s with err := { s.err with queues := smSet {} s.err.queues h.val q' } }
  else
    let d := Reg.errQDrop h
    let s := if fieldR s d 39 32 = 0 then setFieldR s d 39 32 r.cls else s
    if pending < 1024 then countR s d 15 0 1
    else raise (countR s d 31 16 1) (Reg.errQStatus h) 16
/-- A die's record crosses Seam to its queue's H-die over links that are up (R18, R373). -/
def recordFree (s : State) (r : Rec) : Bool := decide (6 ≤ r.die) || routeUp s r.die (4 + (queueOf s r.die).val)
/-- Places a record; Seam holds one whose route is not up (R18). Queues place records from the end of SEAM (Table 19-2). -/
def place (s : State) (r : Rec) : State :=
  if !s.boot.seamDone || (decide (s.err.phase ≠ 0) && coveredRec r) then s
  else if recordFree s r then placeAt s r s.stc.count
  else { s with err := { s.err with heldRecs := s.err.heldRecs ++ [(r, s.stc.count)] } }
/-- The records that Seam held and whose routes are up again reach their queues, in order. -/
def placeHeld (s : State) : State :=
  match s.err.heldRecs.partition fun r => recordFree s r.1 with
  | (go, stay) => go.foldl (fun s r => placeAt s r.1 r.2) { s with err := { s.err with heldRecs := stay } }

/-! ### Watchdogs (R450) -/

/-- A unit of Table 17-5 has made progress; `unit` is its code. -/
def noteProgress (s : State) (unit inst : Nat) : State :=
  { s with err := { s.err with progress := smSet false s.err.progress (4096 * unit + inst) true } }

/-! ### Lines as bytes -/

/-- A line's bytes. -/
def lineBytes (v : Line) : List Byte := bytesOf 64 v.toNat
/-- A line from its bytes. -/
def lineOf (bs : List Byte) : Line := BitVec.ofNat 512 (leNat bs)

/-! ### Homes of addresses -/

/-- The C-die of a stack (R13). -/
def stackDie (st : Nat) : Nat := st / 3

/-- Powered and out of reset: no clock gated, RESET_N high, no latched trip (R431, R432, R461, R491). -/
def running (s : State) : Bool := !s.brd.gated && !s.brd.inReset && !s.brd.latched

/-- A command that needs the package's clocks has no effect while they are stopped. -/
def clocked (s : State) (f : State → State) : Res := .next (if running s then f s else s)
/-- What a die's own engines do: nothing while its clock is gone (R446). -/
def onDie (s : State) (die : Nat) (f : State → State) : Res := clocked s fun s => if bitAt s.brd.clockLost die then s else f s

end Sys2Proof.Machine
end

