-- ==== Sys2Proof/Machine/Flits.lean ====
section
/-! DEFINITION. Links and their flits: layouts, CRC, control flits, sequence numbers, replay buffers and the classes and credits of Seam (R18, R343, R344, R372, R373, R375, R379 to R382). Seam's messages of classes 0 to 5 cross within the commands that make them, and stand in no flit (log entry 131). -/

namespace Sys2Proof.Machine

/-- A link. -/
def getLink (s : State) (l : Nat) : Link := smGet {} s.fab.links l
/-- A link takes a value. -/
def setLink (s : State) (l : Nat) (v : Link) : State := { s with fab := { s.fab with links := smSet {} s.fab.links l v } }
/-- A link is up. -/
def linkUp (s : State) (l : Nat) : Bool := decide ((getLink s l).phase = .up)
/-- This package's node ID. -/
def myNode (s : State) : Nat := fieldR s Reg.xfNode 15 0
/-- TYPE in the version word of a link (Table 14-5). -/
def linkType (l : Nat) : Nat := if l < 7 then 1 else if l < 23 then 2 else if l = 23 then 3 else 4

/-! ### Layouts (Tables 13-1, 14-1, 14-6) -/

/-- Bytes of a link's flits: 256 on Orfin, 1,024 elsewhere. -/
def flitSize (l : Nat) : Nat := if l = 23 then 256 else 1024
/-- Bytes of the message area: 1,000 on Seam, 15 slots of 16 on Orfin, 1,008 on XF and the mirror ports. -/
def flitArea (l : Nat) : Nat := if l < 7 then 1000 else if l = 23 then 240 else 1008
/-- The flits that a replay buffer keeps (R344, R375, R381). -/
def replayDepth (l : Nat) : Nat := if l < 7 then 256 else if l = 23 then 2048 else 1024
/-- A flit on the wire: header, message area and zeros, and CRC-32 over all of it. -/
def flitBytes (l : Nat) (f : Flit) : List Byte :=
  let head := bytesOf 4 (f.seq.toNat + f.ack.toNat * 2 ^ 12 + (if f.nak then 2 ^ 24 else 0) + f.kind.toNat * 2 ^ 25) ++ bytesOf 8 f.credits.toNat
  let body := f.body.take (flitArea l)
  let all := head ++ body ++ List.replicate (flitSize l - 16 - body.length) 0
  all ++ bytesOf 4 (crc32 all).toNat
/-- A flit from the wire; none where its length or its CRC is wrong. -/
def readFlit (l : Nat) (bs : List Byte) : Option Flit :=
  if bs.length = flitSize l ∧ leNat (bs.drop (flitSize l - 4)) = (crc32 (bs.take (flitSize l - 4))).toNat then
    let h := leNat (bs.take 4)
    some { seq := BitVec.ofNat 12 h, ack := BitVec.ofNat 12 (h / 2 ^ 12), nak := decide (h / 2 ^ 24 % 2 = 1), kind := BitVec.ofNat 2 (h / 2 ^ 25)
           credits := BitVec.ofNat 64 (leNat ((bs.drop 4).take 8)), body := (bs.drop 12).take (flitArea l) }
  else none

/-! ### Sending and receiving -/

/-- Credit returns as a flit carries them, eight bits a class, class 0 lowest. -/
def packCredits (m : SMap Nat) : W64 := BitVec.ofNat 64 (((List.range 8).map fun c => min 255 (smGet 0 m c) * 256 ^ c).sum)
/-- The next flit of a link: the next SEQ, the last SEQ received right, NAK while a replay is awaited, and the credits to be returned. -/
def nextFlit (v : Link) (kind : BitVec 2) (body : List Byte) : Flit :=
  { seq := v.sent + 1, ack := v.got, nak := v.nak, kind := kind, credits := packCredits v.back, body := body }
/-- A link after it has sent a flit, which its replay buffer keeps. -/
def afterFlit (l : Nat) (v : Link) (f : Flit) : Link :=
  let kept := v.replay ++ [f]
  { v with sent := v.sent + 1, replay := kept.drop (kept.length - replayDepth l)
           back := (v.back.map fun e : Nat × Nat => (e.1, e.2 - 255)).filter fun e => decide (e.2 ≠ 0) }
/-- A link sends a flit. -/
def sendFlit (l : Nat) (kind : BitVec 2) (s : State) (body : List Byte) : State :=
  let f := nextFlit (getLink s l) kind body
  let s := setLink s l (afterFlit l (getLink s l) f)
  { s with fab := { s.fab with wire := s.fab.wire ++ [(l, f)] } }
/-- A link sends the flits of some bodies. -/
def sendFlits (s : State) (l : Nat) (kind : BitVec 2) (bodies : List (List Byte)) : State := bodies.foldl (sendFlit l kind) s
/-- A control flit's message area: the 8-byte control header, then its content (R379). -/
def controlBody (ctype : Nat) (content : List Byte) : List Byte := bytesOf 8 ctype ++ content
/-- A link sends a control flit (R379). -/
def sendControl (s : State) (l ctype : Nat) (content : List Byte) : State := sendFlit l 2 s (controlBody ctype content)
/-- The version word that this package sends (Table 14-5): NODE is zero on Seam. -/
def versionWord (s : State) (l : Nat) : W64 := BitVec.ofNat 64 (1 + linkType l * 2 ^ 16 + (if l < 7 then 0 else myNode s) * 2 ^ 24)
/-- VERSION. -/
def sendVersion (s : State) (l : Nat) : State := sendControl s l 1 (bytesOf 8 (versionWord s l).toNat)
/-- READY. -/
def sendReady (s : State) (l : Nat) : State := sendControl s l 2 []
/-- RETRAIN. -/
def sendRetrain (s : State) (l : Nat) : State := sendControl s l 3 []
/-- SYNC, with the stitch count. -/
def sendSync (s : State) (l : Nat) : State := sendControl s l 4 (bytesOf 8 s.stc.count.toNat)

/-- Flits have arrived right on a link: the replay that the link awaited has come. What they acknowledge and return their headers say, which come with SEAM_FLIT_ERROR, SERDES_FLIT_ERROR and NAK_REPLAY (log entry 131). -/
def heardFlits (s : State) (l n : Nat) : State :=
  let v := getLink s l
  setLink s l { v with lastGood := s.now, nak := false, got := v.got + BitVec.ofNat 12 n }
/-- Something good has arrived on a link. -/
def heard (s : State) (l : Nat) : State := heardFlits s l 1

/-- The flits of a link behind the last SEQ that its peer has received right: what a replay sends. -/
def unacked (v : Link) (ack : BitVec 12) : List Flit :=
  match v.replay.findIdx? fun f => decide (f.seq = ack) with
  | some i => v.replay.drop (i + 1)
  | none => v.replay
/-- A link after an acknowledgement: what it covers leaves the replay buffer, and no flit is in a row of replays any more where one has left. -/
def takeAck (v : Link) (ack : BitVec 12) : Link :=
  let left := unacked v ack
  { v with replay := left, replays := if left.length < v.replay.length then 0 else v.replays }
/-- A link after the credit returns of a flit (R345, R382). -/
def takeCredits (v : Link) (c : W64) : Link :=
  { v with credit := (List.range 8).foldl (fun m k => smMod 0 m k (· + bits c (8 * k + 7) (8 * k))) v.credit }
/-- The credits of a class that a link holds for sending. -/
def creditOfLink (s : State) (l cls : Nat) : Nat := smGet 0 (getLink s l).credit cls
/-- A link may send a message or packet: it is up, holds the link credits of its class, and its replay buffer has room for its flits (R344, R345, R381, R382). -/
def linkMay (s : State) (l cls units flits : Nat) : Bool :=
  linkUp s l && decide (units ≤ creditOfLink s l cls) && decide ((getLink s l).replay.length + flits ≤ replayDepth l)
/-- A send takes credits of its class. -/
def spendCredit (s : State) (l cls n : Nat) : State :=
  let v := getLink s l
  setLink s l { v with credit := smMod 0 v.credit cls (· - n) }

/-! ### XF packets in flits (R381 to R383) -/

/-- Whether a class is encrypted (Table 14-7). -/
def classSealed (cls : Nat) : Bool := decide (cls = 0 ∨ cls = 2)
/-- The nonce of a packet: DST_NODE in [95:80], SRC_NODE in [79:64] and SEQ in [63:0] (R389). -/
def packetNonce (h : BitVec 256) : BitVec 96 := BitVec.ofNat 96 (bits h 127 64 + bits h 31 16 * 2 ^ 64 + bits h 15 0 * 2 ^ 80)
/-- A packet on the wire: its header in clear, its payload, encrypted in classes 0 and 2, and in classes 0 to 2 the tag, with the header as additional data (R383, R389). AES-256-GCM itself stands uninterpreted in Config. -/
def packetBytes (key : BitVec 256) (p : XfPacket) : List Byte :=
  let cls := bits p.hdr 34 32
  let nonce := packetNonce p.hdr
  let body := if classSealed cls then p.payload.zipIdx.map fun e => e.1 ^^^ Config.gcmStream key nonce e.2 else p.payload
  bytesOf 32 p.hdr.toNat ++ body ++ (if cls < 3 then bytesOf 16 (Config.gcmTag key nonce p.hdr body).toNat else [])
/-- Bytes cut into message areas. -/
def areas (n : Nat) (bs : List Byte) : List (List Byte) := (List.range (ceilDiv' bs.length n)).map fun i => (bs.drop (n * i)).take n
/-- The flits that a packet takes from one port (R381). -/
def packetFlits (payload cls : Nat) : Nat := ceilDiv' (32 + payload + (if cls < 3 then 16 else 0)) 1008
/-- The link credits of a packet, in 64 B units (R382, Table 14-6). -/
def packetUnits (payload cls : Nat) : Nat := ceilDiv' (32 + payload + (if cls < 3 then 16 else 0)) 64
/-- A packet of some payload arrives right on a port: its flits are counted, and the link credits of its class are to be returned (R381, R382). -/
def heardPacket (s : State) (l cls payload : Nat) : State :=
  let s := heardFlits s l (packetFlits payload cls)
  let v := getLink s l
  setLink s l { v with back := smMod 0 v.back cls (· + packetUnits payload cls) }
/-- The messages of a Seam packet, each a header of 16 B and a line (R373). -/
def seamBody (cls a b : Nat) (bytes : List Byte) : List Byte :=
  ((areas 64 bytes).map fun c => bytesOf 16 (Config.seamHeader cls a b).toNat ++ c).flatten
/-- A packet crosses the links of a route in their flits (R372). -/
def crossFlits (s : State) (cls a b : Nat) (bytes : List Byte) : State :=
  (seamRoute a b).foldl (fun s l => sendFlits s l 0 (areas 1000 (seamBody cls a b bytes))) s

/-! ### Seam's classes and credits (R18, R373) -/

/-- The credits of a class at each end of a Seam link (Table 14-2). -/
def seamCredits (cls : Nat) : Nat := if cls < 4 then 256 else if cls = 4 then 512 else if cls = 5 then 128 else if cls = 6 then 512 else 64
/-- The lines of up to 64 B that a packet takes on Seam, each a message. -/
def seamUnits (p : XfPacket) : Nat := ceilDiv' (32 + p.payload.length) 64
/-- Where a message stands: the first link of its route that is not up, and the die it leaves; none where every link is up. -/
def seamStop (s : State) (a b : Nat) : Option (Nat × Nat) :=
  ((seamRoute a b).zip (routeDies a b)).find? fun p => !linkUp s p.1
/-- Messages of a class that a die holds in its buffer at a link. -/
def seamBuffered (s : State) (l die cls : Nat) : Nat :=
  ((s.fab.seam.filter fun m => decide (m.cls = cls) && decide (seamStop s m.source m.dest = some (l, die))).map fun m => seamUnits m.packet).sum
/-- A packet may enter Seam: its route is up, or the link that holds it has credits of its class left. -/
def seamRoom (s : State) (cls a b : Nat) (p : XfPacket) : Bool :=
  match seamStop s a b with
  | none => true
  | some (l, die) => decide (seamBuffered s l die cls + seamUnits p ≤ seamCredits cls)
/-- Management messages cross Seam over some legs in turn, each from a die to a die; none where a link is not up, or has carried MGT_MSGS of that die in the stitch (R18, R410). -/
def mgtSend (s : State) (legs : List (Nat × Nat)) (n : Nat) : Option State :=
  let ends := (legs.map fun p => (seamRoute p.1 p.2).zip (routeDies p.1 p.2)).flatten
  if ends.all fun e => linkUp s e.1 && decide (smGet 0 s.stc.mgt (8 * e.1 + e.2) + n ≤ fieldR s Reg.stcMgt 15 0) then
    some { s with stc := { s.stc with mgt := ends.foldl (fun m e => smMod 0 m (8 * e.1 + e.2) (· + n)) s.stc.mgt } }
  else none
/-- The messages that Seam holds and whose routes are up again, and those that it goes on holding. -/
def seamFreed (s : State) : List SeamMsg × List SeamMsg := s.fab.seam.partition fun m => (seamStop s m.source m.dest).isNone

end Sys2Proof.Machine
end

