-- ==== Sys2Proof/Machine/RingOps.lean ====
section
/-! DEFINITION. Rings, lap stamps, descriptors and the flags of Orfin (R350 to R357, R365, R369, R370). -/

namespace Sys2Proof.Machine

/-- A ring engine. -/
def getRing (s : State) (r : Nat) : Ring := smGet {} s.orf.rings r
/-- A ring engine takes a value. -/
def setRing (s : State) (r : Nat) (v : Ring) : State := { s with orf := { s.orf with rings := smSet {} s.orf.rings r v } }

/-- The credit class of a message (Table 13-2). -/
def OrfMsg.cls : OrfMsg → Nat
  | .ask _ _ => 0
  | .completion _ _ _ => 0
  | .evict _ _ _ => 1
  | .probeAck _ _ _ _ => 3
  | .doneAck _ => 3
  | .ioAck _ _ _ => 3
  | .lineData _ _ _ => 4
  | .notify _ _ => 5
  | .bulkWrite _ _ => 6
  | .bulkFlush => 7
/-- What a message is about: a companion address, an offset of the window, or a ring. -/
def OrfMsg.at_ : OrfMsg → Nat
  | .ask _ a => a
  | .completion _ a _ => a
  | .evict _ a _ => a
  | .probeAck a _ _ _ => a
  | .doneAck a => a
  | .ioAck off _ _ => off
  | .lineData a _ _ => a
  | .notify ring _ => ring
  | .bulkWrite a _ => a
  | .bulkFlush => 0
/-- The data that a message carries. -/
def OrfMsg.data : OrfMsg → List Byte
  | .evict dirty _ v => if dirty then lineBytes v else []
  | .completion _ _ e => bytesOf 32 e.toNat
  | .lineData _ _ v => lineBytes v
  | .bulkWrite _ v => lineBytes v
  | .ioAck _ v _ => bytesOf 8 v.toNat
  | _ => []
/-- A BulkWrite. -/
def OrfMsg.isBulk : OrfMsg → Bool
  | .bulkWrite _ _ => true
  | _ => false
/-- A message may leave: the link is up, a credit of its class is there, and none of its class waits before it; a BulkFlush follows every BulkWrite that was sent before it (R345, R346). How many messages a credit admits is DEDUCED, log entry 131: one. -/
def orfMay (s : State) (m : OrfMsg) : Bool :=
  linkMay s 23 m.cls 1 1
    && !(s.orf.wait.any fun w => decide (w.cls = m.cls) || (decide (m.cls = 7) && w.isBulk))
/-- A message leaves on Orfin: a header slot and data slots of a flit (Table 13-1, R344). -/
def orfLeave (s : State) (m : OrfMsg) : State :=
  let s := sendFlit 23 0 (spendCredit s 23 m.cls 1) (bytesOf 16 (Config.orfHeader m.cls m.at_).toNat ++ m.data)
  { s with orf := { s.orf with
      out := s.orf.out ++ [m]
      bulkSeqs := if m.isBulk then s.orf.bulkSeqs ++ [(getLink s 23).sent] else s.orf.bulkSeqs } }
/-- A message is sent on Orfin, or waits for a credit of its class or for the link (R344, R345). -/
def orfSend (s : State) (m : OrfMsg) : State :=
  if orfMay s m then orfLeave s m else { s with orf := { s.orf with wait := s.orf.wait ++ [m] } }
/-- The messages that wait are sent as far as they may be. -/
def orfPump (s : State) : State := s.orf.wait.foldl orfSend { s with orf := { s.orf with wait := [] } }

/-- SIZE of a ring (R350). -/
def ringSize (s : State) (r : Nat) : Nat := 2 ^ fieldR s (Reg.orfRingCfg r) 5 1
/-- A ring's ENABLE. -/
def ringOn (s : State) (r : Nat) : Bool := flagR s (Reg.orfRingCfg r) 0
/-- The lap stamp of a count (R352). -/
def lapStamp (size n : Nat) : Nat := n / size % 255 + 1
/-- ACTIVE: descriptors fetched and not completed (Table 13-11). -/
def ringActive (v : Ring) : Bool := !v.fetched.isEmpty
/-- OUTSTANDING: fetched less consumed completions (Table 13-11). -/
def ringOut (v : Ring) : Nat := v.consumed - v.taken
/-- Descriptors announced and not fetched (R354). -/
def ringNew (v : Ring) : Nat := v.announced - v.consumed

/-- TYPE of a descriptor (Table 13-4). -/
def dsType (d : BitVec 512) : Nat := bits d 3 0
/-- FENCE. -/
def dsFence (d : BitVec 512) : Bool := bitAt d 4
/-- ORDER. -/
def dsOrder (d : BitVec 512) : Bool := bitAt d 5
/-- NOTIFY. -/
def dsNotify (d : BitVec 512) : Bool := bitAt d 6
/-- STAMP. -/
def dsStamp (d : BitVec 512) : Nat := bits d 15 8
/-- TAG. -/
def dsTag (d : BitVec 512) : Nat := bits d 63 32

/-- A flag of ORF_STATUS is set by hardware, counted, and its ring noted (R370, Table 13-11). -/
def orfFlag (s : State) (bit ring : Nat) : State :=
  let s := raise s Reg.orfStatus bit
  let s := if bit ≤ 4 then wrapR s Reg.orfEvt0 (16 * (bit - 1) + 15) (16 * (bit - 1)) 1 else wrapR s Reg.orfEvt1 (16 * (bit - 5) + 15) (16 * (bit - 5)) 1
  setR s Reg.orfLastEvt (BitVec.ofNat 64 (ring + 65536 * bit))

/-- A completion or a BULK_SYNC read waits for a BulkFlush that has not been sent. -/
def flushWanted (s : State) : Bool :=
  s.orf.syncWaits.any (fun w => !w.asked)
    || s.orf.rings.any fun r => r.2.fetched.any fun d => d.done && dsOrder d.raw && !d.asked

/-- A BulkFlush is sent behind every BulkWrite already sent, one at a time, and answers everything that waits when it is sent (R365, R366). -/
def sendFlush (s : State) : State :=
  if s.orf.flushSent.isSome || !flushWanted s then s
  else
    let rings := s.orf.rings.map fun r =>
      (r.1, { r.2 with fetched := r.2.fetched.map fun d => if d.done && dsOrder d.raw then { d with asked := true } else d })
    orfSend { s with orf := { s.orf with
      rings := rings
      flushSent := some s.orf.bulkSent
      syncWaits := s.orf.syncWaits.map fun w : SyncWait => { w with asked := true } } } .bulkFlush

/-- A descriptor of a ring has run: its completion is due (R358, R363). -/
def finishDesc (s : State) (ring index status detail te slot : Nat) : State :=
  let v := getRing s ring
  sendFlush (setRing s ring { v with fetched := v.fetched.map fun d =>
    if d.index = index ∧ !d.done then { d with done := true, status := status, detail := detail, te := te, slot := slot } else d })
/-- The descriptor of a launch is done (R360, R364). -/
def finishLaunch (s : State) (l : Launch) (status detail te slot : Nat) : State :=
  finishDesc s l.ring.val l.index status detail te slot

/-- The descriptor whose turn it is to start (R358). -/
def nextDesc (v : Ring) : Option Desc := v.fetched.find? fun d => !d.started && !d.done
/-- Every earlier descriptor of the ring has completed (Table 13-4). -/
def firstOfRing (v : Ring) (d : Desc) : Bool := v.fetched.all fun e => decide (d.index ≤ e.index)
/-- A descriptor may start: a fenced one waits for those before it. -/
def mayStart (v : Ring) (d : Desc) : Bool := !dsFence d.raw || firstOfRing v d

/-- The time for which some ring engine holds a launch behind a full queue is measured (R414). -/
def noteHeld (s : State) : State :=
  let some := s.orf.rings.any (fun r => r.2.holding) && flagR s Reg.teCtrl 0
  match s.orf.heldSince with
  | none => if some then { s with orf := { s.orf with heldSince := .some s.now } } else s
  | .some t => if some then s else { s with orf := { s.orf with heldSince := none, heldTime := s.orf.heldTime + (s.now - t) } }

/-- What a ring engine waits for (Table 17-16). -/
def ringWait (s : State) (r : Nat) : Nat :=
  let v := getRing s r
  if v.holding then (if flagR s Reg.teCtrl 0 then 5 else 6)
  else if v.atHead && !flagR s Reg.teCtrl 0 then 6
  else if v.staleAt.isSome then 2
  else if v.ahead then 3
  else if (match nextDesc v with | some d => !mayStart v d | none => false) then 4
  else if 0 < ringNew v ∧ ringSize s r ≤ ringOut v then 7
  else if v.fetched.any (fun d => d.done && dsOrder d.raw && !d.flushed) then 8
  else if 0 < ringNew v then 1
  else 0

end Sys2Proof.Machine
end

