-- ==== Sys2Proof/Machine/Memory.lean ====
section
/-! DEFINITION. System addresses, their backing, the memory controllers' queues and lines of package memory under the hem code (R242 to R260, R272, R273, R288, R295). -/

namespace Sys2Proof.Machine

/-- An address error (R243). -/
def addrBad (sa : Nat) : Bad := { cls := 0x0E, cause := 0, addr := BitVec.ofNat 64 sa }

/-- Reads run in order and their results are joined; the first failure ends them. -/
def collect {α β : Type} (f : State → α → State × (Bad ⊕ List β)) : List α → State → State × (Bad ⊕ List β)
  | [], s => (s, .inr [])
  | x :: rest, s =>
    match f s x with
    | (s, .inl b) => (s, .inl b)
    | (s, .inr ys) =>
      match collect f rest s with
      | (s, .inl b) => (s, .inl b)
      | (s, .inr zs) => (s, .inr (ys ++ zs))

/-! ### The address map (Table 10-1) -/

/-- The first address of the deep tier's direct range. -/
def deepBase : Nat := 0x20000000000
/-- The first address of the pooled range. -/
def poolBase : Nat := 0x100000000000

/-- The controller of a direct address: a stack, or the deep tier of an H-die (R242, R244); none outside the direct ranges. -/
def directCtrl (pa : Nat) : Option CtrlId :=
  let st := pa / 2 ^ 37
  if h : st < 12 then (if pa % 2 ^ 37 < 0x1200000000 then some ⟨st, by omega⟩ else none)
  else if deepBase ≤ pa ∧ pa < 0x38000000000 then
    (if pa / 4096 % 2 = 0 then some 12 else some 13)
  else none

/-- A controller serves its range: a stack is online; a deep-tier controller always is (R243). -/
def ctrlUp (s : State) (c : CtrlId) : Bool :=
  if h : c.val < 12 then flagR s (Reg.stkCtrl ⟨c.val, h⟩) 0 else true

/-- A pooled slab's tier-map entry (Table 10-6). -/
def mapEntry (s : State) (slab : Nat) : W64 := smGet 0 s.xlt.map slab

/-- The pooled slab that a system address lies in (R273). -/
def pooledSlab (sa : Nat) : Option Nat :=
  if poolBase ≤ sa ∧ sa < poolBase + 0x40000000000 then some ((sa - poolBase) / 2 ^ 28) else none

/-- The direct address that a system address names, through the tier map for a pooled one; none is an address error (R243, R272, R288). -/
def backing (s : State) (sa : Nat) : Option Nat :=
  let pa : Option Nat := match pooledSlab sa with
    | some slab => if bitAt (mapEntry s slab) 0 then some (bits (mapEntry s slab) 31 8 * 2 ^ 28 + sa % 2 ^ 28) else none
    | none => some sa
  pa.bind fun p => (directCtrl p).bind fun c => if ctrlUp s c then some p else none

/-- The second copy that writes to a pooled address also reach, from MARK until the recall of the switch-over (R295). -/
def secondCopy (s : State) (sa : Nat) : Option Nat :=
  match pooledSlab sa, s.xlt.run with
  | some slab, some r =>
    if slab = r.req.slab ∧ !r.recalled ∧ r.phase ≠ .wipe ∧ bitAt (mapEntry s slab) 1
    then some (bits (mapEntry s slab) 55 32 * 2 ^ 28 + sa % 2 ^ 28) else none
  | _, _ => none

/-- The die of a controller's home: 0 to 3 the C-dies, 4 and 5 the H-dies (R13, R14). -/
def ctrlDie (c : CtrlId) : Nat := if c.val < 12 then c.val / 3 else c.val - 8
/-- The home die of a system address; H0 where it has no backing. -/
def homeDie (s : State) (sa : Nat) : Nat :=
  match (backing s sa).bind directCtrl with
  | some c => ctrlDie c
  | none => 4

/-! ### Controllers (R247, R248) -/

/-- A controller. -/
def getCtrl (s : State) (c : CtrlId) : Ctrl := smGet {} s.ctrls c.val
/-- A controller takes a value. -/
def setCtrl (s : State) (c : CtrlId) (v : Ctrl) : State := { s with ctrls := smSet {} s.ctrls c.val v }
/-- A line transfer waits at the controller of a direct address. -/
def askCtrl (s : State) (cls : MemClass) (kind : ReqKind) (pa : Nat) : State :=
  match directCtrl pa with
  | some c =>
    let v := getCtrl s c
    setCtrl s c { v with reqs := v.reqs ++ [⟨cls, kind, pa / 64, s.now, false⟩] }
  | none => s

/-- The error counters of a controller (R258, R259). -/
def ctrlEcc (c : CtrlId) : Reg :=
  if h : c.val < 12 then Reg.stkEcc ⟨c.val, h⟩ else Reg.lpdEcc ⟨c.val - 12, by have := c.isLt; omega⟩

/-! ### Lines of memory -/

/-- The pseudo-channel of a stack offset (R242). -/
def pseudoChannel (o : Nat) : Nat := (o / 4096 % 64) ^^^ (o / 262144 % 64)
/-- A repaired row holds a line of its stack that nothing has written since. -/
def rowUndef (u : UndefRow) (pa : Nat) : Bool :=
  let o := pa % 2 ^ 37
  decide (pseudoChannel o = bits u.row 8 3) && Config.rowHolds u.row (o / 262144 * 4096 + o % 4096) && !(u.written.contains (pa / 64))
/-- The destination of an abandoned move holds a line that nothing has written since. -/
def slabUndef (u : UndefSlab) (pa : Nat) : Bool := decide (u.slab = pa / 2 ^ 28) && !(u.written.contains (pa / 64))
/-- Where a deep-tier line lies (R244): the H-die, the group, the line in its group, and the packages of its data and of its check bytes. -/
structure DeepPlace where
  h : Nat
  q : Nat
  k : Nat
  d : Nat
  c : Nat
deriving DecidableEq, Repr
/-- The place of a deep-tier address (R244). -/
def deepPlace (pa : Nat) : DeepPlace :=
  let o := pa - deepBase
  let q := o / 8192 * 8 + o / 512 % 8
  let k := o / 64 % 8
  { h := o / 4096 % 2, q := q, k := k, d := (q + 1 + k) % 9, c := q % 9 }
/-- The key of a byte of slot `q` of a package D0 to D17: each package has its own run of keys. -/
def deepCell (pkg q byte : Nat) : Nat := 2 ^ 49 + pkg * 2 ^ 37 + 64 * q + byte
/-- The key of a byte of a stack's check array, which stands beside its data and takes no address (R241). -/
def nearCell (pa : Nat) : Nat := 2 ^ 48 + 8 * (pa / 64)
/-- A direct address of the deep tier. -/
def isDeep (pa : Nat) : Bool := decide (deepBase ≤ pa)
/-- The keys of a line's first data byte and first check byte, by its direct address (R241, R242, R244). -/
def lineCells (pa : Nat) : Nat × Nat :=
  if isDeep pa then
    let p := deepPlace pa
    (deepCell (9 * p.h + p.d) p.q 0, deepCell (9 * p.h + p.c) p.q (8 * p.k))
  else (pa / 64 * 64, nearCell pa)
/-- What the wipe has left in a deep-tier line that nothing has written since: zeros, encrypted under the key of that wipe (R246, R478). -/
def deepZero (s : State) (pa : Nat) : Line := (Config.xts s.sec.wipeKey (pa / 64)).toFun 0
/-- What a line's cells are kept relative to: nothing in the near tier, the wiped line in the deep tier, so that a wiped tier lists no cell. -/
def lineBase (s : State) (pa : Nat) : Line := if isDeep pa then deepZero s pa else 0
/-- The data bytes stored for a line, by its direct address. -/
def storedData (s : State) (pa : Nat) : Line :=
  (BitVec.ofNat 512 (leNat (smGetRange 0 s.mem (lineCells pa).1 64)) : Line) ^^^ lineBase s pa
/-- The check bytes stored for a line (R241, R244). -/
def storedChecks (s : State) (pa : Nat) : W64 :=
  (BitVec.ofNat 64 (leNat (smGetRange 0 s.mem (lineCells pa).2 8)) : W64) ^^^ hemCheck (lineBase s pa)
/-- A line's data and check bytes are stored. -/
def setStored (s : State) (pa : Nat) (data : Line) (checks : W64) : State :=
  let m := smSetRange 0 s.mem (lineCells pa).1 (bytesOf 64 (data ^^^ lineBase s pa).toNat)
  { s with mem := smSetRange 0 m (lineCells pa).2 (bytesOf 8 (checks ^^^ hemCheck (lineBase s pa)).toNat) }
/-- A line as it is stored: encrypted in the deep tier under the key in force, the tweak being its line address (R246, R478). -/
def encryptLine (s : State) (pa : Nat) (v : Line) : Line := if isDeep pa then (Config.xts s.sec.deepKey (pa / 64)).toFun v else v
/-- A stored line decrypted. -/
def decryptLine (s : State) (pa : Nat) (v : Line) : Line := if isDeep pa then (Config.xts s.sec.deepKey (pa / 64)).invFun v else v
/-- What lies in a repaired row or in the destination of an abandoned move and has not been written since is undefined (R255, R296). -/
def undefLine (s : State) (pa : Nat) : Option Line :=
  let undef := match directCtrl pa with
    | some c => (getCtrl s c).undef.find? fun u => rowUndef u pa
    | none => none
  match undef, s.xlt.undef.find? fun u => slabUndef u pa with
  | some u, _ => some (Config.repairedLine u.draw (pa / 64))
  | none, some u => some (Config.abandonedLine u.draw (pa / 64))
  | none, none => none
/-- A line is stored whole, with its check bytes: its wrong symbols are gone (R246, R259). -/
def putRaw (s : State) (pa : Nat) (v : Line) : State :=
  let s := match directCtrl pa with
    | some c =>
      let k := getCtrl s c
      if k.undef.isEmpty then s
      else setCtrl s c { k with undef := k.undef.map fun u : UndefRow => { u with written := u.written ++ [pa / 64] } }
    | none => s
  let s := setStored s pa (encryptLine s pa v) (hemCheck (encryptLine s pa v))
  { s with
    xlt := if s.xlt.undef.isEmpty then s.xlt else { s.xlt with undef := s.xlt.undef.map fun u : UndefSlab => { u with written := u.written ++ [pa / 64] } } }

/-- A stored line under the hem code: up to three wrong symbols are corrected, counted and rewritten in P2; what the decoder finds uncorrectable is not delivered (R256 to R259, Table 9-5). -/
def decodeRaw (s : State) (pa : Nat) : State × (Bad ⊕ Line) :=
  match directCtrl pa with
  | none => (s, .inl (addrBad pa))
  | some c =>
    match undefLine s pa with
    | some v => (s, .inr v)
    | none =>
      match hemRead (storedData s pa) (storedChecks s pa) with
      | some (v, false) => (s, .inr (decryptLine s pa v))
      | some (v, true) =>
        let s := countR s (ctrlEcc c) 31 0 1
        (askCtrl (setStored s pa v (hemCheck v)) .p2 .correct pa, .inr (decryptLine s pa v))
      | none =>
        let elem : Nat := if c.val < 12 then 5 + 256 * c.val else 6 + 256 * (c.val - 12)
        (countR s (ctrlEcc c) 63 32 1,
          .inl { cls := 0x0F, cause := 0x01, addr := BitVec.ofNat 64 pa, d0 := BitVec.ofNat 64 elem })

/-- What a read by an agent is for: Tilth's migration, H1's port's mirroring, or the agent's own (R292, R395, R411). -/
def readKind (agent : Nat) : ReqKind := if agent = 85 then .migrate else if agent = 87 then .mirror else .read
/-- Reads a stored line through its controller. -/
def readRaw (s : State) (cls : MemClass) (pa : Nat) (kind : ReqKind := .read) : State × (Bad ⊕ Line) := decodeRaw (askCtrl s cls kind pa) pa

/-- The bytes of a line that a mask names replaced by those of another. -/
def mergeLine (old new : Line) (mask : BitVec 64) : Line :=
  let wide : Line := (List.range 64).foldl (fun a i => if mask.getLsbD i then a ||| (0xFF#512 <<< (8 * i)) else a) 0
  (old &&& ~~~wide) ||| (new &&& wide)

/-- The result of an atomic operation (R152). -/
def atomResult (op : AtomOp) (wide : Bool) (old operand compare : W64) : W64 :=
  let n := if wide then 64 else 32
  let a := old.truncate n
  let b := operand.truncate n
  let c := compare.truncate n
  let r : BitVec n := match op with
    | .add => a + b
    | .min => if a.slt b then a else b
    | .max => if a.slt b then b else a
    | .swap => b
    | .cas => if a = c then b else a
    | .minu => if a < b then a else b
    | .maxu => if a < b then b else a
    | .and => a &&& b
    | .or => a ||| b
    | .xor => a ^^^ b
  r.setWidth 64

/-- The word of a line at a byte offset. -/
def lineWord (v : Line) (off : Nat) (wide : Bool) : W64 :=
  BitVec.ofNat 64 (v.toNat / 2 ^ (8 * off) % 2 ^ (if wide then 64 else 32))
/-- A line with the word at a byte offset replaced. -/
def setLineWord (v : Line) (off : Nat) (wide : Bool) (w : W64) : Line :=
  mergeLine v (BitVec.ofNat 512 (w.toNat * 2 ^ (8 * off))) (BitVec.ofNat 64 ((2 ^ (if wide then 8 else 4) - 1) * 2 ^ off))

end Sys2Proof.Machine
end

