-- ==== Sys2Proof/Machine/Caches.lean ====
section
/-! DEFINITION. Ways, quarantine and the memory-side system caches, and a home's reads and writes of memory (R245, R261 to R263, R267, R268, R295, R298). -/

namespace Sys2Proof.Machine

/-- The slice of a line in a die cache (R261). -/
def lineSlice (line : Nat) : Nat := (List.range 11).foldl (fun a i => a ^^^ (line / 2 ^ (4 * i) % 16)) 0
/-- The set of a line in a die cache (R261). -/
def lineSet (line : Nat) : Nat := line / 16 % 8192
/-- The directory entry of a line. -/
def getDir (s : State) (line : Nat) : DirEntry := smGet {} s.coh.dir line
/-- A directory entry takes a value. -/
def setDir (s : State) (line : Nat) (v : DirEntry) : State :=
  { s with coh := { s.coh with dir := smSet {} s.coh.dir line v } }

/-! ### Ways of the caches (R262, R267) -/

/-- The slice of a line in a cache: 16 slices in a die cache (0 to 3), 8 in a system cache (4, 5). -/
def cacheSlice (cache line : Nat) : Nat := if cache < 4 then lineSlice line else lineSlice line % 8
/-- The key of a way. -/
def wayKey (cache line w : Nat) : Nat := 16 * (8192 * (16 * cache + cacheSlice cache line) + lineSet line) + w
/-- A way. -/
def getWay (s : State) (cache line w : Nat) : Way := smGet {} s.coh.ways (wayKey cache line w)
/-- A way takes a value. -/
def setWay (s : State) (cache line w : Nat) (v : Way) : State :=
  { s with coh := { s.coh with ways := smSet {} s.coh.ways (wayKey cache line w) v } }
/-- The way of a cache that holds a line. -/
def findWay (s : State) (cache line : Nat) : Option Nat :=
  (List.range 16).find? fun w => let v := getWay s cache line w; v.valid && !v.check && decide (v.line = line)
/-- The way of a system cache that holds the check line of a line's group (R245). -/
def findCheck (s : State) (cache line : Nat) : Option Nat :=
  (List.range 16).find? fun w => let v := getWay s cache (line / 8 * 8) w; v.valid && v.check && decide (v.line = line / 8 * 8)
/-- A hit sets age 0 (R262). -/
def touchWay (s : State) (cache line w : Nat) : State := setWay s cache line w { getWay s cache line w with age := 0 }
/-- A cache holds a line under quarantine (R267). -/
def isQuar (s : State) (cache line : Nat) : Bool :=
  match findWay s cache line with
  | some w => (getWay s cache line w).quarantined
  | none => false
/-- The way that a fill takes: the lowest invalid, else the lowest of age 3 after raising every age as often as it takes; none where every way is quarantined or retired (R262). The ages are raised in the answer's state. -/
def victimWay : Nat → State → Nat → Nat → State × Option Nat
  | 0, s, _, _ => (s, none)
  | n + 1, s, cache, line =>
    let ws := (List.range 16).filter fun w => let v := getWay s cache line w; !v.quarantined && !v.retired
    match ws.find? fun w => !(getWay s cache line w).valid with
    | some w => (s, some w)
    | none =>
      match ws.find? fun w => decide (3 ≤ (getWay s cache line w).age) with
      | some w => (s, some w)
      | none =>
        if ws.isEmpty then (s, none)
        else victimWay n (ws.foldl (fun s w => let v := getWay s cache line w; setWay s cache line w { v with age := v.age + 1 }) s) cache line

/-! ### Quarantine (R267, R268) -/

/-- A cache locks an uncorrectable line in its way, takes a free slot of the slice and places the record. -/
def quarantineWay (s : State) (cache line w : Nat) (dirty : Bool) : State :=
  let slice := cacheSlice cache line
  let base := 16 * (16 * cache + slice)
  let slot := (List.range 16).find? fun i => smGet (0 : W64) s.coh.qslots (base + i) = 0
  let s := setWay s cache line w { getWay s cache line w with quarantined := true }
  let entry : W64 := BitVec.ofNat 64 (1 + (if dirty then 2 else 0) + 4 * w + 64 * line)
  let s := match slot with
    | some i => { s with coh := { s.coh with qslots := smSet 0 s.coh.qslots (base + i) entry } }
    | none => if h : cache < 4 then raise s (Reg.dcStatus ⟨cache, h⟩) 3
                else raise s (Reg.lpdStatus (if cache = 4 then 0 else 1)) 1
  let s := if h : cache < 4 then countR s (Reg.dcEcc ⟨cache, h⟩) 63 32 1 else countR s (Reg.lpdEcc (if cache = 4 then 0 else 1)) 63 32 1
  let s := setDir s line { getDir s line with pinned := true }
  place s { cls := 0x0F, action := 3, quar := true, cause := 0x01, die := cache,
            addr := BitVec.ofNat 64 (64 * line),
            d0 := BitVec.ofNat 64 ((if cache < 4 then 3 else 4) + 256 * (if cache < 4 then cache else cache - 4)),
            d1 := BitVec.ofNat 64 (slice + 16 * w + 256 * (slot.getD 0x1F) + (if dirty then 8192 else 0)) }
/-- A cache locks the way that holds an uncorrectable line. -/
def quarantine (s : State) (cache line : Nat) (dirty : Bool) : State :=
  match findWay s cache line with
  | none => s
  | some w => quarantineWay s cache line w dirty
/-- The failure of a line that some cache holds under quarantine. -/
def quarBad (line : Nat) : Bad := { cls := 0x0F, cause := 0x03, addr := BitVec.ofNat 64 (64 * line), quar := true }

/-! ### System caches (R245, R258, R262, R267) -/

/-- The cache number of an H-die's system cache. -/
def sysCache (h : Nat) : Nat := 4 + h
/-- A system cache looks at a way: corrects it, or finds it uncorrectable and quarantines it. True where its data may be used (R258, R267). -/
def checkWay (s : State) (h line w : Nat) : State × Bool :=
  let v := getWay s (sysCache h) line w
  if v.quarantined then (s, false)
  else if v.errs = 0 then (s, true)
  else match hemFix v.errs with
    | some _ =>
      (countR (setWay s (sysCache h) line w { v with errs := 0, data := v.data ^^^ hemMiss v.errs }) (Reg.lpdEcc (if h = 0 then 0 else 1)) 31 0 1, true)
    | none => (quarantineWay s (sysCache h) v.line w v.dirty, false)
/-- The ways of a line's group that hold dirty lines which may be written: the line in the group, and the way. -/
def dirtyLines (s : State) (h line : Nat) : List (Nat × Nat) :=
  (List.range 8).filterMap fun k => (findWay s (sysCache h) (line / 8 * 8 + k)).bind fun w =>
    let v := getWay s (sysCache h) (line / 8 * 8 + k) w
    if v.dirty && !v.quarantined && (hemFix v.errs).isSome then some (line / 8 * 8 + k, w) else none
/-- The check line of a group as its packages store it. -/
def checkLine (s : State) (line : Nat) : Line :=
  BitVec.ofNat 512 (leNat (((List.range 8).map fun k => bytesOf 8 (storedChecks s (64 * (line / 8 * 8 + k))).toNat).flatten))
/-- A dirty line of a system cache is written to its slot, with its check bytes, and is clean. -/
def putDirty (s : State) (h : Nat) (p : Nat × Nat) : State :=
  match checkWay s h p.1 p.2 with
  | (s, false) => s
  | (s, true) =>
    let v := getWay s (sysCache h) p.1 p.2
    setWay (putRaw (askCtrl s .p1 .write (64 * p.1)) (64 * p.1) v.data) (sysCache h) p.1 p.2 { v with dirty := false }
/-- The check line that a system cache holds of a group is as its packages store it. -/
def renewCheck (s : State) (h line : Nat) : State :=
  match findCheck s (sysCache h) line with
  | some w => setWay s (sysCache h) (line / 8 * 8) w { getWay s (sysCache h) (line / 8 * 8) w with data := checkLine s line, errs := 0 }
  | none => s
/-- A system cache looks at the check line that it holds of a group; false where it is uncorrectable (R259, R267). One that it does not hold is read where a part of the group is written (R245). -/
def checkHeld (s : State) (h line : Nat) (whole : Bool) (cls : MemClass) (kind : ReqKind) : State × Bool :=
  match findCheck s (sysCache h) line with
  | some w => checkWay s h (line / 8 * 8) w
  | none => (if whole then s else askCtrl s cls kind (64 * (line / 8 * 8)), true)
/-- The dirty lines of a group are written back: a whole group in nine slots, a part of one after a read of the check line where the cache has none (R245). Nothing is written where the check line is uncorrectable and a part is to be written (R259). -/
def writeGroup (s : State) (h line : Nat) : State × Bool :=
  let ds := dirtyLines s h line
  let whole := decide (ds.length = 8)
  match checkHeld s h line whole .p1 .read with
  | (s, ok) =>
    if !ok && !whole then (s, false)
    else
      let s := askCtrl (ds.foldl (fun s p => putDirty s h p) s) .p1 .write (64 * (line / 8 * 8))
      (if ok then renewCheck s h line else s, true)
/-- A system cache makes room for a line, writing a dirty victim's group back; an uncorrectable victim is quarantined and another way taken (R262, R267). A victim whose group cannot be written stays, and no way is had (R259). -/
def sysRoom : Nat → State → Nat → Nat → State × Option Nat
  | 0, s, _, _ => (s, none)
  | n + 1, s, h, line =>
    match victimWay 5 s (sysCache h) line with
    | (s, none) => (s, none)
    | (s, some w) =>
      let old := getWay s (sysCache h) line w
      if !old.valid then (s, some w)
      else match checkWay s h line w with
        | (s, false) => sysRoom n s h line
        | (s, true) =>
          match (if old.dirty then writeGroup s h old.line else (s, true)) with
          | (s, true) => (setWay s (sysCache h) line w {}, some w)
          | (s, false) => (s, none)
/-- A system cache takes a line, age 0; nothing where no way can be had. -/
def sysFill (s : State) (h line : Nat) (check dirty : Bool) (v : Line) : State :=
  match sysRoom 17 s h line with
  | (s, some w) => setWay s (sysCache h) line w { line := line, valid := true, check := check, dirty := dirty, data := v }
  | (s, none) => s
/-- The check line of a line's group is at hand: held, or read with a transfer of its own and kept (R245). False where it is under quarantine. -/
def needCheck (s : State) (h : Nat) (cls : MemClass) (line : Nat) (kind : ReqKind := .read) : State × Bool :=
  match findCheck s (sysCache h) line with
  | some w =>
    match checkWay s h (line / 8 * 8) w with
    | (s, true) => (touchWay s (sysCache h) (line / 8 * 8) w, true)
    | (s, false) => (s, false)
  | none => (sysFill (askCtrl s cls kind (64 * (line / 8 * 8))) h (line / 8 * 8) true false (checkLine s line), true)
/-- A deep-tier line is read through the system cache of its H-die (R245, R298). -/
def deepRead (s : State) (h : Nat) (cls : MemClass) (pa : Nat) (kind : ReqKind := .read) : State × (Bad ⊕ Line) :=
  let line := pa / 64
  match findWay s (sysCache h) line with
  | some w =>
    match checkWay s h line w with
    | (s, true) => (touchWay s (sysCache h) line w, .inr (getWay s (sysCache h) line w).data)
    | (s, false) => (s, .inl (quarBad line))
  | none =>
    match needCheck s h cls line kind with
    | (s, false) => (s, .inl (quarBad (line / 8 * 8)))
    | (s, true) =>
      match readRaw s cls pa kind with
      | (s, .inl b) => (s, .inl b)
      | (s, .inr v) => (sysFill s h line false false v, .inr v)
/-- A deep-tier line is written into the system cache of its H-die, or through it where no way can be had; nothing is written to a line under quarantine, whose requesters the home stops (R267), nor past an uncorrectable check line (R259). -/
def deepWrite (s : State) (h : Nat) (cls : MemClass) (pa : Nat) (v : Line) : State :=
  let line := pa / 64
  match findWay s (sysCache h) line with
  | some w =>
    let k := getWay s (sysCache h) line w
    if k.quarantined then s else setWay s (sysCache h) line w { k with data := v, dirty := true, errs := 0, age := 0 }
  | none =>
    match sysRoom 17 s h line with
    | (s, some w) => setWay s (sysCache h) line w { line := line, valid := true, dirty := true, data := v }
    | (s, none) =>
      match checkHeld s h line false cls .read with
      | (s, false) => s
      | (s, true) => renewCheck (putRaw (askCtrl (askCtrl s cls .write pa) cls .write pa) pa v) h line
/-- The system cache of a deep-tier address has the line under quarantine (R267). -/
def sysQuar (s : State) (pa : Nat) : Bool := isDeep pa && isQuar s (sysCache (deepPlace pa).h) (pa / 64)
/-- A line is written in P2 to its device past the system cache, whose copy follows (R293, R295). Of a deep-tier group the check line is written as well: with the last line of a whole group, which needs no read, or with each line of a part, for which it is read where the cache does not hold it (R245). False where the write cannot be made (R259, R267). -/
def putThrough (s : State) (kind : ReqKind) (whole : Bool) (pa : Nat) (v : Line) : State × Bool :=
  if !isDeep pa then (putRaw (askCtrl s .p2 kind pa) pa v, true)
  else
    let line := pa / 64
    let h := (deepPlace pa).h
    match checkHeld s h line whole .p2 kind with
    | (s, ok) =>
      if sysQuar s pa ∨ (!ok ∧ !whole) then (s, false)
      else
        let s := putRaw (askCtrl s .p2 kind pa) pa v
        let s := if whole ∧ line % 8 ≠ 7 then s else askCtrl s .p2 kind (64 * (line / 8 * 8))
        let s := match findWay s (sysCache h) line with
          | some w => setWay s (sysCache h) line w { getWay s (sysCache h) line w with data := v, dirty := false, errs := 0 }
          | none => s
        (if ok then renewCheck s h line else s, true)
/-- The destination home of the running move reports an uncorrectable write (R296). -/
def badSecond (s : State) : State := { s with xlt := { s.xlt with run := s.xlt.run.map fun r => { r with badWrite := true } } }

/-! ### A home's accesses -/

/-- A home reads a line of memory. The record names the address as the requester gave it. -/
def memRead (s : State) (cls : MemClass) (sa : Nat) (kind : ReqKind := .read) : State × (Bad ⊕ Line) :=
  match backing s sa with
  | none => (s, .inl (addrBad sa))
  | some pa =>
    match (if isDeep pa then deepRead s (deepPlace pa).h cls pa kind else readRaw s cls pa kind) with
    | (s, .inl b) => (s, .inl { b with addr := BitVec.ofNat 64 (sa / 64 * 64) })
    | r => r

/-- A home writes a whole line of memory, and its second copy while a move runs (R295). -/
def memWrite (s : State) (cls : MemClass) (sa : Nat) (v : Line) : State :=
  match backing s sa with
  | none => s
  | some pa =>
    let s := if isDeep pa then deepWrite s (deepPlace pa).h cls pa v else putRaw (askCtrl s cls .write pa) pa v
    match secondCopy s sa with
    | some p2 => match putThrough s .migrate false p2 v with
      | (s, true) => s
      | (s, false) => badSecond s
    | none => s

/-! ### What holds an access (R18, R294) -/

/-- A switch-over holds every new access to the slab of an address (Table 10-7, R294). -/
def paused (s : State) (sa : Nat) : Bool :=
  match pooledSlab sa, s.xlt.run with
  | some slab, some r => decide (r.phase = .switch) && decide (r.req.slab = slab)
  | _, _ => false
/-- An access that Seam or a switch-over holds (R18, R294). -/
def heldBad (line : Nat) : Bad := { cls := 0, cause := 0, addr := BitVec.ofNat 64 (64 * line), held := true }

end Sys2Proof.Machine
end

