-- ==== Sys2Proof/Machine/Coherence.lean ====
section
/-! DEFINITION. Homes, directories, probes, evictions and the die caches' accesses (R261 to R266, R298 to R321). -/

namespace Sys2Proof.Machine

/-! ### Keys and lookups -/

/-- The key of an agent's copy or write-back buffer of a line. -/
def copyKey (line a : Nat) : Nat := 128 * line + a
/-- An agent's copy of a line. -/
def getCopy (s : State) (a line : Nat) : Copy := smGet {} s.coh.copies (copyKey line a)
/-- An agent's copy of a line takes a value. -/
def setCopy (s : State) (a line : Nat) (v : Copy) : State :=
  { s with coh := { s.coh with copies := smSet {} s.coh.copies (copyKey line a) v } }
/-- The write-back buffer of an agent for a line (R310). -/
def getBuf (s : State) (a line : Nat) : Option EvictBuf := smGet none s.coh.evicts (copyKey line a)
/-- A write-back buffer takes a value. -/
def setBuf (s : State) (a line : Nat) (v : Option EvictBuf) : State :=
  { s with coh := { s.coh with evicts := smSet none s.coh.evicts (copyKey line a) v } }
/-- What a home has for a line. -/
def getHome (s : State) (line : Nat) : HomeLine := smGet {} s.coh.home line
/-- What a home has for a line takes a value. -/
def setHome (s : State) (line : Nat) (v : HomeLine) : State :=
  { s with coh := { s.coh with home := smSet {} s.coh.home line v } }
/-- The transaction of a line takes a value. -/
def setTxn (s : State) (line : Nat) (t : Option Txn) : State := setHome s line { getHome s line with txn := t }
/-- The die whose home has a line. -/
def lineHome (s : State) (line : Nat) : Nat := homeDie s (64 * line)
/-- The DIE_ block's die of a number. -/
def dieAt (n : Nat) : Die :=
  if h : n < 4 then .c ⟨n, h⟩ else .h (if n = 4 then 0 else 1)
/-- The directory slice of a line at its home (Table 11-3). -/
def dirSlice (home line : Nat) : Nat := if home < 4 then lineSlice line else lineSlice line % 8
/-- The directory set of a line (R305). -/
def dirSet (line : Nat) : Nat := (line % 2 ^ 14) ^^^ (line / 2 ^ 14 % 2 ^ 14)
/-- The key of a directory set. -/
def dirSetKey (home slice set : Nat) : Nat := 65536 * (32 * home + slice) + set
/-- The key of a line's directory set. -/
def lineDirKey (s : State) (line : Nat) : Nat :=
  let h := lineHome s line
  dirSetKey h (dirSlice h line) (dirSet line)
/-- The agents that have not answered the SetRecall of a line's set (R307). -/
def setRecalls (s : State) (line : Nat) : List Nat := smGet [] s.coh.dirErr (lineDirKey s line)

/-! ### The directory (R305) -/

/-- The agents of a holder vector. -/
def agentsOf (v : BitVec 84) : List Nat := (List.range 84).filter fun i => v.getLsbD i
/-- A request that leaves its requester with a copy. -/
def Ask.caches : Ask → Bool
  | .fetchS => true
  | .fetchX => true
  | .claim => true
  | .claimZero => true
  | _ => false
/-- A transaction in progress at a home will leave its requester with a copy. -/
def grantPending (s : State) (line : Nat) : Bool := match (getHome s line).txn with
  | some t => t.recallFor.isNone && t.req.ask.caches
  | none => false
/-- Entries in use at a home. -/
def dirUse (s : State) (home : Nat) : Nat := (s.coh.dir.filter fun e => decide (lineHome s e.1 = home)).length
/-- The lines with an entry in the set of a line. -/
def dirPeers (s : State) (line : Nat) : List Nat :=
  let k := lineDirKey s line
  (s.coh.dir.filter fun e => decide (lineDirKey s e.1 = k)).map (·.1)
/-- The home drops an agent as a holder; an entry whose last holder has left is freed at once (R306). -/
def dirDrop (s : State) (line a : Nat) : State :=
  let e := getDir s line
  let hs := e.holders &&& ~~~(1#84 <<< a)
  let sum : DirSummary := if hs = 0 then .none
    else if e.sum ≠ .shared ∧ e.ptr = a then .shared else e.sum
  if hs = 0 ∧ !e.pinned ∧ !e.busy then { s with coh := { s.coh with dir := smErase s.coh.dir line } }
  else setDir s line { e with holders := hs, sum := sum, ptr := if sum = .shared ∨ sum = .none then 0 else e.ptr }
/-- An uncorrectable directory entry: the record, DIR_ERR, and a SetRecall to agents 0 to 83 (R307). -/
def dirFail (s : State) (line : Nat) : State :=
  let h := lineHome s line
  let s := raise s (Reg.dieCohStatus (dieAt h)) 0
  let s := { s with coh := { s.coh with dirErr := smSet [] s.coh.dirErr (lineDirKey s line) (List.range 84) } }
  place s { cls := 0x32, action := 3, die := h, addr := BitVec.ofNat 64 (64 * line),
            d0 := BitVec.ofNat 64 (dirSlice h line + 256 * dirSet line) }
/-- A single-bit error that SEC-DED has corrected is counted (R260). -/
def countFix (s : State) (die : Nat) : State := { s with err := { s.err with fixed := smMod 0 s.err.fixed die (· + 1) } }
/-- A home reads a line's entry: a single wrong bit is corrected and counted, an uncorrectable word starts the recall of its set (R260, R305, R307). False where the set is being recalled. -/
def dirRead (s : State) (line : Nat) : State × Bool :=
  let e := getDir s line
  if setRecalls s line ≠ [] then (s, false)
  else if 2 ≤ e.upset then (dirFail s line, false)
  else if e.upset = 1 then (countFix (setDir s line { e with upset := 0 }) (lineHome s line), true)
  else (s, true)
/-- The lowest way of a line's set that has no entry; a request that needs one begins only where there is one. -/
def freeDirWay (s : State) (line : Nat) : Nat :=
  let used := (dirPeers s line).map fun l => (getDir s l).way
  ((List.range 16).find? fun w => !(used.contains w)).getD 16
/-- A request that will leave its requester with a copy has its entry from its beginning (R306). -/
def dirReserve (s : State) (line : Nat) : State :=
  let e := getDir s line
  setDir s line { e with busy := true, way := if e.holders = 0 ∧ !e.pinned ∧ !e.busy then freeDirWay s line else e.way }
/-- A transaction has ended: an entry that no cache holds is freed (R306). -/
def dirRelease (s : State) (line : Nat) : State :=
  let e := getDir s line
  if e.holders = 0 ∧ !e.pinned then { s with coh := { s.coh with dir := smErase s.coh.dir line } } else setDir s line { e with busy := false }
/-- The home records a grant to an agent (Table 11-5). -/
def dirGrant (s : State) (line a : Nat) (g : CState) : State :=
  let e := { getDir s line with busy := false }
  let me := 1#84 <<< a
  match g with
  | .m => setDir s line { e with sum := .owner, ptr := a, holders := me }
  | .e => setDir s line { e with sum := .owner, ptr := a, holders := me }
  | .o => setDir s line { e with sum := .oOwner, ptr := a, holders := e.holders ||| me }
  | .f => setDir s line { e with sum := .sharedF, ptr := a, holders := e.holders ||| me }
  | .s => setDir s line { e with sum := if e.sum = .owner then .oOwner else if e.sum = .none then .shared else e.sum,
                                 holders := e.holders ||| me }
  | .i => s

/-- Counts an event of a home's die (Table 11-9). -/
def cohCount (s : State) (home lo : Nat) : State := countR s (Reg.dieCohEvt (dieAt home)) (lo + 15) lo 1

/-! ### Quarantine (R267, R268) -/

/-- A cache looks at its copy: corrects it, or finds it uncorrectable and quarantines it. True where the data may be used (R258, R267). -/
def checkCopy (s : State) (a line : Nat) : State × Bool :=
  let c := getCopy s a line
  if a < 80 then (s, true)
  else if isQuar s (a - 80) line then (s, false)
  else if c.errs = 0 then (s, true)
  else match hemFix c.errs with
    | some _ =>
      let s := setCopy s a line { c with errs := 0, data := c.data ^^^ hemMiss c.errs }
      (if h : a - 80 < 4 then countR s (Reg.dcEcc ⟨a - 80, h⟩) 31 0 1 else s, true)
    | none => (quarantine s (a - 80) line (decide (c.st = .m ∨ c.st = .o)), false)

/-! ### Evictions (R309, R310, R316) -/

/-- A probe to an agent for a line has not been answered. -/
def probeOutTo (s : State) (line a : Nat) : Bool :=
  match (getHome s line).txn with
  | some t => t.probes.any (fun p => decide (p.agent = a)) || t.acks.any (fun p => decide (p.agent = a))
  | none => false
/-- The die of an agent (Table 11-1), whose HOLD_MAX bounds it (Table 11-9); the proxy and Tilth are on H0. -/
def agentDie (a : Nat) : Nat := if a < 40 then 4 else if a < 80 then 5 else if a < 84 then a - 80 else if a < 87 then 4 else if a < 88 then 5 else a - 88
/-- The stack that backs a line is in the self-refresh of a compute reset: what goes to it waits at its controller (R458). -/
def stackAsleep (s : State) (line : Nat) : Bool :=
  decide (2 ≤ s.err.phase) && ((backing s (64 * line)).map fun pa => !isDeep pa).getD false
/-- The home takes an eviction notice that Seam has brought: a superseded one is dropped and counted, dirty data are written; EvictAck is sent. One that meets an uncorrectable entry waits for the rebuilt set (R307). -/
def takeEvict (s : State) (line a : Nat) : State :=
  match getBuf s a line with
  | some b =>
    if b.taken ∨ !routeUp s (agentDie a) (lineHome s line) ∨ stackAsleep s line then s
    else match dirRead s line with
    | (s, false) => s
    | (s, true) =>
      let s := if b.superseded then cohCount s (lineHome s line) 16
        else if b.dirty then memWrite s .p1 (64 * line) b.data else s
      dirDrop (setBuf s a line (some { b with taken := true })) line a
  | none => s
/-- A load in flight reads bytes of a line. -/
def LoadOut.onLine (l : LoadOut) (line : Nat) : Bool := decide (l.addr / 64 ≤ line ∧ line ≤ (l.addr + l.bytes - 1) / 64)
/-- Two loads read some byte in common. -/
def LoadOut.meets (l m : LoadOut) : Bool := decide (l.addr < m.addr + m.bytes ∧ m.addr < l.addr + l.bytes)
/-- A snoop has taken a line: a load that has read it keeps its value, and every later load of the hart to the same address is executed again (R325). -/
def readAgain (line : Nat) (l : List LoadOut) : List LoadOut :=
  l.zipIdx.map fun p => if p.1.onLine line && (l.take p.2).any (·.meets p.1) then { p.1 with value := none } else p.1
/-- A requester's next tag (R308). -/
def nextTag (s : State) (a : Nat) : Nat × State :=
  let n := smGet 0 s.coh.tags a
  (n, { s with coh := { s.coh with tags := smSet 0 s.coh.tags a (n + 1) } })
/-- A host core loses its copy of a line: a reservation on it, and what its loads in flight have read out of order (R314, R324, R325). -/
def hartLoses (s : State) (a line : Nat) : State :=
  { s with harts := smMod {} s.harts a fun c => { c with
      reservation := if c.reservation = some line then none else c.reservation, loads := readAgain line c.loads } }
/-- A holder gives up its copy; the notice reaches the home, which holds it while a probe to that agent is outstanding. -/
def evictCopy (s : State) (a line : Nat) : State :=
  let c := getCopy s a line
  if c.st = .i then s
  else
    let s := setCopy s a line {}
    let s := if a < 80 then hartLoses s a line else match findWay s (a - 80) line with
      | some w => setWay s (a - 80) line w {}
      | none => s
    let (tag, s) := nextTag s a
    let s := setBuf s a line (some { dirty := decide (c.st = .m ∨ c.st = .o), data := c.data, tag := tag })
    if probeOutTo s line a then s else takeEvict s line a
/-- An agent has no dirty or clean notice for a line on its way. -/
def noBuf (s : State) (a line : Nat) : Bool := (getBuf s a line).isNone

/-- A die cache drops a line without a word to the home: its copy and its way. -/
def forget (s : State) (a line : Nat) : State :=
  let s := setCopy s a line {}
  if a < 80 then hartLoses s a line else match findWay s (a - 80) line with
    | some w => setWay s (a - 80) line w {}
    | none => s

/-! ### Requests (R304, R306, R311 to R314) -/

/-- The probes that a request needs: to the supplier and to the other holders (R311, R313, R314). -/
def probesFor (e : DirEntry) (r : HomeReq) (stillHeld : Bool) : List ProbeOut :=
  let hs := (agentsOf e.holders).filter (fun a => decide (a ≠ r.agent.val))
  let owner : Option Nat := if e.sum = .none ∨ e.sum = .shared ∨ e.ptr = r.agent.val then none else some e.ptr
  let kill (l : List Nat) : List ProbeOut := l.map fun a => ⟨a, .kill, none⟩
  let take : List ProbeOut := match owner with
    | some o => ⟨o, .take, none⟩ :: kill (hs.filter (fun a => decide (a ≠ o)))
    | none => kill hs
  match r.ask with
  | .fetchS => (owner.map fun o => (⟨o, .share, none⟩ : ProbeOut)).toList
  | .fetchX => take
  | .claim => if stillHeld then kill hs else take
  | .claimZero => kill hs
  | .peek =>
    if e.sum = .none ∨ e.sum = .shared then [] else [⟨e.ptr, .peek, none⟩]
  | .putLine => kill (agentsOf e.holders)
  | .putBytes => (agentsOf e.holders).map fun a => ⟨a, .recall, none⟩
  | .homeAtomic => (agentsOf e.holders).map fun a => ⟨a, .recall, none⟩

/-- The victim of a full directory set: the lowest way among those with the fewest holders, neither pinned nor in a transaction (R306). -/
def dirVictim (s : State) (line : Nat) : Option Nat :=
  let ok := (dirPeers s line).filter fun l => !(getDir s l).pinned && !(getDir s l).busy && (getHome s l).txn.isNone
  let count (l : Nat) : Nat := (agentsOf (getDir s l).holders).length
  ok.foldl (fun best l => match best with
    | none => some l
    | some b => if count l < count b ∨ (count l = count b ∧ (getDir s l).way < (getDir s b).way) then some l else best) none

/-- The line of a victim's recall that a line's request waits for (R306). -/
def recallOf (s : State) (line : Nat) : Option Nat :=
  (s.coh.home.find? fun e => match e.2.txn with | some t => decide (t.recallFor = some line) | none => false).map (·.1)
/-- The die caches that hold a line under quarantine, by agent. -/
def quarAgents (s : State) (line : Nat) : List Nat := ((List.range 4).filter fun d => isQuar s d line).map (80 + ·)

/-- The home's system cache has the line of a system address under quarantine: every access to it stops its requester (R267). -/
def homeQuar (s : State) (line : Nat) : Bool := ((backing s (64 * line)).map (sysQuar s)).getD false
/-- The home begins a request; the answer tells whether it began, or waits for a victim or a rebuilt set. A line under quarantine is refused where no probe goes to its holder (R267, R319). A single wrong bit of the entry is corrected (R260, R305). -/
def beginReq (s : State) (line : Nat) (r : HomeReq) : State × Bool :=
  match dirRead s line with
  | (s, false) => (s, false)
  | (s, true) =>
  let e := getDir s line
  if r.ask.caches ∧ e.holders = 0 ∧ !e.pinned ∧ !e.busy ∧ 16 ≤ (dirPeers s line).length then
    if (recallOf s line).isSome then (s, false)
    else match dirVictim s line with
      | none => (s, false)
      | some v =>
        let ps := (agentsOf (getDir s v).holders).map fun a => (⟨a, .recall, none⟩ : ProbeOut)
        (setTxn s v (some { req := { ask := .peek, agent := 0 }, recallFor := some line, probes := ps }), false)
  else
    let held := decide (r.agent.val < 84) && e.holders.getLsbD r.agent.val
    let ps := probesFor e r held
    let refused := homeQuar s line || (quarAgents s line).any fun a => !(ps.any fun p => decide (p.agent = a))
    let s := if r.ask.caches then dirReserve s line else s
    (setTxn s line (some { req := r, probes := if refused then [] else ps, refused := refused }), true)

/-- The home takes the next request of a line: write-backs first (R309), then the oldest. -/
def takeNext (s : State) (line : Nat) : State :=
  let h := getHome s line
  if h.txn.isSome then s
  else
    let s := (List.range 92).foldl (fun s a => takeEvict s line a) s
    match h.waiting with
    | [] => s
    | r :: rest =>
      match beginReq s line r with
      | (s, true) => setHome s line { getHome s line with waiting := rest }
      | (s, false) => s

/-- A request comes before another at a home: it arrived in an earlier cycle, or in the same cycle from an agent of lower number (R304). -/
def HomeReq.before (r q : HomeReq) : Bool := decide (r.since < q.since) || (decide (r.since = q.since) && decide (r.agent.val ≤ q.agent.val))
/-- A request reaches its home under its requester's next tag and waits there in order of arrival, behind those of its cycle from agents of lower number (R304, R308). -/
def arrive (s : State) (line : Nat) (r : HomeReq) : State :=
  let (n, s) := nextTag s r.agent.val
  let r := { r with tag := n, since := cycleNow s }
  let h := getHome s line
  setHome s line { h with waiting := h.waiting.takeWhile (·.before r) ++ r :: h.waiting.dropWhile (·.before r) }
/-- A request joins a home's queue behind every other (R318). -/
def arriveLast (s : State) (line : Nat) (r : HomeReq) : State :=
  let (n, s) := nextTag s r.agent.val
  let h := getHome s line
  setHome s line { h with waiting := h.waiting ++ [{ r with tag := n, since := cycleNow s }] }

/-- Sends a Done (R304). -/
def sendDone (s : State) (line : Nat) (r : HomeReq) (v : W64) : State :=
  { s with coh := { s.coh with dones := s.coh.dones ++ [⟨line, r.agent.val, r.ask, v, r.tag⟩] } }

/-- The home sends Fail, and the transaction ends when its requester has it (R259, R319). -/
def failTxn (s : State) (line : Nat) (t : Txn) (b : Bad) : State := setTxn s line (some { t with fail := some b, line := none })
/-- Dirty data that a refused requester cannot take go to memory (DESIGN CHOICE, log entry 126). -/
def returnData (s : State) (line : Nat) (t : Txn) : State :=
  match t.line with
  | some (.m, d) => memWrite s .p1 (64 * line) d
  | some (.o, d) => memWrite s .p1 (64 * line) d
  | _ => s

/-- Data from memory for a request, in a granted state; Fail where the line is uncorrectable. -/
def supplyMem (s : State) (line : Nat) (t : Txn) (g : CState) : State :=
  match memRead s t.req.cls (64 * line) (readKind t.req.agent.val) with
  | (s, .inr d) => setTxn s line (some { t with line := some (g, d), lineDie := lineHome s line, granted := some g })
  | (s, .inl b) => failTxn s line t b

/-- Every probe is answered and every answer taken: the home supplies data, performs the write or the atomic, or ends the transaction (R304, R311 to R314). -/
def settleTxn (s : State) (line : Nat) (t : Txn) : State :=
  let sa := 64 * line
  if t.refused then failTxn (returnData s line t) line t (quarBad line)
  else if t.granted.isSome ∨ t.confirm then s
  else
    let alone := (agentsOf (getDir s line).holders).all (fun a => decide (a = t.req.agent.val))
    match t.req.ask with
    | .fetchS => supplyMem s line t (if alone then .e else .f)
    | .fetchX => supplyMem s line t .m
    | .peek => supplyMem s line t .i
    | .claim =>
      if decide (t.req.agent.val < 84) && (getDir s line).holders.getLsbD t.req.agent.val then
        dirGrant (sendDone (setTxn s line none) line t.req 0) line t.req.agent.val .m
      else supplyMem s line t .m
    | .claimZero => dirGrant (sendDone (setTxn s line none) line t.req 0) line t.req.agent.val .m
    | .putLine => sendDone (setTxn (memWrite s .p1 sa t.req.data) line none) line t.req 0
    | .putBytes =>
      match memRead s .p1 sa with
      | (s, .inr d) => sendDone (setTxn (memWrite s .p1 sa (mergeLine d t.req.data t.req.mask)) line none) line t.req 0
      | (s, .inl b) => failTxn s line t b
    | .homeAtomic =>
      match memRead s .p1 sa with
      | (s, .inr d) =>
        let old := lineWord d t.req.offset t.req.wide
        let new := atomResult t.req.op t.req.wide old t.req.operand t.req.compare
        let s := memWrite s .p1 sa (setLineWord d t.req.offset t.req.wide new)
        sendDone (setTxn s line none) line t.req old
      | (s, .inl b) => failTxn s line t b

/-- The home goes on with a line where nothing is outstanding, and takes the requests that wait, as far as `fuel` reaches. -/
def goOnFor : Nat → State → Nat → State
  | 0, s, _ => s
  | n + 1, s, line =>
    match (getHome s line).txn with
    | some t =>
      if t.probes = [] ∧ t.acks = [] ∧ t.fail.isNone then
        match t.recallFor with
        | some l => goOnFor n (goOnFor n (cohCount (setTxn s line none) (lineHome s line) 0) line) l
        | none =>
          let s := settleTxn s line t
          if (getHome s line).txn.isNone then goOnFor n s line else s
      else s
    | none =>
      let s := takeNext s line
      if (getHome s line).txn.isSome then goOnFor n s line else s

/-- Requests that wait for a way of a line's directory set are tried again (R306). -/
def wakeSet (s : State) (line : Nat) : State :=
  let k := lineDirKey s line
  ((s.coh.home.filter fun e => e.2.txn.isNone && !e.2.waiting.isEmpty && decide (lineDirKey s e.1 = k)).map (·.1)).foldl (fun s l => goOnFor 4 s l) s
/-- The home goes on with a line, and with what waited for its way. -/
def goOn (s : State) (line : Nat) : State := wakeSet (goOnFor (2 * (getHome s line).waiting.length + 6) s line) line

/-- The home takes what has come for a line before the present cycle; requests of the present cycle wait until it is known which of them comes first (R304, R317). -/
def catchUp (s : State) (line : Nat) : State :=
  if (getHome s line).waiting.all fun r => decide (r.since = cycleNow s) then s else goOn s line
/-- A request comes to its home, which has gone on with those of earlier cycles. -/
def submit (s : State) (line : Nat) (r : HomeReq) : State := arrive (catchUp s line) line r

/-! ### Probes (Table 11-5, Table 11-6) -/

/-- The state a holder is left in, the state granted to the requester, and whether it answers with data. -/
def probeOutcome (st : CState) : Probe → CState × CState × Bool
  | .share => match st with
    | .m => (.o, .s, true)
    | .o => (.o, .s, true)
    | .e => (.s, .f, true)
    | .f => (.s, .f, true)
    | c => (c, .i, false)
  | .take => (.i, .m, decide (st = .m ∨ st = .o ∨ st = .e ∨ st = .f))
  | .kill => (.i, .i, false)
  | .peek => (st, .i, decide (st = .m ∨ st = .o ∨ st = .e ∨ st = .f))
  | .recall => (.i, .i, decide (st = .m ∨ st = .o))

/-- What answers a probe: the ack, and the data that goes straight to the requester with the state granted. -/
def answerProbe (s : State) (a line : Nat) (p : Probe) : State × AckIn × Option (CState × Line) :=
  let c := getCopy s a line
  if c.st = .i then
    match getBuf s a line with
    | some b =>
      if b.taken ∨ b.superseded ∨ !b.dirty then (s, { agent := a, final := .i, miss := true }, none)
      else
        let sup := setBuf s a line (some { b with superseded := true })
        match p with
        | .share => (sup, { agent := a, final := .i, superseded := true }, some (.o, b.data))
        | .take => (sup, { agent := a, final := .i, superseded := true }, some (.m, b.data))
        | .kill => (sup, { agent := a, final := .i, superseded := true }, none)
        | .peek => (s, { agent := a, final := .i }, some (.i, b.data))
        | .recall => (sup, { agent := a, final := .i, superseded := true, data := some b.data }, none)
    | none => (s, { agent := a, final := .i, miss := true }, none)
  else
    match checkCopy s a line with
    | (s, false) => (cohCount s (lineHome s line) 48, { agent := a, final := c.st, quar := true }, none)
    | (s, true) =>
      let c := getCopy s a line
      let (left, grant, data) := probeOutcome c.st p
      let s := if left = .i then forget s a line else setCopy s a line { getCopy s a line with st := left }
      if p = .recall then (s, { agent := a, final := left, data := if data then some c.data else none }, none)
      else (s, { agent := a, final := left },
            if data then some (grant, c.data) else none)

/-- A die cache looks at a stale line in a way: corrects it, or finds it uncorrectable and quarantines it. True where its data may be used (R256, R258, R266, R267). -/
def checkStale (s : State) (d line w : Nat) : State × Bool :=
  let v := getWay s d line w
  if v.quarantined then (s, false)
  else if v.errs = 0 then (s, true)
  else match hemFix v.errs with
    | some _ =>
      let s := setWay s d line w { v with errs := 0, staleData := v.staleData ^^^ hemMiss v.errs }
      (if h : d < 4 then countR s (Reg.dcEcc ⟨d, h⟩) 31 0 1 else s, true)
    | none => (quarantineWay s d v.line w v.staleDirty, false)
/-- A die cache makes room for a line: the way that its victim leaves. A dirty stale victim goes over the home (R266), an uncorrectable one is quarantined and another taken (R262, R267). Requests that waited for a way of the victim's directory set go on (R306). -/
def cacheRoom : Nat → State → Nat → Nat → State × Option Nat
  | 0, s, _, _ => (s, none)
  | n + 1, s, d, line =>
    match victimWay 5 s d line with
    | (s, none) => (s, none)
    | (s, some w) =>
      let old := getWay s d line w
      if !old.valid then (s, some w)
      else if old.stale then
        match checkStale s d line w with
        | (s, false) => cacheRoom n s d line
        | (s, true) => (setWay (if old.staleDirty then memWrite s .p1 (64 * old.line) (getWay s d line w).staleData else s) d line w {}, some w)
      else match checkCopy s (80 + d) old.line with
        | (s, false) => cacheRoom n s d line
        | (s, true) =>
          let s := catchUp (evictCopy s (80 + d) old.line) old.line
          match getBuf s (80 + d) old.line with
          | some b => (if b.taken then setBuf s (80 + d) old.line none else s, some w)
          | none => (s, some w)
/-- A die cache takes a line, with an age (R262). False where no way can be had. -/
def fillWay (s : State) (d line : Nat) (streaming : Bool) : State × Bool :=
  match findWay s d line with
  | some w => (touchWay s d line w, true)
  | none =>
    match cacheRoom 17 s d line with
    | (s, none) => (s, false)
    | (s, some w) => (setWay s d line w { line := line, valid := true, age := if streaming then 3 else 0 }, true)

/-- Whether a die cache allocates, and whether it is being disabled (R264). -/
def dcEnabled (s : State) (d : CDie) : Bool := flagR s (Reg.dcCtrl d) 0
/-- A disable is in progress. -/
def dcDisabling (s : State) (d : CDie) : Bool := flagR s (Reg.dcStatus d) 0
/-- A die cache may allocate: it is enabled and no disable is in progress (R264). -/
def dcFills (s : State) (d : Nat) : Bool := if h : d < 4 then dcEnabled s ⟨d, h⟩ && !dcDisabling s ⟨d, h⟩ else false
/-- The lines that a host core's caches hold, in the order of their addresses. -/
def hartLines (s : State) (a : Nat) : List Nat := ((s.coh.copies.filter fun e => decide (e.1 % 128 = a)).map (·.1 / 128))
/-- The L2 of a host core holds 2 MiB, 32,768 lines (Table 11-1); where it is full, one of its lines leaves for another. Which one is an open value (DESIGN CHOICE, log entry 151). -/
def hartRoom (s : State) (a line : Nat) : State :=
  let held := hartLines s a
  if held.length < 32768 ∨ held.contains line then s
  else
    let (n, s) := draw s
    match held[Config.l2Victim n % held.length]? with
    | some v => catchUp (evictCopy s a v) v
    | none => s
/-- An agent of the coherent set has room for a line that it takes; a die cache that may not allocate, or has every way of the set quarantined or retired, has none (R262, R264). -/
def takeRoom (s : State) (a line : Nat) (streaming : Bool) : State × Bool :=
  if a < 80 then (hartRoom s a line, true)
  else if (findWay s (a - 80) line).isNone && !dcFills s (a - 80) then (s, false)
  else fillWay s (a - 80) line streaming

/-- A requester takes Done (R304): a claimed line becomes M, a zeroed one M and all zeros (R311). A requester that has lost its copy since asks for the line again (R312); zeros that a die cache cannot keep go to their home (R262, R264). -/
def doDone (s : State) (line a : Nat) : State :=
  match s.coh.dones.find? (fun m => decide (m.line = line ∧ m.agent = a)) with
  | none => s
  | some m =>
    let s := { s with coh := { s.coh with dones := s.coh.dones.erase m } }
    match m.ask with
    | .claim =>
      if (getCopy s a line).st = .i then
        (if h : a < 92 then arriveLast (dirDrop s line a) line { ask := .fetchX, agent := ⟨a, h⟩ } else s)
      else setCopy s a line { getCopy s a line with st := .m, written := false }
    | .claimZero =>
      match takeRoom s a line false with
      | (s, true) => setCopy s a line { st := .m, data := 0, errs := 0, written := true }
      | (s, false) => dirDrop (memWrite s .p1 (64 * line) 0) line a
    | _ => s

/-- The probe to an agent is answered: ProbeAck goes to the home, data to the requester. A Done that the home sent it before comes first. -/
def doProbe (s : State) (line a : Nat) (p : Probe) : State :=
  match (getHome s line).txn with
  | none => s
  | some t =>
    match answerProbe (doDone s line a) a line p with
    | (s, ack, data) =>
      setTxn s line (some { t with
        probes := t.probes.filter (fun q => decide (q.agent ≠ a))
        acks := t.acks ++ [ack]
        line := match data with | some d => some d | none => t.line
        lineDie := if data.isSome then agentDie a else t.lineDie
        granted := match data with | some d => some d.1 | none => t.granted })

/-- A holder must first perform the write that its copy was asked for (R317). -/
def mustHold (s : State) (line a : Nat) (p : Probe) : Bool :=
  decide (p = .take) && decide ((getCopy s a line).st = .m) && !(getCopy s a line).written
/-- Cycles of an agent's clock (R318): a host core's at its die's V/F point, a die cache's at 1.5 GHz. -/
def agentCycles (s : State) (a n : Nat) : Nat :=
  if a < 80 then
    let d := agentDie a
    let k := ((smGet {} s.pwr.dies d).point).getD (Config.bootPoint d).val
    3000 * n / vfFreqOf d k
  else cycT n
/-- HOLD_MAX of an agent, in cycles of its clock (R318). -/
def holdMax (s : State) (a : Nat) : Nat := fieldR s (Reg.dieCohCtrl (dieAt (agentDie a))) 9 0
/-- A snoop is answered without the write that it was held for; the write still pends, so that the agent asks for the line again behind the requests at the home (R318). -/
def releaseHold (s : State) (line a : Nat) (p : Probe) : State :=
  if ha : a < 92 then arriveLast (doProbe (cohCount s (agentDie a) 32) line a p) line { ask := .fetchX, agent := ⟨a, ha⟩ } else doProbe s line a p

/-- What an answer does to the directory and to memory (R316, R319, Table 11-5). -/
def settleAck (s : State) (line : Nat) (k : AckIn) : State :=
  let a := k.agent
  let s := match k.data with
    | some d => memWrite s .p1 (64 * line) d
    | none => s
  let s := if k.final = .i ∧ !k.quar then dirDrop s line a else s
  let s := if k.final = .s ∧ (getDir s line).ptr = a ∧ (getDir s line).sum ≠ .oOwner
    then setDir s line { getDir s line with sum := .shared, ptr := 0 } else s
  let s := if k.final = .o then setDir s line { getDir s line with sum := .oOwner, ptr := a } else s
  takeEvict s line a

/-- The home takes an answer (R316, R319). -/
def doAck (s : State) (line a : Nat) : State :=
  match (getHome s line).txn with
  | none => s
  | some t =>
    match t.acks.find? (fun k => decide (k.agent = a)) with
    | none => s
    | some k =>
      let t := { t with acks := t.acks.filter (fun q => decide (q.agent ≠ a)), refused := t.refused || (k.quar && t.recallFor.isNone) }
      goOn (settleAck (setTxn s line (some t)) line k) line

/-- The requester takes LineData, once no other copy is left unanswered (R302) and no holder has refused (R319): its copy has the granted state, and DoneAck is sent (R311). A die cache that has no room for the line keeps none: dirty data go to the home with its DoneAck, which names state I (R262, R264). -/
def doLine (s : State) (line : Nat) (streaming : Bool) : State :=
  match (getHome s line).txn with
  | none => s
  | some t =>
    match t.line with
    | none => s
    | some (g, d) =>
      if t.probes ≠ [] ∨ t.refused ∨ t.fail.isSome ∨ t.acks.any (·.quar) then s else
      let a := t.req.agent.val
      let s := setTxn s line (some { t with line := none, confirm := true })
      if g = .i ∨ 84 ≤ a then s
      else
        match takeRoom s a line streaming with
        | (s, true) => setCopy s a line { st := g, data := d, errs := 0, written := decide (g ≠ .m) }
        | (s, false) =>
          let s := if g = .m ∨ g = .o then memWrite s .p1 (64 * line) d else s
          match (getHome s line).txn with
          | some t => setTxn s line (some { t with granted := some .i })
          | none => s

/-- The home takes DoneAck: the directory records the grant and the transaction ends (R304). -/
def doConfirm (s : State) (line : Nat) : State :=
  match (getHome s line).txn with
  | none => s
  | some t =>
    if t.confirm ∧ t.probes = [] ∧ t.acks = [] then
      let s := setTxn s line none
      let g := t.granted.getD .i
      let s := if t.req.ask.caches ∧ g ≠ .i then dirGrant s line t.req.agent.val g else s
      goOn (if t.req.ask.caches then dirRelease s line else s) line
    else s

/-- The requester learns that its request cannot be served; the home goes on (R319). -/
def doFail (s : State) (line : Nat) : State :=
  match (getHome s line).txn with
  | some t =>
    if t.fail.isSome then
      let s := setTxn s line none
      goOn (if t.req.ask.caches then dirRelease s line else s) line
    else s
  | none => s

/-! ### SetRecall (R307) -/

/-- The lines that an agent holds, or is writing back, in a directory set. -/
def linesInSet (s : State) (a key : Nat) : List Nat :=
  (((s.coh.copies.map (·.1)) ++ (s.coh.evicts.map (·.1))).filter fun k => decide (k % 128 = a) && decide (lineDirKey s (k / 128) = key)).map (· / 128) |>.dedup
/-- An agent gives up a line of a recalled set, dirty data going to the home; an uncorrectable one stays registered and pinned (R267, R307). A dirty eviction in flight is superseded, a clean one is not (Table 11-6). -/
def recallOne (s : State) (a line : Nat) : State :=
  match (if (getCopy s a line).st = .i then (s, true) else checkCopy s a line) with
  | (s, false) =>
    let e := getDir s line
    setDir s line { e with pinned := true, upset := 0, holders := e.holders ||| (1#84 <<< a) }
  | (s, true) =>
    let c := getCopy s a line
    let s := if c.st = .m ∨ c.st = .o then memWrite s .p1 (64 * line) c.data else s
    let s := forget s a line
    match getBuf s a line with
    | some b =>
      if b.taken ∨ !b.dirty then s
      else
        let s := if !b.superseded then memWrite s .p1 (64 * line) b.data else s
        setBuf s a line (some { b with superseded := true })
    | none => s
/-- The set is rebuilt: what remains registered are quarantined lines, and the entries of requests in progress keep their ways (R306); held requests go on. -/
def rebuildSet (s : State) (key : Nat) : State :=
  let mine := (s.coh.dir.map (·.1)).filter fun l => decide (lineDirKey s l = key)
  let s := mine.foldl (fun s l =>
    let hs : BitVec 84 := (List.range 4).foldl (fun v d => if isQuar s d l then v ||| (1#84 <<< (80 + d)) else v) 0
    if hs = 0 ∧ !(getDir s l).busy then { s with coh := { s.coh with dir := smErase s.coh.dir l } }
    else setDir s l { getDir s l with holders := hs, pinned := decide (hs ≠ 0), upset := 0, sum := if hs = 0 then .none else .shared, ptr := 0 }) s
  ((s.coh.home.map (·.1)).filter fun l => decide (lineDirKey s l = key)).foldl goOn s

/-- An agent answers the recall of a directory set; with the last answer the home rebuilds the set (R307). -/
def answerSetRecall (s : State) (key a : Nat) : State :=
  let s := (linesInSet s a key).foldl (fun s l => recallOne s a l) s
  let left := (smGet [] s.coh.dirErr key).erase a
  let s := { s with coh := { s.coh with dirErr := smSet [] s.coh.dirErr key left } }
  if left = [] then rebuildSet s key else s

/-! ### An agent's whole access -/

/-- One message of a line is delivered: an answer to the recall of its directory set (R307), Done, Fail, data, an answer, a probe; a probe that a holder must hold is answered when its hold has run out (R318). -/
def deliver (s : State) (line : Nat) : State :=
  match setRecalls s line with
  | a :: _ => answerSetRecall s (lineDirKey s line) a
  | [] => match s.coh.dones.find? (fun m => decide (m.line = line)) with
  | some m => doDone s line m.agent
  | none =>
    match (getHome s line).txn with
    | none => goOn s line
    | some t =>
      if t.fail.isSome then doFail s line
      else match t.probes with
        | p :: _ =>
          if mustHold s line p.agent p.probe then
            releaseHold (advanceTo s (p.heldTo.getD (s.now + agentCycles s p.agent (holdMax s p.agent)))) line p.agent p.probe
          else doProbe s line p.agent p.probe
        | [] => match t.acks with
          | k :: _ => doAck s line k.agent
          | [] => if t.line.isSome then doLine s line false else if t.confirm then doConfirm s line else goOn s line

/-- An agent's request of a line is still on its way. -/
def askPending (s : State) (line a : Nat) : Bool :=
  let h := getHome s line
  (match h.txn with | some t => decide (t.req.agent.val = a) && t.recallFor.isNone | none => false)
    || h.waiting.any (fun r => decide (r.agent.val = a)) || s.coh.dones.any (fun m => decide (m.line = line ∧ m.agent = a))
/-- What an agent has had in answer so far: the reason of a Fail, else the value of a Done. -/
def answerSoFar (s : State) (line a : Nat) (r : Bad ⊕ W64) : Bad ⊕ W64 :=
  match (getHome s line).txn.filter (fun t => decide (t.req.agent.val = a) && t.recallFor.isNone) |>.bind (·.fail) with
  | some b => .inl b
  | none => match s.coh.dones.find? fun m => decide (m.line = line ∧ m.agent = a) with
    | some m => .inr m.value
    | none => r
/-- The next message of a line, or of the recall that it waits for, is delivered. -/
def deliverFor (s : State) (line : Nat) : State := deliver s ((recallOf s line).getD line)

/-- Messages are delivered until an agent's request is done; the answer is why it failed, or the value it brought. -/
def drive : Nat → State → Nat → Nat → Bad ⊕ W64 → State × (Bad ⊕ W64)
  | 0, s, _, _, r => (s, r)
  | n + 1, s, line, a, r => if askPending s line a then drive n (deliverFor s line) line a (answerSoFar s line a r) else (s, r)

/-- The dies between which an access of an agent to a line sends packets: the requester's, the home's, the holders' and those of the requests before it, and the home of the second copy while a move runs (R295). -/
def accessDies (s : State) (a line : Nat) : List Nat :=
  let h := getHome s line
  let before := (match h.txn with | some t => [t.req] | none => []) ++ h.waiting
  let second := ((secondCopy s (64 * line)).bind directCtrl).map ctrlDie
  (second.toList ++ agentDie a :: lineHome s line :: ((agentsOf (getDir s line).holders).map agentDie ++ before.map fun r => agentDie r.agent.val)).dedup
/-- A line cannot be reached at present: a Seam link between the dies of the access is not up (R18), its stack is in self-refresh (R458), or a switch-over holds the accesses of every agent but Tilth to its slab (Table 10-7). -/
def lineHeld (s : State) (a line : Nat) : Bool := stackAsleep s line || !diesJoined s (accessDies s a line) || (decide (a ≠ 85) && paused s (64 * line))
/-- The transactions of a line that came before are finished. -/
def settleLine : Nat → State → Nat → State
  | 0, s, _ => s
  | n + 1, s, line =>
    if (getHome s line).txn.isSome || !(getHome s line).waiting.isEmpty || s.coh.dones.any (fun m => decide (m.line = line))
    then settleLine n (deliverFor s line) line else s

/-- Messages that a line's requests may need. -/
def enough (s : State) (line : Nat) : Nat := 1000 + 400 * (getHome s line).waiting.length
/-- An agent's write-back of a line is taken and acknowledged, behind the transaction that probes it; nothing is left where none is on its way (R310). -/
def clearBuf (s : State) (a line : Nat) : State :=
  let s := if (getBuf s a line).isSome && probeOutTo s line a then settleLine (enough s line) s line else s
  let s := if probeOutTo s line a then s else takeEvict s line a
  match getBuf s a line with
  | some b => if b.taken then setBuf s a line none else s
  | none => s
/-- A whole request: it waits its turn at the home behind the requests there and is served; the answer is why it failed, or the value it brought. One that is held is not sent (R18, R294), no more than one whose line the agent is still writing back (R310) or for which the home finds no way (R306): it waits. -/
def access (s : State) (line : Nat) (r : HomeReq) : State × (Bad ⊕ W64) :=
  let a := r.agent.val
  if lineHeld s a line then (s, .inl (heldBad line))
  else
    let t := clearBuf (crossed s (accessDies s a line)) a line
    if !noBuf t a line then (t, .inl (heldBad line))
    else
      let t := submit t line r
      match drive (enough t line) t line a (.inr 0) with
      | (t, v) => if askPending t line a then (s, .inl (heldBad line)) else (t, v)

/-- The set of a line's entry is in order: an uncorrectable one has been recalled and rebuilt (R307). -/
def mendDir : Nat → State → Nat → State
  | 0, s, _ => s
  | n + 1, s, line =>
    match setRecalls s line with
    | a :: _ => mendDir n (answerSetRecall s (lineDirKey s line) a) line
    | [] => match dirRead s line with
      | (s, true) => s
      | (s, false) => mendDir n s line
/-- The current data of a line: its M, O, E or F holder's, else memory's (R313). -/
def peekLine (s : State) (agent : Agent) (cls : MemClass) (line : Nat) : State × (Bad ⊕ Line) :=
  if lineHeld s agent.val line then (s, .inl (heldBad line))
  else
    let s := settleLine (enough s line) (crossed s (accessDies s agent.val line)) line
    let s := mendDir 200 s line
    let holders := agentsOf (getDir s line).holders
    let best := holders.find? fun a => let c := getCopy s a line; decide (c.st = .m ∨ c.st = .o ∨ c.st = .e ∨ c.st = .f)
    if quarAgents s line ≠ [] ∨ homeQuar s line then (s, .inl (quarBad line))
    else match best with
      | some a =>
        match checkCopy s a line with
        | (s, true) => (s, .inr (getCopy s a line).data)
        | (s, false) => (s, .inl (quarBad line))
      | none => memRead s cls (64 * line) (readKind agent.val)

/-- The agent number of a C-die's cache. -/
def cacheAgent (d : CDie) : Agent := ⟨80 + d.val, by have := d.isLt; omega⟩
/-- The agent number of a C-die's port. -/
def portAgent (d : CDie) : Agent := ⟨88 + d.val, by have := d.isLt; omega⟩

/-- The address of a line is reachable. -/
def lineOk (s : State) (line : Nat) : Bool := (backing s (64 * line)).isSome

/-- A C-die's agent reads a line: from its die cache, a stale copy included (R266), by a fill, or without allocation (R262, R264). -/
def dieRead (s : State) (d : CDie) (cls : MemClass) (streaming : Bool) (line : Nat) : State × (Bad ⊕ Line) :=
  if !lineOk s line then (s, .inl (addrBad (64 * line)))
  else if paused s (64 * line) then (s, .inl (heldBad line))
  else
    let a := 80 + d.val
    let on := dcEnabled s d
    let c := getCopy s a line
    match findWay s d.val line with
    | some w =>
      let v := getWay s d.val line w
      if v.quarantined then (s, .inl (quarBad line))
      else if v.stale then
        (if on then match checkStale s d.val line w with
          | (s, true) => (touchWay s d.val line w, .inr (getWay s d.val line w).staleData)
          | (s, false) => (s, .inl (quarBad line))
        else peekLine s (portAgent d) cls line)
      else if c.st = .i then peekLine s (portAgent d) cls line
      else match checkCopy s a line with
        | (s, true) => (touchWay s d.val line w, .inr (getCopy s a line).data)
        | (s, false) => (s, .inl (quarBad line))
    | none =>
      if !on || dcDisabling s d || (victimWay 5 s d.val line).2.isNone then peekLine s (portAgent d) cls line
      else
        match access s line { ask := .fetchS, agent := cacheAgent d, cls := cls } with
        | (s, .inl b) => (s, .inl b)
        | (s, .inr _) =>
          let c := getCopy s a line
          if c.st = .i then peekLine s (portAgent d) cls line
          else
            let s := match findWay s d.val line with
              | some w => setWay s d.val line w { getWay s d.val line w with age := if streaming then 3 else 0 }
              | none => s
            (s, .inr c.data)

/-- The store streams that a die-cache slice tracks. -/
def putStreams (s : State) (key : Nat) (l : List StoreStream) : State := { s with coh := { s.coh with streams := smSet [] s.coh.streams key l } }
/-- The slice that tracks a requester's stream. -/
def streamSlice (s : State) (d : CDie) (requester : Nat) : Option Nat :=
  (List.range 16).find? fun k => (smGet [] s.coh.streams (16 * d.val + k)).any fun t => decide (t.requester = requester)
/-- A slice tracks a stream as its most recent, the least recent of more than 16 leaving; with no stream to track, the requester's leaves. -/
def keepStream (s : State) (d : CDie) (k requester : Nat) (t : Option StoreStream) : State :=
  let others := (smGet [] s.coh.streams (16 * d.val + k)).filter fun t => decide (t.requester ≠ requester)
  putStreams s (16 * d.val + k) (match t with | some t => t :: others.take 15 | none => others)
/-- The trackers of store streams see a store (R263): whether it writes through. A stream is tracked by the slice of its first line, and every store of its requester to the die is seen (DESIGN CHOICE, log entry 127). -/
def trackStore (s : State) (d : CDie) (requester line : Nat) (whole : Bool) : State × Bool :=
  let thr := fieldR s (Reg.dcCtrl d) 15 8
  let slice := streamSlice s d requester
  let old := slice.bind fun k => (smGet [] s.coh.streams (16 * d.val + k)).find? fun t => decide (t.requester = requester)
  match slice, old with
  | some k, some t =>
    if whole ∧ t.next = line then (keepStream s d k requester (some ⟨requester, line + 1, t.count + 1⟩), decide (thr ≠ 0 ∧ thr ≤ t.count))
    else
      let s := keepStream s d k requester none
      (if whole then keepStream s d (lineSlice line) requester (some ⟨requester, line + 1, 1⟩) else s, false)
  | _, _ => (if whole then keepStream s d (lineSlice line) requester (some ⟨requester, line + 1, 1⟩) else s, false)

/-- A C-die's agent writes bytes of a line at its home. -/
def writeHome (s : State) (d : CDie) (line : Nat) (data : Line) (mask : BitVec 64) : State × Option Bad :=
  match access s line (if mask = BitVec.allOnes 64 then { ask := .putLine, agent := portAgent d, data := data }
                       else { ask := .putBytes, agent := portAgent d, data := data, mask := mask }) with
  | (s, .inl b) => (s, some b)
  | (s, .inr _) => (s, none)
/-- A die cache comes to own a line that it will write. -/
def ownLine (s : State) (d : CDie) (line : Nat) : State × (Bad ⊕ W64) :=
  let c := getCopy s (80 + d.val) line
  if c.st = .m ∨ c.st = .e then (s, .inr 0)
  else if c.st = .i then access s line { ask := .fetchX, agent := cacheAgent d }
  else access s line { ask := .claim, agent := cacheAgent d }
/-- A C-die's agent writes bytes of a line in its die cache, or through it (R262, R263); a part of an uncorrectable line is not written (R259, R267). -/
def writeOwn (s : State) (d : CDie) (streaming : Bool) (line : Nat) (data : Line) (mask : BitVec 64) (through : Bool) : State × Option Bad :=
  let a := 80 + d.val
  let fill := decide ((getCopy s a line).st = .i)
  match ownLine s d line with
  | (s, .inl b) => (s, some b)
  | (s, .inr _) =>
    let c := getCopy s a line
    if c.st ≠ .m ∧ c.st ≠ .e then writeHome s d line data mask
    else match (if mask = BitVec.allOnes 64 then (s, true) else checkCopy s a line) with
    | (s, false) => (s, some (quarBad line))
    | (s, true) =>
      let v := mergeLine (getCopy s a line).data data mask
      if through then
        let s := setCopy (memWrite s .p1 (64 * line) v) a line { st := .e, data := v, errs := 0, written := true }
        (match findWay s d.val line with | some w => touchWay s d.val line w | none => s, none)
      else
        let s := setCopy s a line { st := .m, data := v, errs := 0, written := true }
        let s := match findWay s d.val line with
          | some w => setWay s d.val line w { getWay s d.val line w with age := if streaming && fill then 3 else 0 }
          | none => s
        (s, none)

/-- A C-die's agent writes bytes of a line: into a stale copy (R266), into its die cache (R263), or at the home. -/
def dieWrite (s : State) (d : CDie) (requester : Nat) (streaming : Bool) (line : Nat) (data : Line) (mask : BitVec 64) : State × Option Bad :=
  if !lineOk s line then (s, some (addrBad (64 * line)))
  else if paused s (64 * line) then (s, some (heldBad line))
  else
    let whole := decide (mask = BitVec.allOnes 64)
    let on := dcEnabled s d
    let (s, through) := trackStore s d requester line whole
    match findWay s d.val line with
    | some w =>
      let v := getWay s d.val line w
      if v.quarantined then (s, some (quarBad line))
      else if v.stale then
        (if on then match (if whole then (s, true) else checkStale s d.val line w) with
          | (s, true) =>
            let v := getWay s d.val line w
            (setWay s d.val line w { v with age := 0, staleData := mergeLine v.staleData data mask, staleDirty := true, errs := 0 }, none)
          | (s, false) => (s, some (quarBad line))
         else writeHome s d line data mask)
      else writeOwn s d streaming line data mask through
    | none =>
      if !on || dcDisabling s d || through || (victimWay 5 s d.val line).2.isNone then writeHome s d line data mask
      else writeOwn s d streaming line data mask false

/-- A C-die's agent performs an atomic at a home (R314). -/
def dieAtomic (s : State) (d : CDie) (sa : Nat) (op : AtomOp) (wide : Bool) (operand compare : W64) : State × (Bad ⊕ W64) :=
  let line := sa / 64
  if !lineOk s line then (s, .inl (addrBad sa))
  else
    let r : HomeReq := { ask := .homeAtomic, agent := portAgent d, op := op, offset := sa % 64, wide := wide, operand := operand, compare := compare }
    access s line r

/-- A C-die's cache takes a line as all zeros without a memory read (R153, R311). -/
def dieZero (s : State) (d : CDie) (requester line : Nat) : State × Option Bad :=
  if !lineOk s line then (s, some (addrBad (64 * line)))
  else if isQuar s d.val line then (s, some (quarBad line))
  else if !dcEnabled s d || dcDisabling s d || ((findWay s d.val line).isNone && (victimWay 5 s d.val line).2.isNone) then
    dieWrite s d requester false line 0 (BitVec.allOnes 64)
  else match findWay s d.val line with
    | some w => if (getWay s d.val line w).stale then dieWrite s d requester false line 0 (BitVec.allOnes 64)
      else claim
    | none => claim
where
  claim : State × Option Bad := match access s line { ask := .claimZero, agent := cacheAgent d } with
    | (s, .inl b) => (s, some b)
    | (s, .inr _) => (s, none)

end Sys2Proof.Machine
end

