-- ==== Sys2Proof/Machine/Translate.lean ====
section
/-! DEFINITION. Segments, translation caches, and the memory accesses of contexts through their cluster mover (R275 to R281, R323, R328, R338). -/

namespace Sys2Proof.Machine

/-- A segment entry is in force and well formed (Table 10-2). -/
def segValid (r : BitVec 128) : Bool := bitAt r 0
/-- A segment in force that makes every address that reaches it fault (R276). -/
def segBad (r : BitVec 128) : Bool :=
  segValid r && (decide (bits r 27 1 ≠ 0) || decide (bits r 63 57 ≠ 0) || decide (bits r 95 88 ≠ 0)
    || decide (bits r 127 120 ≠ 0) || decide (bits r 87 64 = 0))
/-- A segment covers a slab of the context's address space (R276). -/
def segCovers (r : BitVec 128) (v : Nat) : Bool :=
  segValid r && decide (bits r 56 28 ≤ v) && decide (v < bits r 56 28 + bits r 87 64)
/-- The system address that a segment gives (R276). -/
def segTarget (r : BitVec 128) (va : Nat) : Nat :=
  (bits r 119 96 + va / 2 ^ 28 - bits r 56 28) * 2 ^ 28 + va % 2 ^ 28
/-- The search of a table: the lowest segment that covers the slab, unless a bad one is reached first (R276). -/
def segSearch : List (Nat × BitVec 128) → Nat → Option (Nat × BitVec 128)
  | [], _ => none
  | (i, r) :: t, v => if segBad r then none else if segCovers r v then some (i, r) else segSearch t v

/-- The cached segment of a table that is the lowest to cover a slab (R276, R280). -/
def cachedSeg (l : List SegEntry) (table v : Nat) : Option SegEntry :=
  (List.range 16).findSome? fun i => l.find? fun e =>
    decide (e.table = table) && decide (e.index = i) && segCovers e.raw v && e.lower.all fun r => !segCovers r v
/-- A cache takes a segment, its oldest entry leaving when it is full (R280). -/
def cacheSeg (l : List SegEntry) (cap : Nat) (e : SegEntry) : List SegEntry :=
  let l := (l.filter fun x => !(decide (x.table = e.table) && decide (x.index = e.index))) ++ [e]
  l.drop (l.length - cap)
/-- The translation cache of a cluster. -/
def clusterXlt (s : State) (cl : Fin 64) : List SegEntry := smGet [] s.cl.xlt cl.val
/-- The translation cache of a C-die. -/
def dieXlt (s : State) (d : CDie) : List SegEntry := smGet [] s.cl.dieXlt d.val
/-- A cluster's translation cache takes a value. -/
def setClusterXlt (s : State) (cl : Fin 64) (l : List SegEntry) : State :=
  { s with cl := { s.cl with xlt := smSet [] s.cl.xlt cl.val l } }
/-- A C-die's translation cache takes a value. -/
def setDieXlt (s : State) (d : CDie) (l : List SegEntry) : State :=
  { s with cl := { s.cl with dieXlt := smSet [] s.cl.dieXlt d.val l } }

/-- Reads consecutive lines by system address, coherently, as a C-die's agent; stops at the first failure. -/
def dieReadLines (s : State) (d : CDie) (cls : MemClass) : Nat → Nat → State × (Bad ⊕ List Byte)
  | _, 0 => (s, .inr [])
  | line, n + 1 =>
    match dieRead s d cls false line with
    | (s, .inl b) => (s, .inl b)
    | (s, .inr v) =>
      match dieReadLines s d cls (line + 1) n with
      | (s, .inr t) => (s, .inr (lineBytes v ++ t))
      | r => r

/-- A translation fault (R277). -/
def xltBad (va table : Nat) : Bad := { cls := 0x0D, cause := 0, addr := BitVec.ofNat 64 va, d0 := BitVec.ofNat 64 table }

/-- Translates a context virtual address for a tensor engine under a segment table (R276, R280): the index of the segment, and the system address. -/
def translateBy (s : State) (te : TeId) (table va : Nat) : State × (Bad ⊕ Nat × Nat) :=
  let cl := clusterOf te
  let d := dieOf te
  let v := va / 2 ^ 28
  if 2 ^ 57 ≤ va then (s, .inl (xltBad va table))
  else match cachedSeg (clusterXlt s cl) table v with
  | some e => (s, .inr (e.index, segTarget e.raw va))
  | none =>
    match cachedSeg (dieXlt s d) table v with
    | some e => (setClusterXlt s cl (cacheSeg (clusterXlt s cl) 64 e), .inr (e.index, segTarget e.raw va))
    | none =>
      match dieReadLines s d .p0 (table / 64) 4 with
      | (s, .inl b) => (s, .inl b)
      | (s, .inr bs) =>
        let segs := (chunks' 16 bs).zipIdx.map fun p => (p.2, (BitVec.ofNat 128 (leNat p.1)))
        match segSearch segs v with
        | none => (s, .inl (xltBad va table))
        | some (i, r) =>
          let e : SegEntry := ⟨table, i, r, (segs.filter fun p => decide (p.1 < i) && segValid p.2).map (·.2)⟩
          let s := setClusterXlt s cl (cacheSeg (clusterXlt s cl) 64 e)
          (setDieXlt s d (cacheSeg (dieXlt s d) 1024 e), .inr (i, segTarget r va))
where
  chunks' (n : Nat) (l : List Byte) : List (List Byte) := (List.range (ceilDiv' l.length n)).map fun i => (l.drop (n * i)).take n

/-- The system address of a context virtual address (R276). -/
def translate (s : State) (te : TeId) (table va : Nat) : State × (Bad ⊕ Nat) :=
  match translateBy s te table va with
  | (s, .inl b) => (s, .inl b)
  | (s, .inr p) => (s, .inr p.2)

/-! ### Accesses of a context -/

/-- The parts of a byte range that lie in one line each: first byte and length. -/
def linePieces (a n : Nat) : List (Nat × Nat) :=
  (List.range ((a + n + 63) / 64 - a / 64)).map fun i =>
    let lo := max a ((a / 64 + i) * 64)
    (lo, min (a + n) ((a / 64 + i + 1) * 64) - lo)
/-- The line pieces of a run of bytes to be written. -/
def writePieces (a : Nat) (bs : List Byte) : List (Nat × List Byte) :=
  (linePieces a bs.length).map fun p => (p.1, (bs.drop (p.1 - a)).take p.2)

/-- The class that a launch's memory reads take (Table 9-2): its priority bit. -/
def launchClass (l : Launch) : MemClass := if l.priority = 1 then .p0 else .p1

/-- The write buffer of a cluster's mover. -/
def writeBuf (s : State) (cl : Fin 64) : List BufWrite := smGet [] s.cl.writes cl.val
/-- The write buffer of a cluster's mover takes a value. -/
def setWriteBuf (s : State) (cl : Fin 64) (l : List BufWrite) : State :=
  { s with cl := { s.cl with writes := smSet [] s.cl.writes cl.val l } }
/-- The read-ahead buffer of a cluster's mover (R328). -/
def readAhead (s : State) (cl : Fin 64) : List (CtxId × Nat × Line) := smGet [] s.cl.readAhead cl.val
/-- The read-ahead buffer of a cluster's mover takes a value. -/
def setReadAhead (s : State) (cl : Fin 64) (l : List (CtxId × Nat × Line)) : State :=
  { s with cl := { s.cl with readAhead := smSet [] s.cl.readAhead cl.val (l.drop (l.length - 256)) } }

/-- The mask of the `n` bytes from byte `o` of a line. -/
def byteMask (o n : Nat) : BitVec 64 := BitVec.ofNat 64 ((2 ^ n - 1) * 2 ^ o)
/-- A line whose bytes from byte `o` on are replaced. -/
def patchLine (v : Line) (o : Nat) (bs : List Byte) : Line :=
  mergeLine v (BitVec.ofNat 512 (leNat bs * 2 ^ (8 * o))) (byteMask o bs.length)
/-- A line with the pieces of a write that lie in it. -/
def overlayOne (line : Nat) (v : Line) (w : BufWrite) : Line :=
  (writePieces w.addr w.data).foldl (fun v p => if p.1 / 64 = line then patchLine v (p.1 % 64) p.2 else v) v
/-- A line as the readers of a cluster see it: with the writes that its mover still holds (Table 12-3). -/
def overlay (ws : List BufWrite) (line : Nat) (v : Line) : Line := ws.foldl (overlayOne line) v

/-- The line after the last one that a context read through its mover, and how many it has read in a row (R328). -/
def lastLine (s : State) (c : CtxId) : Nat × Nat := smGet (0, 0) s.cl.lastLine (ctxKey c)
/-- The mover of a context's cluster sees it read a line. -/
def noteRead (s : State) (c : CtxId) (line : Nat) : State :=
  let run := if (lastLine s c).1 = line then (lastLine s c).2 + 1 else 1
  { s with cl := { s.cl with lastLine := smSet (0, 0) s.cl.lastLine (ctxKey c) (line + 1, run) } }
/-- The mover detects sequential reads of a context: two lines or more in a row (R328; the number is a DESIGN CHOICE, log entry 125). -/
def sequential (s : State) (c : CtxId) : Bool := decide (2 ≤ (lastLine s c).2)

/-- A context reads a line by its system address: from its read-ahead entries where `mover` says so, else through its C-die. -/
def ctxLine (s : State) (c : CtxId) (cls : MemClass) (mover : Bool) (line : Nat) : State × (Bad ⊕ Line) :=
  let cl := clusterOf c.te
  let s := if mover then noteRead s c line else s
  let ahead := if mover then (readAhead s cl).find? (fun e => decide (e.1 = c) && decide (e.2.1 = line)) else none
  match ahead with
  | some e => (s, .inr (overlay (writeBuf s cl) line e.2.2))
  | none =>
    match dieRead s (dieOf c.te) cls (mover && flagR s (Reg.dcCtrl (dieOf c.te)) 1) line with
    | (s, .inr v) => (s, .inr (overlay (writeBuf s cl) line v))
    | r => r

/-- Reads the line pieces of a range by context virtual address. -/
def readPieces (s : State) (c : CtxId) (table : Nat) (cls : MemClass) (mover : Bool) : List (Nat × Nat) → State × (Bad ⊕ List Byte)
  | [] => (s, .inr [])
  | (va, n) :: rest =>
    match translate s c.te table va with
    | (s, .inl b) => (s, .inl b)
    | (s, .inr sa) =>
      match ctxLine s c cls mover (sa / 64) with
      | (s, .inl b) => (s, .inl b)
      | (s, .inr v) =>
        match readPieces s c table cls mover rest with
        | (s, .inr t) => (s, .inr (((lineBytes v).drop (sa % 64)).take n ++ t))
        | r => r

/-- A context reads bytes of memory by context virtual address. -/
def ctxRead (s : State) (c : CtxId) (table : Nat) (cls : MemClass) (mover : Bool) (va n : Nat) : State × (Bad ⊕ List Byte) :=
  readPieces s c table cls mover (linePieces va n)

/-- The mover reads ahead of a run of sequential reads, as many lines as the open value says, up to its buffer (R328). -/
def prefetch (s : State) (c : CtxId) (table : Nat) (cls : MemClass) (va : Nat) : State :=
  let (n, s) := draw s
  let count := min (Config.readAheadLines n) 256
  (List.range count).foldl (fun s i =>
    match translate s c.te table ((va / 64 + i) * 64) with
    | (s, .inl _) => s
    | (s, .inr sa) =>
      match dieRead s (dieOf c.te) cls (flagR s (Reg.dcCtrl (dieOf c.te)) 1) (sa / 64) with
      | (s, .inl _) => s
      | (s, .inr v) =>
        let cl := clusterOf c.te
        setReadAhead s cl (((readAhead s cl).filter fun e => !(decide (e.1 = c) && decide (e.2.1 = sa / 64))) ++ [(c, sa / 64, v)])) s

/-- Translates the line pieces of writes and checks their addresses, so that a failing write writes nothing: system address, bytes, and the index of the segment. -/
def placePieces (s : State) (c : CtxId) (table : Nat) : List (Nat × List Byte) → State × (Bad ⊕ List (Nat × List Byte × Nat))
  | [] => (s, .inr [])
  | (va, bs) :: rest =>
    match translateBy s c.te table va with
    | (s, .inl b) => (s, .inl b)
    | (s, .inr (i, sa)) =>
      if !lineOk s (sa / 64) then (s, .inl (addrBad sa))
      else match placePieces s c table rest with
        | (s, .inr t) => (s, .inr ((sa, bs, i) :: t))
        | r => r

/-- A context's writes are accepted by its cluster mover (R326): runs of bytes by context virtual address. -/
def ctxWrite (s : State) (c : CtxId) (table number : Nat) (runs : List (Nat × List Byte)) : State × Option Bad :=
  match placePieces s c table ((runs.map fun r => writePieces r.1 r.2).flatten) with
  | (s, .inl b) => (s, some b)
  | (s, .inr ps) =>
    let cl := clusterOf c.te
    (setWriteBuf s cl (writeBuf s cl ++ ps.map fun p => { ctx := c, number := number, addr := p.1, data := p.2.1, table := table, index := p.2.2, era := s.xlt.era }), none)

/-- A context's own read-ahead entry of a line follows its write (R323, R328). -/
def patchAhead (s : State) (c : CtxId) (line o : Nat) (bs : List Byte) : State :=
  let cl := clusterOf c.te
  setReadAhead s cl ((readAhead s cl).map fun e => if e.1 = c ∧ e.2.1 = line then (e.1, e.2.1, patchLine e.2.2 o bs) else e)
/-- A piece of a buffered write reaches its home; the context's own read-ahead entry follows it (R323, R328). -/
def drainPiece (s : State) (c : CtxId) (p : Nat × List Byte) : State × Option Bad :=
  let d := dieOf c.te
  let s := patchAhead s c (p.1 / 64) (p.1 % 64) p.2
  dieWrite s d (ctxKey c) (flagR s (Reg.dcCtrl d) 1) (p.1 / 64) (patchLine 0 (p.1 % 64) p.2) (byteMask (p.1 % 64) p.2.length)
/-- The pieces of a write reach their homes: the first that does not, with its reason. -/
def drainPieces (s : State) (c : CtxId) : List (Nat × List Byte) → State × Option ((Nat × List Byte) × Bad)
  | [] => (s, none)
  | p :: rest =>
    match drainPiece s c p with
    | (t, none) => drainPieces t c rest
    | (t, some b) => (t, some (p, b))
/-- A buffered write reaches its home: all of it, or nothing (R168). -/
def drainOne (s : State) (w : BufWrite) : State × Option Bad :=
  match drainPieces s w.ctx (writePieces w.addr w.data) with
  | (t, none) => (t, none)
  | (_, some (p, b)) => ((drainPiece s w.ctx p).1, some b)

/-- A buffered write has bytes in a line. -/
def BufWrite.onLine (w : BufWrite) (line : Nat) : Bool := decide (w.addr / 64 ≤ line ∧ line ≤ (w.addr + w.data.length - 1) / 64)
/-- Two buffered writes keep their order: those of one context, which drain in program order (R338), and those with a line in common, of which a reader in the cluster has seen the later (R323, Table 12-3). -/
def BufWrite.ordered (a b : BufWrite) : Bool :=
  decide (a.ctx = b.ctx) || decide (a.addr / 64 ≤ (b.addr + b.data.length - 1) / 64 ∧ b.addr / 64 ≤ (a.addr + a.data.length - 1) / 64)
/-- The buffered writes that a test picks, with those that must drain before them. -/
def neededWrites (pick : BufWrite → Bool) (ws : List BufWrite) : List BufWrite :=
  ws.foldr (fun w l => if pick w || l.any w.ordered then w :: l else l) []
/-- A write leaves its mover's buffer. -/
def popWrite (s : State) (w : BufWrite) : State :=
  let cl := clusterOf w.ctx.te
  setWriteBuf s cl ((writeBuf s cl).erase w)
/-- Seam holds a write on its way to its home (R18). -/
def seamHolds (s : State) (w : BufWrite) : Bool :=
  (writePieces w.addr w.data).any fun p => !diesJoined s (accessDies s (88 + (dieOf w.ctx.te).val) (p.1 / 64))
/-- A write that Seam holds has been sent (R455). -/
def markSent (s : State) (w : BufWrite) : State :=
  let cl := clusterOf w.ctx.te
  if seamHolds s w then setWriteBuf s cl ((writeBuf s cl).replace w { w with sent := true }) else s
/-- Buffered writes reach their homes in order (R338), each leaving the buffer; the failures are answered with the contexts and the numbers of their operations. One that is held keeps the later ones that are ordered behind it, `stuck` (R18). -/
def drainList (s : State) (stuck : List BufWrite) : List BufWrite → State × List (CtxId × Nat × Bad)
  | [] => (s, [])
  | w :: rest =>
    if stuck.any w.ordered then
      match drainList s (w :: stuck) rest with
      | (t, l) => (t, (w.ctx, w.number, heldBad (w.addr / 64)) :: l)
    else match drainOne s w with
      | (t, none) => drainList (popWrite t w) stuck rest
      | (t, some b) =>
        if b.held then
          match drainList (markSent s w) (w :: stuck) rest with
          | (t, l) => (t, (w.ctx, w.number, b) :: l)
        else match drainList (popWrite t w) stuck rest with
          | (t, l) => (t, (w.ctx, w.number, b) :: l)

/-- The writes of a cluster's mover that a test picks leave for their homes, behind those that come before them (R323, R338). -/
def drainPicked (s : State) (cl : Fin 64) (pick : BufWrite → Bool) : State × List (CtxId × Nat × Bad) :=
  drainList s [] (neededWrites pick (writeBuf s cl))
/-- The writes of a context up to an operation's number leave its mover for their homes, and every write of the cluster to some lines. -/
def drainTo (s : State) (c : CtxId) (number : Nat) (lines : List Nat) : State × List (CtxId × Nat × Bad) :=
  drainPicked s (clusterOf c.te) fun w => (decide (w.ctx = c) && decide (w.number ≤ number)) || lines.any w.onLine
/-- The writes of a context up to an operation's number leave its mover for their homes (R338). -/
def drainWrites (s : State) (c : CtxId) (number : Nat) : State × List (CtxId × Nat × Bad) := drainTo s c number []
/-- Seam delivers the writes that it held of contexts that a reset has ended, once their links are up (R338, R455). -/
def drainSeam : List BufWrite → State → State
  | [], s => s
  | w :: rest, s =>
    match drainOne s w with
    | (t, some b) => if b.held then drainSeam rest { s with fab := { s.fab with writes := s.fab.writes ++ [w] } } else drainSeam rest t
    | (t, none) => drainSeam rest t

/-- Reads a run of lines by system address as the dispatch engine or session unit of a C-die does. -/
def sysRead (s : State) (d : CDie) (cls : MemClass) (sa n : Nat) : State × (Bad ⊕ List Byte) :=
  match dieReadLines s d cls (sa / 64) ((sa + n + 63) / 64 - sa / 64) with
  | (s, .inr bs) => (s, .inr ((bs.drop (sa % 64)).take n))
  | r => r

/-- The bytes from an address as the readers of a cluster see them: with the writes that its mover still holds (R323, Table 12-3). -/
def withBuffered (s : State) (cl : Fin 64) (sa : Nat) (bs : List Byte) : List Byte :=
  (writeBuf s cl).foldl (fun bs w => bs.zipIdx.map fun p =>
    if w.addr ≤ sa + p.2 ∧ sa + p.2 < w.addr + w.data.length then w.data.getD (sa + p.2 - w.addr) 0 else p.1) bs

end Sys2Proof.Machine
end

