-- ==== Sys2Proof/Machine/Proxy.lean ====
section
/-! DEFINITION. The Orfin proxy, agent 84: its copies of companion lines, its requests at the companion's memory controller, and its answers to the companion's probes (R315, R345, R349). A line is a companion address divided by 64. -/

namespace Sys2Proof.Machine

/-- The proxy's copy of a companion line. -/
def getProxy (s : State) (line : Nat) : Copy := smGet {} s.orf.proxy line
/-- The proxy's copy of a companion line takes a value. -/
def setProxy (s : State) (line : Nat) (v : Copy) : State := { s with orf := { s.orf with proxy := smSet {} s.orf.proxy line v } }
/-- The proxy's request for a companion line takes a value. -/
def setProxyAsk (s : State) (line : Nat) (v : Option Ask) : State := { s with orf := { s.orf with proxyAsk := smSet none s.orf.proxyAsk line v } }
/-- The proxy's write-back buffer of a companion line. -/
def proxyBuf (s : State) (line : Nat) : Option EvictBuf := smGet none s.orf.proxyEvict line
/-- The proxy's write-back buffer of a companion line takes a value. -/
def setProxyBuf (s : State) (line : Nat) (v : Option EvictBuf) : State := { s with orf := { s.orf with proxyEvict := smSet none s.orf.proxyEvict line v } }
/-- Orfin carries messages. -/
def orfinUp (s : State) : Bool := linkUp s 23
/-- A message from the companion arrives, in a good flit, where Orfin is up. -/
def fromOrfin (s : State) (f : State → State) : State := if orfinUp s then f (heard s 23) else s
/-- A copy is dirty. -/
def CState.dirty (c : CState) : Bool := decide (c = .m ∨ c = .o)

/-- The proxy asks the companion's home for a line (class 0 of Table 13-2), where it has neither a request nor a write-back of it under way (R310). -/
def proxyAsk (s : State) (line : Nat) (k : Ask) : State :=
  let have_ := (getProxy s line).st
  if !orfinUp s ∨ (smGet none s.orf.proxyAsk line).isSome ∨ (proxyBuf s line).isSome ∨ (k = .fetchS ∧ have_ ≠ .i) ∨ have_ = .m then s
  else setProxyAsk (orfSend s (.ask k (64 * line))) line (some k)
/-- Fail from the companion: the request ends. -/
def proxyFail (s : State) (line : Nat) : State := setProxyAsk s line none
/-- The proxy gives up a line, into its write-back buffer, with the notice of R310. -/
def proxyEvict (s : State) (line : Nat) : State :=
  let c := getProxy s line
  if c.st = .i then s
  else setProxyBuf (setProxy (orfSend s (.evict c.st.dirty (64 * line) c.data)) line {}) line (some { dirty := c.st.dirty, data := c.data })
/-- EvictDirty or EvictClean of the proxy, for a copy of the right kind. -/
def proxyNotice (s : State) (line : Nat) (dirty : Bool) : State :=
  if orfinUp s && (proxyBuf s line).isNone && decide ((getProxy s line).st.dirty = dirty) then proxyEvict s line else s
/-- A BulkWrite bypasses the proxy, which first drops its copy: an eviction, which is announced (R310, R315). -/
def proxyDrop (s : State) (line : Nat) : State := proxyEvict s line
/-- The proxy's copies of the set of a line: 8 MiB in 16 ways, 8,192 sets (Table 11-1; the set is the line's number modulo 8,192, DESIGN CHOICE, log entry 134). -/
def proxyPeers (s : State) (line : Nat) : List Nat := (s.orf.proxy.map (·.1)).filter fun l => decide (l % 8192 = line % 8192 ∧ l ≠ line)
/-- The proxy makes room for a line; which one leaves a full set is an open value (log entry 134). -/
def proxyRoom (s : State) (line : Nat) : State :=
  let held := proxyPeers s line
  if held.length < 16 then s
  else
    let (n, s) := draw s
    match held[Config.proxyVictim n % held.length]? with
    | some v => proxyEvict s v
    | none => s
/-- The state that the companion's home grants for FetchS: E, F or S by what it knows of other copies (Table 11-5); the command does not carry it, and it is an open value (log entry 134). -/
def companionGrant (n : Nat) : CState := match Config.companionGrant n % 3 with
  | 0 => .e
  | 1 => .f
  | _ => .s
/-- LineData from the companion: the proxy has its copy and sends DoneAck (R311). -/
def proxyLine (s : State) (line : Nat) : State :=
  match smGet none s.orf.proxyAsk line with
  | none => s
  | some k =>
    let (n, s) := draw (setProxyAsk (proxyRoom s line) line none)
    let data := Config.companionLine n (64 * line)
    orfSend (setProxy s line { st := if k = .fetchX then .m else companionGrant n, data := data }) (.doneAck (64 * line))
/-- A probe of the companion's home is answered, from the copy by Table 11-5 or from the write-back buffer by Table 11-6; the companion sends no ProbeRecall (Table 13-2). -/
def proxyProbe (s : State) (line : Nat) (p : Probe) : State :=
  let c := getProxy s line
  let ca := 64 * line
  let give (s : State) (g : CState) (d : Line) : State := orfSend s (.lineData ca g d)
  if !orfinUp s ∨ p = .recall then s
  else if c.st = .i then
    match proxyBuf s line with
    | some b =>
      if b.superseded ∨ !b.dirty then orfSend s (.probeAck ca .i false true)
      else
        let s := if p = .peek then s else setProxyBuf s line (some { b with superseded := true })
        let s := if p = .kill then s else give s (if p = .share then .o else if p = .take then .m else .i) b.data
        orfSend s (.probeAck ca .i (decide (p ≠ .peek)) false)
    | none => orfSend s (.probeAck ca .i false true)
  else
    match probeOutcome c.st p with
    | (left, grant, data) =>
      let s := if left = .i then setProxy s line {} else setProxy s line { c with st := left }
      orfSend (if data then give s grant c.data else s) (.probeAck ca left false false)
/-- A ring engine reads a companion line through the proxy: its copy where it has one, else what the companion answers a Peek with, whose data are acknowledged (R311, R349). No answer comes while the proxy is writing the line back, when it sends no request for it (R310). -/
def proxyRead (s : State) (caddr : Nat) (answer : Option Line) : State × Option (Option Line) :=
  let ca := caddr / 64 * 64
  if (getProxy s (caddr / 64)).st ≠ .i then (s, some (some (getProxy s (caddr / 64)).data))
  else if (proxyBuf s (caddr / 64)).isSome then (s, none)
  else
    let s := orfSend s (.ask .peek ca)
    (if answer.isSome then orfSend s (.doneAck ca) else s, some answer)

end Sys2Proof.Machine
end

