-- ==== Sys2Proof/Machine/CohCmds.lean ====
section
/-! DEFINITION. The messages of coherence as commands: requests, evictions, probes and their answers (R304 to R319), and host additions to tallies (R342). -/

namespace Sys2Proof.Machine

/-- A requester stops because its request cannot be served: a host core takes an access fault (R243, R259, R339). -/
def agentFault (s : State) (a : Nat) (b : Bad) : State :=
  let s := if a < 80 then { s with harts := smMod {} s.harts a fun h => { h with accessFault := true } } else s
  place s { cls := b.cls, action := if a < 80 then 2 else 3, cause := b.cause, quar := b.quar, die := agentDie a, agent := a
            addr := b.addr, d0 := b.d0, d1 := b.d1 }

/-- The requests of an agent that are on their way (R322). -/
def outstanding (s : State) (a : Nat) : Nat :=
  (s.coh.home.map fun e => ((match e.2.txn with | some t => [t.req] | none => []) ++ e.2.waiting).countP fun r => decide (r.agent.val = a)).sum
    + s.coh.dones.countP fun m => decide (m.agent = a)
/-- The tags that an agent has (Table 12-1); a cluster mover's and a dispatch engine's are of the accesses that a command performs whole. -/
def agentTags (a : Nat) : Nat := if a < 80 then 128 else if a = 84 ∨ a = 85 then 256 else 2048
/-- A message between an agent and the home of a line is not held (R18, R458). -/
def joined (s : State) (line a : Nat) : Bool := !stackAsleep s line && diesJoined s [agentDie a, lineHome s line]

/-- A request reaches the home of its line (R304). An agent sends no request for a line whose write-back it holds (R310), no second one beside one on its way, and none without a free tag (R322); one that Seam or a switch-over holds has not come; an address without backing is an address error (R243). -/
def ask (s : State) (line : Nat) (r : HomeReq) : State :=
  if !noBuf s r.agent.val line || askAgent s line r.agent.val || decide (agentTags r.agent.val ≤ outstanding s r.agent.val) then s
  else if lineOk s line && (!joined s line r.agent.val || (paused s (64 * line) && decide (r.agent.val ≠ 85))) then s
  else if !lineOk s line then agentFault s r.agent.val (addrBad (64 * line))
  else submit s line r
where
  /-- A request of an agent for a line is on its way. -/
  askAgent (s : State) (line a : Nat) : Bool :=
    let h := getHome s line
    (match h.txn with | some t => decide (t.req.agent.val = a) && t.recallFor.isNone | none => false)
      || h.waiting.any (fun r => decide (r.agent.val = a)) || s.coh.dones.any fun m => decide (m.line = line) && decide (m.agent = a)

/-- The class of an agent's reads of memory: Tilth's and the mirroring reads of H1's port are P2 (Table 9-2). -/
def agentClass (a : Nat) : MemClass := if a = 85 ∨ a = 87 then .p2 else .p1
/-- Agents that hold copies of package lines send the caching requests (R313). -/
def holds (a : Agent) : Bool := decide (a.val < 84)
/-- A message between an agent and a home is delivered, where Seam does not hold it (R18); the home has taken by then what came before. -/
def message (a : Agent) (line : LineAddr) (f : State → State) (s : State) : Res :=
  clocked s fun s => if joined s line.toNat a.val then f (goOn s line.toNat) else s
/-- A message of coherence: of the proxy, whose lines are the companion's (R315), or of another agent and a home of the package. -/
def orProxy (a : Agent) (line : LineAddr) (proxy f : State → State) (s : State) : Res :=
  if a.val = 84 then clocked s fun s => fromOrfin s proxy else message a line f s

/-- FetchS (R311). -/
def execFetchS (a : Agent) (line : LineAddr) (s : State) : Res :=
  clocked s fun s => if holds a then ask s line.toNat { ask := .fetchS, agent := a } else if a.val = 84 then proxyAsk s line.toNat .fetchS else s
/-- FetchX (R311). -/
def execFetchX (a : Agent) (line : LineAddr) (s : State) : Res :=
  clocked s fun s => if holds a then ask s line.toNat { ask := .fetchX, agent := a } else if a.val = 84 then proxyAsk s line.toNat .fetchX else s
/-- Claim (R311, R312). -/
def execClaim (a : Agent) (line : LineAddr) (s : State) : Res :=
  clocked s fun s => if holds a then ask s line.toNat { ask := .claim, agent := a } else s
/-- ClaimZero (R311). -/
def execClaimZero (a : Agent) (line : LineAddr) (s : State) : Res :=
  clocked s fun s => if holds a then ask s line.toNat { ask := .claimZero, agent := a } else s
/-- Peek (R313). The proxy, agent 84, reaches no package line (R315). -/
def execPeek (a : Agent) (line : LineAddr) (s : State) : Res :=
  clocked s fun s => if a.val = 84 then s else ask s line.toNat { ask := .peek, agent := a, cls := agentClass a.val }
/-- PutLine (R313). -/
def execPutLine (a : Agent) (line : LineAddr) (data : Line) (s : State) : Res :=
  clocked s fun s => if a.val = 84 then s else ask s line.toNat { ask := .putLine, agent := a, data := data }
/-- PutBytes (R313). -/
def execPutBytes (a : Agent) (line : LineAddr) (data : Line) (mask : W64) (s : State) : Res :=
  clocked s fun s => if a.val = 84 then s else ask s line.toNat { ask := .putBytes, agent := a, data := data, mask := mask }
/-- HomeAtomic on an aligned word (R314). -/
def execHomeAtomic (a : Agent) (line : LineAddr) (offset : Fin 64) (op : AtomOp) (wide : Bool) (operand compare : W64) (s : State) : Res :=
  clocked s fun s =>
    if a.val = 84 ∨ offset.val % (if wide then 8 else 4) ≠ 0 then s
    else ask s line.toNat { ask := .homeAtomic, agent := a, op := op, offset := offset.val, wide := wide, operand := operand, compare := compare }

/-! ### Evictions (R309, R310, R316) -/

/-- A holder evicts a copy of the right kind, which it finds correctable (R267), or a notice that the home held is taken. The home takes it before the requests of the cycle (R309, R317). -/
def evictNotice (s : State) (a line : Nat) (dirty : Bool) : State :=
  let st := (getCopy s a line).st
  if 84 ≤ a ∨ (80 ≤ a ∧ isQuar s (a - 80) line) then s
  else if st ≠ .i ∧ decide (st = .m ∨ st = .o) = dirty ∧ noBuf s a line then
    match checkCopy s a line with
    | (s, true) => catchUp (evictCopy s a line) line
    | (s, false) => s
  else match getBuf s a line with
    | some b => if b.dirty = dirty ∧ !b.taken ∧ !probeOutTo s line a then catchUp (takeEvict s line a) line else s
    | none => s
/-- An eviction notice: the proxy's leaves on Orfin. -/
def noticeOf (a : Agent) (line : LineAddr) (proxy f : State → State) (s : State) : Res :=
  if a.val = 84 then clocked s proxy else clocked s fun s => if joined s line.toNat a.val then f s else s
/-- EvictDirty (R310, R316). -/
def execEvictDirty (a : Agent) (line : LineAddr) (s : State) : Res := noticeOf a line (proxyNotice · line.toNat true) (evictNotice · a.val line.toNat true) s
/-- EvictClean (R310). -/
def execEvictClean (a : Agent) (line : LineAddr) (s : State) : Res := noticeOf a line (proxyNotice · line.toNat false) (evictNotice · a.val line.toNat false) s
/-- EvictAck frees the write-back buffer (R310). -/
def execEvictAck (a : Agent) (line : LineAddr) (s : State) : Res :=
  orProxy a line (s := s) (setProxyBuf · line.toNat none) fun s => match getBuf s a.val line.toNat with
    | some b => if b.taken then setBuf s a.val line.toNat none else s
    | none => s

/-! ### Probes (R311, R316 to R319) -/

/-- The probe of a kind to an agent that has not been answered. -/
def probeTo (s : State) (line a : Nat) (p : Probe) : Option ProbeOut :=
  match (getHome s line).txn with
  | some t => t.probes.find? fun q => decide (q.agent = a) && decide (q.probe = p)
  | none => none
/-- A holder keeps a probe until a time (R318). -/
def holdProbe (s : State) (line a : Nat) (t : Nat) : State :=
  let h := getHome s line
  setHome s line { h with txn := h.txn.map fun x => { x with probes := x.probes.map fun q => if q.agent = a then { q with heldTo := some t } else q } }
/-- A probe reaches its holder, behind a Done that the home sent it before: it is answered, or held while the write that the copy was asked for is pending (R317), at most for HOLD_MAX cycles (R318). -/
def probeArrives (s : State) (line a : Nat) (p : Probe) : State :=
  match probeTo s line a p with
  | none => s
  | some q =>
    let s := doDone s line a
    if !mustHold s line a p then doProbe s line a p
    else if holdMax s a = 0 then releaseHold s line a p
    else if q.heldTo.isSome then s
    else holdProbe s line a (s.now + agentCycles s a (holdMax s a))
/-- ProbeShare. -/
def execProbeShare (a : Agent) (line : LineAddr) (s : State) : Res := orProxy a line (proxyProbe · line.toNat .share) (probeArrives · line.toNat a.val .share) s
/-- ProbeTake (R317). -/
def execProbeTake (a : Agent) (line : LineAddr) (s : State) : Res := orProxy a line (proxyProbe · line.toNat .take) (probeArrives · line.toNat a.val .take) s
/-- ProbeKill. -/
def execProbeKill (a : Agent) (line : LineAddr) (s : State) : Res := orProxy a line (proxyProbe · line.toNat .kill) (probeArrives · line.toNat a.val .kill) s
/-- ProbePeek (R313). -/
def execProbePeek (a : Agent) (line : LineAddr) (s : State) : Res := orProxy a line (proxyProbe · line.toNat .peek) (probeArrives · line.toNat a.val .peek) s
/-- ProbeRecall (R306, R319). -/
def execProbeRecall (a : Agent) (line : LineAddr) (s : State) : Res := orProxy a line (proxyProbe · line.toNat .recall) (probeArrives · line.toNat a.val .recall) s

/-- A snoop held for a pending write reaches HOLD_MAX: it is answered without the write, and the agent asks for the line again where the write still pends (R318). -/
def execSnoopHoldExpire (a : Agent) (line : LineAddr) (s : State) : Res :=
  message a line (s := s) fun s => match (probeTo s line.toNat a.val .take).bind (·.heldTo) with
    | some t => if mustHold s line.toNat a.val .take then releaseHold (advanceTo s t) line.toNat a.val .take else doProbe s line.toNat a.val .take
    | none => s

/-- ProbeAck (R316, R319). -/
def execProbeAck (a : Agent) (line : LineAddr) (s : State) : Res := message a line (s := s) fun s => doAck s line.toNat a.val
/-- Done (R304). -/
def execDone (a : Agent) (line : LineAddr) (s : State) : Res := orProxy a line id (doDone · line.toNat a.val) s
/-- The transaction of a line whose requester is an agent. -/
def txnOf (s : State) (line a : Nat) : Option Txn := (getHome s line).txn.filter fun t => decide (t.req.agent.val = a) && t.recallFor.isNone
/-- DoneAck (R304). -/
def execDoneAck (a : Agent) (line : LineAddr) (s : State) : Res :=
  message a line (s := s) fun s => if (txnOf s line.toNat a.val).isSome then doConfirm s line.toNat else s
/-- LineData, from the holder or the home that supplies it (R311). -/
def execLineData (a : Agent) (line : LineAddr) (s : State) : Res :=
  orProxy a line (s := s) (proxyLine · line.toNat) fun s => match txnOf s line.toNat a.val with
    | some t => if routeUp s t.lineDie (agentDie a.val) then doLine s line.toNat false else s
    | none => s
/-- Fail: the requester stops (R319, R259). -/
def execFail (a : Agent) (line : LineAddr) (s : State) : Res :=
  orProxy a line (s := s) (proxyFail · line.toNat) fun s => match (txnOf s line.toNat a.val).bind (·.fail) with
    | some b => doFail (agentFault s a.val b) line.toNat
    | none => s

/-! ### SetRecall (R307) -/

/-- An agent answers the recall of a directory set; with the last answer the home rebuilds the set (R307). -/
def execSetRecall (a : Agent) (die : Fin 6) (slice : Fin 16) (set : Fin 16384) (s : State) : Res :=
  clocked s fun s =>
    let key := dirSetKey die.val slice.val set.val
    let left := smGet [] s.coh.dirErr key
    if !(left.contains a.val) || !diesJoined s [agentDie a.val, die.val] then s
    else answerSetRecall s key a.val

/-! ### Tallies (R342) -/

/-- The tally of a die at a level and index of its window (Table 12-6). -/
def windowTally (d : CDie) (l : TallyLevel) (index : Nat) : Nat :=
  match l with
  | .cluster => tallyKey .cluster (16 * d.val + index / 256) (index % 256)
  | .region => tallyKey .region (4 * d.val + index / 1024) (index % 1024)
  | .die => tallyKey .die d.val index
/-- A host write adds to a tally (R342); during a compute reset the access is held until its end (R505, R506). -/
def execDieTallyAdd (d : CDie) (level : TallyLevel) (index : Fin 4096) (v : W32) (s : State) : Res :=
  clocked s fun s =>
    let key := windowTally d level index.val
    if bitAt s.brd.clockLost d.val then s
    else if 2 ≤ s.err.phase then { s with err := { s.err with heldAdds := s.err.heldAdds ++ [(key, v)] } }
    else tallyAdd s key v

end Sys2Proof.Machine
end

