-- ==== Sys2Proof/Machine/DieCache.lean ====
section
/-! DEFINITION. Disabling, enabling and invalidating a die cache, and releasing quarantined lines (R264 to R270). -/

namespace Sys2Proof.Machine

/-- The ways of a cache that are in use, by key. -/
def waysOf (s : State) (cache : Nat) : List (Nat × Way) :=
  s.coh.ways.filter fun e => decide (e.1 / 2097152 = cache)
/-- A way takes a value, by key. -/
def setWayKey (s : State) (k : Nat) (v : Way) : State := { s with coh := { s.coh with ways := smSet {} s.coh.ways k v } }

/-- A write of 0 to DC_CTRL.ENABLE starts a disable (R264). -/
def dcOff (s : State) (d : CDie) : State :=
  if dcEnabled s d then
    let s := raise (lower s (Reg.dcCtrl d) 0) (Reg.dcStatus d) 0
    { s with coh := { s.coh with unclean := smSet false s.coh.unclean d.val true } }
  else s
/-- A write of 1 to DC_CTRL.ENABLE enables the cache; without a completed invalidation since the disable, a stale enable is flagged and recorded (R266). -/
def dcOn (s : State) (d : CDie) : State :=
  if dcEnabled s d then s
  else
    let s := raise s (Reg.dcCtrl d) 0
    if smGet false s.coh.unclean d.val then
      place (raise s (Reg.dcStatus d) 2) { cls := 0x33, action := 3, cause := 0x01, die := d.val }
    else s

/-- A write of 0 to DC_CTRL.ENABLE (R264). -/
def execDcDisable (d : CDie) (s : State) : Res := clocked s fun s => dcOff s d
/-- A write of 1 to DC_CTRL.ENABLE (R266). -/
def execDcEnable (d : CDie) (s : State) : Res := clocked s fun s => dcOn s d

/-- A line of a cache being disabled is written back where dirty and released; its tag and data stay, stale (R264). A line stale since an earlier disable is written back where a store has made it dirty (R266). -/
def releaseWay (s : State) (d : CDie) (e : Nat × Way) : State :=
  if !e.2.valid || e.2.quarantined || e.2.retired then s
  else if e.2.stale then
    (if e.2.staleDirty then match checkStale s d.val e.2.line (e.1 % 16) with
      | (s, true) =>
        let v := getWay s d.val e.2.line (e.1 % 16)
        setWayKey (memWrite s .p1 (64 * e.2.line) v.staleData) e.1 { v with staleDirty := false }
      | (s, false) => s
    else s)
  else
    let a := 80 + d.val
    let line := e.2.line
    match checkCopy s a line with
    | (s, false) => s
    | (s, true) =>
      let data := (getCopy s a line).data
      let s := catchUp (evictCopy s a line) line
      let s := match getBuf s a line with
        | some b => if b.taken then setBuf s a line none else s
        | none => s
      setWayKey s e.1 { e.2 with stale := true, staleData := data, staleDirty := false, errs := 0 }

/-- The disable has written back and released every line (R264). -/
def execDcDisableDone (d : CDie) (s : State) : Res :=
  onDie s d.val fun s =>
    if dcDisabling s d then lower ((waysOf s d.val).foldl (fun s e => releaseWay s d e) s) (Reg.dcStatus d) 0 else s

/-- A write to DC_INVAL (R265). -/
def dcInvalidate (s : State) (d : CDie) (go : Bool) : State :=
  if go && !dcEnabled s d && !dcDisabling s d then
    let s := raise s (Reg.dcStatus d) 1
    { s with coh := { s.coh with invalEnd := smSet 0 s.coh.invalEnd d.val (cycleNow s + 8192) } }
  else raise s (Reg.dcStatus d) 4
/-- A write of 1 to DC_INVAL (R265). -/
def execDcInval (d : CDie) (s : State) : Res := clocked s fun s => dcInvalidate s d true

/-- A way that is neither quarantined nor retired is free, and the home drops what it held for the coherent set. -/
def dropWay (d : CDie) (s : State) (e : Nat × Way) : State :=
  if e.2.quarantined || e.2.retired then s
  else if e.2.valid && !e.2.stale then dirDrop (setWayKey (setCopy s (80 + d.val) e.2.line {}) e.1 {}) e.2.line (80 + d.val)
  else setWayKey s e.1 {}
/-- The invalidation ends: every way but quarantined and retired ones is free (R265). -/
def execDcInvalDone (d : CDie) (s : State) : Res :=
  onDie s d.val fun s =>
    if !(flagR s (Reg.dcStatus d) 1) then s
    else
      let s := advanceCycle s (smGet 0 s.coh.invalEnd d.val)
      let s := (waysOf s d.val).foldl (dropWay d) s
      let s := lower s (Reg.dcStatus d) 1
      { s with coh := { s.coh with unclean := smSet false s.coh.unclean d.val false, invalEnd := smSet 0 s.coh.invalEnd d.val 0 } }

/-! ### Release of quarantined lines (R269) -/

/-- The word beside QCMD that holds bits [10:6] of an address (Table 9-6). -/
def qcmdLow (die : Nat) : Reg := ⟨regBase die (if die < 4 then 3 else 8) + 0x48, 0, 0x1F, 0, 0⟩
/-- The key of the quarantined way that a QCMD names, with its line, and where the slice keeps it the slot; none where the slot is empty or the address is not quarantined. A system cache's way may hold a check line, named by its group's first line (R245, R269). -/
def qcmdTarget (s : State) (die : Nat) (v : W64) : Option (Nat × Nat) :=
  if bitAt v 2 then
    let line := bits v 63 11 * 32 + bits (getR s (qcmdLow die)) 4 0
    ((s.coh.ways.filter fun e => decide (e.1 / 2097152 = die) && e.2.quarantined && e.2.valid && decide (e.2.line = line)).head?).map fun e => (e.1, line)
  else
    let q := smGet 0 s.coh.qslots (16 * (16 * die + bits v 6 3) + bits v 10 7)
    if bitAt q 0 then some (wayKey die (bits q 63 6) (bits q 5 2), bits q 63 6) else none
/-- A quarantined line is released: its slot is free, its way free or retired, and the home drops the copy (R269). -/
def qcmd (s : State) (die : Nat) (retire : Bool) (v : W64) : State :=
  match qcmdTarget s die v with
  | none => if h : die < 4 then raise s (Reg.dcStatus ⟨die, h⟩) 4 else raise s (Reg.lpdStatus (if die = 4 then 0 else 1)) 0
  | some (key, line) =>
    let s := setWayKey s key { retired := retire }
    let base := 16 * (16 * die + cacheSlice die line)
    let s := { s with coh := { s.coh with qslots := s.coh.qslots.filter fun e =>
      !(decide (base ≤ e.1) && decide (e.1 < base + 16) && decide (bits e.2 63 6 = line) && decide (bits e.2 5 2 = key % 16)) } }
    let s := setDir s line { getDir s line with pinned := (List.range 6).any fun c => isQuar s c line }
    if die < 4 then dirDrop (setCopy s (80 + die) line {}) line (80 + die) else s

/-- DISCARD frees the way and the slot (R269). -/
def execQcmdDiscard (die : Fin 6) (v : W64) (s : State) : Res := clocked s fun s => qcmd s die.val false v
/-- RETIRE frees the slot and leaves the way out of use (R269). -/
def execQcmdRetire (die : Fin 6) (v : W64) (s : State) : Res := clocked s fun s => qcmd s die.val true v

end Sys2Proof.Machine
end

