-- ==== Sys2Proof/Machine/Float.lean ====
section
/-! DEFINITION. Floating-point values as exact dyadic numbers, their encodings, and the roundings of the spec (R29 to R36, R42 to R46, R90, R92). -/

namespace Sys2Proof.Machine

/-- A value: NaN, an infinity, or a signed dyadic number `± m × 2^e`; a zero keeps its sign. -/
inductive FV where
  | nan
  | inf (neg : Bool)
  | fin (neg : Bool) (m : Nat) (e : Int)
deriving DecidableEq, Repr

/-- Positive zero. -/
def FV.zero : FV := .fin false 0 0
/-- The number one. -/
def FV.one : FV := .fin false 1 0

/-- How a format codes infinities and NaNs (Table 2-2, Table 2-4). -/
inductive Specials where
  | ieee
  | e4m3
  | none
deriving DecidableEq, Repr

/-- A scalar floating-point layout (Table 2-2, Table 2-4). -/
structure FpFormat where
  eb : Nat
  mb : Nat
  bias : Nat
  sp : Specials
deriving DecidableEq, Repr

def fp32 : FpFormat := ⟨8, 23, 127, .ieee⟩
def bf16 : FpFormat := ⟨8, 7, 127, .ieee⟩
def fp16 : FpFormat := ⟨5, 10, 15, .ieee⟩
def e4m3 : FpFormat := ⟨4, 3, 7, .e4m3⟩
def e5m2 : FpFormat := ⟨5, 2, 15, .ieee⟩
def e3m2 : FpFormat := ⟨3, 2, 3, .none⟩
def e2m3 : FpFormat := ⟨2, 3, 1, .none⟩
def e2m1 : FpFormat := ⟨2, 1, 1, .none⟩

/-- The largest finite magnitude's code. -/
def FpFormat.maxFinite (f : FpFormat) : Nat :=
  match f.sp with
  | .ieee => (2 ^ f.eb - 1) * 2 ^ f.mb - 1
  | .e4m3 => 2 ^ (f.eb + f.mb) - 2
  | .none => 2 ^ (f.eb + f.mb) - 1
/-- The exponent of the largest normal (Table 2-4). -/
def FpFormat.emax (f : FpFormat) : Int :=
  match f.sp with
  | .ieee => (2 ^ f.eb - 2 : Nat) - (f.bias : Int)
  | _ => (2 ^ f.eb - 1 : Nat) - (f.bias : Int)
/-- The canonical NaN's code (Table 2-3); zero where the format has none. -/
def FpFormat.nanCode (f : FpFormat) : Nat :=
  match f.sp with
  | .ieee => (2 ^ f.eb - 1) * 2 ^ f.mb + 2 ^ (f.mb - 1)
  | .e4m3 => 2 ^ (f.eb + f.mb) - 1
  | .none => 0

/-- The value of a code (R29, R30, R36). -/
def FpFormat.decode (f : FpFormat) (c : Nat) : FV :=
  let neg := decide (c / 2 ^ (f.eb + f.mb) % 2 = 1)
  let ex := c / 2 ^ f.mb % 2 ^ f.eb
  let man := c % 2 ^ f.mb
  let low : Int := 1 - (f.bias : Int) - f.mb
  if f.sp = .ieee ∧ ex = 2 ^ f.eb - 1 then (if man = 0 then .inf neg else .nan)
  else if f.sp = .e4m3 ∧ ex = 2 ^ f.eb - 1 ∧ man = 2 ^ f.mb - 1 then .nan
  else if ex = 0 then .fin neg man low
  else .fin neg (2 ^ f.mb + man) (low + ex - 1)

/-- Rounding modes: nearest even, stochastic with the number of its random integer (R43), and toward zero (R46). -/
inductive Rnd where
  | rne
  | sr (n : Nat)
  | rtz
deriving DecidableEq, Repr

/-- The magnitude `m × 2^e` as a whole number of units `2^q`, rounded. -/
def roundUnits (r : Rnd) (m : Nat) (e q : Int) : Nat :=
  if q ≤ e then m * 2 ^ (e - q).toNat
  else
    let d := (q - e).toNat
    let lo := m / 2 ^ d
    let rem := m % 2 ^ d
    match r with
    | .rtz => lo
    | .rne => if 2 ^ d < 2 * rem ∨ (2 * rem = 2 ^ d ∧ lo % 2 = 1) then lo + 1 else lo
    | .sr n => if bits (Config.srDraw n) 15 0 < rem * 65536 / 2 ^ d then lo + 1 else lo

/-- The code of a value, rounded; `sat` tells whether a finite overflow takes the largest finite magnitude or the infinity (R42). -/
def FpFormat.encode (f : FpFormat) (r : Rnd) (sat : Bool) (v : FV) : Nat :=
  let sgn (neg : Bool) : Nat := if neg then 2 ^ (f.eb + f.mb) else 0
  match v with
  | .nan => f.nanCode
  | .inf neg => sgn neg + (if f.sp = .ieee then (2 ^ f.eb - 1) * 2 ^ f.mb else f.maxFinite)
  | .fin neg 0 _ => sgn neg
  | .fin neg m e =>
    let lead : Int := (Nat.log2 m : Int) + e
    let emin : Int := 1 - (f.bias : Int)
    let base : Int := emin - f.mb
    let q : Int := max lead emin - f.mb
    let n := roundUnits r m e q
    let code := n + (q - base).toNat * 2 ^ f.mb
    sgn neg + (if f.maxFinite < code then (if sat then f.maxFinite else (2 ^ f.eb - 1) * 2 ^ f.mb) else code)

/-- The value of an FP32 word. -/
def dec32 (w : W32) : FV := fp32.decode w.toNat
/-- Rounds to FP32, nearest even; a result beyond the range becomes an infinity (R42, R92). -/
def rne32 (v : FV) : W32 := BitVec.ofNat 32 (fp32.encode .rne false v)
/-- The canonical FP32 NaN (Table 2-3). -/
def nan32 : W32 := 0x7FC00000
/-- +∞ and −∞ in FP32. -/
def inf32 (neg : Bool) : W32 := if neg then 0xFF800000 else 0x7F800000

/-- The sign of a value; a NaN has none. -/
def FV.isNeg : FV → Bool
  | .nan => false
  | .inf n => n
  | .fin n _ _ => n
/-- A NaN. -/
def FV.isNan : FV → Bool
  | .nan => true
  | _ => false
/-- An infinity. -/
def FV.isInf : FV → Bool
  | .inf _ => true
  | _ => false
/-- A zero of either sign. -/
def FV.isZero : FV → Bool
  | .fin _ 0 _ => true
  | _ => false
/-- The value with its sign turned round. -/
def FV.neg : FV → FV
  | .nan => .nan
  | .inf n => .inf (!n)
  | .fin n m e => .fin (!n) m e
/-- The magnitude. -/
def FV.abs : FV → FV
  | .nan => .nan
  | .inf _ => .inf false
  | .fin _ m e => .fin false m e

/-- A signed magnitude as an integer. -/
def signed (neg : Bool) (m : Nat) : Int := if neg then -(m : Int) else m

/-- The exact sum; a sum that is exactly zero takes the sign of round-to-nearest-even (R31). -/
def FV.add : FV → FV → FV
  | .nan, _ => .nan
  | _, .nan => .nan
  | .inf a, .inf b => if a = b then .inf a else .nan
  | .inf a, .fin _ _ _ => .inf a
  | .fin _ _ _, .inf b => .inf b
  | .fin na ma ea, .fin nb mb eb =>
    let e := min ea eb
    let s := signed na ma * 2 ^ (ea - e).toNat + signed nb mb * 2 ^ (eb - e).toNat
    if s = 0 then .fin (na && nb) 0 0 else .fin (decide (s < 0)) s.natAbs e

/-- The exact product. -/
def FV.mul : FV → FV → FV
  | .nan, _ => .nan
  | _, .nan => .nan
  | .inf a, .inf b => .inf (a != b)
  | .inf a, .fin nb mb _ => if mb = 0 then .nan else .inf (a != nb)
  | .fin na ma _, .inf b => if ma = 0 then .nan else .inf (na != b)
  | .fin na ma ea, .fin nb mb eb => .fin (na != nb) (ma * mb) (ea + eb)

/-- The value times a power of two. -/
def FV.scale (k : Int) : FV → FV
  | .fin n m e => .fin n m (e + k)
  | v => v

/-- Numbers in order: less than; false where either is a NaN; zeros of both signs are equal. -/
def FV.lt : FV → FV → Bool
  | .nan, _ => false
  | _, .nan => false
  | .inf a, .inf b => a && !b
  | .inf a, .fin _ _ _ => a
  | .fin _ _ _, .inf b => !b
  | .fin na ma ea, .fin nb mb eb =>
    let e := min ea eb
    decide (signed na ma * 2 ^ (ea - e).toNat < signed nb mb * 2 ^ (eb - e).toNat)
/-- Numbers in order: equal; false where either is a NaN. -/
def FV.eq (a b : FV) : Bool := !a.isNan && !b.isNan && !a.lt b && !b.lt a

/-- FP32 addition, nearest even (R92). -/
def fadd (a b : W32) : W32 := rne32 ((dec32 a).add (dec32 b))
/-- FP32 subtraction, nearest even. -/
def fsub (a b : W32) : W32 := rne32 ((dec32 a).add (dec32 b).neg)
/-- FP32 multiplication, nearest even. -/
def fmul (a b : W32) : W32 := rne32 ((dec32 a).mul (dec32 b))
/-- FP32 fused multiply-add, one rounding (R101). -/
def ffma (a b c : W32) : W32 := rne32 (((dec32 a).mul (dec32 b)).add (dec32 c))
/-- The larger of two numbers; a NaN prevails, and +0 over −0 (R32, R101). -/
def fmax (a b : W32) : W32 :=
  let x := dec32 a; let y := dec32 b
  if x.isNan || y.isNan then nan32
  else if x.lt y then b else if y.lt x then a else if x.isNeg then b else a
/-- The smaller of two numbers; a NaN prevails, and −0 under +0 (R32). -/
def fmin (a b : W32) : W32 :=
  let x := dec32 a; let y := dec32 b
  if x.isNan || y.isNan then nan32
  else if x.lt y then a else if y.lt x then b else if x.isNeg then a else b

/-- Adjacent pairs are added, and so on; `fuel` bounds the levels (R82). -/
def treeSum : Nat → List W32 → W32
  | 0, l => l.headD 0
  | n + 1, l =>
    let rec pairs : List W32 → List W32
      | a :: b :: t => fadd a b :: pairs t
      | l => l
    treeSum n (pairs l)

/-! ### Block sums (R90) -/

/-- The value of one block: `ps` its products, `sc` the sum of the two scale exponents, `bad` where a scale is NaN. -/
def blockValue (ps : List FV) (sc : Int) (bad : Bool) : W32 :=
  if bad || ps.any FV.isNan || (ps.any (fun p => p == .inf true) && ps.any (fun p => p == .inf false)) then nan32
  else if ps.any (fun p => p == .inf true) then inf32 true
  else if ps.any (fun p => p == .inf false) then inf32 false
  else if ps.all FV.isZero then (if ps.all FV.isNeg then 0x80000000 else 0)
  else
    let lead : FV → Option Int
      | .fin _ m e => if m = 0 then none else some ((Nat.log2 m : Int) + e)
      | _ => none
    let top := ((ps.filterMap lead).foldl (fun a b => match a with | none => some b | some x => some (max x b)) (none : Option Int)).getD 0
    let q := top - 63
    let part : FV → Int
      | .fin n m e => signed n (roundUnits .rtz m e q)
      | _ => 0
    let sum : Int := (ps.map part).foldl (· + ·) 0
    rne32 (if sum = 0 then FV.zero else .fin (decide (sum < 0)) sum.natAbs (q + sc))

/-- The hi and lo parts of an FP32 operand as BF16 values; none marks a structural zero (R46). -/
def split32 (w : W32) : Option FV × Option FV :=
  match dec32 w with
  | .inf n => (some (.inf n), none)
  | .nan => (some .nan, none)
  | .fin n m e =>
    if m = 0 then (some (.fin n 0 e), some FV.zero)
    else
      let hi := bf16.decode (bf16.encode .rtz true (.fin n m e))
      let lo := bf16.decode (bf16.encode .rne true ((FV.fin n m e).add hi.neg))
      (if hi.isZero then none else some hi, if lo.isZero then none else some lo)

/-- A product in an emulated pass: a structural zero gives +0 (R46). -/
def splitMul : Option FV → Option FV → FV
  | some a, some b => a.mul b
  | _, _ => FV.zero

end Sys2Proof.Machine
end

