-- ==== Sys2Proof/Machine/Formats.lean ====
section
/-! DEFINITION. The element formats, their packing and the conversions between them (R27, R28, R33 to R45). -/

namespace Sys2Proof.Machine

/-- The formats of Table 2-1. -/
inductive Fmt where
  | fp32
  | bf16
  | fp16
  | e4m3
  | e5m2
  | int8
  | int4
  | mx8e4
  | mx8e5
  | mx6e3
  | mx6e2
  | mx4
  | cw4
  | cw8e4
  | cw8e5
deriving DecidableEq, Repr

/-- The format of a code; none for a reserved code (Table 2-1). -/
def Fmt.ofCode : Nat → Option Fmt
  | 0x00 => some .fp32
  | 0x01 => some .bf16
  | 0x02 => some .fp16
  | 0x03 => some .e4m3
  | 0x04 => some .e5m2
  | 0x05 => some .int8
  | 0x06 => some .int4
  | 0x08 => some .mx8e4
  | 0x09 => some .mx8e5
  | 0x0A => some .mx6e3
  | 0x0B => some .mx6e2
  | 0x0C => some .mx4
  | 0x10 => some .cw4
  | 0x11 => some .cw8e4
  | 0x12 => some .cw8e5
  | _ => none

/-- The MX format that a coded format decodes to (Table 2-1). -/
def Fmt.decoded : Fmt → Fmt
  | .cw4 => .mx4
  | .cw8e4 => .mx8e4
  | .cw8e5 => .mx8e5
  | f => f
/-- A coded-weight format. -/
def Fmt.isCw : Fmt → Bool
  | .cw4 => true
  | .cw8e4 => true
  | .cw8e5 => true
  | _ => false
/-- An MX format. -/
def Fmt.isMx : Fmt → Bool
  | .mx8e4 => true
  | .mx8e5 => true
  | .mx6e3 => true
  | .mx6e2 => true
  | .mx4 => true
  | _ => false
/-- An integer format. -/
def Fmt.isInt : Fmt → Bool
  | .int8 => true
  | .int4 => true
  | _ => false
/-- A scalar floating-point format. -/
def Fmt.isFloat : Fmt → Bool
  | .fp32 => true
  | .bf16 => true
  | .fp16 => true
  | .e4m3 => true
  | .e5m2 => true
  | _ => false
/-- Bits of an element (Table 2-1); of a coded format, of what it decodes to. -/
def Fmt.width : Fmt → Nat
  | .fp32 => 32
  | .bf16 => 16
  | .fp16 => 16
  | .int4 => 4
  | .mx6e3 => 6
  | .mx6e2 => 6
  | .mx4 => 4
  | .cw4 => 4
  | _ => 8
/-- The floating-point layout of an element; none for integers. -/
def Fmt.layout : Fmt → Option FpFormat
  | .fp32 => some Machine.fp32
  | .bf16 => some Machine.bf16
  | .fp16 => some Machine.fp16
  | .e4m3 => some Machine.e4m3
  | .e5m2 => some Machine.e5m2
  | .mx8e4 => some Machine.e4m3
  | .cw8e4 => some Machine.e4m3
  | .mx8e5 => some Machine.e5m2
  | .cw8e5 => some Machine.e5m2
  | .mx6e3 => some Machine.e3m2
  | .mx6e2 => some Machine.e2m3
  | .mx4 => some Machine.e2m1
  | .cw4 => some Machine.e2m1
  | .int8 => none
  | .int4 => none
/-- A drain output (Table 2-1). -/
def Fmt.drains : Fmt → Bool
  | .fp32 => true
  | .bf16 => true
  | .fp16 => true
  | .e4m3 => true
  | .e5m2 => true
  | .mx8e4 => true
  | .mx8e5 => true
  | _ => false
/-- The MMA rate class in MACs per cycle (Table 2-1); emulated FP32 runs in three passes at 8,192. -/
def Fmt.rate : Fmt → Nat
  | .fp32 => 8192
  | .bf16 => 8192
  | .fp16 => 8192
  | .int4 => 32768
  | .mx4 => 32768
  | .cw4 => 32768
  | _ => 16384

/-! ### Packing (R39) -/

/-- Element codes packed into bytes, element 0 in the lowest bits. -/
def packCodes (b : Nat) (l : List Nat) : List Byte :=
  bytesOf (ceilDiv' (b * l.length) 8) (l.foldr (fun c n => c + 2 ^ b * n) 0)
/-- `n` element codes from packed bytes. -/
def unpackCodes (b : Nat) (l : List Byte) (n : Nat) : List Nat :=
  let v := leNat l
  (List.range n).map fun i => v / 2 ^ (b * i) % 2 ^ b

/-! ### Values of elements (R29, R33, R35, R36) -/

/-- A two's-complement code as an integer. -/
def intOf (b c : Nat) : Int := if c < 2 ^ (b - 1) then c else (c : Int) - 2 ^ b
/-- An integer as a value. -/
def FV.ofInt (i : Int) : FV := .fin (decide (i < 0)) i.natAbs 0
/-- The value of an E8M0 scale times a value (R35). -/
def scaled (code : Nat) (v : FV) : FV := if code = 255 then .nan else v.scale ((code : Int) - 127)
/-- The value of an element; `sc` is its block's scale code, which only MX and coded formats use. -/
def Fmt.value (f : Fmt) (c sc : Nat) : FV :=
  match f.layout with
  | none => FV.ofInt (intOf f.width c)
  | some l => if f.isMx || f.isCw then scaled sc (l.decode c) else l.decode c

/-! ### Conversions (R40 to R45) -/

/-- The largest finite FP32 value, with a sign. -/
def maxFv32 (neg : Bool) : FV := .fin neg (2 ^ 24 - 1) 104
/-- Rounding by the `i`th random integer from `sr` on, or to nearest even. -/
def rndAt (sr : Option Nat) (i : Nat) : Rnd :=
  match sr with
  | some n => .sr (n + i)
  | none => .rne

/-- Converts up to 32 values into an MX block: the scale code, and the element codes (R40). -/
def mxBlock (l : FpFormat) (sr : Option Nat) (vs : List FV) : Nat × List Nat :=
  if vs.any FV.isNan then (255, vs.map fun _ => 0)
  else
    let keepInf := decide (l.sp = .ieee)
    let w : FV → FV
      | .inf n => if keepInf then .fin n 0 0 else maxFv32 n
      | v => v
    let lead : FV → Option Int
      | .fin _ m e => if m = 0 then none else some ((Nat.log2 m : Int) + e)
      | _ => none
    let top : Option Int := (vs.filterMap fun v => lead (w v)).max?
    let x : Int := match top with
      | none => -127
      | some t => max (-127) (min 127 (t - l.emax))
    let code : FV × Nat → Nat := fun p => match p.1 with
      | .inf n => if keepInf then l.encode .rne true (.inf n) else l.encode (rndAt sr p.2) true ((w (.inf n)).scale (-x))
      | v => l.encode (rndAt sr p.2) true (v.scale (-x))
    ((x + 127).toNat, vs.zipIdx.map code)

/-- Converts a value to an integer code: nearest even, saturating, NaN to 0 (R45). -/
def toIntCode (b : Nat) (v : FV) : Nat :=
  let lim : Nat := 2 ^ (b - 1)
  let clamp (neg : Bool) (m : Nat) : Nat := if neg then (2 ^ b - min m lim) % 2 ^ b else min m (lim - 1)
  match v with
  | .nan => 0
  | .inf neg => clamp neg lim
  | .fin neg m e => clamp neg (roundUnits .rne m e 0)

/-- Converts a value into a scalar floating-point format: FP32 never saturates and always rounds to nearest even (R42, R43). -/
def scalarCode (l : FpFormat) (r : Rnd) (v : FV) : Nat :=
  if l = fp32 then l.encode .rne false v else l.encode r true v

/-- A list cut into runs of `n`. -/
def chunks {α : Type} (n : Nat) (l : List α) : List (List α) :=
  (List.range (ceilDiv' l.length n)).map fun i => (l.drop (n * i)).take n

/-- Converts a row of values into a format: element codes and scale codes; `sr` is the first draw where rounding is stochastic (R43). -/
def Fmt.encodeRow (f : Fmt) (sr : Option Nat) (vs : List FV) : List Nat × List Nat :=
  match f.layout with
  | none => (vs.map (toIntCode f.width), [])
  | some l =>
    if f.isMx then
      let bs := (chunks 32 vs).zipIdx.map fun p => mxBlock l (sr.map (· + 32 * p.2)) p.1
      ((bs.map (·.2)).flatten, bs.map (·.1))
    else (vs.zipIdx.map fun p => scalarCode l (rndAt sr p.2) p.1, [])

/-- A row's values, from element codes and, for an MX format, its scale codes by block (R38). -/
def Fmt.decodeRow (f : Fmt) (codes scales : List Nat) : List FV :=
  codes.zipIdx.map fun p => f.value p.1 (scales.getD (p.2 / 32) 0)

/-- Bytes of `n` elements of a format. -/
def Fmt.bytes (f : Fmt) (n : Nat) : Nat := ceilDiv' (f.width * n) 8

end Sys2Proof.Machine
end

