-- ==== Sys2Proof/Machine/FabricOps.lean ====
section
/-! DEFINITION. Nodes, ports, keys, credits and transport headers of XF and the mirror ports (R382 to R390, R394). -/

namespace Sys2Proof.Machine

/-- A key slot. -/
def getKey (s : State) (k : Nat) : KeySlot := smGet {} s.fab.slots k
/-- A key slot takes a value. -/
def setKey (s : State) (k : Nat) (v : KeySlot) : State := { s with fab := { s.fab with slots := smSet {} s.fab.slots k v } }
/-- The valid key slot of a job. -/
def slotOfJob (s : State) (job : W16) : Option Nat :=
  (s.fab.slots.find? fun e => e.2.valid && decide (e.2.job = job)).map (·.1)
/-- The link number of the XF port that XF_ROUTE_n names. -/
def routePort (s : State) (n : Nat) : Nat := 7 + fieldR s (Reg.xfRoute n) 3 0
/-- XF reports a node unreachable (R384). -/
def unreachable (s : State) (n : Nat) : Bool :=
  decide (n ≠ myNode s) &&
    (decide (2048 ≤ n) || !(flagR s (Reg.xfRoute n) 4) || !(linkUp s (routePort s n)) || !(flagR s Reg.xfCtrl 0))
/-- A node is absent for a dispatch engine (R210). -/
def nodeAbsent (s : State) (d : CDie) (n : Nat) : Bool := flagR s (Reg.dspAbsent d (n / 64)) (n % 64) || unreachable s n

/-- The charge of a payload in lines (R386). -/
def charge (payload : Nat) : Nat := ceilDiv' (32 + payload + 16) 64
/-- Lines of end-to-end credit held for a node (R386). -/
def creditOf (s : State) (n : Nat) : Nat := fieldR s Reg.xfE2e 12 0 - smGet 0 s.fab.used n
/-- A charge is to be returned to a node (R386). -/
def owe (s : State) (n lines : Nat) : State :=
  { s with fab := { s.fab with owed := smMod 0 s.fab.owed n (· + lines), owedSince := some (s.fab.owedSince.getD s.now) } }
/-- A returned charge restores a node's counter (R386). -/
def restore (s : State) (n lines : Nat) : State :=
  { s with fab := { s.fab with used := smMod 0 s.fab.used n (· - lines) } }

/-! ### Transport headers (Table 14-8) -/

/-- DST_NODE. -/
def hdrDst (h : BitVec 256) : Nat := bits h 15 0
/-- SRC_NODE. -/
def hdrSrc (h : BitVec 256) : Nat := bits h 31 16
/-- CLASS. -/
def hdrClass (h : BitVec 256) : Nat := bits h 34 32
/-- EPOCH. -/
def hdrEpoch (h : BitVec 256) : Bool := bitAt h 35
/-- KEYSLOT. -/
def hdrSlot (h : BitVec 256) : Nat := bits h 47 40
/-- RET_LINES. -/
def hdrRet (h : BitVec 256) : Nat := bits h 63 48
/-- SEQ. -/
def hdrSeq (h : BitVec 256) : Nat := bits h 127 64
/-- A transport header. -/
def mkHdr (dst src cls : Nat) (epoch : Bool) (slot ret seq lines : Nat) : BitVec 256 :=
  BitVec.ofNat 256 (dst + src * 2 ^ 16 + cls * 2 ^ 32 + (if epoch then 2 ^ 35 else 0) + slot * 2 ^ 40 + ret * 2 ^ 48 + seq * 2 ^ 64 + lines * 2 ^ 128)

/-- A port may send a packet (R344, R381, R382). -/
def packetMay (s : State) (l : Nat) (p : XfPacket) : Bool :=
  linkMay s l (hdrClass p.hdr) (packetUnits p.payload.length (hdrClass p.hdr)) (packetFlits p.payload.length (hdrClass p.hdr))
/-- The key of a packet: of its slot and epoch, or the port key of a mirror port. -/
def packetKey (s : State) (link : Nat) (h : BitVec 256) : BitVec 256 :=
  if hdrSlot h = 255 then (getLink s link).portKey else if hdrEpoch h then (getKey s (hdrSlot h)).key1 else (getKey s (hdrSlot h)).key0
/-- A packet has been sent: it leaves the package in flits of its port, against link credits of its class (R381, R382), or has crossed Seam to a die of it. -/
def sendOut (s : State) (link : Nat) (p : XfPacket) : State :=
  let s := if 7 ≤ link ∧ link < 26 then
      sendFlits (spendCredit s link (hdrClass p.hdr) (packetUnits p.payload.length (hdrClass p.hdr))) link 0
        (areas 1008 (packetBytes (packetKey s link p.hdr) p))
    else s
  { s with fab := { s.fab with out := s.fab.out ++ [⟨link, p⟩] } }

/-- The link number under which a packet crosses Seam to a C-die of this package (R383). -/
def seamTo (die : Nat) : Nat := 26 + die
/-- The die whose port a link is: XF port `p` lies on C-die `p / 4` (Table 14-3). -/
def linkDie (l : Nat) : Nat := if l < 7 then ((seamEnds l).map (·.1)).headD 0 else if l < 23 then (l - 7) / 4 else if l = 23 then 4 else 5
/-- A packet that has crossed Seam in its flits is at its die, or in the queue of its port. -/
def seamArrive (s : State) (m : SeamMsg) : State :=
  let s := crossFlits s m.cls m.source m.dest (bytesOf 32 m.packet.hdr.toNat ++ m.packet.payload)
  match m.queued with
  | some (l, q) => setLink s l { getLink s l with sendQ := (getLink s l).sendQ ++ [q] }
  | none => sendOut s (seamTo m.dest) m.packet
/-- A packet crosses Seam in class XFD, or waits there behind a link that is not up (R18, R373, R383, R384). -/
def seamSend (s : State) (m : SeamMsg) : State :=
  if (seamStop s m.source m.dest).isNone then seamArrive s m else { s with fab := { s.fab with seam := s.fab.seam ++ [m] } }
/-- A Seam link is up again: what waited for it goes on, records among it (R18, R375). -/
def seamResume (s : State) : State :=
  match seamFreed s with
  | (go, stay) => placeHeld (go.foldl seamArrive { s with fab := { s.fab with seam := stay } })

/-- The message that a DISP packet of a C-die crosses Seam as: to a die of this package, or to the die of its port (R383, R384). -/
def dispMsg (s : State) (source : CDie) (node die : Nat) (job : W16) (payload : List Byte) (owner : Option (CtxId × Nat)) : SeamMsg :=
  if node = myNode s then ⟨6, source.val, die, ⟨mkHdr node node 0 false 0 0 0 (payload.length / 64), payload, true⟩, none⟩
  else
    let l := routePort s node
    let p : XfPacket := ⟨mkHdr node (myNode s) 0 false ((slotOfJob s job).getD 0) 0 0 (payload.length / 64), payload, true⟩
    ⟨6, source.val, linkDie l, p, some (l, ⟨p, node, job, owner⟩)⟩
/-- Seam takes a DISP packet of a C-die (R373). -/
def dispRoom (s : State) (source : CDie) (node die : Nat) (job : W16) (payload : List Byte) : Bool :=
  let m := dispMsg s source node die job payload none
  seamRoom s 6 m.source m.dest m.packet
/-- A C-die sends a DISP packet to a node and die: across Seam, and to another package by the queue of its port (R383, R384). -/
def sendDisp (s : State) (source : CDie) (node die : Nat) (job : W16) (payload : List Byte) (owner : Option (CtxId × Nat)) : State :=
  seamSend s (dispMsg s source node die job payload owner)

/-- Stamps a packet with its epoch, its sequence number and the credit it returns, and sends it (R386, R389). -/
def stampSend (s : State) (l : Nat) (q : Queued) (slot : Nat) : State :=
  let k := getKey s slot
  let seq := smGet 0 k.seqOut q.node + 1
  let s := setKey s slot { k with seqOut := smSet 0 k.seqOut q.node seq }
  let ret := min (smGet 0 s.fab.owed q.node) 0xFFFF
  let owed := smMod 0 s.fab.owed q.node (· - ret)
  let s := { s with fab := { s.fab with owed := owed, owedSince := if owed = [] then none else s.fab.owedSince } }
  sendOut s l { q.packet with hdr := mkHdr q.node (myNode s) (hdrClass q.packet.hdr) k.epoch slot ret seq (q.packet.payload.length / 64) }

/-- The record of a packet refused at an XF port (R390): the port, the sender and the key slot. -/
def xfRecord (s : State) (port : XfPort) (cause : Nat) (h : BitVec 256) : State :=
  place s { cls := 0x37, action := 3, cause := cause, die := port.val / 4
            d0 := BitVec.ofNat 64 port.val, d1 := BitVec.ofNat 64 (hdrSrc h + 65536 * hdrSlot h) }

/-- The check of R390 that a packet fails first: slot, tag, sequence, job. -/
def packetCause (s : State) (p : XfPacket) (job : Option Nat) : Option Nat :=
  let k := getKey s (hdrSlot p.hdr)
  let has := if hdrEpoch p.hdr then k.has1 else k.has0
  if hdrSlot p.hdr = 255 ∨ !k.valid ∨ !has then some 0x03
  else if !p.tagOk then some 0x01
  else if hdrSeq p.hdr ≤ smGet 0 k.seqIn (65536 * (if hdrEpoch p.hdr then 1 else 0) + hdrSrc p.hdr) then some 0x02
  else if (match job with | some j => decide (j ≠ k.job.toNat) | none => false) then some 0x04
  else none

/-- An arriving XF packet is accepted under R390, or discarded and counted; its charge is returned except where it is misdelivered. No packet crosses a port before READY (R380). -/
def acceptXf (s : State) (port : XfPort) (p : XfPacket) (job : Option Nat) (charged : Bool) : State × Bool :=
  let h := p.hdr
  let s := if linkUp s (7 + port.val) then heardPacket s (7 + port.val) (hdrClass h) p.payload.length else s
  if !linkUp s (7 + port.val) then (s, false)
  else if hdrDst h ≠ myNode s then (xfRecord (countR s Reg.xfEvt 63 48 1) port 0x07 h, false)
  else
    let s := if charged then owe s (hdrSrc h) (charge p.payload.length) else s
    match packetCause s p job with
    | some cause => (xfRecord (raise (countR s Reg.xfEvt 15 0 1) Reg.xfStatus 1) port cause h, false)
    | none =>
      let k := getKey s (hdrSlot h)
      let s := setKey s (hdrSlot h) { k with seqIn := smSet 0 k.seqIn (65536 * (if hdrEpoch h then 1 else 0) + hdrSrc h) (hdrSeq h) }
      (restore s (hdrSrc h) (hdrRet h), true)

/-! ### Mirror ports (R394, R395) -/

/-- The mirror port whose PARTNER is a node, where it is up, keyed and enabled. -/
def mirrorPort (s : State) (node : Nat) : Option Nat :=
  (List.range 2).find? fun n => decide (fieldR s (Reg.mirPort n) 15 0 = node) && linkUp s (24 + n) && (getLink s (24 + n)).keyValid && flagR s Reg.mirCtrl 0

/-- A mirror port may send a packet: it is up, keyed and enabled, and has link credits of the packet's class (R382, R394). -/
def mirrorMay (s : State) (n : Nat) (p : XfPacket) : Bool :=
  packetMay s (24 + n) p && (getLink s (24 + n)).keyValid && flagR s Reg.mirCtrl 0
/-- A packet leaves a mirror port under its port key; slot 256 + n counts that key's packets (R389, R394). -/
def mirrorLeave (s : State) (n : Nat) (p : XfPacket) : State :=
  let partner := hdrDst p.hdr
  let k := getKey s (256 + n)
  let seq := smGet 0 k.seqOut partner + 1
  let s := setKey s (256 + n) { k with seqOut := smSet 0 k.seqOut partner seq }
  sendOut s (24 + n) { p with hdr := mkHdr partner (myNode s) (hdrClass p.hdr) false 0xFF 0 seq (p.payload.length / 64) }
/-- The packets that wait at a mirror port leave in their order as far as they may (R396). -/
def mirrorPump : Nat → State → Nat → State
  | 0, s, _ => s
  | fuel + 1, s, n =>
    match (getLink s (24 + n)).sendQ with
    | q :: rest => if mirrorMay s n q.packet then
        mirrorPump fuel (mirrorLeave (setLink s (24 + n) { getLink s (24 + n) with sendQ := rest }) n q.packet) n else s
    | [] => s
/-- Sends a packet on a mirror port, behind those that wait there (R394, R396). -/
def sendMirror (s : State) (n cls : Nat) (payload : List Byte) : State :=
  let partner := fieldR s (Reg.mirPort n) 15 0
  let q : Queued := ⟨⟨mkHdr partner (myNode s) cls false 0xFF 0 0 (payload.length / 64), payload, true⟩, partner, 0, none⟩
  let v := getLink s (24 + n)
  mirrorPump (v.sendQ.length + 1) (setLink s (24 + n) { v with sendQ := v.sendQ ++ [q] }) n

/-- The line that opens MKV and MENT: session, layer, head, position, count. -/
def mirrorHead (session layer head pos tokens : Nat) : List Byte :=
  bytesOf 4 session ++ bytesOf 2 layer ++ bytesOf 2 head ++ bytesOf 8 pos ++ bytesOf 2 tokens ++ List.replicate 46 0

/-- Sends MENT of an entry to a node; nothing where no port can carry it (R195, R395). -/
def sendMent (s : State) (session : Nat) (e : BitVec 2048) : State :=
  match mirrorPort s (bits e 687 672) with
  | some n => sendMirror s n 2 (mirrorHead session 0 0 0 0 ++ bytesOf 256 e.toNat)
  | none => s

end Sys2Proof.Machine
end

