-- ==== Sys2Proof/Machine/RouteOps.lean ====
section
/-! DEFINITION. The routes that the dispatch engines hold, their counters, and how a route closes (R204, R208, R210, R213). -/

namespace Sys2Proof.Machine

/-- A route descriptor (Table 7-5, Table 7-6). -/
abbrev RDesc := BitVec 512
/-- LAYER. -/
def rdLayer (d : RDesc) : Nat := bits d 47 40

/-- The routes of a dispatch engine. -/
def getRoutes (s : State) (d : CDie) : List Route := smGet [] s.dsp.routes d.val
/-- The routes of a dispatch engine take a value. -/
def setRoutes (s : State) (d : CDie) (l : List Route) : State := { s with dsp := { s.dsp with routes := smSet [] s.dsp.routes d.val l } }
/-- One route, found by its context and operation, is changed. -/
def modRoute (s : State) (d : CDie) (r : Route) (f : Route → Route) : State :=
  setRoutes s d ((getRoutes s d).map fun q => if q.ctx = r.ctx ∧ q.opNumber = r.opNumber then f q else q)
/-- A route is removed. -/
def dropRoute (s : State) (d : CDie) (r : Route) : State :=
  setRoutes s d ((getRoutes s d).filter fun q => !(decide (q.ctx = r.ctx) && decide (q.opNumber = r.opNumber)))
/-- Routes that hold a tag (R204). -/
def taggedCount (s : State) (d : CDie) : Nat := ((getRoutes s d).filter fun r => r.tag.isSome).length
/-- OPEN: routes that hold a tag and have not closed (R204, Table 7-11). -/
def openCount (s : State) (d : CDie) : Nat := ((getRoutes s d).filter fun r => r.tag.isSome && r.closedAt.isNone).length
/-- The tag that a DISPATCH is given: the lowest that no route of the engine holds (R204; DESIGN CHOICE, log entry 145). -/
def freeTag (s : State) (d : CDie) : Nat :=
  ((List.range 1024).find? fun t => (getRoutes s d).all fun r => decide (r.tag ≠ some t)).getD 0
/-- Counters of a dispatch engine (Table 7-11). -/
inductive DspEvt where
  | absent
  | replica
  | refused
  | late
  | lateDiscard
  | stray
  | homeFull
/-- Counts events of a dispatch engine, and sets EVENT. -/
def dspCount (s : State) (d : CDie) (e : DspEvt) (n : Nat) : State :=
  if n = 0 then s
  else
    let s := raise s (Reg.dspStatus d) 16
    match e with
    | .absent => countR s (Reg.dspEvt0 d) 15 0 n
    | .replica => countR s (Reg.dspEvt0 d) 31 16 n
    | .refused => countR s (Reg.dspEvt0 d) 47 32 n
    | .late => countR s (Reg.dspEvt0 d) 63 48 n
    | .lateDiscard => countR s (Reg.dspEvt1 d) 15 0 n
    | .stray => countR s (Reg.dspEvt1 d) 31 16 n
    | .homeFull => countR s (Reg.dspEvt1 d) 47 32 n

/-- A pair that has no outcome yet (R208). -/
def Pair.pending : Pair → Bool
  | .unsent => true
  | .sent => true
  | _ => false

/-- A DISPATCH closes: unresolved pairs count as zero, and a route with any zero places one event record (R208, R210). -/
def closeRoute (s : State) (d : CDie) (r : Route) : State :=
  let late := (r.pairs.filter Pair.pending).length
  let pairs := r.pairs.map fun p => if p.pending then Pair.zero else p
  let zeros := (pairs.filter fun p => decide (p = .zero)).length
  let s := dspCount s d .late late
  let s := if zeros = 0 then s else
    place s { cls := 0x20, die := d.val, te := r.ctx.te.val, slot := r.ctx.slot.val, teValid := true, job := r.job, ctx := r.cid.toNat
              d0 := BitVec.ofNat 64 (r.tag.getD 0xFFFF + 65536 * rdLayer r.desc), d1 := BitVec.ofNat 64 zeros }
  modRoute (noteProgress s 4 d.val) d r fun q => { q with pairs := pairs, closedAt := some s.now }

end Sys2Proof.Machine
end

