-- ==== Sys2Proof/Machine/SessionOps.lean ====
section
/-! DEFINITION. Session-table entries, their checks, block tables and KV blocks (R160 to R164, R168, R170, R171, R182 to R193). -/

namespace Sys2Proof.Machine

/-- A session-table entry (Table 7-1). -/
def getSes (s : State) (n : Nat) : BitVec 2048 := smGet 0 s.ses n
/-- An entry takes a value. -/
def setSes (s : State) (n : Nat) (v : BitVec 2048) : State := { s with ses := smSet 0 s.ses n v }
/-- The session unit of the H-die that holds an entry applies an operation (R182, R190, Table 17-5). -/
def noteSession (s : State) (n : Nat) : State := noteProgress s 5 (n / 32768)
/-- STATE as Table 7-2 codes it: 0 FREE, 1 LIVE, 2 HELD, 3 STANDBY. -/
def sesState (e : BitVec 2048) : Nat := bits e 3 0
/-- MIRROR. -/
def sesMirror (e : BitVec 2048) : Bool := bitAt e 8
/-- JOB. -/
def sesJob (e : BitVec 2048) : Nat := bits e 31 16
/-- LEN. -/
def sesLen (e : BitVec 2048) : Nat := bits e 63 32
/-- LAYERS. -/
def sesLayers (e : BitVec 2048) : Nat := bits e 104 96
/-- KV_HEADS. -/
def sesHeads (e : BitVec 2048) : Nat := bits e 119 112
/-- Bytes of an element under KV_FMT; none for an invalid one (R161). -/
def sesElem (e : BitVec 2048) : Option Nat :=
  match bits e 124 120 with
  | 0x01 => some 2
  | 0x03 => some 1
  | 0x04 => some 1
  | _ => none
/-- BT_ADDR. -/
def sesTable (e : BitVec 2048) : Nat := bits e 191 128
/-- BT_COUNT. -/
def sesCount (e : BitVec 2048) : Nat := bits e 223 192

/-! ### Speculation trees (R170, R171) -/

/-- NODES. -/
def treeNodes (e : BitVec 2048) : Nat := bits e 1031 1024
/-- PARENT_i. -/
def treeParent (e : BitVec 2048) (i : Nat) : Nat := bits e (1024 + 8 * i + 7) (1024 + 8 * i)
/-- The tree of an entry is valid (R171). -/
def treeValid (e : BitVec 2048) : Bool :=
  let n := treeNodes e
  decide (1 ≤ n ∧ n ≤ 64) &&
    (List.range 63).all fun i => if i + 1 < n then decide (treeParent e (i + 1) < i + 1) else decide (treeParent e (i + 1) = 0)
/-- Node `j` is node `i` or an ancestor of it, within `fuel` steps. -/
def nodeSees (e : BitVec 2048) : Nat → Nat → Nat → Bool
  | 0, i, j => decide (i = j)
  | f + 1, i, j => decide (i = j) || (decide (i ≠ 0) && nodeSees e f (treeParent e i) j)
/-- Node `j` is visible to node `i` (R171). -/
def treeSees (e : BitVec 2048) (i j : Nat) : Bool := nodeSees e 64 i j

/-! ### Session checks (R192, Table 7-4) -/

/-- The first of causes 0x01 to 0x03 that applies to a session ID with its upper bits. -/
def sesCause (s : State) (id : Nat) (job : W16) : Option Nat :=
  let e := getSes s (id % 65536)
  if 65536 ≤ id then some 0x01
  else if sesState e ≠ 1 then some 0x02
  else if sesJob e ≠ job.toNat then some 0x03
  else none

/-- A block-table entry, read by system address (R162, R163). -/
def blockEntry (s : State) (d : CDie) (cls : MemClass) (e : BitVec 2048) (i : Nat) : State × (Bad ⊕ W64) :=
  match sysRead s d cls (sesTable e + 8 * i) 8 with
  | (s, .inl b) => (s, .inl b)
  | (s, .inr bs) => (s, .inr (BitVec.ofNat 64 (leNat bs)))
/-- The system address of the block of an entry (Table 6-6). -/
def blockBase (w : W64) : Nat := 4096 * bits w 51 12
/-- Bytes of a KV block (Table 6-5). -/
def blockBytes (e : BitVec 2048) (el : Nat) : Nat := sesLayers e * sesHeads e * 16384 * el
/-- A block crosses a slab or leaves the KV segment (R160, R193). -/
def blockBad (e : BitVec 2048) (el : Nat) (base : Nat) : Bool :=
  let n := blockBytes e el
  let lo := bits e 279 256 * 2 ^ 28
  let hi := lo + bits e 311 288 * 2 ^ 28
  decide (2 ^ 28 < base % 2 ^ 28 + n) || decide (base < lo) || decide (hi < base + n)

/-- Reads the block-table entries of some block indices; an index beyond the table reads as not valid. -/
def blockEntries (s : State) (d : CDie) (cls : MemClass) (e : BitVec 2048) : List Nat → State × (Bad ⊕ List W64)
  | [] => (s, .inr [])
  | i :: rest =>
    let r := if sesCount e ≤ i then (s, .inr 0) else blockEntry s d cls e i
    match r with
    | (s, .inl b) => (s, .inl b)
    | (s, .inr w) =>
      match blockEntries s d cls e rest with
      | (s, .inr t) => (s, .inr (w :: t))
      | r => r

/-- Causes 0x06 and 0x07 for the blocks that an instruction reaches. -/
def blockCause (e : BitVec 2048) (el : Nat) (ws : List W64) : Option Nat :=
  if ws.any (fun w => !(bitAt w 0)) then some 0x06
  else if ws.any (fun w => blockBad e el (blockBase w)) then some 0x07
  else none

/-- The first byte of K or V of a layer and head in a block (Table 6-5). -/
def blockPart (e : BitVec 2048) (el base layer head : Nat) (v : Bool) : Nat :=
  base + (layer * sesHeads e + head) * 16384 * el + (if v then 8192 * el else 0)

end Sys2Proof.Machine
end

