-- ==== Sys2Proof/Machine/Stops.lean ====
section
/-! DEFINITION. Stopping a context, freeing its slot, completing its launch, and taking engines out of service (R88, R219, R236, R237, R442, R443). -/

namespace Sys2Proof.Machine

/-- The context in a slot. -/
def getCtx (s : State) (c : CtxId) : Option Ctx := (getSlot s c).ctx
/-- The context in a slot is changed. -/
def modCtx (s : State) (c : CtxId) (f : Ctx → Ctx) : State :=
  let v := getSlot s c
  setSlot s c { v with ctx := v.ctx.map f }
/-- The groups of a slot's share. -/
def shareGroups (s : State) (c : CtxId) : List GroupId :=
  let sh := grpShare s c
  allGroups.filter fun g => decide (sh.1 ≤ g.val) && decide (g.val < sh.1 + sh.2)

/-! ### Stops -/

/-- The wrong symbols of the lines that a written row covers whole are gone (R259). -/
def healRow (errs : SMap Hem) (row : List (Nat × Byte)) : SMap Hem :=
  errs.filter fun e => !((List.range 64).all fun j => row.any fun p => decide (p.1 = 64 * e.1 + j))
/-- The row that a drain is writing (R88). -/
def rowInWriting (s : State) (d : DrainRun) : Nat := if d.rowCycles = 0 then 0 else (cycleNow s - d.start) / d.rowCycles
/-- The first cycle after the row that a drain is writing (R88). -/
def rowEnd (s : State) (d : DrainRun) : Nat := min (d.start + d.cycles) (d.start + (rowInWriting s d + 1) * max 1 d.rowCycles)
/-- The bytes of a tile store that unfinished rows of a drain overwrote are put back: it stops at the end of the row it is writing, and the rows until then stay written (R88). -/
def undoRows (s : State) (d : DrainRun) : State :=
  let row := rowInWriting s d
  let back := ((d.undo.drop (row + 1)).reverse.map List.reverse).flatten
  { s with eng := { s.eng with
      tiles := back.foldl (fun t p => smSet 0 t p.1 p.2) s.eng.tiles
      tileErr := (d.undo.take (row + 1)).foldl healRow s.eng.tileErr } }

/-- The intervals of a slot whose context stops: a weight load and a wait at R77 count until the present, a drain that is cut until its row ends (R88, R233). -/
def cutSlot (s : State) (c : CtxId) : Slot :=
  let v := getSlot s c
  let t := getTe s c.te
  let drained := match t.drain with
    | some d => if d.drain.slot = c.slot then v.progress.map fun p => if p = (d.start, d.start + d.cycles) then (p.1, rowEnd s d) else p else v.progress
    | none => v.progress
  match t.running with
  | some r =>
    if r.mma.slot ≠ c.slot then { v with queue := [], progress := drained }
    else { v with
      queue := []
      progress := match r.loadStart, r.loaded with
        | some c0, none => drained ++ [(c0, cycleNow s)]
        | _, _ => drained
      stalled := match r.heldFrom with
        | some h => v.stalled ++ [(h, cycleNow s)]
        | none => v.stalled }
  | none => { v with queue := [], progress := drained }
/-- The groups of a stopping context whose drain is requested or cut, each with the last cycle in which it is in progress (R77, R88). -/
def cutGroups (s : State) (c : CtxId) : List (GroupId × Nat) :=
  (shareGroups s c).filterMap fun g => match (getTe s c.te).drain with
    | some d =>
      if d.g = g ∧ d.drain.slot = c.slot then some (g, rowEnd s d - 1)
      else if (getGroup s c.te g).reqs = [] then none else some (g, cycleNow s)
    | none => if (getGroup s c.te g).reqs = [] then none else some (g, cycleNow s)

/-- Everything a context has on its array, groups and drain path is discarded; its passes in flight land without effect (R88, R442). -/
def discardWork (s : State) (c : CtxId) : State :=
  let t := getTe s c.te
  let mine := fun g : GroupId => (shareGroups s c).contains g
  let s := match t.drain with
    | some d => if mine d.g ∧ d.drain.slot = c.slot then undoRows s d else s
    | none => s
  let t := { t with
    running := match t.running with
      | some r => if r.mma.slot = c.slot then none else some r
      | none => none
    flights := t.flights.map fun f => if f.slot = c.slot then { f with adds := [] } else f
    occupiedBy := if t.occupiedBy = some c.slot ∧ t.flights = [] then none else t.occupiedBy
    drain := match t.drain with
      | some d => if mine d.g ∧ d.drain.slot = c.slot then none else some d
      | none => none
    drainFree := match t.drain with
      | some d => if mine d.g ∧ d.drain.slot = c.slot then rowEnd s d else t.drainFree
      | none => t.drainFree
    leaving := t.leaving ++ cutGroups s c }
  let v := cutSlot s c
  let s := setTe s c.te t
  let s := (shareGroups s c).foldl (fun s g => setGroup s c.te g {}) s
  setSlot s c v

/-- A context issues nothing further and its work on the engine is discarded; the class is what its completion will name (R442). -/
def haltCtx (s : State) (c : CtxId) (info : StopInfo) : State :=
  match getCtx s c with
  | some x =>
    if x.stop.isSome then s
    else
      let s := discardWork s c
      let v := getSlot s c
      setSlot s c { v with occ := .ending, ctx := some { x with stop := some info, hold := [], wait := 7 } }
  | none => s

/-- The contexts resident on a tensor engine. -/
def resident (s : State) (te : TeId) : List CtxId :=
  (allSlots.map fun k => (⟨te, k⟩ : CtxId)).filter fun c => (getCtx s c).isSome
/-- Every resident context of the package. -/
def allResident (s : State) : List CtxId :=
  ((s.eng.slots.map (·.1)).filter fun k => decide (k < 1024)).filterMap fun k =>
    if h : k / 4 < 256 then
      let c : CtxId := ctxAt ⟨k / 4, h⟩ (k % 4)
      if (getCtx s c).isSome then some c else none
    else none

/-! ### Aborts (R392, R393, R463, R464) -/

/-- The dispatch engines' open routes of a job close at once, with unresolved pairs as zero (R393). -/
def closeJob (s : State) (job : W16) : State :=
  (List.finRange 4).foldl (fun s d =>
    ((getRoutes s d).filter fun r => decide (r.job = job) && r.closedAt.isNone).foldl (fun s r =>
      closeRoute (modRoute s d r fun q => { q with aborted := true }) d { r with aborted := true }) s) s
/-- The LIVE sessions of a job become HELD (R393, Table 7-3). -/
def holdSessions (s : State) (job : W16) : State :=
  { s with ses := s.ses.map fun e => if sesState e.2 = 1 ∧ sesJob e.2 = job.toNat then (e.1, setBits e.2 3 0 2) else e }
/-- A DISP packet of a job. -/
def dispOf (job : W16) (q : Queued) : Bool := decide (q.job = job) && decide (hdrClass q.packet.hdr = 0)
/-- A message on Seam that carries a DISP packet of a job to a port. -/
def seamDisp (job : W16) (m : SeamMsg) : Bool := match m.queued with
  | some (_, q) => dispOf job q
  | none => false
/-- An operation that waited for a discarded packet has nothing left to send. -/
def disown (s : State) (q : Queued) : State :=
  match q.owner with
  | some o => modCtx s o.1 fun x => { x with ops := x.ops.filter fun p => decide (p.number ≠ o.2) }
  | none => s
/-- The DISP packets of a job that wait to be sent, at a port or on their way to one, are discarded, and the operations that waited for them end without effect (R393). -/
def dropDisp (s : State) (job : W16) : State :=
  let gone := (s.fab.links.map fun l => l.2.sendQ.filter (dispOf job)).flatten ++ (s.fab.seam.filter (seamDisp job)).filterMap fun m => m.queued.map (·.2)
  let s := { s with fab := { s.fab with
    links := s.fab.links.map fun l => (l.1, { l.2 with sendQ := l.2.sendQ.filter fun q => !dispOf job q })
    seam := s.fab.seam.filter fun m => !seamDisp job m } }
  gone.foldl disown s
/-- Queued launches of a job leave their queues and complete STOPPED (R464). -/
def dropLaunches (s : State) (job : W16) (detail : Nat) : State :=
  (s.eng.te.map (·.1)).foldl (fun s k =>
    let t := smGet {} s.eng.te k
    let gone := t.queue.filter fun l => decide (l.job = job)
    let s := { s with eng := { s.eng with te := smSet {} s.eng.te k { t with queue := t.queue.filter fun l => decide (l.job ≠ job) } } }
    gone.foldl (fun s l => finishLaunch s l 0x05 detail 0 0) s) s

/-- The abort actions for a job on this package: the state after them, and how many contexts they stopped (R393). -/
def abortActions (s : State) (job : W16) (info : StopInfo) : State × Nat :=
  let mine := (allResident s).filter fun c => ((getCtx s c).map fun x => decide (x.launch.job = job) && x.stop.isNone).getD false
  let s := mine.foldl (fun s c => haltCtx s c info) s
  (dropLaunches (dropDisp (closeJob (holdSessions s job) job) job) job info.cls, mine.length)

/-- The record of an abort (R464). -/
def abortRecord (s : State) (job : W16) (origin id reason n : Nat) : State :=
  if n = 0 then s else
  place s { cls := 0x11, action := 1, cause := reason, job := job, d0 := BitVec.ofNat 64 (origin + id * 2 ^ 32), d1 := BitVec.ofNat 64 n }

/-- The payload of ABORT (Table 14-9). -/
def abortLine (job : W16) (origin id stitch reason : Nat) : List Byte :=
  bytesOf 64 (job.toNat + origin * 2 ^ 16 + id * 2 ^ 32 + stitch * 2 ^ 64 + reason * 2 ^ 112)

/-- An ABORT packet goes to every node of a key slot's XF_JOBPEER entry, from the XF_ block on H0 across Seam in class XFD (R384, R392). This package's own comes back as a copy that it has seen (R383). -/
def spreadAbort (s : State) (slot : Nat) (job : W16) (line : List Byte) : State :=
  let peers := smGet 0 s.fab.peers slot
  ((List.range 2048).filter fun n => bitAt peers n).foldl (fun s n =>
    if n = myNode s then countR s Reg.xfEvt 47 32 1
    else if unreachable s n then countR s Reg.xfEvt 31 16 1
    else
      let l := routePort s n
      let p : XfPacket := ⟨mkHdr n (myNode s) 2 false slot 0 0 1, line, true⟩
      seamSend s ⟨6, 4, linkDie l, p, some (l, ⟨p, n, job, none⟩)⟩) s

/-- An abort of a job starts at this package (R392). -/
def startAbort (s : State) (job : W16) (reason : Nat) : State :=
  let id := s.fab.abortCount
  let origin := myNode s
  let s := { s with fab := { s.fab with abortCount := id + 1, seen := s.fab.seen ++ [(origin, id)] } }
  let s := match slotOfJob s job with
    | some k =>
      let s := spreadAbort s k job (abortLine job origin id s.stc.count.toNat reason)
      setKey s k { getKey s k with aborted := true }
    | none => s
  let (s, n) := abortActions s job ⟨0x11, reason, 0, 0, 0⟩
  abortRecord s job origin id reason n

/-- A context stop of a class that ERR_AUTO_ABORT names starts an abort of its job (R463). -/
def autoAbort (s : State) (job : W16) (cls : Nat) : State :=
  let armed := decide (cls < 64) && flagR s (Reg.errAutoAbort 0) cls
  match slotOfJob s job with
  | some k => if armed && !(getKey s k).aborted then startAbort s job cls else s
  | none => s

/-! ### Context stops with their records -/

/-- The fields of a record that name a context (Table 17-1). -/
def ctxRec (c : CtxId) (l : Launch) (r : Rec) : Rec :=
  { r with die := (dieOf c.te).val, te := c.te.val, slot := c.slot.val, teValid := true, job := l.job, ctx := l.cid.toNat }

/-- A context stop with its record; a context that has stopped already only has an event placed for it (R443). -/
def stopRec (s : State) (c : CtxId) (r : Rec) : State :=
  match getCtx s c with
  | none => s
  | some x =>
    let r := ctxRec c x.launch r
    if x.stop.isSome then place s { r with action := 0 }
    else autoAbort (haltCtx (place s { r with action := 1 }) c ⟨r.cls, r.cause, r.addr, r.d0, r.d1⟩) x.launch.job r.cls

/-- A stop by the instruction at the context's program counter. -/
def stopAt (s : State) (c : CtxId) (cls cause : Nat) (d0 d1 : W64) : State :=
  stopRec s c { cls := cls, cause := cause, addr := ((getCtx s c).map (·.pc)).getD 0, d0 := d0, d1 := d1 }

/-- A stop by a failed access (R243, R259, R277); the requester is the C-die's cache. -/
def stopBad (s : State) (c : CtxId) (b : Bad) : State :=
  stopRec s c { cls := b.cls, cause := b.cause, addr := b.addr, d0 := b.d0, d1 := b.d1, quar := b.quar, agent := 80 + (dieOf c.te).val }

/-! ### Slots -/

/-- No slot of a tensor engine holds a context. -/
def slotsEmpty (s : State) (te : TeId) : Bool := allSlots.all fun k => decide ((getSlot s ⟨te, k⟩).occ = .empty)

/-- A draining tensor engine is out once its last resident context has ended (R237). -/
def svcCheck (s : State) (te : TeId) : State :=
  let t := getTe s te
  if t.svc = .draining ∧ slotsEmpty s te then setTe s te { t with svc := .out } else s

/-- A slot becomes empty and its launch's completion is due; its mover keeps nothing of it (R219, R328, R442). -/
def emptySlot (s : State) (c : CtxId) (status detail : Nat) : State :=
  match getCtx s c with
  | none => s
  | some x =>
    let v := getSlot s c
    let s := setSlot s c { v with occ := .empty, ctx := none, queue := [], progress := [], stalled := [] }
    let s := { s with cl := { s.cl with
      lastLine := smErase s.cl.lastLine (ctxKey c)
      readAhead := smSet [] s.cl.readAhead (clusterOf c.te).val ((smGet [] s.cl.readAhead (clusterOf c.te).val).filter fun e => decide (e.1 ≠ c)) } }
    svcCheck (finishLaunch s x.launch status detail c.te.val c.slot.val) c.te

/-- What a context has handed off is finished: its operations and the writes its mover holds (R442). -/
def handedOffDone (s : State) (c : CtxId) : Bool :=
  match getCtx s c with
  | some x => x.ops.isEmpty && (writeBuf s (clusterOf c.te)).all (fun w => decide (w.ctx ≠ c))
  | none => true

/-! ### Launch queues -/

/-- The bit of a tensor engine in ERR_PATROL_FAIL (R448). -/
def patrolFailed (s : State) (te : TeId) : Bool := (getTe s te).patrolFail
/-- A partition's entry. -/
def getPart (s : State) (p : PartId) : BitVec 512 := smGet 0 s.parts p.val

/-- The state with a partition's entry replaced. -/
def setPart (s : State) (p : PartId) (v : BitVec 512) : State := { s with parts := smSet 0 s.parts p.val v }
/-- Launches under affinity queued at a tensor engine are refused (R237, R448). -/
def refuseAffinity (s : State) (te : TeId) : State :=
  let t := getTe s te
  let s := setTe s te { t with queue := t.queue.filter fun l => !l.affinity }
  (t.queue.filter fun l => l.affinity).foldl (fun s l => finishLaunch s l 0x02 0 0 0) s

end Sys2Proof.Machine
end

