-- ==== Sys2Proof/Machine/Geometry.lean ====
section
/-! DEFINITION. Fold forms, rate classes, passes and where an MMA's and a drain's operands lie (R65 to R74, R132, R133, R136 to R139). -/

namespace Sys2Proof.Machine

/-- Cell rows of a form (Table 3-4). -/
def FoldForm.kp : FoldForm → Nat
  | .f128 => 128
  | .f256 => 64
  | .f512 => 32
  | .f1024 => 16
/-- Columns of a form (Table 3-4). -/
def FoldForm.np : FoldForm → Nat
  | .f128 => 128
  | .f256 => 256
  | .f512 => 512
  | .f1024 => 1024
/-- Pipeline latency of a form: cell rows plus columns (R66). -/
def FoldForm.latency (f : FoldForm) : Nat := f.kp + f.np
/-- The code of a form: SRD 0x09 (Table 5-5). -/
def FoldForm.code : FoldForm → Nat
  | .f128 => 0
  | .f256 => 1
  | .f512 => 2
  | .f1024 => 3
/-- The form of a two-bit code. -/
def FoldForm.ofCode : Nat → FoldForm
  | 0 => .f128
  | 1 => .f256
  | 2 => .f512
  | _ => .f1024
/-- The forms in order of rising width. -/
def allForms : List FoldForm := [.f128, .f256, .f512, .f1024]
/-- A tile fits a form (R68). -/
def FoldForm.fits (f : FoldForm) (m n : Nat) : Bool := decide (m ≤ f.kp) && decide (n ≤ f.np)

/-- The form that AUTO selects: the narrowest that fits (R68). -/
def autoForm (m n : Nat) : Option FoldForm := allForms.find? fun f => f.fits m n

/-- The form of an MMA, by its group's binding, its hint and the array's form; none is a shape error (R68, Table 3-5). -/
def resolveForm (bound : Option FoldForm) (hint : Nat) (current : FoldForm) (m n : Nat) : Option FoldForm :=
  let forced : Option FoldForm := if 4 ≤ hint then some (FoldForm.ofCode (hint - 4)) else none
  let chosen : Option FoldForm := match bound with
    | some b => if forced.isSome ∧ forced ≠ some b then none else some b
    | none => match forced with
      | some f => some f
      | none => if hint = 1 ∧ current.fits m n then some current else autoForm m n
  chosen.bind fun f => if f.fits m n then some f else none

/-- Rate classes (Table 3-3). -/
inductive Rate where
  | pair4
  | eight
  | sixteen
  | fp32
deriving DecidableEq, Repr

/-- The rate class of an operand pair (R28, Table 3-3). -/
def rateOf (a b : Fmt) : Rate :=
  if a = .fp32 ∨ b = .fp32 then .fp32
  else if min a.rate b.rate = 32768 then .pair4
  else if min a.rate b.rate = 16384 then .eight
  else .sixteen
/-- Logical K rows per cell row, d (Table 3-3). -/
def Rate.d : Rate → Nat
  | .pair4 => 2
  | _ => 1
/-- Row interval r in cycles (Table 3-3). -/
def Rate.r : Rate → Nat
  | .sixteen => 2
  | .fp32 => 2
  | _ => 1
/-- K rows of a pass, K_L (R66). -/
def passK (f : FoldForm) (rt : Rate) : Nat := rt.d * f.kp
/-- Width in bits of a weight element in array order (R71, R74, R138). -/
def weightBits (rt : Rate) (b : Fmt) : Nat := if rt = .pair4 then 8 else b.width
/-- Segments of K, and passes: three for each segment of emulated FP32 (R69). -/
def segCount (f : FoldForm) (rt : Rate) (k : Nat) : Nat := ceilDiv' k (passK f rt)
def passCount (f : FoldForm) (rt : Rate) (k : Nat) : Nat := segCount f rt k * (if rt = .fp32 then 3 else 1)
/-- The K segment of a pass, and which of the split's passes it is (R46, R139). -/
def passSeg (rt : Rate) (p : Nat) : Nat := if rt = .fp32 then p / 3 else p
/-- Weight-load time λ (R74). -/
def loadCycles (f : FoldForm) (rt : Rate) (b : Fmt) : Nat := ceilDiv' (f.np * weightBits rt b) 8192 * f.kp
/-- Blocks that a pass touches. -/
def passBlocks (f : FoldForm) (rt : Rate) : Nat := max 1 (passK f rt / 32)
/-- Bytes of a pass tile's elements and of its scale rows (Table 3-6). -/
def tileElems (f : FoldForm) (rt : Rate) (b : Fmt) : Nat := f.kp * f.np * weightBits rt b / 8
def tileScales (f : FoldForm) (rt : Rate) (b : Fmt) : Nat := if b.isMx then f.np * passBlocks f rt else 0

/-- Slots of a pass-tile ring (R139). -/
def ringSlots (b : Nat) : Nat := 8 * 2 ^ (b - 1)
/-- First byte of the pass tile of a K segment (R137, R139). -/
def tileAt (m : Mma) (seg : Nat) : Nat :=
  64 * (m.bBase + (if m.ring = 0 then seg else seg % ringSlots m.ring) * m.bStride)
/-- First byte of row `i` of A, and of its scales (R132, R137). -/
def rowAt (m : Mma) (i : Nat) : Nat := 64 * (m.aBase + i * m.aPitch)
/-- Row pitch in bytes of a scale stream (R132). -/
def scalePitch (pitch width : Nat) : Nat := ceilDiv' (pitch * 8) (32 * width)
def rowScaleAt (m : Mma) (fa : Fmt) (i : Nat) : Nat := m.aScale + i * scalePitch (64 * m.aPitch) fa.width

/-! ### Ranges (R64, R123). A range is a first byte and one past the last. -/

/-- Two ranges share a byte. -/
def overlaps (a b : Nat × Nat) : Bool := decide (a.1 < b.2) && decide (b.1 < a.2) && decide (a.1 < a.2) && decide (b.1 < b.2)
/-- Some range of one list shares a byte with some range of another. -/
def clash (a b : List (Nat × Nat)) : Bool := a.any fun x => b.any fun y => overlaps x y

/-- The formats of an issued MMA. -/
def mmaFmts (m : Mma) : Fmt × Fmt := ((Fmt.ofCode m.fa).getD .fp32, (Fmt.ofCode m.fb).getD .fp32)

/-- What the A operand covers, from byte offset `from` of each row on. -/
def aRanges (m : Mma) : List (Nat × Nat) :=
  let fa := (mmaFmts m).1
  let rows := List.range m.m
  let elems := rows.map fun i => (rowAt m i, rowAt m i + fa.bytes m.k)
  let scales := if fa.isMx then rows.map (fun i => (rowScaleAt m fa i, rowScaleAt m fa i + ceilDiv' m.k 32)) else []
  elems ++ scales
/-- What the B operand covers under a form; the whole of a ring. -/
def bRanges (m : Mma) (f : FoldForm) : List (Nat × Nat) :=
  let fs := mmaFmts m
  let rt := rateOf fs.1 fs.2
  let n := if m.ring = 0 then segCount f rt m.k else ringSlots m.ring
  let sz := tileElems f rt fs.2 + tileScales f rt fs.2
  (List.range n).map fun i => (64 * (m.bBase + i * m.bStride), 64 * (m.bBase + i * m.bStride) + sz)

/-- The form to which an MMA's group is bound (R68); for a dropped one, the form it was bound to. -/
def boundForm (s : State) (te : TeId) (m : Mma) : Option FoldForm := if m.dropped then m.bound else (getGroup s te m.g).form
/-- What B may cover: the range under each form that the MMA may come to have. -/
def bSpans (s : State) (te : TeId) (m : Mma) : List (Nat × Nat) :=
  let forms := match boundForm s te m with
    | some f => [f]
    | none => allForms.filter fun f => f.fits m.m m.n
  (forms.map fun f => bRanges m f).flatten

/-- Controls of a drain, from the base word of CLOSE or SWAP (Table 5-12, Table 5-13). -/
def drScale (d : Drain) : Nat := bits d.base 14 13
def drBias (d : Drain) : Nat := bits d.base 16 15
def drRowmax (d : Drain) : Bool := bitAt d.base 17
def drExpsum (d : Drain) : Bool := bitAt d.base 18
def drOutP (d : Drain) : Bool := bitAt d.base 19
def drNoOut (d : Drain) : Bool := bitAt d.base 20
def drFmt (d : Drain) : Fmt := (Fmt.ofCode (bits d.base 25 21)).getD .fp32
def drSr (d : Drain) : Bool := bitAt d.base 26
def drRetain (d : Drain) : Bool := bitAt d.base 27
def drOut (d : Drain) : Nat := 64 * bits d.base 43 28
def drPitch (d : Drain) : Nat := 64 * bits d.base 53 44
def drOsc (d : Drain) : Nat := 64 * bits d.ext 15 0
def drState (d : Drain) : Nat := 64 * bits d.ext 31 16
def drVec (d : Drain) : Nat := 64 * bits d.ext 47 32
def drBiasVec (d : Drain) : Nat := 64 * bits d.ext 63 48
/-- A drain keeps row state. -/
def drRows (d : Drain) : Bool := !d.scaleRows && (drRowmax d || drExpsum d)

/-- Bytes of one output row: MXFP8 rows are padded to whole blocks (R106). -/
def drRowBytes (d : Drain) (n : Nat) : Nat :=
  if (drFmt d).isMx then roundUp n 32 else (drFmt d).bytes n
/-- What a drain of an M × N tile writes (R106, R102). -/
def drainWritesTo (d : Drain) (m n : Nat) : List (Nat × Nat) :=
  if d.scaleRows ∨ m = 0 then []
  else
    let rows := List.range m
    let out := if drNoOut d then [] else rows.map fun i => (drOut d + i * drPitch d, drOut d + i * drPitch d + drRowBytes d n)
    let sc := if !drNoOut d && (drFmt d).isMx then [(drOsc d, drOsc d + m * ceilDiv' n 32)] else []
    let st := if drRows d then [(drState d, drState d + 16 * m)] else []
    out ++ sc ++ st
/-- What a drain or a scaling of an M × N tile reads in the tile store (R99, R100). -/
def drainReadsFrom (d : Drain) (m n : Nat) : List (Nat × Nat) :=
  if m = 0 then []
  else if d.scaleRows then [(d.factors, d.factors + 4 * m)]
  else
    (if drScale d = 2 then [(drVec d, drVec d + 4 * n)] else if drScale d = 3 then [(drVec d, drVec d + 4 * m)] else [])
      ++ (if drBias d = 1 then [(drBiasVec d, drBiasVec d + 4 * n)] else [])
      ++ (if drRows d then [(drState d, drState d + 16 * m)] else [])

/-- The MMAs of a context that the array has not finished with, in order. -/
def pendingMmas (s : State) (c : CtxId) : List Mma :=
  (match (getTe s c.te).running with | some r => if r.mma.slot = c.slot then [r.mma] else [] | none => []) ++ (getSlot s c).queue

/-- The extent that a group will have once the context's pending MMAs have been taken (R87). -/
def extentOf (s : State) (c : CtxId) (g : GroupId) : Nat × Nat :=
  let gr := getGroup s c.te g
  (pendingMmas s c).foldl (fun e m => if m.g = g ∧ !m.dropped then (max e.1 m.m, max e.2 m.n) else e) (gr.m, gr.n)

/-- Tile-store ranges that outstanding operations of a context will write. -/
def opWrites (s : State) (c : CtxId) : List (Nat × Nat) :=
  match getCtx s c with | some x => (x.ops.map (·.writes)).flatten | none => []
/-- Tile-store ranges that outstanding operations of a context will read. -/
def opReads (s : State) (c : CtxId) : List (Nat × Nat) :=
  match getCtx s c with | some x => (x.ops.map (·.reads)).flatten | none => []
/-- The drains of a context that are requested or running, with the extents of their tiles. -/
def pendingDrains (s : State) (c : CtxId) : List (Drain × Nat × Nat) :=
  ((shareGroups s c).map fun g =>
    let e := extentOf s c g
    (getGroup s c.te g).reqs.map fun d => (d, e.1, e.2)).flatten
  ++ (match (getTe s c.te).drain with
    | some d => if d.drain.slot = c.slot then let g := getGroup s c.te d.g; [(d.drain, g.m, g.n)] else []
    | none => [])
/-- Tile-store ranges that drains of a context will write, or have written but not readably. -/
def drainOuts (s : State) (c : CtxId) : List (Nat × Nat) :=
  ((pendingDrains s c).map fun d => drainWritesTo d.1 d.2.1 d.2.2).flatten
    ++ ((getTe s c.te).fresh.filter fun f => decide (cycleNow s < f.2.2)).map fun f => (f.1, f.2.1)
/-- Every drain of a context that has ended can be seen to be complete (R87, R98, R107). -/
def drainsSeen (s : State) (c : CtxId) : Bool :=
  let sh := tsShare s c
  (getTe s c.te).fresh.all fun f => decide (f.2.2 ≤ cycleNow s) || !(decide (sh.1 ≤ f.1) && decide (f.1 < sh.1 + sh.2))
/-- Tile-store ranges that drains of a context will read. -/
def drainIns (s : State) (c : CtxId) : List (Nat × Nat) :=
  ((pendingDrains s c).map fun d => drainReadsFrom d.1 d.2.1 d.2.2).flatten
/-- Tile-store ranges that the array will read for a context; pass-tile rings are excepted (R123). -/
def mmaReads (s : State) (c : CtxId) : List (Nat × Nat) :=
  ((pendingMmas s c).map fun m => aRanges m ++ (if m.ring = 0 then bSpans s c.te m else [])).flatten

/-- An instruction that reads and writes these ranges must wait (R64, R123). -/
def mustWait (s : State) (c : CtxId) (reads writes : List (Nat × Nat)) : Bool :=
  clash (reads ++ writes) (opWrites s c ++ drainOuts s c) || clash writes (opReads s c ++ drainIns s c ++ mmaReads s c)

/-- The row state of a drain of `m` rows. -/
def drRowRange (d : Drain) (m : Nat) : List (Nat × Nat) := if drRows d ∧ m ≠ 0 then [(drState d, drState d + 16 * m)] else []
/-- What a drain touches beside its row state. -/
def drBeside (d : Drain) (m n : Nat) : List (Nat × Nat) :=
  (drainReadsFrom d m n ++ drainWritesTo d m n).filter fun r => !((drRowRange d m).contains r)

/-- An earlier drain of the context leaves row state that a later one takes, and its group still has MMAs whose passes R77 may hold back: the later CLOSE waits at issue, so that its own group is not in progress while it waits (R64, R77). -/
def rowsUnready (s : State) (c : CtxId) (d : Drain) (m : Nat) : Bool :=
  (shareGroups s c).any fun x => (getGroup s c.te x).reqs.any fun e =>
    clash (drRowRange d m) (drRowRange e (extentOf s c x).1)
      && (pendingMmas s c).any fun q => decide (q.g = x) && !q.dropped && decide (q.queuedAt ≤ e.requestedAt)

/-- CLOSE and SWAP wait for what their drain reads and writes as every instruction does (R64, R123). Only the row state passes from an earlier drain of the context to a later one on the drain path itself (R105). -/
def closeMustWait (s : State) (c : CtxId) (d : Drain) (m n : Nat) : Bool :=
  let rows := drRowRange d m
  let vecs := (drainReadsFrom d m n).filter fun r => !(rows.contains r)
  let outs := (drainWritesTo d m n).filter fun r => !(rows.contains r)
  let late := (((getTe s c.te).fresh.diff (getTe s c.te).freshRows).filter fun f => decide (cycleNow s < f.2.2)).map fun f => (f.1, f.2.1)
  clash (vecs ++ outs) (opWrites s c ++ drainOuts s c) || clash outs (opReads s c ++ drainIns s c ++ mmaReads s c)
    || clash rows (opWrites s c ++ opReads s c ++ mmaReads s c ++ ((pendingDrains s c).map fun p => drBeside p.1 p.2.1 p.2.2).flatten
      ++ late)
    || rowsUnready s c d m

end Sys2Proof.Machine
end

