-- ==== Sys2Proof/Machine/Issue.lean ====
section
/-! DEFINITION. How an instruction of a sequencer comes to issue: the checks of R117, R443, holds, one issue a cycle, and the advance of the program counter (R63, R115 to R118, R326, R327). -/

namespace Sys2Proof.Machine

/-- What an instruction at issue comes to. -/
inductive Issued where
  /-- it issues, and the next instruction follows -/
  | done (s : State)
  /-- it issues, and issue goes on at an address -/
  | jump (s : State) (pc : W64)
  /-- it waits; the code is that of Table 17-11 -/
  | wait (s : State) (code : Nat)
  /-- its context stops with a record of a class -/
  | stop (s : State) (cls cause : Nat) (d0 d1 : W64)
  /-- its context stops with a record of its own -/
  | record (s : State) (r : Rec)
  /-- an access fails and its context stops; one that Seam holds leaves the instruction to come to issue again (R18) -/
  | fail (s : State) (b : Bad)

/-- The major opcodes (Table 5-2). -/
def opcodes : List Nat :=
  [0x01, 0x02, 0x03, 0x04, 0x08, 0x09, 0x0A, 0x0C, 0x0D, 0x10, 0x11, 0x20, 0x30, 0x38, 0x39, 0x3A, 0x3B, 0x3C,
   0x40, 0x41, 0x42, 0x43, 0x44, 0x45, 0x46, 0x48, 0x49, 0x60, 0x61, 0x62, 0x63, 0x64, 0x65, 0x66, 0x70, 0x71, 0x72, 0x73, 0x74]

/-- The lowest-numbered cause that applies (R117). -/
def firstCause (l : List (Nat × Bool)) : Option Nat := ((l.filter (·.2)).map (·.1)).min?

/-- The causes that every instruction is checked for: its opcode, its X bit, and its place in the code (Table 5-3). -/
def commonCauses (ctx : Ctx) (w : W64) (op : Nat) (needX : Bool) : List (Nat × Bool) :=
  let at_ := ctx.pc.toNat
  let ends := at_ + (if bitAt w 8 then 16 else 8)
  [(0x01, decide (bits w 7 0 ≠ op)), (0x02, bitAt w 8 != needX),
   (0x07, decide (at_ < ctx.codeBase.toNat) || decide (ctx.codeBase.toNat + ctx.codeBytes < ends))]

/-- What an instruction does that a hold may keep back. -/
structure Kind where
  access : Bool := true
  writes : Bool := false

/-! ### Outstanding operations (R135, R157, R331) -/

/-- A die reaches the tally that a handle names: class REG carries the operation over Seam where every link of the route is up (R18, R373). -/
def tallyUp (s : State) (die : Nat) (h : W32) : Bool := (handleKey h).isNone || routeUp s die (bits h 20 18)
/-- Operations whose turn has come, and whose tallies are reached, add to them, in program order; those that ask for none are finished when they are performed. -/
def flushOps (up : W32 → Bool) : List Op → List Op × List (W32 × Nat)
  | [] => ([], [])
  | o :: rest =>
    if o.performed && o.tally.all up then
      let r := flushOps up rest
      match o.tally with
      | some h => (r.1, (h, o.count) :: r.2)
      | none => r
    else if o.tally.isNone then
      let r := flushOps up rest
      (o :: r.1, r.2)
    else (o :: (rest.filter fun q => !(q.performed && q.tally.isNone)), [])
/-- Performed operations leave, adding to their tallies in program order. -/
def settleOps (s : State) (c : CtxId) : State :=
  match getCtx s c with
  | none => s
  | some x =>
    let r := flushOps (tallyUp s (dieOf c.te).val) x.ops
    let s := modCtx s c fun x => { x with ops := r.1 }
    r.2.foldl (fun s p => handleAdd s (some p.1) (BitVec.ofNat 32 p.2)) s
/-- The number of the next operation of a context. -/
def nextOp (s : State) (c : CtxId) : Nat := ((getCtx s c).map (·.opCount)).getD 0
/-- An operation of a cluster mover moves lines (Table 17-5). -/
def moverMoved (s : State) (c : CtxId) (k : OpKind) : State :=
  match k with
  | .route => s
  | .signal => s
  | .tmov false => s
  | _ => noteProgress s 3 (clusterOf c.te).val
/-- A context has an operation outstanding. -/
def addOp (s : State) (c : CtxId) (o : Op) : State :=
  modCtx (moverMoved s c o.kind) c fun x => { x with ops := x.ops ++ [o], opCount := x.opCount + 1 }
/-- An operation is performed: it holds no tile-store byte any more, and its tally addition takes its turn. -/
def performOp (s : State) (c : CtxId) (number : Nat) : State :=
  settleOps (modCtx s c fun x => { x with ops := x.ops.map fun o =>
    if o.number = number then { o with performed := true, reads := [], writes := [] } else o }) c

/-- An operation that failed leaves without adding to its tally. -/
def dropOp (s : State) (c : CtxId) (number : Nat) : State :=
  settleOps (modCtx s c fun x => { x with ops := x.ops.filter fun o => decide (o.number ≠ number) }) c

/-- Writes of operations have failed, each with its context and number: the context stops, and an operation whose write has failed leaves (R442). -/
def failDrained (s : State) (bad : List (CtxId × Nat × Bad)) : State :=
  bad.foldl (fun s p =>
    if !p.2.2.held && ((getCtx s p.1).map fun x => x.ops.any fun o => decide (o.number = p.2.1)).getD false
    then dropOp (stopBad s p.1 p.2.2) p.1 p.2.1 else s) s

/-! ### Holds (R151, R327) -/

/-- An event of a cycle comes before a hold that issued in a cycle, where that matters. -/
def earlier (t : Option Nat) (cycle : Nat) : Bool :=
  match t with
  | some n => decide (cycle < n)
  | none => true
/-- An operation is no access of its context: a dispatch engine is an agent of its own (Table 12-1). -/
def otherAgent (o : Op) : Bool := decide (o.kind = .route)
/-- An operation's accesses are performed at the cluster: what it writes to memory is held in the mover, what it writes to a tile store is done, and a TSIG has added (Table 12-3). -/
def doneAtCluster (o : Op) : Bool := o.writes.isEmpty && (!o.loads || o.performed) && decide (o.kind ≠ .signal)
/-- A context's earlier accesses are performed at a scope (Table 12-3): those of a cycle before `t`, where one is given. -/
def performedAt (s : State) (c : CtxId) (sc : Scope) (t : Option Nat) : Bool :=
  match getCtx s c with
  | none => true
  | some x =>
    let ops := x.ops.filter fun o => earlier t (o.issuedAt / 2) && !otherAgent o
    let later := ((x.ops.find? fun o => !earlier t (o.issuedAt / 2)).map (·.number)).getD x.opCount
    (pendingMmas s c).all (fun m => !earlier t m.queuedAt) && (pendingDrains s c).all (fun d => !earlier t d.1.requestedAt)
      && drainsSeen s c && ops.all doneAtCluster
      && (match sc with
        | .package => ops.isEmpty && (writeBuf s (clusterOf c.te)).all (fun w => decide (w.ctx ≠ c) || decide (later ≤ w.number))
        | _ => true)
/-- A context's earlier reads of memory and of the cluster store and its tally operations have completed (R327). -/
def readsDone (s : State) (c : CtxId) : Bool :=
  match getCtx s c with
  | none => true
  | some x => x.ops.all fun o => otherAgent o || ((!o.loads || o.performed) && decide (o.kind ≠ .signal))
/-- The stale copies of a scope are discarded for a context (Table 12-4). -/
def discardStale (s : State) (c : CtxId) (sc : Scope) : State :=
  match sc with
  | .te => s
  | _ => let cl := clusterOf c.te; setReadAhead s cl ((readAhead s cl).filter fun e => decide (e.1 ≠ c))
/-- A hold other than TWAIT's may end. -/
def holdOver (s : State) (c : CtxId) : Hold → Bool
  | .twait _ _ => false
  | .bar sc => performedAt s c sc none && readsDone s c
  | .acq _ => readsDone s c
  | .rel sc t => performedAt s c sc (some t)
/-- The effect of a hold that ends. -/
def holdEnds (s : State) (c : CtxId) : Hold → State
  | .bar sc => discardStale s c sc
  | .acq sc => discardStale s c sc
  | _ => s
/-- The holds of a context that may end do so. -/
def clearHolds (s : State) (c : CtxId) : State :=
  match getCtx s c with
  | none => s
  | some x =>
    if x.hold = [] then s else
    let gone := x.hold.filter fun h => holdOver s c h
    let s := gone.foldl (fun s h => holdEnds s c h) s
    modCtx s c fun x => { x with hold := x.hold.filter fun h => !(gone.contains h) }
/-- A hold keeps an instruction back (R151, R327); the code is that of Table 17-11. -/
def heldBack (k : Kind) : Hold → Option Nat
  | .twait _ _ => some 1
  | .bar _ => some 5
  | .acq _ => if k.access then some 5 else none
  | .rel _ _ => if k.writes then some 5 else none
/-- A context takes a hold, or its effect at once. -/
def takeHold (s : State) (c : CtxId) (h : Hold) : State :=
  if holdOver s c h then holdEnds s c h else modCtx s c fun x => { x with hold := x.hold ++ [h] }

/-! ### Issue -/

/-- The power domain of a tensor engine's region is on, and its die has its clock. -/
def tePowered (s : State) (te : TeId) : Bool :=
  !(smGet {} s.pwr.regions (regionOf te).val).gated && !(bitAt s.brd.clockLost (dieOf te).val)
/-- Sequencers issue: no compute reset runs (Table 17-8). -/
def sequencersRun (s : State) : Bool := decide (s.err.phase = 0)

/-- A cycle in which a context made progress (R233). -/
def progressed (s : State) (c : CtxId) (a b : Nat) : State :=
  let v := getSlot s c
  setSlot s c { v with progress := v.progress ++ [(a, b)], ctx := v.ctx.map fun x => { x with idle := 0, hangReported := false } }
/-- Cycles in which a context stood behind another (R233). -/
def stalledFor (s : State) (c : CtxId) (a b : Nat) : State :=
  let v := getSlot s c
  setSlot s c { v with stalled := v.stalled ++ [(a, b)] }

/-- One instruction issues in a cycle (R63): the present moves on to a free one. -/
def freeCycle (s : State) (c : CtxId) : State :=
  let t := getTe s c.te
  if t.issuedYet ∧ cycleNow s ≤ t.lastIssue then advanceCycle s (t.lastIssue + 1) else s

/-- An instruction that turned out not to be ready did not stand behind another until the present (R233). -/
def notReady (s : State) (c : CtxId) : State := setSlot s c { getSlot s c with readyFrom := cycleNow s + 1 }
/-- The cycles in which the sequencer issued another context's instruction while a context's next one may have been ready (R233). -/
def lostCycles (s : State) (c : CtxId) : List (Nat × Nat) :=
  ((getTe s c.te).issues.filter fun i => decide (i.1 ≠ c.slot ∧ (getSlot s c).readyFrom ≤ i.2)).map fun i => (i.2, i.2 + 1)
/-- An instruction that turned out to be ready has stood behind the others' since its context's last one (R233). -/
def bookLost (s : State) (c : CtxId) : State :=
  setSlot s c { getSlot s c with stalled := (getSlot s c).stalled ++ lostCycles s c, readyFrom := cycleNow s + 1 }

/-- The books of an instruction that has issued: the cycle is taken, and issue goes on at `pc` (R63, R233). -/
def bookIssue (s : State) (c : CtxId) (pc : W64) : State :=
  let cyc := cycleNow s
  let s := bookLost s c
  let t := getTe s c.te
  let s := setTe s c.te { t with lastIssue := cyc, issuedYet := true, issues := t.issues ++ [(c.slot, cyc)] }
  let s := progressed s c cyc (cyc + 1)
  modCtx s c fun x => { x with pc := pc, lastPc := x.pc, wait := 0, firstIssue := some (x.firstIssue.getD cyc) }
/-- An instruction that has issued: the tables of engines and slots are written, nothing else. -/
def hasIssued (s : State) (c : CtxId) (pc : W64) : State :=
  { s with eng := { s.eng with te := (bookIssue s c pc).eng.te, slots := (bookIssue s c pc).eng.slots } }

/-- The word is an instruction of another row of Table 5-2: it comes to issue by that row's command, and this one is none (R116, log entry 17). -/
def otherRow (w : W64) (op : Nat) : Bool := decide (bits w 7 0 ≠ op) && opcodes.contains (bits w 7 0)

/-- A single wrong bit in a register that an instruction reads is corrected and counted (R260). -/
def correctRegs (s : State) (c : CtxId) (x : Ctx) : State :=
  if x.upset = 1 then
    modCtx { s with err := { s.err with fixed := smMod 0 s.err.fixed (dieOf c.te).val (· + 1) } } c fun x => { x with upset := 0 }
  else s
/-- A register that an instruction reads holds an error that cannot be corrected: its context stops with class 0x0F, unless a condition of a lower class is broken too (R260, R443). -/
def readUpset (s : State) (ctx : Ctx) (o : Issued) : Issued :=
  if ctx.upset < 2 then o
  else
    let own : Issued := .stop s 0x0F 0x02 0x07 0
    match o with
    | .stop _ cls _ _ _ => if cls < 0x0F then o else own
    | .record _ r => if r.cls < 0x0F then o else own
    | .fail _ b => if b.cls < 0x0F ∧ !b.held then o else own
    | _ => own
/-- An instruction comes to issue. `illegal` gives the causes of Table 5-3 beyond the common ones. -/
def issue (s : State) (c : CtxId) (w x : W64) (op : Nat) (needX : Bool) (k : Kind)
    (illegal : Ctx → List (Nat × Bool)) (run : State → Ctx → Issued) : State :=
  if !sequencersRun s || !tePowered s c.te then s
  else
    let s := clearHolds s c
    match getCtx s c with
    | none => s
    | some ctx =>
      if (getSlot s c).occ ≠ .running ∨ ctx.stop.isSome ∨ ctx.ended ∨ otherRow w op then s
      else match ctx.hold.findSome? (heldBack k) with
      | some code => modCtx (notReady s c) c fun x => { x with wait := code }
      | none =>
        match firstCause (commonCauses ctx w op needX ++ (if bits w 7 0 = op then illegal ctx else [])) with
        | some cause => stopAt s c 0x02 cause w (if bitAt w 8 then x else 0)
        | none =>
          let s := correctRegs s c ctx
          let next := ctx.pc + (if needX then 16 else 8)
          match readUpset s ctx (run (freeCycle s c) ctx) with
          | .done s => hasIssued s c next
          | .jump s pc => hasIssued s c pc
          | .wait t code => modCtx (notReady t c) c fun x => { x with wait := code }
          | .stop s cls cause d0 d1 => stopAt s c cls cause d0 d1
          | .record s r => stopRec s c r
          | .fail t b => if b.held then modCtx s c fun x => { x with wait := 0 } else stopBad t c b

/-- A register named by five bits of a word. -/
def regField (w : W64) (hi lo : Nat) : Nat := bits w hi lo
/-- A reserved run of bits is not zero (cause 0x03). -/
def rsv (w : W64) (hi lo : Nat) : Nat × Bool := (0x03, decide (bits w hi lo ≠ 0))

/-- A handle in a register is invalid (R150): its upper half must be zero. -/
def badHandle (v : W64) : Bool := decide (bits v 63 32 ≠ 0) || (handleKey (v.truncate 32)).isNone
/-- The handle of the register that a field names; s0 asks for nothing where `optional`. -/
def handleOf (s : State) (c : CtxId) (r : Nat) : Option W32 := if r = 0 then none else some ((sreg s c r).truncate 32)

end Sys2Proof.Machine
end

