-- ==== Sys2Proof/Machine/Operands.lean ====
section
/-! DEFINITION. Operands of sequencer instructions: tile-store and cluster-store bytes under the hem code, share and window checks, scalar arithmetic (R62, R121, R125, R218, R256 to R259). -/

namespace Sys2Proof.Machine

/-- A run of lines of a store read under the hem code: the wrong symbols left, and the first line that is uncorrectable (R257, R258). -/
def readStore (errs : SMap Hem) (a n : Nat) : SMap Hem × Option Nat :=
  (errs.filter fun e => !(reachesLine a n e.1 && (hemFix e.2).isSome), badLine errs a n)
/-- The bytes of a store once a run of lines has been read: a line that the code miscorrects is rewritten as the decoder read it (R256, R258). -/
def rewritten (store : SMap Byte) (errs : SMap Hem) (a n : Nat) : SMap Byte :=
  (errs.filter fun e => reachesLine a n e.1 && decide (hemMiss e.2 ≠ 0)).foldl (fun m e =>
    smSetRange 0 m (64 * e.1) (bytesOf 64 ((BitVec.ofNat 512 (leNat (smGetRange 0 m (64 * e.1) 64)) : Line) ^^^ hemMiss e.2).toNat)) store

/-- Reads bytes of a tile store (R258, R259). -/
def tsLoad (s : State) (te : TeId) (a n : Nat) : State × (Bad ⊕ List Byte) :=
  let base := 2097152 * te.val
  match readStore s.eng.tileErr (base + a) n with
  | (errs, none) =>
    let s := { s with eng := { s.eng with tileErr := errs, tiles := rewritten s.eng.tiles s.eng.tileErr (base + a) n } }
    (s, .inr (tsRead s te a n))
  | (errs, some l) => ({ s with eng := { s.eng with tileErr := errs } },
      .inl { cls := 0x0F, cause := 0x01, addr := BitVec.ofNat 64 (64 * l - base), d0 := BitVec.ofNat 64 (1 + 256 * te.val) })

/-- Reads bytes of a cluster store (R258, R259). -/
def csLoad (s : State) (cl : Fin 64) (a n : Nat) : State × (Bad ⊕ List Byte) :=
  let base := 8388608 * cl.val
  match readStore s.cl.storeErr (base + a) n with
  | (errs, none) =>
    let s := { s with cl := { s.cl with storeErr := errs, store := rewritten s.cl.store s.cl.storeErr (base + a) n } }
    (s, .inr (csRead s cl a n))
  | (errs, some l) => ({ s with cl := { s.cl with storeErr := errs } },
      .inl { cls := 0x0F, cause := 0x01, addr := BitVec.ofNat 64 (64 * l - base), d0 := BitVec.ofNat 64 (2 + 256 * cl.val) })

/-- The valid partition entry of a job (R223). -/
def partOf (s : State) (job : W16) : Option PartId :=
  (List.finRange 64).find? fun p => bitAt (getPart s p) 0 && decide (bits (getPart s p) 31 16 = job.toNat)
/-- The cluster-store window of a job: first byte and size (R218). -/
def csWindow (s : State) (job : W16) : Nat × Nat :=
  match partOf s job with
  | some p => (65536 * bits (getPart s p) 71 64, 65536 * bits (getPart s p) 79 72)
  | none => (0, 0)
/-- A byte range lies in the window of a job. -/
def inWindow (s : State) (job : W16) (a n : Nat) : Bool :=
  let w := csWindow s job
  decide (w.1 ≤ a) && decide (a + n ≤ w.1 + w.2)

/-- A bounds stop on the tile store (Table 17-2). -/
def tsBounds (s : State) (a : Nat) : Issued := .stop s 0x04 0x01 (BitVec.ofNat 64 a) 0
/-- An alignment stop (R124). -/
def misaligned (s : State) (a : Nat) : Issued := .stop s 0x05 0 (BitVec.ofNat 64 a) 0
/-- A shape stop (Table 17-2). -/
def shapeStop (s : State) (cause : Nat) (w x : W64) : Issued := .stop s 0x03 cause w x
/-- A stop for an invalid handle (R150). -/
def badTally (s : State) (v : W64) : Issued := .stop s 0x09 0 (BitVec.ofNat 64 (bits v 31 0)) 0

/-- The first range that leaves the share of a context. -/
def outOfShare (s : State) (c : CtxId) (rs : List (Nat × Nat)) : Option Nat :=
  (rs.find? fun r => !(inShare s c r.1 (r.2 - r.1))).map (·.1)

/-- The scalar functions of SALU and SALUI; none for a reserved one (R125). -/
def alu (fn : Nat) (a b : W64) : Option W64 :=
  match fn with
  | 0x00 => some (a + b)
  | 0x01 => some (a - b)
  | 0x02 => some (a &&& b)
  | 0x03 => some (a ||| b)
  | 0x04 => some (a ^^^ b)
  | 0x05 => some (a <<< (b.toNat % 64))
  | 0x06 => some (a >>> (b.toNat % 64))
  | 0x07 => some (a.sshiftRight (b.toNat % 64))
  | 0x08 => some (a * b)
  | 0x09 => some (BitVec.ofNat 64 (a.toNat * b.toNat / 2 ^ 64))
  | 0x0A => some (if a.slt b then 1 else 0)
  | 0x0B => some (if a < b then 1 else 0)
  | 0x0C => some (if a.slt b then a else b)
  | 0x0D => some (if a.slt b then b else a)
  | 0x0E => some (if a < b then a else b)
  | 0x0F => some (if a < b then b else a)
  | _ => none

/-- The condition of BR; none for a reserved one (R126). -/
def branchHolds (cond : Nat) (a b : W64) : Option Bool :=
  match cond with
  | 0 => some true
  | 1 => some (decide (a = b))
  | 2 => some (decide (a ≠ b))
  | 3 => some (a.slt b)
  | 4 => some (!(a.slt b))
  | 5 => some (decide (a < b))
  | 6 => some (!decide (a < b))
  | _ => none

/-- The upper half of a word, sign-extended. -/
def immOf (w : W64) : W64 := (w.extractLsb' 32 32).signExtend 64

/-- The SRD values (Table 5-5); none for a reserved selector. -/
def srdValue (s : State) (c : CtxId) (ctx : Ctx) (sel : Nat) : Option W64 :=
  let n (v : Nat) : Option W64 := some (BitVec.ofNat 64 v)
  match sel with
  | 0x00 => n c.te.val
  | 0x01 => n ctx.launch.cid.toNat
  | 0x02 => n (tsShare s c).1
  | 0x03 => n (tsShare s c).2
  | 0x04 => n (grpShare s c).1
  | 0x05 => n (grpShare s c).2
  | 0x06 => n s.stc.count.toNat
  | 0x07 => n (cycleNow s - ctx.firstIssue.getD (cycleNow s))
  | 0x08 => n 0x0100
  | 0x09 => n (getTe s c.te).current.code
  | _ => none

end Sys2Proof.Machine
end

