-- ==== Sys2Proof/Machine/Matrix.lean ====
section
/-! DEFINITION. MMA and the array: taking MMAs, re-forming, weight loads, passes and landing (R63, R65 to R80, R85 to R97, R136 to R139). -/

namespace Sys2Proof.Machine

/-- The name of a group's state in a record: 0 free, 1 open, 2 closed or retained, 3 draining (Table 17-11). -/
def GState.code : GState → Nat
  | .free => 0
  | .opened => 1
  | .closed => 2
  | .draining => 3

/-- A stop because of a group's state (R86). -/
def badGroup (s : State) (te : TeId) (cause : Nat) (g : GroupId) : Issued :=
  .stop s 0x06 cause (BitVec.ofNat 64 (g.val + 256 * (getGroup s te g).st.code)) 0
/-- A stop because a group lies outside the share (R84). -/
def badShare (s : State) (g : Nat) : Issued := .stop s 0x04 0x02 (BitVec.ofNat 64 g) 0

/-- The upper group of a compensated pair cannot be named (R96). -/
def heldByPair (s : State) (te : TeId) (g : GroupId) : Bool :=
  decide (g.val % 2 = 1) &&
    (let lo := getGroup s te ⟨g.val - 1, by have := g.isLt; omega⟩; lo.comp && decide (lo.st ≠ .free))

/-- The group that a G field names, within the share of a context (R84). -/
def groupOf (s : State) (c : CtxId) (g : Nat) : Option GroupId := (shareGroups s c).find? fun x => decide (x.val = g)
/-- The live or the shadow bank of a shadow-mode context (R108). -/
def bankOf (s : State) (c : CtxId) (bank : Nat) : Option GroupId := groupOf s c ((grpShare s c).1 + bank)

/-! ### MMA (R136 to R139) -/

/-- The operand of a format is one that MMA takes (Table 2-1, R138). -/
def mmaOperand (f : Fmt) : Bool := !f.isCw

/-- The causes of MMA (R136, R138, R139, Table 3-5, Table 5-10). -/
def mmaCauses (w x : W64) (ctx : Ctx) : List (Nat × Bool) :=
  let ring := bits x 59 58
  [rsv w 63 62, (0x04, decide (bits w 15 13 = 2 ∨ bits w 15 13 = 3)),
   (0x03, decide (ring = 0 ∧ bits x 63 60 ≠ 0)), (0x05, decide (ring ≠ 0 ∧ bits x 63 60 = 0)),
   (0x06, ctx.shadow && decide (bits w 12 9 ≠ 0))]
  ++ (match Fmt.ofCode (bits w 20 16), Fmt.ofCode (bits w 25 21) with
    | some fa, some fb =>
      [(0x05, !(mmaOperand fa && mmaOperand fb)), (0x05, fa.isInt != fb.isInt),
       (0x05, decide (fa = .fp32) != decide (fb = .fp32))]
    | _, _ => [(0x04, true)])
  ++ [(0x03, ((Fmt.ofCode (bits w 20 16)).map fun fa => !fa.isMx && decide (bits x 57 53 ≠ 0)).getD false)]

/-- What an MMA whose group or tally makes its context stop comes to: the lower classes of its shape and of its B operand come first, in the form that it would take in the present state (R68, R443). -/
def mmaStop (s : State) (c : CtxId) (m : Mma) (later : Issued) : Issued :=
  let t := getTe s c.te
  match resolveForm (boundForm s c.te m) m.hint t.current m.m m.n with
  | none => .stop s 0x03 0x02 m.word m.ext
  | some f => match outOfShare s c (bRanges m f) with
    | some a => tsBounds s a
    | none => later

/-- MMA issues a matrix multiply-accumulate into the array queue (R136). One that finds both places of its context taken waits behind them, and the context goes on to its later instructions (R63); what such an instruction depends on is seen from the list. -/
def execMma (c : CtxId) (w x : W64) (s : State) : Res :=
  clocked s fun s => issue s c w x 0x30 true { writes := decide (bits x 59 58 ≠ 0) } (mmaCauses w x) fun s ctx =>
    let m := bits w 33 26
    let n := bits w 44 34
    let k := bits w 61 45
    let ring := bits x 59 58
    let v := bits x 63 60
    let ready := sreg s c (2 * v)
    let freed := sreg s c (2 * v + 1)
    if m = 0 ∨ 128 < m ∨ n = 0 ∨ 1024 < n ∨ k = 0 ∨ 65536 < k then shapeStop s 0x01 w x
    else match (if ctx.shadow then bankOf s c ctx.liveBank else groupOf s c (bits w 12 9)) with
    | none => badShare s (bits w 12 9)
    | some g =>
      let op : Mma := {
        slot := c.slot, addr := ctx.pc, word := w, ext := x, g := g, hint := bits w 15 13,
        fa := bits w 20 16, fb := bits w 25 21, m := m, n := n, k := k, aBase := bits x 15 0, aPitch := bits x 25 16,
        bBase := bits x 41 26, bStride := bits x 52 42, aScale := (sreg s c (bits x 57 53)).toNat, ring := ring,
        ready := ready, freed := freed.truncate 32, queuedAt := cycleNow s, opAt := ctx.opCount }
      match outOfShare s c (aRanges op) with
      | some a => tsBounds s a
      | none =>
        if (getGroup s c.te g).st ≠ .opened ∨ heldByPair s c.te g then
          (if (getGroup s c.te g).discard then .wait s 2 else mmaStop s c op (badGroup s c.te 0x01 g))
        else if ring ≠ 0 ∧ (handleKey (ready.truncate 32)).isNone then mmaStop s c op (badTally s ready)
        else if ring ≠ 0 ∧ badHandle freed then mmaStop s c op (badTally s freed)
        else if mustWait s c (aRanges op ++ bSpans s c.te op) [] then .wait s 2
        else
          let sl := getSlot s c
          .done (setSlot s c { sl with queue := sl.queue ++ [op] })

/-! ### The array -/

/-- While the array empties for another form or after its last pass, the passes that it empties of are all those of one slot (R79, R233). -/
def emptiesOf (t : Te) (k : SlotId) : Bool :=
  decide (t.running.map (·.form) ≠ some t.form) && !t.flights.isEmpty && t.flights.all fun f => decide (f.slot = k)
/-- A slot with a ready MMA has stood behind the array's occupant until the present; one whose own passes the array empties of has not (R233). -/
def standsBehind (te : TeId) (o : SlotId) (s : State) (k : SlotId) : State :=
  let since := (getTe s te).occupiedFrom
  if k = o ∨ emptiesOf (getTe s te) k then s
  else match (getSlot s ⟨te, k⟩).queue.head? with
    | some m => if max m.queuedAt since < cycleNow s then stalledFor s ⟨te, k⟩ (max m.queuedAt since) (cycleNow s) else s
    | none => s
/-- The context whose MMA waits for another form stands behind the passes of other contexts that the array must empty of first (R79, R233). -/
def standsBefore (te : TeId) (o : SlotId) (s : State) : State :=
  let t := getTe s te
  match t.running with
  | some r =>
    if r.form ≠ t.form ∧ t.flights.any (fun f => decide (f.slot ≠ o)) ∧ t.occupiedFrom < cycleNow s then stalledFor s ⟨te, o⟩ t.occupiedFrom (cycleNow s) else s
  | none => s
/-- Stall accounting up to the present: while the array is occupied for one context, the others that have a ready MMA stand behind it (R233). -/
def accountArray (s : State) (te : TeId) : State :=
  match (getTe s te).occupiedBy with
  | none => s
  | some o =>
    let s := allSlots.foldl (standsBehind te o) (standsBefore te o s)
    setTe s te { getTe s te with occupiedFrom := cycleNow s }

/-- Whether the weight load of a pass waits for the ready tally of its ring (R139). -/
def ringGated (r : Running) (p : Nat) : Bool :=
  decide (r.mma.ring ≠ 0) && (decide (rateOf (mmaFmts r.mma).1 (mmaFmts r.mma).2 ≠ .fp32) || decide (p % 3 = 0))

/-- The first cycle in which a weight load may begin: the ninth after the landing that a form switch waited for (R79). -/
def loadBound (t : Te) : Nat := if t.reformEnd = 0 then 0 else t.reformEnd + 1

/-- The load of the next pass begins in cycle `cyc` unless it waits for a ring. -/
def beginLoad (r : Running) (cyc : Nat) : Running :=
  if r.loadNext < r.passes ∧ !ringGated r r.loadNext then { r with loadStart := some cyc, loaded := none }
  else { r with loadStart := none, loaded := none }

/-- The next slot in turn that has an MMA ready (R80). -/
def nextSlot (s : State) (te : TeId) : Option SlotId :=
  ((List.range 4).map fun i => (⟨((getTe s te).lastTaken.val + 1 + i) % 4, by omega⟩ : SlotId)).find? fun k =>
    !(getSlot s ⟨te, k⟩).queue.isEmpty && ((getCtx s ⟨te, k⟩).map (·.stop.isNone)).getD false

/-- Dropped MMAs of a group run in the form that the first of them has taken (R68, R85). -/
def bindDropped (l : List Mma) (g : GroupId) (f : FoldForm) : List Mma :=
  l.map fun m => if m.g = g ∧ m.dropped ∧ m.bound.isNone then { m with bound := some f } else m

/-- The array takes the next queued MMA, resolves its form and binds its group (R68, R80). -/
def execArrayTakeMma (te : TeId) (s : State) : Res :=
  clocked s fun s =>
    if (getTe s te).running.isSome || !tePowered s te then s
    else match nextSlot s te with
    | none => s
    | some k =>
      let c : CtxId := ⟨te, k⟩
      match (getSlot s c).queue with
      | [] => s
      | m :: rest =>
        let t := getTe s te
        match resolveForm (boundForm s te m) m.hint t.current m.m m.n with
        | none => stopRec s c { cls := 0x03, cause := 0x02, addr := m.addr, d0 := m.word, d1 := m.ext }
        | some f =>
          match outOfShare s c (bRanges m f) with
          | some a => stopRec s c { cls := 0x04, cause := 0x01, addr := m.addr, d0 := BitVec.ofNat 64 a }
          | none =>
            let s := accountArray s te
            let rest := if m.dropped then bindDropped rest m.g f else rest
            let s := setSlot s c { getSlot s c with queue := rest }
            let s := if m.dropped then s else setGroup s te m.g { getGroup s te m.g with form := some f }
            let rt := rateOf (mmaFmts m).1 (mmaFmts m).2
            let r : Running := ⟨m, f, passCount f rt m.k, 0, none, none, 0, none⟩
            let r := if f = t.form then beginLoad r (max (cycleNow s) (loadBound t)) else r
            setTe s te { getTe s te with running := some r, lastTaken := k, occupiedBy := some k, occupiedFrom := cycleNow s }

/-- The array is empty and re-forms in eight cycles, in which the context that it re-forms for stands with the others that have a ready MMA (R233, Table 8-3); the first load of the new form follows (R79), behind a patrol slice where the form has not been exercised for 8 ms (R447). -/
def execArrayReform (te : TeId) (s : State) : Res :=
  onDie s (dieOf te).val fun s =>
    let t := getTe s te
    match t.running with
    | none => s
    | some r =>
      if r.form = t.form ∨ t.flights ≠ [] then s
      else
        let s := advanceCycle (accountArray s te) (cycleNow s + 8)
        let s := accountArray (stalledFor s ⟨te, r.mma.slot⟩ (cycleNow s - 8) (cycleNow s)) te
        let stale := decide (s.boot.phase = 8) && decide (t.exercised.getD r.form.code 0 + 12000000 < cycleNow s)
        setTe s te { getTe s te with
          form := r.form, reformEnd := cycleNow s, mustExercise := stale, running := some (beginLoad r (cycleNow s + 1)) }

/-- The ready tally of a ring has reached what a pass needs (R139). -/
def ringHolds (s : State) (m : Mma) (seg : Nat) : Bool :=
  match handleKey (m.ready.truncate 32) with
  | some key => geZero32 (tally s key - (BitVec.ofNat 32 (bits m.ready 63 32) + BitVec.ofNat 32 (seg + 1)))
  | none => false

/-- A ring's ready condition holds, and the weight load of the pass begins (R139). -/
def execRingReady (te : TeId) (s : State) : Res :=
  onDie s (dieOf te).val fun s =>
    let t := getTe s te
    match t.running with
    | none => s
    | some r =>
      let seg := passSeg (rateOf (mmaFmts r.mma).1 (mmaFmts r.mma).2) r.loadNext
      if r.form ≠ t.form ∨ r.loadStart.isSome ∨ r.passes ≤ r.loadNext ∨ r.enterNext ≠ r.loadNext
          ∨ !ringGated r r.loadNext ∨ !ringHolds s r.mma seg then s
      else setTe s te { t with running := some { r with loadStart := some (max (cycleNow s) (loadBound t)) } }

/-- A weight ring's freed tally rises in its turn: behind the additions of its context's instructions before the MMA that are not made yet (R139, R331). -/
def ringFreed (s : State) (m : Mma) (c : CtxId) : State :=
  let o : Op := ⟨.signal, some m.freed, 1, [], [], 0, 2 ^ 32 + m.opAt, s.now, false, true⟩
  settleOps (modCtx s c fun x => { x with
    ops := (x.ops.takeWhile fun q => decide (q.number % 2 ^ 32 < m.opAt)) ++ o :: x.ops.dropWhile fun q => decide (q.number % 2 ^ 32 < m.opAt) }) c

/-- A weight load completes; the tile is read into the shadow registers, and a ring's freed tally rises (R73, R74, R139). In a form that a patrol slice must exercise first, none has begun (R447). -/
def execWeightLoadDone (te : TeId) (s : State) : Res :=
  onDie s (dieOf te).val fun s =>
    let t := getTe s te
    if t.mustExercise then s
    else match t.running with
    | none => s
    | some r =>
      match r.loadStart, r.loaded with
      | some c0, none =>
        let fb := (mmaFmts r.mma).2
        let rt := rateOf (mmaFmts r.mma).1 fb
        let lam := loadCycles r.form rt fb
        let c : CtxId := ⟨te, r.mma.slot⟩
        let s := advanceCycle s (c0 + lam)
        let s := progressed s c c0 (c0 + lam)
        match tsLoad s te (tileAt r.mma (passSeg rt r.loadNext)) (tileElems r.form rt fb + tileScales r.form rt fb) with
        | (s, .inl b) => stopBad s c b
        | (s, .inr bs) =>
          let s := setTe s te { getTe s te with shadowW := bs, running := some { r with loaded := some (c0 + lam - 1) } }
          if r.mma.ring ≠ 0 ∧ (rt ≠ .fp32 ∨ r.loadNext % 3 = 2) then ringFreed s r.mma c else s
      | _, _ => s

/-! ### Passes and their sums (R89 to R94) -/

/-- One operand of a pass, element by element: its raw value, its FP32 word where it is emulated, the code of its scale, and whether it is an integer. -/
structure Elem where
  v : FV
  word : W32
  scale : Nat
  int : Bool

/-- An element of a format; a scale only counts for MX formats. -/
def elemOf (f : Fmt) (code scale : Nat) : Elem :=
  ⟨(match f.layout with | some l => l.decode code | none => FV.ofInt (intOf f.width code)), BitVec.ofNat 32 code, if f.isMx then scale else 127, f.isInt⟩

/-- A zero product of integers has no sign (R33, R34, R90). -/
def intProduct (v : FV) : FV := if v.isZero then FV.zero else v

/-- The product of two elements in a pass; in an emulated pass, of the parts that the pass multiplies (R46). -/
def passProduct (rt : Rate) (p : Nat) (a b : Elem) : FV :=
  if rt = .fp32 then
    let sa := split32 a.word
    let sb := split32 b.word
    match p % 3 with
    | 0 => splitMul sa.1 sb.1
    | 1 => splitMul sa.1 sb.2
    | _ => splitMul sa.2 sb.1
  else if a.int then intProduct (a.v.mul b.v)
  else a.v.mul b.v

/-- The block values that a pass adds into one element, in order (R89, R90, R93). -/
def passSums (rt : Rate) (p : Nat) (k0 k1 : Nat) (a b : Nat → Elem) : List W32 :=
  (List.range (k1 / 32 + 1)).filterMap fun blk =>
    let lo := max k0 (32 * blk)
    let hi := min k1 (32 * (blk + 1))
    if hi ≤ lo then none
    else
      let ks := (List.range (hi - lo)).map (lo + ·)
      let sa := (a lo).scale
      let sb := (b lo).scale
      some (blockValue (ks.map fun k => passProduct rt p (a k) (b k)) ((sa : Int) - 127 + ((sb : Int) - 127)) (decide (sa = 255) || decide (sb = 255)))

/-- Element (logical K row, column) of a pass tile in array order (Table 3-6); `k` counts from the pass's first row. -/
def tileElem (f : FoldForm) (rt : Rate) (fb : Fmt) (rows : Array (Array Nat)) (scales : Array Byte) (off : Nat) (k j : Nat) : Elem :=
  let code := if rt = .pair4 then ((rows[k / 2]?.getD #[]).getD j 0) / 16 ^ (k % 2) % 16 else (rows[k]?.getD #[]).getD j 0
  elemOf fb code ((scales.getD (((off + k) / 32 - off / 32) * f.np + j) 0).toNat)

/-- The cell rows of a pass tile as codes. -/
def tileRows (f : FoldForm) (rt : Rate) (fb : Fmt) (bs : List Byte) : Array (Array Nat) :=
  let w := weightBits rt fb
  let rb := f.np * w / 8
  ((List.range f.kp).map fun c => (unpackCodes w ((bs.drop (c * rb)).take rb) f.np).toArray).toArray

/-- Reads the part of every A row that a pass needs, with its scales; an uncorrectable line stops it. -/
def passRows (s : State) (te : TeId) (m : Mma) (fa : Fmt) (k0 k1 : Nat) : List Nat → State × (Bad ⊕ List (Array Nat × Array Byte))
  | [] => (s, .inr [])
  | i :: rest =>
    match tsLoad s te (rowAt m i + k0 * fa.width / 8) (fa.bytes (k1 - k0)) with
    | (s, .inl b) => (s, .inl b)
    | (s, .inr bs) =>
      let sn := if fa.isMx then (k1 + 31) / 32 - k0 / 32 else 0
      match tsLoad s te (rowScaleAt m fa i + k0 / 32) sn with
      | (s, .inl b) => (s, .inl b)
      | (s, .inr sc) =>
        match passRows s te m fa k0 k1 rest with
        | (s, .inr t) => (s, .inr (((unpackCodes fa.width bs (k1 - k0)).toArray, sc.toArray) :: t))
        | r => r

/-- A group is in progress (R77). -/
def inProgress (s : State) (te : TeId) (g : GroupId) : Bool :=
  let t := getTe s te
  let gr := getGroup s te g
  t.flights.any (fun f => decide (f.g = g))
    || (match t.drain with | some d => decide (d.g = g) | none => false)
    || (match gr.reqs.find? fun d => !d.scaleRows with
      | some d => (pendingMmas s ⟨te, d.slot⟩).all fun m => decide (m.g ≠ g) || m.dropped
      | none => false)
/-- The other groups in progress. -/
def othersInProgress (s : State) (te : TeId) (g : GroupId) : List GroupId :=
  allGroups.filter fun x => decide (x ≠ g) && inProgress s te x
/-- A group belongs to the share of a slot. -/
def inShareOf (s : State) (te : TeId) (k : SlotId) (g : GroupId) : Bool := (shareGroups s ⟨te, k⟩).contains g

/-- A group is in progress in a cycle, the groups that leave progress at its end or later among them (R77). -/
def busyIn (s : State) (te : TeId) (cyc : Nat) (g : GroupId) : Bool :=
  inProgress s te g || (getTe s te).leaving.any fun l => decide (l.1 = g ∧ cyc ≤ l.2)
/-- A pass into a group puts a third group in progress in a cycle (R77). -/
def thirdGroup (s : State) (te : TeId) (g : GroupId) (cyc : Nat) : Bool :=
  !busyIn s te cyc g && decide (2 ≤ (allGroups.filter fun x => decide (x ≠ g) && busyIn s te cyc x).length)
/-- The first cycle in which a pass into a group puts no third group in progress beside those that are leaving it (R77). -/
def turnoverBound (s : State) (te : TeId) (g : GroupId) : Nat :=
  let ends := ((getTe s te).leaving.map fun l => l.2 + 1).filter fun e => decide (cycleNow s < e)
  if thirdGroup s te g (cycleNow s) then ((ends.filter fun e => !thirdGroup s te g e).min?).getD 0 else 0

/-- A row scaling of the group that was requested before an MMA has not begun (R99). -/
def scalingFirst (s : State) (te : TeId) (m : Mma) : Bool :=
  !m.dropped && (getGroup s te m.g).reqs.any fun d => d.scaleRows && decide (d.requestedAt < m.queuedAt)
/-- The earliest first row that a scaling in progress or ended allows (R99). -/
def scalingBound (s : State) (te : TeId) (m : Mma) (f : FoldForm) : Nat :=
  match (getTe s te).drain with
  | some d => if d.g = m.g ∧ d.drain.scaleRows ∧ !m.dropped then d.start + d.cycles - f.latency else 0
  | none => 0

/-- The first row of a pass enters once its load, the pass before it and R77 allow; its products are formed from the rows and the live weights (R75, R77, R89). -/
def execPassRowsEnter (te : TeId) (s : State) : Res :=
  onDie s (dieOf te).val fun s =>
    let t := getTe s te
    match t.running with
    | none => s
    | some r =>
      match r.loaded with
      | none => s
      | some ld =>
        let m := r.mma
        let c : CtxId := ⟨te, m.slot⟩
        let others := othersInProgress s te m.g
        if scalingFirst s te m then s
        else if !inProgress s te m.g ∧ 2 ≤ others.length then
          let foreign := others.all fun g => !inShareOf s te m.slot g
          if foreign ∧ r.heldFrom.isNone then
            setTe s te { t with running := some { r with heldFrom := some (max (cycleNow s) (max (ld + 1) t.rowsFree)) } }
          else s
        else
          let fs := mmaFmts m
          let rt := rateOf fs.1 fs.2
          let s := advanceCycle s (max (max (max (ld + 1) t.rowsFree) (scalingBound s te m r.form)) (turnoverBound s te m.g))
          let t0 := cycleNow s
          let s := match r.heldFrom with
            | some h => if h < t0 then stalledFor s c h t0 else s
            | none => s
          let kl := passK r.form rt
          let seg := passSeg rt r.enterNext
          let k0 := seg * kl
          let k1 := min ((seg + 1) * kl) m.k
          match passRows s te m fs.1 k0 k1 (List.range m.m) with
          | (s, .inl b) => stopBad s c b
          | (s, .inr rows) =>
            let live := t.shadowW
            let wRows := tileRows r.form rt fs.2 live
            let wScales := (live.drop (tileElems r.form rt fs.2)).toArray
            let adds := if m.dropped then []
              else (rows.zipIdx.map fun a => (List.range m.n).map fun j =>
                (a.2 * r.form.np + j,
                 passSums rt r.enterNext k0 k1
                   (fun k => elemOf fs.1 (a.1.1.getD (k - k0) 0) ((a.1.2.getD (k / 32 - k0 / 32) 0).toNat))
                   (fun k => tileElem r.form rt fs.2 wRows wScales k0 (k - k0) j))).flatten
            let landing := t0 + (m.m - 1) * rt.r + r.form.latency
            let fl : Flight := ⟨m.g, m.slot, landing, m.m, m.n, adds⟩
            let next := { r with enterNext := r.enterNext + 1, loadNext := r.loadNext + 1, heldFrom := none }
            let running := if next.enterNext < r.passes then some (beginLoad next t0) else none
            let s := progressed s c t0 (t0 + m.m * rt.r)
            let s := setTe s te { getTe s te with
              liveW := live, current := r.form, running := running, flights := t.flights ++ [fl], rowsFree := t0 + m.m * rt.r }
            if m.dropped then s
            else
              let gr := getGroup s te m.g
              setGroup s te m.g { gr with m := max gr.m m.m, n := max gr.n m.n }

/-- A block value is added into an element of a group, in compensated mode into its pair (R92, R97). -/
def addBlock (comp : Bool) (te : TeId) (g : Nat) (i : Nat) (s : State) (v : W32) : State :=
  if comp then
    let a := accAt s te g i
    let t := fadd a v
    let err : FV := match dec32 t with
      | .fin _ _ _ => ((dec32 a).add (dec32 v)).add (dec32 t).neg
      | _ => FV.zero
    let corr := accAt s te (g + 1) i
    setAcc (setAcc s te g i t) te (g + 1) i (rne32 ((dec32 corr).add err))
  else setAcc s te g i (fadd (accAt s te g i) v)

/-- The MMA that the array runs has passes of a group behind it and more before it. -/
def morePasses (t : Te) (g : GroupId) : Bool :=
  match t.running with
  | some r => decide (r.mma.g = g ∧ 0 < r.enterNext)
  | none => false

/-- The last result of a group is added into the accumulator (R76, R92, R93). -/
def execGroupLanding (te : TeId) (g : GroupId) (s : State) : Res :=
  onDie s (dieOf te).val fun s =>
    let t := getTe s te
    let mine := t.flights.filter fun f => decide (f.g = g)
    if mine.isEmpty || morePasses t g then s
    else
      let e := (mine.map (·.landing)).foldl max 0
      let s := accountArray (advanceCycle s e) te
      let gr := getGroup s te g
      let s := mine.foldl (fun s f => f.adds.foldl (fun s a => a.2.foldl (addBlock gr.comp te g.val a.1) s) s) s
      let rest := t.flights.filter fun f => decide (f.g ≠ g)
      let s := setGroup s te g (if gr.discard then {} else { gr with landedAt := e })
      let t := getTe s te
      setTe s te { t with
        flights := rest
        leaving := (t.leaving.filter fun l => decide (e ≤ l.2)) ++ [(g, e)]
        occupiedBy := if rest.isEmpty ∧ t.running.isNone then none else t.occupiedBy }

end Sys2Proof.Machine
end

