-- ==== Sys2Proof/Machine/Special.lean ====
section
/-! DEFINITION. The special functions of the vector unit and the drain path (R81, R83, R104). The spec bounds their error and does not state their results: a result is the opaque value of Config wherever that lies within the bound, and the value nearest the true one where it does not (DESIGN CHOICE, assumptions/5). -/

namespace Sys2Proof.Machine

/-- The fixed point's fraction bits. -/
def fixBits : Nat := 160
/-- ln 2 in fixed point. -/
def fixLn2 : Nat := 1013035739299659071135698605846798551586536899366
/-- √(2 ÷ π) in fixed point, the factor of the tanh form of GELU. -/
def fixRoot : Nat := 1166109592014436081468383460887399764390691815008

/-- A finite value in fixed point. -/
def fixOf (m : Nat) (e : Int) : Nat :=
  let k := e + (fixBits : Int)
  if 0 ≤ k then m * 2 ^ k.toNat else m / 2 ^ (-k).toNat

/-- Terms `n` to `n + fuel` of the series of exp, from the term before. -/
def expSeries : Nat → Nat → Nat → Nat → Nat
  | 0, _, _, _ => 0
  | fuel + 1, n, r, t =>
    let t' := t * r / 2 ^ fixBits / n
    t' + expSeries fuel (n + 1) r t'

/-- exp of a magnitude in fixed point with a sign, as a value; beyond ±200 it is past every FP32 number. -/
def expFix (neg : Bool) (x : Nat) : FV :=
  if 200 * 2 ^ fixBits < x then (if neg then .fin false 1 (-400) else .fin false 1 400)
  else
    let xi : Int := signed neg x
    let k := xi / (fixLn2 : Int)
    let r := (xi % (fixLn2 : Int)).toNat
    .fin false (2 ^ fixBits + expSeries 48 1 r (2 ^ fixBits)) (k - (fixBits : Int))

/-- Half the bits of a square root, one bit at a time: the largest `a + d` with a square not above `n`, over falling powers `d`. -/
def isqrtBits : Nat → Nat → Nat → Nat
  | 0, _, a => a
  | b + 1, n, a => let a' := a + 2 ^ b; isqrtBits b n (if a' * a' ≤ n then a' else a)

/-- 1 ÷ (1 + exp(−z)) for a fixed-point magnitude with a sign, in fixed point. -/
def sigmaFix (neg : Bool) (z : Nat) : Nat :=
  let one := 2 ^ fixBits
  let en : Nat := match expFix true z with
    | .fin _ m e => fixOf m e
    | _ => 0
  if neg then en * one / (one + en) else one * one / (one + en)

/-- One unit in the last place of FP32 at a positive value, as a power of two. -/
def ulpExp (m : Nat) (e : Int) : Int := max ((Nat.log2 m : Int) + e) (-126) - 23

/-- A word lies within `2 ^ k × t` of a value. -/
def near (w : W32) (ref : FV) (t : Nat) (k : Int) : Bool :=
  match dec32 w with
  | .fin n m e =>
    match (FV.fin n m e).add ref.neg with
    | .fin _ dm de => !(FV.fin false t k).lt (.fin false dm de)
    | _ => false
  | _ => false

/-- The opaque result where it lies within 2 ulp of the true value, else the nearest FP32 number (R81). -/
def within2ulp (w : W32) (ref : FV) : W32 :=
  match ref with
  | .fin _ m e =>
    let k := if m = 0 then -149 else ulpExp m e
    if near w ref 2 k then w else rne32 ref
  | _ => rne32 ref

/-- exp (R81, R83); a result below half the smallest subnormal is +0 (R173). -/
def fexp (w : W32) : W32 :=
  match dec32 w with
  | .nan => nan32
  | .inf n => if n then 0 else inf32 false
  | .fin n m e =>
    let ref := expFix n (fixOf m e)
    if rne32 ref = inf32 false then inf32 false
    else if rne32 ref = 0 then 0 else within2ulp (Config.expValue w) ref

/-- Reciprocal (R81, R83). -/
def frcp (w : W32) : W32 :=
  match dec32 w with
  | .nan => nan32
  | .inf n => within2ulp (Config.rcpValue w) (.fin n 0 0)
  | .fin n m e =>
    if m = 0 then inf32 n
    else within2ulp (Config.rcpValue w) (.fin n (2 ^ 200 / m) (-200 - e))

/-- Reciprocal square root (R81, R83). -/
def frsqrt (w : W32) : W32 :=
  match dec32 w with
  | .nan => nan32
  | .inf n => if n then nan32 else within2ulp (Config.rsqrtValue w) FV.zero
  | .fin n m e =>
    if m = 0 then inf32 n
    else if n then nan32
    else
      let odd := decide (e % 2 = 1)
      let m' := if odd then 2 * m else m
      let e' := if odd then e - 1 else e
      within2ulp (Config.rsqrtValue w) (.fin false (isqrtBits 200 (2 ^ 400 / m') 0) (-200 - e' / 2))

/-- The opaque result where it lies within 2^−16 × max(1, |x|) of the true value, else the nearest FP32 number (R81). -/
def withinAct (w : W32) (x ref : FV) : W32 :=
  let b : FV := if x.abs.lt FV.one then FV.one else x.abs
  match b with
  | .fin _ m e => if near w ref m (e - 16) then w else rne32 ref
  | _ => rne32 ref

/-- SiLU (R81, R83). -/
def fsilu (w : W32) : W32 :=
  match dec32 w with
  | .nan => nan32
  | .inf n => if n then 0x80000000 else inf32 false
  | .fin n m e => withinAct (Config.siluValue w) (.fin n m e) (.fin n (m * sigmaFix n (fixOf m e)) (e - (fixBits : Int)))

/-- GELU, tanh form: x times the logistic function of 2 √(2 ÷ π) (x + 0.044715 x³) (R81, R83). -/
def fgelu (w : W32) : W32 :=
  match dec32 w with
  | .nan => nan32
  | .inf n => if n then 0x80000000 else inf32 false
  | .fin n m e =>
    let one := 2 ^ fixBits
    let x := min (fixOf m e) (64 * one)
    let u := x + x * x / one * x / one * 44715 / 1000000
    let z := 2 * (fixRoot * u / one)
    withinAct (Config.geluValue w) (.fin n m e) (.fin n (m * sigmaFix n z) (e - (fixBits : Int)))

end Sys2Proof.Machine
end

