-- ==== Sys2Proof/Machine/Drain.lean ====
section
/-! DEFINITION. Accumulation-group control and the drain path (R78, R84 to R88, R96 to R110, R140 to R142). -/

namespace Sys2Proof.Machine

/-! ### OPEN, SCALE_ROWS and DISCARD -/

/-- Every element of a group behaves as +0 (R85). -/
def clearAcc (s : State) (te : TeId) (g n : Nat) : State :=
  { s with eng := { s.eng with acc := smClear s.eng.acc ((8 * te.val + g) * 16384) ((8 * te.val + g + n) * 16384) } }

/-- What a group's state makes of OPEN: none where it opens, else what the instruction comes to (Table 4-2). -/
def openBlocked (s : State) (te : TeId) (g : GroupId) : Option Issued :=
  let gr := getGroup s te g
  if heldByPair s te g then some (badGroup s te 0x01 g)
  else match gr.st with
    | .free => none
    | .draining => some (.wait s 2)
    | _ => some (if gr.discard then .wait s 2 else badGroup s te 0x01 g)

/-- OPEN makes a group open and unbound (R85, R96). -/
def execOpenGroup (c : CtxId) (w x : W64) (s : State) : Res :=
  clocked s fun s => issue s c w x 0x38 false { access := false } (fun ctx => [rsv w 63 14, (0x06, ctx.shadow)]) fun s _ =>
    let n := bits w 12 9
    let cmp := bitAt w 13
    match groupOf s c n with
    | none => badShare s n
    | some g =>
      if cmp ∧ n % 2 = 1 then badGroup s c.te 0x02 g
      else match (if cmp then groupOf s c (n + 1) else some g) with
      | none => badShare s (n + 1)
      | some g' =>
        match openBlocked s c.te g with
        | some r => r
        | none =>
          match openBlocked s c.te g' with
          | some r => r
          | none => .done (setGroup (clearAcc s c.te n (if cmp then 2 else 1)) c.te g { st := .opened, comp := cmp })

/-- SCALE_ROWS requests that each row of an open group be multiplied by a factor (R99). -/
def execScaleRows (c : CtxId) (w x : W64) (s : State) : Res :=
  clocked s fun s => issue s c w x 0x3B false {} (fun ctx => [rsv w 63 29, (0x06, ctx.shadow)]) fun s _ =>
    match groupOf s c (bits w 12 9) with
    | none => badShare s (bits w 12 9)
    | some g =>
      let e := extentOf s c g
      let d : Drain := ⟨c.slot, true, w, 0, 0, 64 * bits w 28 13, cycleNow s⟩
      match outOfShare s c (drainReadsFrom d e.1 e.2) with
      | some a => tsBounds s a
      | none =>
        let gr := getGroup s c.te g
        if gr.discard then .wait s 2
        else if gr.st ≠ .opened ∨ heldByPair s c.te g then badGroup s c.te 0x01 g
        else if e.1 = 0 then .done s
        else if mustWait s c (drainReadsFrom d e.1 e.2) [] then .wait s 2
        else .done (setGroup s c.te g { gr with reqs := gr.reqs ++ [d] })

/-- The results of a group's MMAs and passes are dropped (R85). -/
def dropResults (s : State) (c : CtxId) (g : GroupId) : State :=
  let gr := getGroup s c.te g
  let drop (m : Mma) : Mma := if m.g = g ∧ !m.dropped then { m with dropped := true, bound := gr.form } else m
  let sl := getSlot s c
  let t := getTe s c.te
  let s := setSlot s c { sl with queue := sl.queue.map drop }
  setTe s c.te { t with
    running := t.running.map fun r => if r.mma.slot = c.slot then { r with mma := drop r.mma } else r
    flights := t.flights.map fun f => if f.g = g then { f with adds := [] } else f }

/-- DISCARD frees a group without draining it (R85, Table 4-2). -/
def execDiscard (c : CtxId) (w x : W64) (s : State) : Res :=
  clocked s fun s => issue s c w x 0x3C false { access := false } (fun ctx => [rsv w 63 13, (0x06, ctx.shadow)]) fun s _ =>
    match groupOf s c (bits w 12 9) with
    | none => badShare s (bits w 12 9)
    | some g =>
      if heldByPair s c.te g then badGroup s c.te 0x01 g
      else match (getGroup s c.te g).st with
      | .free => .done s
      | .draining => .wait s 2
      | .opened => .done (setGroup (dropResults s c g) c.te g {})
      | .closed =>
        let inFlight := (getTe s c.te).flights.any fun f => decide (f.g = g)
        let s := dropResults s c g
        .done (setGroup s c.te g (if inFlight then { getGroup s c.te g with discard := true, reqs := [] } else {}))

/-! ### CLOSE and SWAP -/

/-- Whether the extension word must be there (R140). -/
def closeExt (w : W64) : Bool :=
  decide (bits w 14 13 ≠ 0) || decide (bits w 16 15 ≠ 0) || bitAt w 17 || bitAt w 18
    || decide (bits w 25 21 = 0x08) || decide (bits w 25 21 = 0x09)

/-- The causes of CLOSE and SWAP (R140 to R142, Table 5-12). -/
def closeCauses (w x : W64) (isSwap : Bool) (ctx : Ctx) : List (Nat × Bool) :=
  let noout := bitAt w 20
  let mx := decide (bits w 25 21 = 0x08) || decide (bits w 25 21 = 0x09)
  let ext := bitAt w 8
  [rsv w 63 54, (0x03, isSwap && decide (bits w 12 9 ≠ 0)),
   (0x03, ext && (noout || !mx) && decide (bits x 15 0 ≠ 0)),
   (0x03, ext && !(bitAt w 17) && !(bitAt w 18) && decide (bits x 31 16 ≠ 0)),
   (0x03, ext && decide (bits w 14 13 = 0) && decide (bits x 47 32 ≠ 0)),
   (0x03, ext && decide (bits w 14 13 = 1) && decide (bits x 47 37 ≠ 0)),
   (0x03, ext && decide (bits w 16 15 = 0) && decide (bits x 63 48 ≠ 0)),
   (0x04, decide (2 ≤ bits w 16 15)),
   (0x05, bitAt w 19 && !(bitAt w 18)),
   (0x05, bitAt w 26 && (noout || decide (bits w 25 21 = 0))),
   (0x05, noout && (decide (bits w 43 28 ≠ 0) || decide (bits w 53 44 ≠ 0) || decide (bits w 25 21 ≠ 0) || bitAt w 19)),
   (0x06, isSwap != ctx.shadow), (0x06, isSwap && (bitAt w 17 || bitAt w 18 || bitAt w 27))]
  ++ match Fmt.ofCode (bits w 25 21) with
    | some f => [(0x05, !noout && !f.drains)]
    | none => [(0x04, true)]

/-- The drain that CLOSE or SWAP requests. -/
def drainOf (s : State) (c : CtxId) (w x : W64) : Drain :=
  ⟨c.slot, false, w, if bitAt w 8 then x else 0, if bits w 14 13 = 1 then (sreg s c (bits x 36 32)).truncate 32 else 0, 0, cycleNow s⟩

/-- Whether a group accepts CLOSE: a closed one by the RETAIN of its last CLOSE, a draining one by that of the drain in progress (Table 4-2). -/
def closeAccepted (s : State) (te : TeId) (g : GroupId) : Bool :=
  match (getGroup s te g).st with
  | .free => false
  | .opened => true
  | .closed => (getGroup s te g).retain
  | .draining => match (getTe s te).drain with
    | some r => decide (r.g = g) && drRetain r.drain
    | none => false

/-- CLOSE ends accumulation into a group and requests its drain (R85, R86). -/
def execClose (c : CtxId) (w x : W64) (s : State) : Res :=
  clocked s fun s => issue s c w x 0x39 (closeExt w) { writes := true } (closeCauses w x false) fun s _ =>
    match groupOf s c (bits w 12 9) with
    | none => badShare s (bits w 12 9)
    | some g =>
      let e := extentOf s c g
      let d := drainOf s c w x
      match outOfShare s c (drainReadsFrom d e.1 e.2 ++ drainWritesTo d e.1 e.2) with
      | some a => tsBounds s a
      | none =>
        let gr := getGroup s c.te g
        if gr.discard then .wait s 2
        else if !closeAccepted s c.te g || heldByPair s c.te g then badGroup s c.te 0x01 g
        else if closeMustWait s c d e.1 e.2 then .wait s 2
        else .done (setGroup s c.te g { gr with
          st := if gr.st = .opened then .closed else gr.st, retain := drRetain d, reqs := gr.reqs ++ [d] })

/-- SWAP closes the live bank for draining and makes the other bank live (R108, R109). -/
def execSwap (c : CtxId) (w x : W64) (s : State) : Res :=
  clocked s fun s => issue s c w x 0x3A (closeExt w) { writes := true } (closeCauses w x true) fun s ctx =>
    match bankOf s c ctx.liveBank, bankOf s c (1 - ctx.liveBank) with
    | some g, some other =>
      let e := extentOf s c g
      let d := drainOf s c w x
      match outOfShare s c (drainReadsFrom d e.1 e.2 ++ drainWritesTo d e.1 e.2) with
      | some a => tsBounds s a
      | none =>
        if (getGroup s c.te other).st ≠ .free then .wait s 2
        else if closeMustWait s c d e.1 e.2 then .wait s 2
        else
          let gr := getGroup s c.te g
          let s := setGroup s c.te g { gr with st := .closed, retain := false, reqs := gr.reqs ++ [d] }
          let s := setGroup (clearAcc s c.te other.val 1) c.te other { st := .opened }
          .done (modCtx s c fun y => { y with liveBank := 1 - y.liveBank })
    | _, _ => badShare s (grpShare s c).1

/-! ### The drain path -/

/-- The cycle in which what a request waits for has come about: its group's landing, or the request itself (R78). -/
def readyAt (gr : Group) (d : Drain) : Nat := max gr.landedAt d.requestedAt

/-- A drain that was requested earlier by the same context and has not begun keeps the row state that a later one of another group shares (R64, R105). -/
def rowsBehind (s : State) (te : TeId) (g : GroupId) (d : Drain) : Bool :=
  (shareGroups s ⟨te, d.slot⟩).any fun x => decide (x ≠ g) && (getGroup s te x).reqs.any fun e =>
    decide (e.requestedAt < d.requestedAt) && clash (drRowRange d (extentOf s ⟨te, d.slot⟩ g).1) (drRowRange e (extentOf s ⟨te, d.slot⟩ x).1)

/-- The first request of a group can begin: every MMA issued before it has landed (R78, R99). -/
def canDrain (s : State) (te : TeId) (g : GroupId) : Option Drain :=
  match (getGroup s te g).reqs.head? with
  | none => none
  | some d =>
    let ahead := (pendingMmas s ⟨te, d.slot⟩).any fun m => decide (m.g = g) && !m.dropped && decide (m.queuedAt < d.requestedAt)
    if ahead || (getTe s te).flights.any (fun f => decide (f.g = g)) || rowsBehind s te g d then none else some d

/-- No other group's drain has been ready for longer (R78). -/
def firstReady (s : State) (te : TeId) (g : GroupId) (d : Drain) : Bool :=
  allGroups.all fun x => decide (x = g) || (match canDrain s te x with
    | some e => decide (readyAt (getGroup s te g) d ≤ readyAt (getGroup s te x) e)
    | none => true)

/-- The drain path takes a request: when it begins, and how long its context stood behind the last drain of another (R78, R233). -/
def takePath (s : State) (te : TeId) (g : GroupId) (d : Drain) : State :=
  let t := getTe s te
  let r := readyAt (getGroup s te g) d + 1
  let s := advanceCycle s (max r t.drainFree)
  if r < t.drainFree ∧ t.drainOwner ≠ some d.slot ∧ t.drainOwner.isSome then stalledFor s ⟨te, d.slot⟩ (max r t.drainFrom) t.drainFree else s
/-- The drains of other contexts that are ready have stood behind the one in progress until a cycle (R233). -/
def drainsStand (s : State) (te : TeId) (cyc : Nat) : State :=
  match (getTe s te).drain with
  | none => s
  | some r => allGroups.foldl (fun s g => match canDrain s te g with
      | some d =>
        let from' := max (readyAt (getGroup s te g) d + 1) r.start
        if d.slot ≠ r.drain.slot ∧ from' < cyc then stalledFor s ⟨te, d.slot⟩ from' cyc else s
      | none => s) s

/-- FP32 words from bytes. -/
def words32 (bs : List Byte) : List W32 := (chunks 4 bs).map fun b => BitVec.ofNat 32 (leNat b)
/-- The bytes of FP32 words. -/
def bytes32 (ws : List W32) : List Byte := (ws.map fun w => bytesOf 4 w.toNat).flatten

/-- The scaling of an open group's rows begins on the drain path (R99). -/
def execScaleRowsBegin (te : TeId) (g : GroupId) (s : State) : Res :=
  clocked s fun s =>
    let gr := getGroup s te g
    match canDrain s te g with
    | none => s
    | some d =>
      if !d.scaleRows || (getTe s te).drain.isSome || !firstReady s te g d || !tePowered s te then s
      else
        let s := takePath s te g d
        let c : CtxId := ⟨te, d.slot⟩
        match tsLoad s te d.factors (4 * gr.m) with
        | (s, .inl b) => stopBad s c b
        | (s, .inr bs) =>
          let np := (gr.form.getD .f128).np
          let s := (words32 bs).zipIdx.foldl (fun s f => (List.range gr.n).foldl (fun s j =>
            let i := f.2 * np + j
            let s := setAcc s te g.val i (fmul (accAt s te g.val i) f.1)
            if gr.comp then setAcc s te (g.val + 1) i (fmul (accAt s te (g.val + 1) i) f.1) else s) s) s
          let rc := ceilDiv' gr.n 128
          let t0 := cycleNow s
          let s := progressed s c t0 (t0 + gr.m * rc)
          let s := setGroup s te g { gr with reqs := gr.reqs.drop 1 }
          setTe s te { getTe s te with drain := some ⟨g, d, t0, gr.m * rc, rc, []⟩, drainFrom := t0, drainOwner := some d.slot }

/-- A row-state entry (Table 4-5). -/
structure RowState where
  mRun : W32
  lRun : W32
  corr : W32
  tMax : W32

/-- The row-state entry that four words hold. -/
def RowState.ofWords (l : List W32) : RowState := ⟨l.getD 0 0, l.getD 1 0, l.getD 2 0, l.getD 3 0⟩

/-- The sum of one row's exponentials by chunks of 128 columns (R104). -/
def expTotal (p : List W32) : W32 :=
  (chunks 128 p).foldl (fun r ch => fadd r (treeSum 7 (ch ++ List.replicate (128 - ch.length) 0))) 0

/-- EXPSUM on one row: the exponentials and the new entry (R104). -/
def expsumRow (st : RowState) (t : W32) (y : List W32) : List W32 × RowState :=
  let mNew := fmax st.mRun t
  let cf := if (dec32 mNew).eq (dec32 st.mRun) then 0x3F800000 else fexp (fsub st.mRun mNew)
  let p := y.map fun v => fexp (if v = inf32 true ∧ mNew = inf32 true then inf32 true else fsub v mNew)
  (p, { st with mRun := mNew, lRun := fadd (fmul st.lRun cf) (expTotal p), corr := cf })

/-- One row of a drain: what it puts out and the row state it leaves (R101). -/
def drainRow (d : Drain) (st : RowState) (y : List W32) : List W32 × RowState :=
  let t := (y.drop 1).foldl fmax (y.headD 0)
  let te := if y.length ≤ 128 then t else st.tMax
  let (p, st1) := if drExpsum d then expsumRow st te y else (y, st)
  let st2 := if drRowmax d then { st1 with tMax := t } else st1
  (if drOutP d then p else y, st2)

/-- The values y of a row (R98, R101). -/
def drainValues (s : State) (te : TeId) (g : GroupId) (gr : Group) (d : Drain) (cols rows biases : List W32) (i : Nat) : List W32 :=
  let np := (gr.form.getD .f128).np
  (List.range gr.n).map fun j =>
    let a := accAt s te g.val (i * np + j)
    let v := if gr.comp then fadd a (accAt s te (g.val + 1) (i * np + j)) else a
    if drScale d = 0 ∧ drBias d = 0 then v
    else
      let sc := match drScale d with
        | 0 => 0x3F800000
        | 1 => d.scalar
        | 2 => cols.getD j 0
        | _ => rows.getD i 0
      ffma v sc (if drBias d = 1 then biases.getD j 0 else 0)

/-- The bytes of a tile store before a write, by their keys (R88). -/
def oldBytes (s : State) (te : TeId) (w : Nat × List Byte) : List (Nat × Byte) :=
  (List.range w.2.length).map fun i => (2097152 * te.val + w.1 + i, smGet 0 s.eng.tiles (2097152 * te.val + w.1 + i))

/-- Bytes of a tile store take values while their row is being written; its check bytes follow when it is complete (R88). -/
def tsPut (s : State) (te : TeId) (a : Nat) (v : List Byte) : State :=
  { s with eng := { s.eng with tiles := smSetRange 0 s.eng.tiles (2097152 * te.val + a) v } }

/-- What a list of row writes overwrites, in order, each read in the state the earlier writes left. -/
def overwritten (te : TeId) : List (Nat × List Byte) → State → List (Nat × Byte)
  | [], _ => []
  | w :: rest, s => oldBytes s te w ++ overwritten te rest (tsPut s te w.1 w.2)

/-- Row `i` of a drain is written: output, scales and row state (R102, R106). -/
def drainRowWrites (d : Drain) (n i : Nat) (sr : Option Nat) (out : List W32) (st : RowState) : List (Nat × List Byte) :=
  let f := drFmt d
  let vs := out.map dec32
  let vs := if f.isMx then vs ++ List.replicate (roundUp n 32 - n) FV.zero else vs
  let (codes, scales) := f.encodeRow sr vs
  (if drNoOut d then [] else [(drOut d + i * drPitch d, packCodes f.width codes)])
    ++ (if !drNoOut d && f.isMx then [(drOsc d + ceilDiv' n 32 * i, scales.map (BitVec.ofNat 8))] else [])
    ++ (if drRows d then [(drState d + 16 * i, bytes32 [st.mRun, st.lRun, st.corr, st.tMax])] else [])

/-- The rows of a drain are processed in increasing order; the bytes that each row overwrote are noted. -/
def drainRows (te : TeId) (g : GroupId) (gr : Group) (d : Drain) (cols rows biases : List W32) (sr : Option Nat) :
    List Nat → State → List (List (Nat × Byte)) → State × List (List (Nat × Byte))
  | [], s, undo => (s, undo)
  | i :: rest, s, undo =>
    let y := drainValues s te g gr d cols rows biases i
    let st := RowState.ofWords (words32 (if drRows d then tsRead s te (drState d + 16 * i) 16 else []))
    let (out, st) := drainRow d st y
    let ws := drainRowWrites d gr.n i (sr.map (· + roundUp gr.n 32 * i)) out st
    drainRows te g gr d cols rows biases sr rest (ws.foldl (fun s w => tsPut s te w.1 w.2) s) (undo ++ [overwritten te ws s])

/-- Reads what a drain reads in the tile store, and tells the first uncorrectable line. -/
def drainLoads (s : State) (te : TeId) (rs : List (Nat × Nat)) : State × Option Bad :=
  match collect (fun s (r : Nat × Nat) => tsLoad s te r.1 (r.2 - r.1)) rs s with
  | (s, .inl b) => (s, some b)
  | (s, .inr _) => (s, none)

/-- The drain of a closed group begins on the drain path (R78, R101 to R106). Its vectors and row state are read when it begins, and an error there stops the context before a row is written (DESIGN CHOICE, log entry 155). -/
def execDrainStart (te : TeId) (g : GroupId) (s : State) : Res :=
  clocked s fun s =>
    match canDrain s te g with
    | none => s
    | some d =>
      if d.scaleRows || (getTe s te).drain.isSome || !firstReady s te g d || !tePowered s te then s
      else
        let s := takePath s te g d
        let c : CtxId := ⟨te, d.slot⟩
        let gr := getGroup s te g
        match drainLoads s te (drainReadsFrom d gr.m gr.n) with
        | (s, some b) => stopBad s c b
        | (s, none) =>
          let vec (on : Bool) (a n : Nat) : List W32 := if on then words32 (tsRead s te a (4 * n)) else []
          let cols := vec (drScale d = 2) (drVec d) gr.n
          let rows := vec (drScale d = 3) (drVec d) gr.m
          let biases := vec (drBias d = 1) (drBiasVec d) gr.n
          let (sr, s) := drawsFor s (drSr d) (roundUp gr.n 32 * gr.m)
          let rc := ceilDiv' gr.n 128
          let cycles := if gr.m = 0 then 1 else gr.m * rc
          let t0 := cycleNow s
          let (s, undo) := drainRows te g gr d cols rows biases sr (List.range gr.m) s []
          let s := progressed s c t0 (t0 + cycles)
          let s := setGroup s te g { gr with st := .draining, reqs := gr.reqs.drop 1 }
          setTe s te { getTe s te with drain := some ⟨g, d, t0, cycles, rc, undo⟩, drainFrom := t0, drainOwner := some d.slot }

/-- The last cycle of a drain or scaling passes; a drain that writes nothing leaves an empty range, whose cycle tells when it is seen to be complete (R86, R87, R98, R99, R107). A group for which a further drain is queued stays closed (DESIGN CHOICE, log entry 154); the row state of a compensated drain is seen from the same cycle as its tile, the sixth (DESIGN CHOICE, log entry 156). -/
def execDrainEnd (te : TeId) (s : State) : Res :=
  onDie s (dieOf te).val fun s =>
    let t := getTe s te
    match t.drain with
    | none => s
    | some r =>
      let last := r.start + r.cycles
      let s := drainsStand (advanceCycle s last) te last
      let gr := getGroup s te r.g
      let open_ := t.fresh.filter fun f => decide (cycleNow s < f.2.2)
      let openRows := t.freshRows.filter fun f => decide (cycleNow s < f.2.2)
      if r.drain.scaleRows then
        setTe s te { t with drain := none, drainFree := last, fresh := open_, freshRows := openRows }
      else
        let seen := last - 1 + (if gr.comp ∧ gr.m ≠ 0 then 6 else 4)
        let outs := (drainWritesTo r.drain gr.m gr.n).map fun w => (w.1, w.2, seen)
        let outs := if outs = [] then [((tsShare s ⟨te, r.drain.slot⟩).1, (tsShare s ⟨te, r.drain.slot⟩).1, seen)] else outs
        let s := { s with eng := { s.eng with tileErr := r.undo.foldl healRow s.eng.tileErr } }
        let rows := (drRowRange r.drain gr.m).map fun w => (w.1, w.2, seen)
        let s := setTe s te { t with drain := none, drainFree := last, fresh := open_ ++ outs, freshRows := openRows ++ rows }
        if drRetain r.drain ∨ gr.reqs ≠ [] then setGroup s te r.g { gr with st := .closed }
        else setGroup s te r.g {}

end Sys2Proof.Machine
end

