-- ==== Sys2Proof/Machine/Sieve.lean ====
section
/-! DEFINITION. Coded-weight tensors and what a Sieve decoder makes of a chunk (R48 to R53). -/

namespace Sys2Proof.Machine

/-- A coded-tensor header (Table 2-5). -/
structure CwHead where
  fmt : Fmt
  log : Nat
  count : Nat
  indexAt : Nat
  dataAt : Nat
deriving DecidableEq, Repr

/-- Reads a header; none where it is a format error (R48, Table 2-5). -/
def cwHead (h : BitVec 512) : Option CwHead :=
  match Fmt.ofCode (bits h 4 0) with
  | none => none
  | some f =>
    let log := bits h 11 8
    let count := bits h 63 32
    let ix := bits h 127 64
    let dt := bits h 191 128
    if f.isCw && decide (9 ≤ log) && decide (log ≤ 12) && decide (bits h 23 16 = 1) && decide (1 ≤ count)
        && decide (ix % 64 = 0) && decide (dt % 64 = 0) && decide (bits h 255 192 ≤ count * 4096)
        && decide (bits h 7 5 = 0) && decide (bits h 15 12 = 0) && decide (bits h 31 24 = 0) && decide (bits h 511 256 = 0)
    then some ⟨f, log, count, ix, dt⟩ else none

/-- The counts of a frequency table; none where they do not sum to T (R49). -/
def cwCounts (log : Nat) (bs : List Byte) : Option (List Nat) :=
  let cs := (chunks 2 bs).map leNat
  if cs.sum = 2 ^ log then some cs else none

/-- A chunk index entry: its offset and length in lines, and whether it is stored uncoded; none where a value is invalid (R50, R53, Table 2-6). -/
def cwIndex (e : W64) : Option (Nat × Nat × Bool) :=
  let n := bits e 38 32
  if bits e 47 39 = 0 ∧ bits e 63 49 = 0 ∧ 1 ≤ n ∧ n ≤ 69 then some (bits e 31 0, n, bitAt e 48) else none

/-- Scale bytes of a chunk (R51). -/
def cwScales (f : Fmt) : Nat := if f = .cw4 then 256 else 128

/-- The symbols of a tensor's decoding table by state: the spread of R52. -/
def tansSymbols (log : Nat) (counts : List Nat) : List Nat :=
  let t := 2 ^ log
  let step := t / 2 + t / 8 + 3
  let syms := (counts.zipIdx.map fun p => List.replicate p.1 p.2).flatten
  (syms.zipIdx.foldl (fun (a : Array Nat) p => a.setIfInBounds (p.2 * step % t) p.1) (Array.replicate t 0)).toList

/-- Symbol, bits to read and base of every state (R52). -/
def tansTable (log : Nat) (counts : List Nat) : List (Nat × Nat × Nat) :=
  let t := 2 ^ log
  let rec go (next : Array Nat) : List Nat → List (Nat × Nat × Nat)
    | [] => []
    | s :: rest =>
      let n := next.getD s 0
      let nb := log - Nat.log2 n
      (s, nb, n * 2 ^ nb - t) :: go (next.setIfInBounds s (n + 1)) rest
  go counts.toArray (tansSymbols log counts)

/-- Decodes `n` symbols: what is left of the bits as a number and how many are left; none where the decoder reads beyond them. -/
def tansRun (table : Array (Nat × Nat × Nat)) : Nat → Nat → Nat → Nat → Option (List Byte × Nat × Nat)
  | 0, state, _, left => some ([], state, left)
  | n + 1, state, v, left =>
    let e := table.getD state (0, 0, 0)
    if left < e.2.1 then none
    else match tansRun table n (e.2.2 + v % 2 ^ e.2.1) (v / 2 ^ e.2.1) (left - e.2.1) with
      | none => none
      | some (l, st, r) => some (BitVec.ofNat 8 e.1 :: l, st, r)

/-- Decodes a chunk from its lines: its 4,096 element bytes and its scale bytes; none where it fails under R53. -/
def cwChunk (h : CwHead) (counts : List Nat) (stored : Bool) (bs : List Byte) : Option (List Byte × List Byte) :=
  let hd := leNat (bs.take 8)
  let w : W64 := BitVec.ofNat 64 hd
  let sc := cwScales h.fmt
  let scales := (bs.drop 8).take sc
  let body := bs.drop (8 + sc)
  let nbits := bits w 31 16
  if bits w 15 12 ≠ 0 ∨ bits w 63 32 ≠ 0 then none
  else if stored then (if body.length < 4096 then none else some (body.take 4096, scales))
  else if nbits = 0 ∨ 32768 < nbits ∨ 8 * body.length < nbits ∨ nbits < h.log then none
  else
    let v := leNat body % 2 ^ nbits
    match tansRun (tansTable h.log counts).toArray 4096 (v % 2 ^ h.log) (v / 2 ^ h.log) (nbits - h.log) with
    | some (out, st, 0) => if st = bits w 11 0 then some (out, scales) else none
    | _ => none

end Sys2Proof.Machine
end

