-- ==== Sys2Proof/Machine/TileMove.lean ====
section
/-! DEFINITION. TMOV, GATHER and SCATTER: copies between spaces, with conversion, array order and coded weights (R48 to R58, R129 to R135, R154). -/

namespace Sys2Proof.Machine

/-! ### Coded sources (R53 to R56, R134) -/

/-- A coded-weight stop (Table 17-2). -/
def cwBad (head cause chunk : Nat) : Bad := { cls := 0x08, cause := cause, addr := BitVec.ofNat 64 head, d0 := BitVec.ofNat 64 chunk }
/-- A format stop of a coded tensor (Table 17-2). -/
def fmtBad (head cause : Nat) : Bad := { cls := 0x07, cause := cause, addr := BitVec.ofNat 64 head }

/-- A Sieve reads line pieces coherently at their homes, allocating nothing (R56). -/
def sievePieces (s : State) (c : CtxId) (table : Nat) (cls : MemClass) : List (Nat × Nat) → State × (Bad ⊕ List Byte)
  | [] => (s, .inr [])
  | (va, n) :: rest =>
    match translate s c.te table va with
    | (s, .inl b) => (s, .inl b)
    | (s, .inr sa) =>
      if !lineOk s (sa / 64) then (s, .inl (addrBad sa))
      else match peekLine s (portAgent (dieOf c.te)) cls (sa / 64) with
        | (s, .inl b) => (s, .inl b)
        | (s, .inr v) =>
          let v := overlay (writeBuf s (clusterOf c.te)) (sa / 64) v
          match sievePieces s c table cls rest with
          | (s, .inr t) => (s, .inr (((lineBytes v).drop (sa % 64)).take n ++ t))
          | r => r
/-- A Sieve reads a byte range. -/
def sieveRead (s : State) (c : CtxId) (table : Nat) (cls : MemClass) (va n : Nat) : State × (Bad ⊕ List Byte) :=
  sievePieces s c table cls (linePieces va n)

/-- A chunk lies in one slab of the near tier (R55). -/
def chunkNear (s : State) (c : CtxId) (table va n : Nat) : Bool :=
  match (translate s c.te table va).2 with
  | .inr sa =>
    decide (sa / 2 ^ 28 = (sa + n - 1) / 2 ^ 28) &&
      (match (backing s sa).bind directCtrl with
       | some k => decide (k.val < 12)
       | none => true)
  | .inl _ => true

/-- Reads and decodes chunks of a tensor: each with its number, elements and scales (R53, R55). -/
def sieveChunks (s : State) (c : CtxId) (table : Nat) (cls : MemClass) (head : Nat) (h : CwHead) (counts : List Nat) :
    List Nat → State × (Bad ⊕ List (Nat × List Byte × List Byte))
  | [] => (s, .inr [])
  | k :: rest =>
    if h.count ≤ k then (s, .inl (cwBad head 0x03 k))
    else match sieveRead s c table cls (head + h.indexAt + 8 * k) 8 with
    | (s, .inl b) => (s, .inl b)
    | (s, .inr e) =>
      match cwIndex (BitVec.ofNat 64 (leNat e)) with
      | none => (s, .inl (cwBad head 0x01 k))
      | some (off, lines, stored) =>
        let va := head + h.dataAt + 64 * off
        if !chunkNear s c table va (64 * lines) then (s, .inl (cwBad head 0x02 k))
        else match sieveRead s c table cls va (64 * lines) with
          | (s, .inl b) => (s, .inl b)
          | (s, .inr bs) =>
            match cwChunk h counts stored bs with
            | none => (s, .inl (cwBad head 0x01 k))
            | some (el, sc) =>
              match sieveChunks s c table cls head h counts rest with
              | (s, .inr t) => (s, .inr ((k, el, sc) :: t))
              | r => r

/-- Bytes of the decoded element stream, or of the scale stream, from the chunks at hand. -/
def fromChunks (cs : List (Nat × List Byte × List Byte)) (scales : Bool) (per a n : Nat) : List Byte :=
  (List.range n).map fun i =>
    match cs.find? fun p => decide (p.1 = (a + i) / per) with
    | some p => (if scales then p.2.2 else p.2.1).getD ((a + i) % per) 0
    | none => 0

/-- The rows of a coded source: element codes and scale codes of each (R134). -/
def codedRows (s : State) (c : CtxId) (table : Nat) (cls : MemClass) (head off pitch rows cols : Nat) : State × (Bad ⊕ List (List Nat × List Nat)) :=
  match sieveRead s c table cls head 576 with
  | (s, .inl b) => (s, .inl b)
  | (s, .inr bs) =>
    match cwHead (BitVec.ofNat 512 (leNat (bs.take 64))) with
    | none => (s, .inl (fmtBad head 0x01))
    | some h =>
      match cwCounts h.log (bs.drop 64) with
      | none => (s, .inl (fmtBad head 0x02))
      | some counts =>
        let f := h.fmt.decoded
        let rb := f.bytes cols
        let need := ((List.range rows).map fun r =>
          let a := off + r * pitch
          (List.range ((a + rb + 4095) / 4096 - a / 4096)).map fun i => a / 4096 + i).flatten.dedup
        match sieveChunks s c table cls head h counts need with
        | (s, .inl b) => (s, .inl b)
        | (s, .inr cs) =>
          let bpc := cwScales h.fmt
          (s, .inr ((List.range rows).map fun r =>
            let a := off + r * pitch
            (unpackCodes f.width (fromChunks cs false 4096 a rb) cols,
             (fromChunks cs true bpc (a * 8 / (32 * f.width)) (ceilDiv' cols 32)).map BitVec.toNat)))

/-! ### TMOV (R129 to R133) -/

/-- The spaces of a move (Table 5-6). -/
inductive Space where
  | tile
  | cluster
  | memory
deriving DecidableEq, Repr

/-- A space by its code. -/
def Space.ofCode : Nat → Option Space
  | 0 => some .tile
  | 1 => some .cluster
  | 2 => some .memory
  | _ => none

/-- A pair that Table 5-8 allows. -/
def movePair (a b : Fmt) : Bool :=
  if b.isCw then false
  else if b.isInt then a.isInt
  else true

/-- The causes of TMOV (R130, R131, R134, Table 5-6, Table 5-7). -/
def tmovCauses (w x : W64) : List (Nat × Bool) :=
  let ssp := Space.ofCode (bits w 10 9)
  let dsp := Space.ofCode (bits w 12 11)
  let lay := bits w 25 23
  let array := bitAt w 25
  [rsv w 63 58, rsv x 25 25, rsv x 63 58, (0x04, ssp.isNone), (0x04, dsp.isNone),
   (0x04, decide (1 ≤ lay ∧ lay ≤ 3)), (0x03, array && decide (bits x 57 42 ≠ 0)),
   (0x03, !(bitAt w 28) && decide (bits x 24 20 ≠ 0)),
   (0x05, decide (ssp = some .memory ∧ dsp = some .memory)), (0x05, array && decide (dsp ≠ some .tile)),
   (0x05, bitAt w 26 && !array)]
  ++ match Fmt.ofCode (bits w 17 13), Fmt.ofCode (bits w 22 18) with
    | some fs, some fd =>
      [(0x05, !(movePair fs fd)), (0x05, bitAt w 27 && (fd.isInt || decide (fd = .fp32))),
       (0x05, bitAt w 26 && decide (fd ≠ .int4 ∧ fd ≠ .mx4)), (0x05, fs.isCw && decide (ssp ≠ some .memory)),
       (0x05, fs.isMx && decide (bits x 14 10 = 0)), (0x05, !fs.isMx && !fs.isCw && decide (bits x 14 10 ≠ 0)),
       (0x05, fd.isMx && !array && decide (bits x 19 15 = 0)), (0x05, (!fd.isMx || array) && decide (bits x 19 15 ≠ 0))]
    | _, _ => [(0x04, true)]

/-- An element code of a format is a NaN. -/
def nanElem (f : Fmt) (code : Nat) : Bool :=
  match f.layout with
  | some l => (l.decode code).isNan
  | none => false
/-- An MX block is written as the canonical NaN: its scale is 0xFF, or an element is a NaN (Table 2-3, Table 5-8). -/
def nanBlock (f : Fmt) (codes scales : List Nat) (b : Nat) : Bool :=
  f.isMx && (decide (scales.getD b 0 = 255) || ((codes.drop (32 * b)).take 32).any (nanElem f))
/-- A row that is copied into its own format, every NaN canonical: element codes and scale codes (Table 5-8, Table 2-3). -/
def canonRow (f : Fmt) (codes scales : List Nat) : List Nat × List Nat :=
  (codes.zipIdx.map fun p =>
    if f.isMx then (if nanBlock f codes scales (p.2 / 32) then 0 else p.1)
    else match f.layout with
      | some l => if nanElem f p.1 then l.nanCode else p.1
      | none => p.1,
   scales.zipIdx.map fun p => if nanBlock f codes scales p.2 then 255 else p.1)

/-- A row padded with zero elements to whole blocks. -/
def padBlocks (l : List Nat) : List Nat := l ++ List.replicate (roundUp l.length 32 - l.length) 0

/-- A row converted: element codes and scale codes (Table 5-8, R132). -/
def moveRow (fs fd : Fmt) (sr : Option Nat) (row : List Nat × List Nat) : List Nat × List Nat :=
  if fs.isCw ∧ fd = fs.decoded then (padBlocks row.1, row.2)
  else if fs = fd then
    let r := canonRow fs row.1 row.2
    (if fd.isMx then padBlocks r.1 else r.1, r.2)
  else
    let src := fs.decoded
    let vs := src.decodeRow row.1 row.2
    if fd.isInt then ((vs.map (toIntCode fd.width)), [])
    else
      let vs := if fd.isMx then vs ++ List.replicate (roundUp vs.length 32 - vs.length) FV.zero else vs
      fd.encodeRow sr vs

/-- One pass tile of array order, from the columns' codes and scales (Table 3-6, R133). -/
def passTile (f : FoldForm) (fd : Fmt) (pair : Bool) (cols : Array (Array Nat × Array Nat)) (t : Nat) : List Byte :=
  let kl := (if pair then 2 else 1) * f.kp
  let code (j k : Nat) : Nat := ((cols[j]?.map (·.1)).getD #[]).getD k 0
  let row (c : Nat) : List Byte :=
    let l := (List.range f.np).map fun j =>
      if pair then code j (t * kl + 2 * c) + 16 * code j (t * kl + 2 * c + 1) else code j (t * kl + c)
    packCodes (if pair then 8 else fd.width) l
  let elems := ((List.range f.kp).map row).flatten
  let scales := if fd.isMx then
      ((List.range (max 1 (kl / 32))).map fun b =>
        (List.range f.np).map fun j => BitVec.ofNat 8 (((cols[j]?.map (·.2)).getD #[]).getD (t * kl / 32 + b) 0)).flatten
    else []
  elems ++ scales

/-- The runs of bytes that a move writes: address and bytes (R130 to R133). -/
def moveRuns (fd : Fmt) (array : Option FoldForm) (pair : Bool) (da dsa dpitch k : Nat) (rows : List (List Nat × List Nat)) : List (Nat × List Byte) :=
  match array with
  | some f =>
    let cols := (rows.map fun r => (r.1.toArray, r.2.toArray)).toArray
    let kl := (if pair then 2 else 1) * f.kp
    [(da, ((List.range (ceilDiv' k kl)).map fun t => passTile f fd pair cols t).flatten)]
  | none =>
    let el := rows.zipIdx.map fun r => (da + r.2 * dpitch, packCodes fd.width r.1.1)
    let sc := if fd.isMx then rows.zipIdx.map (fun r => (dsa + r.2 * scalePitch dpitch fd.width, r.1.2.map (BitVec.ofNat 8))) else []
    el ++ sc

/-- Bytes of what a move writes, without its contents: address and length. -/
def moveSpans (fd : Fmt) (array : Option FoldForm) (pair : Bool) (da dsa dpitch rows cols : Nat) : List (Nat × Nat) :=
  match array with
  | some f =>
    let kl := (if pair then 2 else 1) * f.kp
    let w := if pair then 8 else fd.width
    let pt := roundUp (f.kp * f.np * w / 8 + (if fd.isMx then f.np * max 1 (kl / 32) else 0)) 64
    [(da, da + ceilDiv' cols kl * pt)]
  | none =>
    let n := fd.bytes (if fd.isMx then roundUp cols 32 else cols)
    (List.range rows).map (fun r => (da + r * dpitch, da + r * dpitch + n))
      ++ (if fd.isMx then (List.range rows).map (fun r => (dsa + r * scalePitch dpitch fd.width, dsa + r * scalePitch dpitch fd.width + ceilDiv' cols 32)) else [])

/-- Reads runs of a space: address and length each; the bytes of each. -/
def readRuns (s : State) (c : CtxId) (table : Nat) (cls : MemClass) (sp : Space) : List (Nat × Nat) → State × (Bad ⊕ List (List Byte))
  | [] => (s, .inr [])
  | (a, n) :: rest =>
    let r := match sp with
      | .tile => tsLoad s c.te a n
      | .cluster => csLoad s (clusterOf c.te) a n
      | .memory => ctxRead s c table cls true a n
    match r with
    | (s, .inl b) => (s, .inl b)
    | (s, .inr bs) =>
      match readRuns s c table cls sp rest with
      | (s, .inr t) => (s, .inr (bs :: t))
      | r => r

/-- Writes runs to a space; memory writes are accepted by the cluster mover under an operation's number. -/
def writeRuns (s : State) (c : CtxId) (table number : Nat) (sp : Space) (runs : List (Nat × List Byte)) : State × Option Bad :=
  match sp with
  | .tile => (runs.foldl (fun s r => tsWrite s c.te r.1 r.2) s, none)
  | .cluster => (runs.foldl (fun s r => csWrite s (clusterOf c.te) r.1 r.2) s, none)
  | .memory => ctxWrite s c table number runs

/-- The first range of a space that a context may not reach (R62, R218), with its record's cause. -/
def spaceBounds (s : State) (c : CtxId) (job : W16) (sp : Space) (rs : List (Nat × Nat)) : Option (Nat × Nat) :=
  match sp with
  | .tile => (outOfShare s c rs).map fun a => (0x01, a)
  | .cluster => (rs.find? fun r => !(inWindow s job r.1 (r.2 - r.1))).map fun r => (0x04, r.1)
  | .memory => none

/-- A failed access, unless an invalid handle has the lower class (R443). -/
def failOrTally (s : State) (b : Bad) (asks : Bool) (v : W64) : Issued :=
  if asks && badHandle v && decide (9 < b.cls) then badTally s v else .fail s b

/-- What a TMOV's words and registers name (Table 5-6, Table 5-7). -/
structure Move where
  ssp : Space
  dsp : Space
  fs : Fmt
  fd : Fmt
  array : Option FoldForm
  pair : Bool
  rows : Nat
  cols : Nat
  sa : Nat
  da : Nat
  ssa : Nat
  dsa : Nat
  spitch : Nat
  dpitch : Nat

/-- The move that a TMOV asks for. -/
def moveOf (s : State) (c : CtxId) (w x : W64) : Move :=
  let reg (hi lo : Nat) : Nat := (sreg s c (bits x hi lo)).toNat
  { ssp := (Space.ofCode (bits w 10 9)).getD .tile
    dsp := (Space.ofCode (bits w 12 11)).getD .tile
    fs := (Fmt.ofCode (bits w 17 13)).getD .fp32
    fd := (Fmt.ofCode (bits w 22 18)).getD .fp32
    array := if bitAt w 25 then some (FoldForm.ofCode (bits w 24 23)) else none
    pair := bitAt w 26
    rows := bits w 40 29
    cols := bits w 57 41
    sa := reg 4 0
    da := reg 9 5
    ssa := reg 14 10
    dsa := reg 19 15
    spitch := 64 * bits x 41 26
    dpitch := 64 * bits x 57 42 }

/-- A move whose shape is not allowed (R130, R133). -/
def moveShapeBad (m : Move) : Bool :=
  decide (m.rows = 0) || decide (m.cols = 0) || decide (65536 < m.cols)
    || (match m.array with | some f => decide (f.np < m.rows) | none => false)
/-- The ranges that a move reads: elements, then scales; a coded source is read at its homes (R132, R134). -/
def moveElems (m : Move) : List (Nat × Nat) :=
  if m.fs.isCw then [] else (List.range m.rows).map fun r => (m.sa + r * m.spitch, m.sa + r * m.spitch + m.fs.bytes m.cols)
def moveScales (m : Move) : List (Nat × Nat) :=
  if m.fs.isMx then (List.range m.rows).map fun r =>
    (m.ssa + r * scalePitch m.spitch m.fs.width, m.ssa + r * scalePitch m.spitch m.fs.width + ceilDiv' m.cols 32) else []
/-- The ranges that a move writes. -/
def moveDst (m : Move) : List (Nat × Nat) := moveSpans m.fd m.array m.pair m.da m.dsa m.dpitch m.rows m.cols
/-- The tile-store ranges among those a move reads, and among those it writes. -/
def moveReads (m : Move) : List (Nat × Nat) := if m.ssp = .tile then moveElems m ++ moveScales m else []
def moveWrites (m : Move) : List (Nat × Nat) := if m.dsp = .tile then moveDst m else []
/-- What a move adds to its tally: the pass tiles it writes, else 1 (R135). -/
def moveCount (m : Move) : Nat := match m.array with | some f => ceilDiv' m.cols ((if m.pair then 2 else 1) * f.kp) | none => 1

/-- The rows that a move reads: the element codes and scale codes of each. -/
def moveSource (s : State) (c : CtxId) (l : Launch) (m : Move) : State × (Bad ⊕ List (List Nat × List Nat)) :=
  let cls := launchClass l
  if m.fs.isCw then codedRows s c l.seg cls m.sa m.ssa m.spitch m.rows m.cols
  else match readRuns s c l.seg cls m.ssp ((moveElems m).map fun r => (r.1, r.2 - r.1)) with
    | (s, .inl b) => (s, .inl b)
    | (s, .inr el) =>
      match readRuns s c l.seg cls m.ssp ((moveScales m).map fun r => (r.1, r.2 - r.1)) with
      | (s, .inl b) => (s, .inl b)
      | (s, .inr sc) =>
        (s, .inr (el.zipIdx.map fun p => (unpackCodes m.fs.width p.1 m.cols, (sc.getD p.2 []).map BitVec.toNat)))

/-- The runs that a move writes, from the rows it has read; `sr` is the first free integer where rounding is stochastic. -/
def moveOut (m : Move) (sr : Option Nat) (src : List (List Nat × List Nat)) : List (Nat × List Byte) :=
  moveRuns m.fd m.array m.pair m.da m.dsa m.dpitch m.cols
    (src.zipIdx.map fun p => moveRow m.fs m.fd (sr.map (· + roundUp m.cols 32 * p.2)) p.1)

/-- A move from memory that is not coded lets its cluster read ahead of its last row where its reads are sequential (R328). -/
def moveAhead (s : State) (c : CtxId) (l : Launch) (m : Move) : State :=
  if m.ssp = .memory ∧ !m.fs.isCw ∧ sequential s c then prefetch s c l.seg (launchClass l) (m.sa + (m.rows - 1) * m.spitch + m.fs.bytes m.cols + 63) else s

/-- TMOV copies a two-dimensional array between spaces (R129). -/
def execTmov (c : CtxId) (w x : W64) (s : State) : Res :=
  clocked s fun s => issue s c w x 0x20 true { writes := true } (fun _ => tmovCauses w x) fun s ctx =>
    let m := moveOf s c w x
    let tsig := bitAt w 28
    let tr := sreg s c (bits x 24 20)
    if moveShapeBad m then shapeStop s 0x03 w x
    else match (spaceBounds s c ctx.launch.job m.ssp (moveElems m ++ moveScales m)) <|> (spaceBounds s c ctx.launch.job m.dsp (moveDst m)) with
      | some (cause, a) => .stop s 0x04 cause (BitVec.ofNat 64 a) 0
      | none =>
        if m.sa % 64 ≠ 0 then misaligned s m.sa
        else if m.da % 64 ≠ 0 then misaligned s m.da
        else if m.fs.isCw ∧ m.ssa % 64 ≠ 0 then misaligned s m.ssa
        else if mustWait s c (moveReads m) (moveWrites m) then .wait s 2
        else match moveSource s c ctx.launch m with
          | (s, .inl b) => failOrTally s b tsig tr
          | (s, .inr src) =>
            if tsig && badHandle tr then badTally s tr
            else
              let (sr, s) := drawsFor s (bitAt w 27) (roundUp m.cols 32 * m.rows)
              match writeRuns s c ctx.launch.seg ctx.opCount m.dsp (moveOut m sr src) with
              | (s, some b) => .fail s b
              | (s, none) =>
                let s := moveAhead s c ctx.launch m
                .done (addOp s c ⟨.tmov (!(decide (m.ssp = .tile) && decide (m.dsp = .tile))), if tsig then some (tr.truncate 32) else none, moveCount m, moveReads m, moveWrites m,
                  ctx.launch.seg, ctx.opCount, s.now, decide (m.ssp ≠ .tile), false⟩)

/-- The oldest operation of some kinds that has not been performed. -/
def oldestOp (s : State) (c : CtxId) (ok : OpKind → Bool) : Option Op :=
  (getCtx s c).bind fun x => x.ops.find? fun o => ok o.kind && !o.performed

/-- An operation's writes reach their homes; the answer tells whether all are performed. A write that fails stops its context, and only the operation that it belongs to leaves without its addition (R338, R442); one that Seam holds keeps the operation waiting (R18). -/
def finishOut (s : State) (c : CtxId) (o : Op) : State × Bool :=
  match drainWrites (moverMoved s c o.kind) c o.number with
  | (s, bad) => (failDrained s bad, !(bad.any fun p => decide (p.1 = c) && (p.2.2.held || decide (p.2.1 = o.number))))
/-- An operation's writes reach their homes, and it is performed (R135). -/
def finishOp (s : State) (c : CtxId) (o : Op) : State :=
  match finishOut s c o with
  | (s, true) => performOp s c o.number
  | (s, false) => s

/-- All writes of the oldest outstanding move are performed, and its count is added to its tally (R135). -/
def execTmovComplete (c : CtxId) (s : State) : Res :=
  onDie s (dieOf c.te).val fun s =>
    match oldestOp s c fun k => decide (k = .tmov true) || decide (k = .tmov false) with
    | some o => finishOp s c o
    | none => s

/-! ### GATHER and SCATTER (R154) -/

/-- The memory rows that an index list names. -/
def rowAddrs (rb rowBytes : Nat) (iw : Nat) (bs : List Byte) (n : Nat) : List Nat :=
  (List.range n).map fun r => (rb + leNat ((bs.drop (iw * r)).take iw) * rowBytes) % 2 ^ 64

/-- What GATHER and SCATTER share: shape, bounds, alignment, dependences and the index list (R154). -/
def indexed (c : CtxId) (w : W64) (toTile : Bool) (s : State) (ctx : Ctx) : Issued :=
  let rt := (sreg s c (bits w 13 9)).toNat
  let rb := (sreg s c (bits w 18 14)).toNat
  let ri := (sreg s c (bits w 23 19)).toNat
  let rh := sreg s c (bits w 28 24)
  let asks := decide (bits w 28 24 ≠ 0)
  let n := bits w 40 29
  let row := 64 * bits w 56 41
  let iw := if bitAt w 57 then 8 else 4
  let tile := [(rt, rt + n * row)]
  let list := [(ri, ri + n * iw)]
  if n = 0 ∨ row = 0 then shapeStop s 0x03 w 0
  else match outOfShare s c (tile ++ list) with
  | some a => tsBounds s a
  | none =>
    if rt % 64 ≠ 0 then misaligned s rt
    else if rb % 64 ≠ 0 then misaligned s rb
    else if ri % iw ≠ 0 then misaligned s ri
    else if asks && badHandle rh then badTally s rh
    else
      let reads := if toTile then list else tile ++ list
      let writes := if toTile then tile else []
      if mustWait s c reads writes then .wait s 2
      else match tsLoad s c.te ri (n * iw) with
        | (s, .inl b) => .fail s b
        | (s, .inr ix) =>
          let addrs := rowAddrs rb row iw ix n
          let table := ctx.launch.seg
          let number := ctx.opCount
          let op : Op := ⟨.copy (if toTile then 1 else 2), if asks then some (rh.truncate 32) else none, 1, reads, writes, table, number, s.now, toTile, false⟩
          if toTile then
            match readRuns s c table (launchClass ctx.launch) .memory (addrs.map fun a => (a, row)) with
            | (s, .inl b) => .fail s b
            | (s, .inr rows) =>
              let s := if sequential s c then prefetch s c table (launchClass ctx.launch) (addrs.getLastD 0 + row + 63) else s
              .done (addOp (tsWrite s c.te rt rows.flatten) c op)
          else
            match tsLoad s c.te rt (n * row) with
            | (s, .inl b) => .fail s b
            | (s, .inr bs) =>
              match ctxWrite s c table number (addrs.zipIdx.map fun p => (p.1, (bs.drop (row * p.2)).take row)) with
              | (s, some b) => .fail s b
              | (s, none) => .done (addOp s c op)

/-- GATHER copies indexed memory rows into the tile store (R154). -/
def execGather (c : CtxId) (w x : W64) (s : State) : Res :=
  clocked s fun s => issue s c w x 0x70 false { writes := true } (fun _ => [rsv w 63 58]) (indexed c w true)

/-- SCATTER copies tile-store rows to indexed memory rows; the highest row prevails (R154). -/
def execScatter (c : CtxId) (w x : W64) (s : State) : Res :=
  clocked s fun s => issue s c w x 0x71 false { writes := true } (fun _ => [rsv w 63 58]) (indexed c w false)

end Sys2Proof.Machine
end

