-- ==== Sys2Proof/Machine/KvCache.lean ====
section
/-! DEFINITION. KVGATHER and KVAPPEND, and the completion of dispatch instructions (R155, R157, R160 to R172, R192, R193, R395). -/

namespace Sys2Proof.Machine

/-- A session stop (R192): the session ID and the position register. -/
def badSession (s : State) (cause : Nat) (rs rp : W64) : Issued := .stop s 0x0B cause rs rp

/-- Causes 0x01 to 0x05 of a KV instruction (R155, R164, R192); `pos` tells whether the position register counts. -/
def kvCause (s : State) (rs rp : W64) (job : W16) (pos : Bool) : Option Nat :=
  let e := getSes s (bits rs 15 0)
  match sesCause s rs.toNat job with
  | some c => some c
  | none =>
    if (sesElem e).isNone then some 0x04
    else if pos && (decide (sesLayers e ≤ bits rp 39 32) || decide (sesHeads e ≤ bits rp 47 40) || decide (bits rp 63 48 ≠ 0)) then some 0x05
    else none

/-- The block indices of NBLK blocks from a position that hold positions below LEN (R167). -/
def gatherBlocks (pos nblk len : Nat) : List Nat :=
  ((List.range nblk).map (pos / 64 + ·)).filter fun i => decide (64 * i < len)

/-- The bytes of the rows of one block and part that lie below LEN, with the writes that the cluster's mover still holds (R323, Table 12-3); the others are +0 (R167). -/
def gatherRows (s : State) (c : CtxId) (el len i at_ : Nat) : State × (Bad ⊕ List Byte) :=
  let n := min 64 (len - 64 * i)
  match sysRead s (dieOf c.te) .p0 at_ (n * 128 * el) with
  | (s, .inl b) => (s, .inl b)
  | (s, .inr bs) => (s, .inr (withBuffered s (clusterOf c.te) at_ bs ++ List.replicate ((64 - n) * 128 * el) 0))

/-- K or V of consecutive blocks in memory order; `ws` are the entries of those that hold positions below LEN. -/
def gatherPart (s : State) (c : CtxId) (e : BitVec 2048) (el layer head first nblk : Nat) (v : Bool) (ws : List W64) : State × (Bad ⊕ List Byte) :=
  match collect (fun s w => gatherRows s c el (sesLen e) (first + w.2) (blockPart e el (blockBase w.1) layer head v)) ws.zipIdx s with
  | (s, .inl b) => (s, .inl b)
  | (s, .inr bs) => (s, .inr (bs ++ List.replicate (nblk * 8192 * el - bs.length) 0))

/-- K or V where PART asks for it (R166). -/
def gatherHalf (s : State) (c : CtxId) (e : BitVec 2048) (el layer head first nblk : Nat) (v : Bool) (ws : List W64) (asked : Bool) : State × (Bad ⊕ List Byte) :=
  if asked then gatherPart s c e el layer head first nblk v ws else (s, .inr [])

/-- K rows transposed into the array order of a form (R166). -/
def transposeK (f : FoldForm) (el : Nat) (bs : List Byte) : List Byte :=
  let a := bs.toArray
  ((List.range 128).map fun k => ((List.range f.np).map fun j =>
    (List.range el).map fun b => a.getD ((j * 128 + k) * el + b) 0).flatten).flatten

/-- The tree bias in the array order of a form (R172). -/
def treeBias (f : FoldForm) (e : BitVec 2048) : List Byte :=
  let n := treeNodes e
  ((List.range (ceilDiv' n f.kp * f.kp)).map fun a => (List.range f.np).map fun j =>
    if a < n ∧ j < n then (if treeSees e a j then (0x00 : Byte) else 0xFB) else 0).flatten

/-- Bytes that KVGATHER writes, by PART, element size and NODES. -/
def gatherBytes (part nblk el nodes : Nat) : Nat :=
  let f := FoldForm.ofCode (part % 4)
  if 8 ≤ part then ceilDiv' nodes f.kp * f.kp * f.np
  else if 4 ≤ part then 128 * f.np * el
  else if part = 2 then 2 * nblk * 8192 * el
  else nblk * 8192 * el

/-- KVGATHER delivers a session's keys, values or tree bias to the tile store (R165 to R167, R172). -/
def execKvgather (c : CtxId) (w x : W64) (s : State) : Res :=
  clocked s fun s =>
    let part := bits w 40 37
    let tree := decide (8 ≤ part)
    issue s c w x 0x72 false { writes := true }
      (fun _ => [rsv w 63 41, (0x04, decide (part = 3 ∨ 0xC ≤ part)),
                 (0x05, tree && (decide (bits w 23 19 ≠ 0) || decide (bits w 36 29 ≠ 1)))]) fun s ctx =>
    let rs := sreg s c (bits w 13 9)
    let rt := (sreg s c (bits w 18 14)).toNat
    let rp := sreg s c (bits w 23 19)
    let rh := sreg s c (bits w 28 24)
    let asks := decide (bits w 28 24 ≠ 0)
    let nblk := bits w 36 29
    let f := FoldForm.ofCode (part % 4)
    let pos := bits rp 31 0
    let e := getSes s (bits rs 15 0)
    let cause := kvCause s rs rp ctx.launch.job (!tree)
    let el := if cause.isNone ∨ cause = some 0x05 then (sesElem e).getD 1 else 1
    let badTree := tree && !treeValid e
    let n := gatherBytes part nblk el (if cause.isNone ∧ !badTree then treeNodes e else 1)
    if nblk = 0 ∨ (!tree ∧ 4 ≤ part ∧ f.np < 64 * nblk) then shapeStop s 0x03 w 0
    else match outOfShare s c [(rt, rt + n)] with
    | some a => tsBounds s a
    | none =>
      if !tree ∧ pos % 64 ≠ 0 then misaligned s pos
      else if asks && badHandle rh then badTally s rh
      else match cause with
      | some k => badSession s k rs rp
      | none =>
        if badTree then badSession s 0x09 rs rp
        else if mustWait s c [] [(rt, rt + n)] then .wait s 2
        else
          let d := dieOf c.te
          let layer := bits rp 39 32
          let head := bits rp 47 40
          let blocks := if tree then [] else gatherBlocks pos nblk (sesLen e)
          let op : Op := ⟨.copy 3, if asks then some (rh.truncate 32) else none, 1, [], [(rt, rt + n)], 0, ctx.opCount, s.now, true, false⟩
          if tree then .done (addOp (tsWrite s c.te rt (treeBias f e)) c op)
          else match blockEntries s d .p0 e blocks with
          | (s, .inl b) => .fail s b
          | (s, .inr ws) =>
            match blockCause e el ws with
            | some k => badSession s k rs rp
            | none =>
              match gatherHalf s c e el layer head (pos / 64) nblk false ws (part ≠ 1) with
              | (s, .inl b) => .fail s b
              | (s, .inr ks) =>
                match gatherHalf s c e el layer head (pos / 64) nblk true ws (part = 1 ∨ part = 2) with
                | (s, .inl b) => .fail s b
                | (s, .inr vs) =>
                  let out := if 4 ≤ part then transposeK f el ks else ks ++ vs
                  .done (addOp (tsWrite s c.te rt out) c op)

/-- The writes of KVAPPEND: each row of K and of V at its place, as a unit (R168). -/
def appendRuns (e : BitVec 2048) (el layer head pos ntok : Nat) (ws : List W64) (bs : List Byte) : List (Nat × List Byte) :=
  ((List.range 2).map fun kv => (List.range ntok).map fun t =>
    let p := pos + t
    let base := blockBase (ws.getD (p / 64 - pos / 64) 0)
    (blockPart e el base layer head (decide (kv = 1)) + (p % 64) * 128 * el, (bs.drop ((kv * ntok + t) * 128 * el)).take (128 * el))).flatten

/-- KVAPPEND appends K and V rows to a session's KV blocks (R168). -/
def execKvappend (c : CtxId) (w x : W64) (s : State) : Res :=
  clocked s fun s => issue s c w x 0x73 false { writes := true } (fun _ => [rsv w 63 36]) fun s ctx =>
    let rs := sreg s c (bits w 13 9)
    let ra := (sreg s c (bits w 18 14)).toNat
    let rp := sreg s c (bits w 23 19)
    let rh := sreg s c (bits w 28 24)
    let asks := decide (bits w 28 24 ≠ 0)
    let ntok := bits w 35 29
    let pos := bits rp 31 0
    let e := getSes s (bits rs 15 0)
    let cause := kvCause s rs rp ctx.launch.job true
    let el := if cause.isNone ∨ cause = some 0x05 then (sesElem e).getD 1 else 1
    let n := 2 * ntok * 128 * el
    if ntok = 0 ∨ 64 < ntok then shapeStop s 0x03 w 0
    else match outOfShare s c [(ra, ra + n)] with
    | some a => tsBounds s a
    | none =>
      if asks && badHandle rh then badTally s rh
      else match cause with
      | some k => badSession s k rs rp
      | none =>
        if mustWait s c [(ra, ra + n)] [] then .wait s 2
        else
          let d := dieOf c.te
          let blocks := if pos / 64 = (pos + ntok - 1) / 64 then [pos / 64] else [pos / 64, pos / 64 + 1]
          match blockEntries s d .p1 e blocks with
          | (s, .inl b) => .fail s b
          | (s, .inr ws) =>
            match blockCause e el ws with
            | some k => badSession s k rs rp
            | none =>
              if pos < sesLen e then badSession s 0x08 rs rp
              else match tsLoad s c.te ra n with
              | (s, .inl b) => .fail s b
              | (s, .inr bs) =>
                let runs := appendRuns e el (bits rp 39 32) (bits rp 47 40) pos ntok ws bs
                match ((runs.map fun r => writePieces r.1 r.2).flatten).find? fun p => !lineOk s (p.1 / 64) with
                | some p => .fail s (addrBad p.1)
                | none =>
                  let cl := clusterOf c.te
                  let s := setWriteBuf s cl (writeBuf s cl ++ runs.map fun p => { ctx := c, number := ctx.opCount, addr := p.1, data := p.2, index := 16 })
                  .done (addOp s c ⟨.append (bits rs 15 0) (bits rp 39 32) (bits rp 47 40) pos ntok,
                    if asks then some (rh.truncate 32) else none, 1, [(ra, ra + n)], [], 0, ctx.opCount, s.now, false, false⟩)

/-- A KVAPPEND of a mirrored session queues a mirror request once its writes are performed, and only then adds to its tally (R395). -/
def queueMirror (s : State) (k : OpKind) : State :=
  match k with
  | .append ses layer head pos tokens =>
    if sesMirror (getSes s ses) then { s with mir := { s.mir with reqs := s.mir.reqs ++ [⟨ses, layer, head, pos, tokens, s.now⟩] } } else s
  | _ => s

/-- The operations of GATHER, SCATTER, KVGATHER and KVAPPEND. -/
def dispatchKind : OpKind → Bool
  | .copy _ => true
  | .append _ _ _ _ _ => true
  | _ => false

/-- Everything that the oldest outstanding copy or append of a context caused is performed, and 1 is added to its tally (R157). -/
def execDispatchInstrComplete (c : CtxId) (s : State) : Res :=
  onDie s (dieOf c.te).val fun s =>
    match oldestOp s c dispatchKind with
    | some o => match finishOut s c o with
      | (s, true) => performOp (queueMirror s o.kind) c o.number
      | (s, false) => s
    | none => s

end Sys2Proof.Machine
end

