-- ==== Sys2Proof/Machine/Routes.lean ====
section
/-! DEFINITION. Route descriptors, expert selection and the routes of the dispatch engines (R196 to R204, R208 to R213). -/

namespace Sys2Proof.Machine

/-- KIND. -/
def rdKind (d : RDesc) : Nat := bits d 3 0
/-- ROWS of DISPATCH and RETURN. -/
def rdRows (d : RDesc) : Nat := bits d 15 8
/-- K. -/
def rdK (d : RDesc) : Nat := bits d 20 16
/-- EXPERTS. -/
def rdExperts (d : RDesc) : Nat := bits d 36 24
/-- H. -/
def rdH (d : RDesc) : Nat := bits d 318 304
/-- AFMT, with a format of one byte standing for a reserved code. -/
def rdAfmt (d : RDesc) : Fmt := (Fmt.ofCode (bits d 284 280)).getD .e4m3
/-- RFMT. -/
def rdRfmt (d : RDesc) : Fmt := if bits d 292 288 = 0 then .fp32 else .bf16
/-- STAGE. -/
def rdStage (d : RDesc) : Nat := bits d 278 256
/-- BASE_EN. -/
def rdBaseEn (d : RDesc) : Bool := bitAt d 245
/-- MISS_EN. -/
def rdMissEn (d : RDesc) : Bool := bitAt d 373
/-- AL: lines of an activation payload (R203). -/
def actLines (f : Fmt) (h : Nat) : Nat := ceilDiv' (f.bytes h + (if f.isMx then ceilDiv' h 32 else 0)) 64
/-- RL: lines of a result payload (R203). -/
def resLines (f : Fmt) (h : Nat) : Nat := ceilDiv' (f.bytes h) 64
/-- AL of a descriptor. -/
def rdAl (d : RDesc) : Nat := actLines (rdAfmt d) (rdH d)
/-- RL of a descriptor. -/
def rdRl (d : RDesc) : Nat := resLines (rdRfmt d) (rdH d)
/-- Row pitch of the logits (Table 7-5). -/
def rdLogitPitch (d : RDesc) : Nat := ceilDiv' (rdExperts d * 4) 64 * 64

/-- Every listed bit range of a descriptor is zero. -/
def zeroIn (d : RDesc) (l : List (Nat × Nat)) : Bool := l.all fun r => decide (bits d r.1 r.2 = 0)

/-- A DISPATCH descriptor has its fields in range (R196, Table 7-5). -/
def dispatchOk (d : RDesc) : Bool :=
  zeroIn d [(7, 4), (23, 21), (39, 37), (63, 50), (159, 149), (191, 181), (223, 213), (255, 246), (279, 279), (287, 285), (303, 293), (319, 319), (511, 374)]
    && decide (1 ≤ rdRows d) && decide (1 ≤ rdK d ∧ rdK d ≤ 16) && decide (1 ≤ rdExperts d ∧ rdExperts d ≤ 4096)
    && decide (bits d 49 48 ≠ 3) && decide (bits d 127 64 % 64 = 0) && decide (rdStage d % 64 = 0)
    && [0x01, 0x03, 0x04, 0x08, 0x09].contains (bits d 284 280) && decide (bits d 292 288 ≤ 1)
    && decide (1 ≤ rdH d ∧ rdH d ≤ 16384) && (!(rdAfmt d).isMx || decide (rdH d % 32 = 0))
/-- A RETURN descriptor has its fields in range (Table 7-6). -/
def returnOk (d : RDesc) : Bool :=
  zeroIn d [(7, 4), (29, 29), (127, 42), (159, 149), (511, 165)] && decide (1 ≤ rdRows d) && decide (bits d 164 160 ≤ 1)
/-- A VERIFY descriptor has its fields in range (R198). -/
def verifyOk (d : RDesc) : Bool :=
  zeroIn d [(23, 4), (127, 48), (159, 149), (191, 181), (511, 213)]
    && decide (bits d 148 128 % 64 = 0) && decide (bits d 180 160 % 64 = 0) && decide (bits d 212 192 % 8 = 0)
/-- A COMMIT descriptor has its fields in range (R198). -/
def commitOk (d : RDesc) : Bool :=
  zeroIn d [(23, 4), (63, 48), (71, 71), (127, 96), (191, 160), (511, 213)]
    && decide (1 ≤ bits d 70 64 ∧ bits d 70 64 ≤ 64) && decide (bits d 212 192 % 8 = 0)
/-- A descriptor is one that R196 accepts. -/
def descOk (d : RDesc) : Bool :=
  match rdKind d with
  | 1 => dispatchOk d
  | 2 => returnOk d
  | 3 => verifyOk d
  | 4 => commitOk d
  | _ => false

/-- Tile-store ranges that the handling of a descriptor reads, apart from a RETURN's results. -/
def descReads (d : RDesc) : List (Nat × Nat) :=
  match rdKind d with
  | 1 => (let a := bits d 148 128; [(a, a + rdRows d * rdLogitPitch d)]) ++ (let a := bits d 180 160; [(a, a + rdRows d * rdAl d * 64)])
      ++ (if rdBaseEn d then let a := bits d 244 224; [(a, a + rdRows d * rdRl d * 64)] else [])
  | 3 => let a := bits d 148 128; [(a, a + 512)]
  | _ => []
/-- Tile-store ranges that the handling of a descriptor writes. -/
def descWrites (d : RDesc) : List (Nat × Nat) :=
  match rdKind d with
  | 1 => (let a := bits d 212 192; [(a, a + rdRows d * rdRl d * 64)]) ++ (if rdMissEn d then let a := bits d 372 352; [(a, a + rdRows d)] else [])
  | 3 => (let a := bits d 180 160; [(a, a + 128)]) ++ (let a := bits d 212 192; [(a, a + 8)])
  | 4 => let a := bits d 212 192; [(a, a + 8)]
  | _ => []

/-- A route error record (Table 17-2): its address is the descriptor's. -/
def badRoute (s : State) (cause at_ : Nat) (row expert : Nat) : Issued :=
  .record s { cls := 0x0C, cause := cause, addr := BitVec.ofNat 64 at_, d0 := BitVec.ofNat 64 (row + 65536 * expert) }

/-! ### Expert selection (R199 to R201) -/

/-- The ranks of a row: pairs of expert and logit, the largest logit first and the lower index first among equals; NaN logits are left out (R199). -/
def rankExperts (k : Nat) (l : List W32) : List (Nat × W32) :=
  let cand := (l.zipIdx.map fun p => (p.2, p.1)).filter fun p => !(dec32 p.2).isNan
  let insert (acc : List (Nat × W32)) (p : Nat × W32) : List (Nat × W32) :=
    ((acc.takeWhile fun q => !((dec32 q.2).lt (dec32 p.2))) ++ [p] ++ acc.dropWhile fun q => !((dec32 q.2).lt (dec32 p.2))).take k
  cand.foldl insert []

/-- The weights of a row's ranks (R200). -/
def expertWeights (wnorm : Nat) (rscale : W32) (ls : List W32) : List W32 :=
  if wnorm = 2 then ls.map fun l => fmul l rscale
  else
    let es := ls.map fun l =>
      if wnorm = 0 then fexp (fsub l (ls.headD 0)) else frcp (fadd 0x3F800000 (fexp (rne32 (dec32 l).neg)))
    let q := frcp (es.foldl fadd 0)
    es.map fun e => fmul (fmul e q) rscale

/-- A home-table entry stops the context (R201). -/
def homeBad (h : BitVec 128) : Bool :=
  !(bitAt h 40) || decide (bits h 21 18 / 3 ≠ bits h 17 16) || decide (2048 ≤ bits h 15 0)
    || decide (bits h 23 22 ≠ 0) || decide (bits h 39 36 ≠ 0) || decide (bits h 63 44 ≠ 0) || decide (bits h 87 86 ≠ 0) || decide (bits h 127 100 ≠ 0)
    || (bitAt h 41 && (decide (2 ≤ bits h 43 42) || decide (2048 ≤ bits h 79 64) || decide (bits h 85 82 / 3 ≠ bits h 81 80)))

/-- What selection comes to. -/
inductive Selected where
  | ok (experts : List Nat) (weights : List W32) (homes : List (BitVec 128))
  | bad (b : Bad)
  | route (cause row expert : Nat)

/-- Reads the home-table entries of a row's experts, one after another (R201). -/
def readHomes (c : CtxId) (d : RDesc) (table row : Nat) (ws : List W32) : List Nat → List Nat → List (BitVec 128) → State → State × Selected
  | [], es, hs, s => (s, .ok es ws hs)
  | e :: rest, es, hs, s =>
    match ctxRead s c table .p1 false (bits d 127 64 + (rdLayer d * rdExperts d + e) * 16) 16 with
    | (s, .inl b) => (s, .bad b)
    | (s, .inr hb) =>
      let h := BitVec.ofNat 128 (leNat hb)
      if homeBad h then (s, .route 0x03 row e) else readHomes c d table row ws rest (es ++ [e]) (hs ++ [h]) s

/-- Selects the experts of one row and reads their home-table entries (R199 to R201). -/
def selectRow (s : State) (c : CtxId) (d : RDesc) (table row : Nat) : State × Selected :=
  match tsLoad s c.te (bits d 148 128 + row * rdLogitPitch d) (rdExperts d * 4) with
  | (s, .inl b) => (s, .bad b)
  | (s, .inr bs) =>
    let rk := rankExperts (rdK d) ((chunks 4 bs).map fun b => BitVec.ofNat 32 (leNat b))
    if rk.length < rdK d then (s, .route 0x02 row 0)
    else
      let ws := expertWeights (bits d 49 48) (BitVec.ofNat 32 (bits d 351 320)) (rk.map (·.2))
      readHomes c d table row ws (rk.map (·.1)) [] [] s

/-- Selects the experts of every row, row after row. -/
def selectAll (c : CtxId) (d : RDesc) (table : Nat) : List Nat → State → State × Selected
  | [], s => (s, .ok [] [] [])
  | row :: rest, s =>
    match selectRow s c d table row with
    | (s, .ok es ws hs) =>
      match selectAll c d table rest s with
      | (s, .ok es' ws' hs') => (s, .ok (es ++ es') (ws ++ ws') (hs ++ hs'))
      | r => r
    | r => r

/-! ### Outcomes and the combine -/

/-- A pair takes its outcome; the route closes when every pair has one (R208). -/
def resolvePair (s : State) (d : CDie) (r : Route) (i : Nat) (p : Pair) : State :=
  let r := { r with pairs := r.pairs.set i p }
  let s := modRoute (noteProgress s 4 d.val) d r fun q => { q with pairs := r.pairs }
  if r.pairs.all fun q => !q.pending then closeRoute s d r else s

/-- The outputs of a combine: a row's bytes (R209). `ys` are the results of its pairs, none where a pair counts as zero. -/
def combineRow (f : Fmt) (h : Nat) (base : List W32) (ys : List (Option (W32 × List W32))) : List Byte :=
  let row := (List.range h).map fun j =>
    ys.foldl (fun acc y => match y with
      | some (w, l) => ffma w (l.getD j 0) acc
      | none => acc) (base.getD j 0)
  packCodes f.width (row.map fun v => match f.layout with | some l => scalarCode l .rne (dec32 v) | none => 0)

/-- A row of results or of the base as FP32 words (R203). -/
def rowWords (f : Fmt) (h : Nat) (bs : List Byte) : List W32 :=
  (unpackCodes f.width bs h).map fun c => match f.layout with | some l => rne32 (l.decode c) | none => 0

/-- The result of a pair, with its weight; none where the pair counts as zero (R208, R209). -/
def pairResult (s : State) (r : Route) (i : Nat) : State × (Bad ⊕ List (Option (W32 × List W32))) :=
  let rl := 64 * rdRl r.desc
  if r.pairs.getD i .zero = .result then
    match csLoad s (clusterOf r.ctx.te) (rdStage r.desc + i * rl) rl with
    | (s, .inl b) => (s, .inl b)
    | (s, .inr y) => (s, .inr [some (r.weights.getD i 0, rowWords (rdRfmt r.desc) (rdH r.desc) y)])
  else (s, .inr [none])

/-- The combine of a closed route writes its output rows and MISS (R209, R211). -/
def combineRows (r : Route) : List Nat → State → State × Option Bad
  | [], s => (s, none)
  | i :: rest, s =>
    let d := r.desc
    let rl := 64 * rdRl d
    let f := rdRfmt d
    let k := rdK d
    let base := if rdBaseEn d then tsLoad s r.ctx.te (bits d 244 224 + i * rl) rl else (s, .inr [])
    match base with
    | (s, .inl b) => (s, some b)
    | (s, .inr bs) =>
      match collect (fun s q => pairResult s r (i * k + q)) (List.range k) s with
      | (s, .inl b) => (s, some b)
      | (s, .inr ys) =>
        let out := combineRow f (rdH d) (if rdBaseEn d then rowWords f (rdH d) bs else []) ys
        let s := tsWrite s r.ctx.te (bits d 212 192 + i * rl) out
        let miss := (ys.filter Option.isNone).length
        let s := if rdMissEn d then tsWrite s r.ctx.te (bits d 372 352 + i) [BitVec.ofNat 8 miss] else s
        combineRows r rest s

/-- The combine ends: output and MISS are written, the tally rises and the tag is free (R209, R212). -/
def finishRoute (s : State) (d : CDie) (r : Route) : State :=
  match combineRows r (List.range (rdRows r.desc)) s with
  | (s, none) => performOp (dropRoute s d r) r.ctx r.opNumber
  | (s, some b) => dropOp (stopBad (dropRoute s d r) r.ctx b) r.ctx r.opNumber

/-- Cycles of a combine after closure (R209). -/
def combineCycles (d : RDesc) : Nat := ceilDiv' (rdRows d * (rdK d + (if rdBaseEn d then 1 else 0)) * rdRl d) 16 + 32

end Sys2Proof.Machine
end

