-- ==== Sys2Proof/Machine/Capture.lean ====
section
/-! DEFINITION. The capture buffer (R459, R460, Tables 17-10 to 17-16). -/

namespace Sys2Proof.Machine

/-- The half of a C-die or tensor engine. -/
def halfOfTe (te : TeId) : HDie := if te.val < 128 then 0 else 1

/-- The tally that a context awaits, with the value: a TWAIT's, or the ready tally of its ring (Table 17-11). -/
def awaited (s : State) (c : CtxId) : Option (Nat × W32 × W32) :=
  match (getCtx s c).bind fun x => x.hold.findSome? fun h => match h with | .twait t v => some (t, v) | _ => none with
  | some p => some (1, p.1, p.2)
  | none =>
    match (getTe s c.te).running with
    | some r =>
      if r.mma.slot = c.slot ∧ r.loadStart.isNone ∧ r.loadNext < r.passes ∧ ringGated r r.loadNext then
        let seg := passSeg (rateOf (mmaFmts r.mma).1 (mmaFmts r.mma).2) r.loadNext
        some (4, r.mma.ready.truncate 32, BitVec.ofNat 32 (bits r.mma.ready 63 32 + seg + 1))
      else none
    | none => none

/-- WAIT of a slot (Table 17-11). -/
def waitCode (s : State) (c : CtxId) (x : Ctx) : Nat :=
  if x.stop.isSome then 7
  else match awaited s c with
    | some (1, _) => 1
    | w => if 3 ≤ (pendingMmas s c).length then 3 else if x.wait ≠ 0 then x.wait else if w.isSome then 4 else 0

/-- OCC as TE_SLOT codes it (Table 8-6). -/
def Occ.code : Occ → Nat
  | .empty => 0
  | .wiping => 1
  | .running => 2
  | .ending => 3

/-- One slot's part of a TE entry (Table 17-11). -/
def capSlot (s : State) (c : CtxId) : Nat :=
  let v := getSlot s c
  match v.ctx with
  | none => v.occ.code
  | some x =>
    let w := waitCode s c x
    let a := match awaited s c with
      | some (k, h, t) => if w = k then h.toNat * 2 ^ 128 + t.toNat * 2 ^ 160 else 0
      | none => 0
    v.occ.code + x.launch.cid.toNat * 2 ^ 16 + x.launch.job.toNat * 2 ^ 32 + w * 2 ^ 48 + x.pc.toNat * 2 ^ 64 + a
      + (x.idle % 2 ^ 32) * 2 ^ 192

/-- Service states by their values (Table 8-4). -/
def SvcState.code : SvcState → Nat
  | .inService => 0
  | .draining => 1
  | .out => 2
  | .wiping => 3
  | .patrol => 4
  | .joining => 5

/-- A TE entry (Table 17-11). -/
def capTe (s : State) (te : TeId) : Nat :=
  let t := getTe s te
  t.svc.code + t.current.code * 8
    + ((allGroups.map fun g => (getGroup s te g).st.code * 4 ^ g.val).sum) * 2 ^ 16
    + ((allSlots.map fun k => capSlot s ⟨te, k⟩ * 2 ^ (512 + 384 * k.val)).sum)

/-- Where a half's tally lies in its slot, by the tally's key (Table 17-10). -/
def capTallyAt (h : HDie) (k : Nat) : Option Nat :=
  let at_ (die i : Nat) : Option Nat := if die / 2 = h.val then some (0x8040 + 49152 * (die % 2) + 4 * i) else none
  if k < 65536 then at_ (k / 4096) (8192 + k % 4096)
  else if k < 131072 then at_ ((k - 65536) / 4096) (4096 + (k - 65536) % 4096)
  else at_ ((k - 131072) / 4096) ((k - 131072) % 4096)

/-- A launch-queue entry (Table 17-13). -/
def capLaunch (l : Launch) : Nat :=
  l.job.toNat + l.cid.toNat * 2 ^ 16 + (if l.any then 0xFFFF else l.home.val) * 2 ^ 32 + 2 ^ 48 + (l.priority % 2) * 2 ^ 49
    + (if l.affinity then 0 else 2 ^ 50) + l.header.toNat * 2 ^ 64 + l.args.toNat * 2 ^ 128 + (l.age % 2 ^ 32) * 2 ^ 192

/-- A dispatch-route entry (Table 17-14). -/
def capRoute (r : Route) (tag : Nat) : Nat :=
  tag + 2 ^ 10 + rdLayer r.desc * 2 ^ 16 + rdRows r.desc * 2 ^ 24 + rdK r.desc * 2 ^ 32
    + ((r.pairs.filter fun p => !p.pending).length) * 2 ^ 48 + (r.stitch % 2 ^ 48) * 2 ^ 64 + r.job.toNat * 2 ^ 112

/-- The outstanding transfers of a cluster's mover, oldest first: context, KIND of Table 17-15, operation. -/
def moverOps (s : State) (cl : Fin 64) : List (CtxId × Nat × Op) :=
  let tes := (List.range 4).filterMap fun i => if h : 4 * cl.val + i < 256 then some (⟨4 * cl.val + i, h⟩ : TeId) else none
  let all := (tes.map fun te => (resident s te).map fun c =>
    (((getCtx s c).map (·.ops)).getD []).filterMap fun o =>
      if o.performed then none
      else match o.kind with
        | .tmov true => some (c, 0, o)
        | .copy k => some (c, k, o)
        | .append _ _ _ _ _ => some (c, 3, o)
        | _ => none).flatten.flatten
  all.mergeSort fun a b => decide (a.2.2.issuedAt ≤ b.2.2.issuedAt)

/-- The lines of some byte ranges. -/
def linesIn (l : List (Nat × Nat)) : Nat := (l.map fun r => ceilDiv' (r.2 - r.1) 64).sum
/-- The lines of a transfer that the mover has not moved: those of its tile-store ranges while it has not ended, and its buffered writes (Table 17-15). -/
def linesLeft (s : State) (cl : Fin 64) (t : CtxId × Nat × Op) : Nat :=
  linesIn (t.2.2.reads ++ t.2.2.writes) + ((writeBuf s cl).filter fun w => decide (w.ctx = t.1) && decide (w.number = t.2.2.number)).length
/-- A transfer entry: the lines still to be moved, and the first of them (Table 17-15). -/
def capTransfer (s : State) (cl : Fin 64) (t : CtxId × Nat × Op) : Nat :=
  let ws := (writeBuf s cl).filter fun w => decide (w.ctx = t.1) && decide (w.number = t.2.2.number)
  let next := match ws.head?, (t.2.2.reads ++ t.2.2.writes).head? with
    | some w, _ => w.addr
    | none, some r => r.1
    | none, none => 0
  1 + (t.1.te.val % 4) * 2 + t.1.slot.val * 8 + t.2.1 * 32 + (linesLeft s cl t % 2 ^ 24) * 256 + next * 2 ^ 64

/-- Tags in use of a mover: of writes that Seam holds, and of lines that its transfers still have to move (R322, Table 17-15). -/
def moverTags (s : State) (cl : Fin 64) : Nat :=
  min 512 (((writeBuf s cl).filter (·.sent)).length + ((moverOps s cl).map fun t => linesIn (t.2.2.reads ++ t.2.2.writes)).sum)
/-- A cluster-mover block (Table 17-15). -/
def capMover (s : State) (cl : Fin 64) : Nat :=
  let ts := moverOps s cl
  moverTags s cl + ((readAhead s cl).length % 512) * 2 ^ 16 + ((writeBuf s cl).length % 65536) * 2 ^ 32 + (ts.length % 65536) * 2 ^ 48
    + (((ts.take 31).zipIdx.map fun p => capTransfer s cl p.1 * 2 ^ (128 * (p.2 + 1))).sum)

/-- A ring-engine entry (Table 17-16). -/
def capRing (s : State) (r : Nat) : Nat :=
  let v := getRing s r
  v.consumed % 2 ^ 32 + (v.written % 2 ^ 32) * 2 ^ 32 + (if ringOn s r then 2 ^ 64 else 0) + (if ringActive v then 2 ^ 65 else 0)
    + (if v.cause ≠ 0 then 2 ^ 66 else 0) + v.cause * 2 ^ 72 + ringWait s r * 2 ^ 80 + (ringOut v % 2 ^ 17) * 2 ^ 96 + v.held.toNat * 2 ^ 128

/-- The header of a slot (Table 17-10). -/
def capHeader (s : State) (h : HDie) (trigger number te : Nat) : Nat :=
  trigger + s.stc.count.toNat * 2 ^ 64 + ((errQueue s h).prod - 1).toNat * 2 ^ 128 + (number % 2 ^ 32) * 2 ^ 160 + te * 2 ^ 192

/-- The ring engines, which H0 holds itself (Table 17-10). -/
def capRings (s : State) (h : HDie) : List Piece :=
  if h = 0 then (List.range 1024).map fun r => (⟨0x44040 + 32 * r, 32, capRing s r⟩ : Piece) else []
/-- Everything that a full capture of a half holds of one of its C-dies (Table 17-10). -/
def capDie (s : State) (h : HDie) (d : CDie) : List Piece :=
  let tes := allTes.filter fun te => decide (dieOf te = d)
  let entries := tes.map fun te => (⟨0x40 + 256 * (te.val % 128), 256, capTe s te⟩ : Piece)
  let tallies := (s.tallies.filter fun e => decide (e.1 % 65536 / 16384 = d.val)).filterMap fun e => (capTallyAt h e.1).map fun o => (⟨o, 4, e.2.toNat⟩ : Piece)
  let queues := (tes.map fun te => (getTe s te).queue.zipIdx.map fun q => (⟨0x20040 + 512 * (te.val % 128) + 32 * q.2, 32, capLaunch q.1⟩ : Piece)).flatten
  let routes := (getRoutes s d).filterMap fun r => r.tag.map fun t => (⟨0x30040 + 32768 * (d.val % 2) + 32 * t, 32, capRoute r t⟩ : Piece)
  let movers := ((List.finRange 64).filter fun cl => decide (cl.val / 16 = d.val)).map fun cl =>
    (⟨0x40040 + 512 * (cl.val % 32), 512, capMover s cl⟩ : Piece)
  entries ++ tallies ++ queues ++ routes ++ movers

/-- The bytes of a slot with some fields added; every other byte is zero. -/
def capAdd (m : SMap Byte) (l : List Piece) : SMap Byte :=
  l.foldl (fun m p => if p.val = 0 then m else smSetRange 0 m p.off (bytesOf p.size p.val)) m

/-- A capture slot: key `2 h + 0` for A, `2 h + 1` for B. -/
def getCap (s : State) (h : HDie) (k : Nat) : CapSlot := smGet {} s.err.slots (2 * h.val + k)
/-- A capture slot takes a value. -/
def setCap (s : State) (h : HDie) (k : Nat) (v : CapSlot) : State :=
  { s with err := { s.err with slots := smSet {} s.err.slots (2 * h.val + k) v } }

/-- A part of a capture reaches its slot, unless the slot has been released since. -/
def capFill (s : State) (x : CapFill) : State :=
  let v := getCap s x.half x.slot
  if v.valid ∧ v.number = x.number then setCap s x.half x.slot { v with bytes := capAdd v.bytes x.pieces } else s
/-- A C-die's part of a capture crosses Seam in class MGT, or waits for a link or for the next boundary (R18, R410). -/
def capSend (s : State) (x : CapFill) : State :=
  match mgtSend s [(x.die, 4 + x.half.val)] x.msgs with
  | some s => capFill s x
  | none => { s with err := { s.err with capHeld := s.err.capHeld ++ [x] } }
/-- The parts of captures that waited go on. -/
def capResume (s : State) : State := s.err.capHeld.foldl capSend { s with err := { s.err with capHeld := [] } }
/-- The lines that a C-die's part of a full capture takes: its engines, tallies, queues, routes and movers (Table 17-10). -/
def capDieLines : Nat := (64 * 256 + 49152 + 64 * 512 + 32768 + 16 * 512) / 64
/-- A half's capture fills the lower free slot, or is missed (R459); `one` is the engine of an OUT_NOW. -/
def captureHalf (s : State) (h : HDie) (trigger : Nat) (one : Option TeId) : State :=
  let free := if !(getCap s h 0).valid then some 0 else if !(getCap s h 1).valid then some 1 else none
  match free with
  | none => countR s (Reg.capStatus h) 15 8 1
  | some k =>
    let n := smGet 0 s.err.captures h.val + 1
    let parts : List CapFill := match one with
      | some te => [⟨h, k, n, (dieOf te).val, 4, [⟨0x40 + 256 * (te.val % 128), 256, capTe s te⟩]⟩]
      | none => (if h = 0 then [0, 1] else [2, 3]).map fun d => ⟨h, k, n, d.val, capDieLines, capDie s h d⟩
    let head : Piece := ⟨0, 64, capHeader s h trigger n ((one.map (·.val)).getD 0)⟩
    let rings := if one.isSome then [] else capRings s h
    let s := { s with err := { s.err with captures := smSet 0 s.err.captures h.val n } }
    parts.foldl capSend (setCap s h k ⟨true, capAdd [] (head :: rings), n⟩)

/-- A full capture on both H-dies (R459). -/
def capture (s : State) (trigger : Nat) : State := captureHalf (captureHalf s 0 trigger none) 1 trigger none
/-- A capture of one engine, on the H-die of its half (R459, trigger 0x3). -/
def captureTe (s : State) (te : TeId) : State := captureHalf s (halfOfTe te) 0x3 (some te)

end Sys2Proof.Machine
end

