-- ==== Sys2Proof/Machine/Identity.lean ====
section
/-! DEFINITION. Thimble's measurements, its identity and alias keys, and the key-exchange messages that it signs (R466 to R468, R472, R474, R477). Falcon-1024, ML-KEM-1024 and SHAKE256 themselves stand uninterpreted in Config. -/

namespace Sys2Proof.Machine

/-- Thimble's state is changed. -/
def modSec (s : State) (f : Thimble → Thimble) : State := { s with sec := f s.sec }

/-! ### Measurements (R472) -/

/-- A measurement register. -/
def measOf (t : Thimble) (i : Nat) : BitVec 512 := smGet 0 t.meas i
/-- The bytes of a 512-bit value. -/
def bytes512 (v : BitVec 512) : List Byte := bytesOf 64 v.toNat
/-- Mi is extended by a digest (R472). -/
def extendM (t : Thimble) (i : Nat) (d : BitVec 512) : Thimble :=
  { t with meas := smSet 0 t.meas i (Config.shake256 (bytes512 (measOf t i) ++ bytes512 d)) }
/-- The digest of M0 to M6, which the alias certificate carries (R475). -/
def measDigest (t : Thimble) : BitVec 512 := Config.shake256 ((List.range 7).map fun i => bytes512 (measOf t i)).flatten

/-! ### Keys (R467, R468) -/

/-- SEED, as Thimble reads it: not once SEED_KILL is burned (Table 18-1). -/
def seedBytes (t : Thimble) : List Byte := if t.seedKilled then [] else bytesOf 32 Config.fusedSeed.toNat
/-- The stream of the identity key pair, SHAKE256(SEED, "B3X-ID") (R467). -/
def identityKey (t : Thimble) : BitVec 384 := Config.shake384 (seedBytes t ++ [0x42, 0x33, 0x58, 0x2D, 0x49, 0x44])
/-- The stream of the alias key pair, SHAKE256(SEED, "B3X-AL", M1 to M6) (R468). -/
def aliasKey (t : Thimble) : BitVec 384 :=
  Config.shake384 (seedBytes t ++ [0x42, 0x33, 0x58, 0x2D, 0x41, 0x4C] ++ ((List.range 6).map fun i => bytes512 (measOf t (i + 1))).flatten)
/-- The alias certificate: the alias public key and the digest of M0 to M6, signed with the identity key (R468, R475). -/
def aliasCert (t : Thimble) : List Byte :=
  let body := Config.falconPublic (aliasKey t) ++ bytes512 (measDigest t)
  body ++ Config.falconSign (identityKey t) body
/-- The certificate chain of slot 0: root, identity, alias (R468, R473). -/
def certChain (t : Thimble) : List Byte := Config.identityCerts (Config.falconPublic (identityKey t)) ++ aliasCert t
/-- A message with its signature by the alias key (R468). -/
def signedMsg (t : Thimble) (msg : List Byte) : List Byte := msg ++ Config.falconSign (aliasKey t) msg

/-! ### Messages (R474 to R477) -/

/-- A key-exchange message as it is signed and sent: its kind (0 asks for HELLOs, 1 HELLO, 2 WRAP, 3 ACK, 4 SWITCH), its slot and its content. How these are spelled is not stated (DESIGN CHOICE, log entry 144). -/
def kexBytes (s : State) (kind slot : Nat) (content : List Byte) : List Byte := signedMsg s.sec (bytesOf 1 kind ++ bytesOf 1 slot ++ content)
/-- Thimble sends a message in class KEX (R474, R476). -/
def kexSend (s : State) (kind slot dst : Nat) (content : List Byte) : State :=
  { s with fab := { s.fab with kexOut := s.fab.kexOut ++ [⟨kind, slot, dst, kexBytes s kind slot content⟩] } }
/-- The content of HELLO: an encapsulation key and the chain (R474). -/
def helloContent (s : State) (secret : BitVec 512) : List Byte := Config.kemPublic secret ++ certChain s.sec
/-- Bytes of an encapsulation key and of a ciphertext (R474). -/
def kemBytes : Nat := 1568
/-- A 256-bit output of SHAKE256: the first 32 bytes. -/
def shakeKey (bs : List Byte) : BitVec 256 := (Config.shake256 bs).truncate 256
/-- KEK_n (R474). -/
def kekOf (ss : BitVec 256) (leader n : Nat) (job : W16) (slot : Nat) : BitVec 256 :=
  shakeKey (bytesOf 32 ss.toNat ++ bytesOf 2 leader ++ bytesOf 2 n ++ bytesOf 2 job.toNat ++ bytesOf 1 slot)
/-- The port key that two ends take from a shared secret (R477). -/
def portKeyOf (ss : BitVec 256) (a b : Nat) : BitVec 256 := shakeKey (bytesOf 32 ss.toNat ++ bytesOf 2 (min a b) ++ bytesOf 2 (max a b))

/-- A key-exchange message leaves a mirror port in PKEY flits, as many as it fills (R379, R477). -/
def pkeySend (s : State) (n kind : Nat) (content : List Byte) : State :=
  (areas 1000 (kexBytes s kind 255 content)).foldl (fun s c => sendControl s (24 + n) 5 c) s
/-- A mirror port that has trained sends its HELLO once the alias key is ready (R468, R477). -/
def pkeyHello (s : State) (n : Nat) : State :=
  let v := getLink s (24 + n)
  if v.phase = .up && s.sec.aliasReady && !v.helloSent then
    let (d, s) := draw s
    let secret := Config.draw512 d
    pkeySend (setLink s (24 + n) { v with helloSent := true, kem := secret }) n 1 (helloContent s secret)
  else s

end Sys2Proof.Machine
end

