-- ==== Sys2Proof/Machine/Placement.lean ====
section
/-! DEFINITION. Shares, partitions, placement, launch checks, taking engines out of service and back, and the array patrol (R111 to R113, R215 to R240, R412, R447 to R449). -/

namespace Sys2Proof.Machine

/-! ### Shares and partitions (R215, R216, R223 to R226) -/

/-- A slot whose share may hold anything: the next launch in it is wiped for (R221). -/
def forgetJob (te : TeId) (s : State) (k : SlotId) : State := setSlot s ⟨te, k⟩ { getSlot s ⟨te, k⟩ with lastJob := 0xFFFF }
/-- TE_SLOTCFG of an engine is written where every slot is empty and the shares fit (R216). -/
def execTeSlotcfgWrite (te : TeId) (v : W64) (s : State) : Res :=
  clocked s fun s =>
    let v := v &&& 0x03FF03FF03FF03FF
    let ts := (List.range 4).map (tsUnits v)
    let gs := (List.range 4).map (grpCount v)
    if slotsEmpty s te && decide (ts.sum ≤ 32) && decide (gs.sum ≤ 8) && gs.all (fun g => decide (g ≤ 8)) then
      let s := setTe s te { getTe s te with slotcfg := v }
      allSlots.foldl (forgetJob te) s
    else raise s Reg.teStatus 0

/-- VALID. -/
def ptValid (e : BitVec 512) : Bool := bitAt e 0
/-- POLICY. -/
def ptPolicy (e : BitVec 512) : Nat := bits e 2 1
/-- SCOPE. -/
def ptScope (e : BitVec 512) : Nat := bits e 4 3
/-- JOB. -/
def ptJob (e : BitVec 512) : W16 := e.extractLsb' 16 16
/-- CLIENT. -/
def ptClient (e : BitVec 512) : Nat := bits e 47 32
/-- CS_BASE. -/
def ptBase (e : BitVec 512) : Nat := bits e 71 64
/-- CS_UNITS. -/
def ptUnits (e : BitVec 512) : Nat := bits e 79 72
/-- MASK holds an engine. -/
def ptHas (e : BitVec 512) (te : Nat) : Bool := bitAt e (128 + te)
/-- The clusters that hold an engine of MASK. -/
def ptClusters (e : BitVec 512) : List Nat := (List.range 64).filter fun c => decide (bits e (128 + 4 * c + 3) (128 + 4 * c) ≠ 0)
/-- The bits of an entry that are not reserved (Table 8-1). -/
def ptMask : BitVec 512 := BitVec.ofNat 512 ((2 ^ 256 - 1) * 2 ^ 128 + 0xFFFF0000FFFFFFFF001F)
/-- The windows of two entries overlap; an empty window overlaps none. -/
def ptOverlap (a b : BitVec 512) : Bool :=
  decide (0 < ptUnits a) && decide (0 < ptUnits b) && decide (ptBase a < ptBase b + ptUnits b) && decide (ptBase b < ptBase a + ptUnits a)
/-- The valid entries other than one. -/
def otherParts (s : State) (p : PartId) : List (BitVec 512) :=
  ((s.parts.filter fun e => decide (e.1 ≠ p.val)).map (·.2)).filter ptValid
/-- A job has a resident or queued context on an engine. -/
def jobOn (s : State) (job : W16) (te : TeId) : Bool :=
  (resident s te).any (fun c => ((getCtx s c).map fun x => decide (x.launch.job = job)).getD false)
    || (getTe s te).queue.any (fun l => decide (l.job = job))
/-- Setting VALID is allowed (R224). -/
def ptMayOpen (s : State) (p : PartId) (e : BitVec 512) : Bool :=
  decide (ptPolicy e < 2) && decide (ptScope e < 3) && decide (ptJob e ≠ 0xFFFF) && decide (ptBase e + ptUnits e ≤ 128)
    && (otherParts s p).all fun o => decide (ptJob o ≠ ptJob e)
      && !(ptOverlap o e && (ptClusters e).any fun c => (ptClusters o).contains c)
/-- A change of MASK of a valid entry is allowed (R226). -/
def ptMayMask (s : State) (p : PartId) (old new : BitVec 512) : Bool :=
  let added := (ptClusters new).filter fun c => !((ptClusters old).contains c)
  (otherParts s p).all (fun o => !(ptOverlap o new && added.any fun c => (ptClusters o).contains c))
    && allTes.all fun te => !(ptHas old te.val && !ptHas new te.val && jobOn s (ptJob old) te)
/-- The windows of an entry in some clusters are to be wiped (R225): key `64 p + cluster`; the end cycle, the base and the size are kept together. -/
def startWipe (s : State) (p : PartId) (e : BitVec 512) (clusters : List Nat) : State :=
  if ptUnits e = 0 then s
  else
    let v := (cycleNow s + 64 * ptUnits e) * 65536 + ptBase e * 256 + ptUnits e
    { s with partWipe := clusters.foldl (fun m c => smSet 0 m (64 * p.val + c) v) s.partWipe }
/-- The window of a partition is being wiped in a cluster. -/
def wiping (s : State) (p : PartId) (cluster : Nat) : Bool := decide (smGet 0 s.partWipe (64 * p.val + cluster) ≠ 0)

/-- The address of a word of a partition entry (Table 8-1). -/
def partAddr (p : PartId) (word : Nat) : Nat := Reg.teCtrl.addr + 0x1000 + 64 * p.val + 8 * word
/-- The fields of an entry that are given reserved values: POLICY, SCOPE and JOB (Table 8-1). -/
def ptReserved (e : BitVec 512) : List (Nat × Nat) :=
  (if 2 ≤ ptPolicy e then [(2, 1)] else []) ++ (if ptScope e = 3 then [(4, 3)] else []) ++ (if ptJob e = 0xFFFF then [(31, 16)] else [])
/-- A write of one word of a partition entry (R223 to R226); an entry that stays invalid keeps the fields that are given reserved values (R504). -/
def execTePartWrite (p : PartId) (word : Fin 8) (v : W64) (s : State) : Res :=
  clocked s fun s =>
    let old := getPart s p
    let new := setBits old (64 * word.val + 63) (64 * word.val) v.toNat &&& ptMask
    let refuse : State := raise s Reg.teStatus 0
    if !ptValid old then
      if !ptValid new then
        let bad := ptReserved new
        let kept := bad.foldl (fun e f => setBits e f.1 f.2 (bits old f.1 f.2)) new
        if bad = [] then setPart s p new else idEvent (setPart s p kept) 1 (partAddr p word.val)
      else if ptMayOpen s p new then
        let s := startWipe (setPart s p new) p new (ptClusters new)
        { s with pwr := { s.pwr with energy := smErase s.pwr.energy p.val } }
      else refuse
    else if !ptValid new then
      if allTes.any (jobOn s (ptJob old)) then refuse else setPart s p new
    else
      let maskOnly := decide (setBits old 383 128 0 = setBits new 383 128 0)
      if maskOnly && ptMayMask s p old new then
        startWipe (setPart s p new) p new ((ptClusters new).filter fun c => !((ptClusters old).contains c))
      else refuse

/-- The bytes of the cluster stores that an entry of `State.partWipe` wipes. -/
def wipeRange (e : Nat × Nat) : Nat × Nat :=
  let lo := 8388608 * (e.1 % 64) + 65536 * (e.2 / 256 % 256)
  (lo, lo + 65536 * (e.2 % 256))
/-- A partition's window in a cluster is zero. -/
def wipeWindow (s : State) (e : Nat × Nat) : State :=
  let r := wipeRange e
  { s with cl := { s.cl with store := smClear s.cl.store r.1 r.2, storeErr := smClear s.cl.storeErr (r.1 / 64) (r.2 / 64) } }
/-- The wipe of a partition's window ends in every cluster where it runs (R225). -/
def execPartitionWipeEnd (p : PartId) (s : State) : Res :=
  clocked s fun s =>
    let mine := s.partWipe.filter fun e => decide (e.1 / 64 = p.val)
    let s := advanceCycle s ((mine.map fun e => e.2 / 65536).foldl max 0)
    let s := mine.foldl wipeWindow s
    { s with partWipe := s.partWipe.filter fun e => decide (e.1 / 64 ≠ p.val) }

/-! ### Launch checks (R111, R112) -/

/-- A kernel header as the checks read it. -/
abbrev KHead := BitVec 512
/-- ACC_MODE selects shadow mode. -/
def khShadow (h : KHead) : Bool := decide (bits h 49 48 = 1)
/-- The groups that check 2 asks for: GROUPS_MIN, and two in shadow mode (R108, R112). -/
def khGroups (h : KHead) : Nat := if khShadow h then max 2 (bits h 131 128) else bits h 131 128
/-- TS_MIN. -/
def khUnits (h : KHead) : Nat := bits h 143 136
/-- The first check of a launch fails (R112 check 1). -/
def khBad (addr : W64) (h : KHead) : Bool :=
  decide (addr.toNat % 64 ≠ 0) || decide (bits h 31 0 ≠ 0x4F565349) || decide (bits h 39 32 ≠ 1) || decide (bits h 47 40 ≠ 0)
    || decide (2 ≤ bits h 49 48) || decide (bits h 95 64 % 64 ≠ 0) || decide (bits h 95 64 < 64)
    || decide (bits h 127 96 % 8 ≠ 0) || decide (bits h 127 96 < 8)
    || decide (bits h 63 50 ≠ 0) || decide (bits h 135 132 ≠ 0) || decide (bits h 511 144 ≠ 0)
/-- A launch's header is read for a tensor engine, in class P0 (Table 9-2). -/
def readHeader (s : State) (te : TeId) (l : Launch) : State × (Bad ⊕ KHead) :=
  match ctxRead s ⟨te, 0⟩ l.seg .p0 false l.header.toNat 64 with
  | (s, .inl b) => (s, .inl b)
  | (s, .inr bs) => (s, .inr (BitVec.ofNat 512 (leNat bs)))
/-- What placement knows of a kernel's needs, GROUPS_MIN and TS_MIN (R230); none known of a header that check 1 refuses. -/
def kernelNeeds (s : State) (te : TeId) (l : Launch) : Nat × Nat :=
  match (readHeader s te l).2 with
  | .inl _ => (0, 0)
  | .inr h => if khBad l.header h then (0, 0) else (bits h 131 128, khUnits h)
/-- A launch's header cannot be read at present: Seam or a switch-over holds the access (R18, R294). -/
def headerHeld (s : State) (te : TeId) (l : Launch) : Bool := match (readHeader s te l).2 with | .inl b => b.held | .inr _ => false
/-- A slot's share meets a kernel's needs; a slot without tile store is disabled (R217). -/
def shareFits (cfg : W64) (needs : Nat × Nat) (k : Nat) : Bool :=
  decide (tsUnits cfg k ≠ 0) && decide (needs.1 ≤ grpCount cfg k) && decide (needs.2 ≤ tsUnits cfg k)

/-- The checks of R112 on a placed launch; the context runs once they pass (R113). -/
def launchCheck (s : State) (c : CtxId) : State :=
  match getCtx s c with
  | none => s
  | some x =>
    if x.stop.isSome ∨ (getSlot s c).occ ≠ .wiping then s
    else
      let l := x.launch
      match readHeader s c.te l with
      | (s, .inl b) => if l.header.toNat % 64 ≠ 0 then stopRec s c { cls := 0x01, addr := l.header } else stopBad s c b
      | (s, .inr h) =>
        let cfg := (getTe s c.te).slotcfg
        if khBad l.header h then stopRec s c { cls := 0x01, addr := l.header, d0 := h.truncate 64 }
        else if grpCount cfg c.slot.val < khGroups h then stopRec s c { cls := 0x06, cause := 0x03, addr := l.header }
        else if tsUnits cfg c.slot.val < khUnits h then stopRec s c { cls := 0x04, cause := 0x03, addr := l.header }
        else
          let base := l.header + BitVec.ofNat 64 (bits h 95 64)
          let k := ctxKey c
          let s := { s with eng := { s.eng with
            sregs := smClear s.eng.sregs (32 * k) (32 * k + 32)
            vregs := smClear s.eng.vregs (8192 * k) (8192 * k + 8192)
            masks := smClear s.eng.masks (8 * k) (8 * k + 8) } }
          let s := (shareGroups s c).foldl (fun s g => setGroup s c.te g {}) s
          let s := if khShadow h then
              ((shareGroups s c).take 1).foldl (fun s g => setGroup (clearAcc s c.te g.val 1) c.te g { st := .opened }) s
            else s
          let s := setSreg s c 1 l.args
          setSlot s c { getSlot s c with occ := .running, readyFrom := cycleNow s, ctx := some { x with
            codeBase := base, codeBytes := bits h 127 96, shadow := khShadow h, liveBank := 0, pc := base, lastPc := base } }

/-! ### Placement (R219 to R221, R229, R230, R232) -/

/-- A context that a launch is placed as. -/
def newCtx (l : Launch) : Ctx where
  launch := l
  codeBase := 0
  codeBytes := 0
  shadow := false
  liveBank := 0
  pc := l.header
  lastPc := l.header
  firstIssue := none
  hold := []
  wait := 0
  ops := []
  opCount := 0
  stop := none
  idle := 0
  hangReported := false
  ended := false
  upset := 0

/-- The lowest-numbered empty slot of an engine that a launch fits (R230). -/
def fittingSlot (s : State) (te : TeId) (l : Launch) : Option SlotId :=
  if wiping s l.part (clusterOf te).val || headerHeld s te l then none
  else
    let needs := kernelNeeds s te l
    allSlots.find? fun k => decide ((getSlot s ⟨te, k⟩).occ = .empty) && shareFits (getTe s te).slotcfg needs k.val

/-- A home engine lies within a scope of another (R230). -/
def inScope (scope home te : Nat) : Bool :=
  match scope with
  | 0 => decide (home / 16 = te / 16)
  | 1 => decide (home / 64 = te / 64)
  | _ => true

/-- A launch that an engine may take from another's queue (R230). -/
def stealable (s : State) (te : TeId) (l : Launch) : Bool :=
  let e := getPart s l.part
  !l.affinity && decide (l.home ≠ te) && ptHas e te.val && inScope (ptScope e) l.home.val te.val && (fittingSlot s te l).isSome

/-- The launch that an engine takes: its own oldest fitting one, else the oldest it may steal, of the lower home at equal age (R230). -/
def launchFor (s : State) (te : TeId) : Option Launch :=
  match (getTe s te).queue.find? fun l => (fittingSlot s te l).isSome with
  | some l => some l
  | none =>
    let all := (s.eng.te.map fun e => e.2.queue.find? (stealable s te)).filterMap id
    all.foldl (fun best l => match best with
      | none => some l
      | some b => if l.age < b.age ∨ (l.age = b.age ∧ l.home.val < b.home.val) then some l else some b) none

/-- An engine takes launches: in service, without a failed patrol pass, powered and outside a compute reset (R230, R237, R448). -/
def takesLaunches (s : State) (te : TeId) : Bool :=
  let t := getTe s te
  decide (t.svc = .inService) && !t.patrolFail && tePowered s te && sequencersRun s

/-- A launch enters a slot; a slot last used by another job is wiped first (R221, R230). -/
def placeLaunch (s : State) (te : TeId) (k : SlotId) (l : Launch) : State :=
  let c : CtxId := ⟨te, k⟩
  let h := getTe s l.home
  let s := setTe s l.home { h with queue := h.queue.erase l, stolenFrom := if l.home = te then h.stolenFrom else min 0xFFFF (h.stolenFrom + 1) }
  let t := getTe s te
  let s := setTe s te { t with stolenBy := if l.home = te then t.stolenBy else min 0xFFFF (t.stolenBy + 1) }
  let s := noteProgress s 2 (dieOf te).val
  let v := getSlot s c
  let fresh := decide (v.lastJob ≠ l.job)
  let s := setSlot s c { v with
    occ := .wiping, ctx := some (newCtx l), queue := [], since := cycleNow s, progress := [], stalled := []
    wipeEnd := if fresh then cycleNow s + 64 * tsUnits t.slotcfg k.val else 0 }
  if fresh then s else launchCheck s c

/-- The class of the record of an affinity launch whose kernel fits no slot of its engine, even were every slot empty (R231). -/
def fitsNever (s : State) (te : TeId) (l : Launch) : Option Nat :=
  let cfg := (getTe s te).slotcfg
  let needs := kernelNeeds s te l
  if !l.affinity || (List.range 4).any (shareFits cfg needs) then none
  else if (List.range 4).any (fun k => decide (tsUnits cfg k ≠ 0) && decide (needs.1 ≤ grpCount cfg k)) then some 0x04
  else some 0x06
/-- The record of such a launch (R112, R231). -/
def unfitRecord (s : State) (te : TeId) (l : Launch) (cls : Nat) : State :=
  place s { cls := cls, action := 1, cause := if cls = 0x0F then 0x02 else 0x03, d0 := if cls = 0x0F then 0x07 else 0, die := (dieOf te).val, job := l.job, ctx := l.cid.toNat, addr := l.header }
/-- A queued launch that a double-bit error in its queue has damaged (R260), or that fits no slot of its engine, and whose header could not be read before now or whose engine has been configured anew since (R231): the spec says this of LAUNCH alone, and a launch in a queue stops likewise when the engine looks for one to place (DESIGN CHOICE, log entry 152). -/
def unfitQueued (s : State) (te : TeId) : Option (Launch × Nat) :=
  (getTe s te).queue.findSome? fun l =>
    if 2 ≤ l.upset then some (l, 0x0F) else if headerHeld s te l then none else (fitsNever s te l).map fun cls => (l, cls)
/-- Such a launch stops at once (R231). -/
def stopUnfit (s : State) (te : TeId) (l : Launch) (cls : Nat) : State :=
  let t := getTe s te
  let s := setTe s te { t with queue := t.queue.erase l }
  autoAbort (finishLaunch (unfitRecord s te l cls) l 0x05 cls 0 0) l.job cls

/-- A single wrong bit in a launch's queue word is corrected and counted as the launch is taken (R260). -/
def queueFixed (s : State) (te : TeId) (l : Launch) : State := if l.upset = 1 then countFix s (dieOf te).val else s
/-- A tensor engine with an empty slot takes a fitting launch (R230); one that can never fit stops (R231). -/
def execLaunchPlace (te : TeId) (s : State) : Res :=
  clocked s fun s =>
    if !takesLaunches s te then s
    else match unfitQueued s te with
    | some (l, cls) => stopUnfit s te l cls
    | none => match launchFor s te with
      | none => s
      | some l => match fittingSlot s te l with
        | some k => placeLaunch (queueFixed s te l) te k l
        | none => s

/-- The wipe of a slot's share ends, and the launch is checked (R221, R112). -/
def execSlotWipeEnd (c : CtxId) (s : State) : Res :=
  clocked s fun s =>
    let v := getSlot s c
    match v.ctx with
    | none => s
    | some x =>
      if v.wipeEnd = 0 ∨ !sequencersRun s ∨ !tePowered s c.te ∨ headerHeld s c.te x.launch then s
      else
        let s := advanceCycle s v.wipeEnd
        let sh := tsShare s c
        let lo := 2097152 * c.te.val + sh.1
        let s := { s with eng := { s.eng with
          tiles := smClear s.eng.tiles lo (lo + sh.2)
          tileErr := smClear s.eng.tileErr (lo / 64) ((lo + sh.2) / 64) } }
        launchCheck (setSlot s c { getSlot s c with wipeEnd := 0, lastJob := x.launch.job }) c

/-- What a stopped context handed off is finished: its slot empties and its completion reads STOPPED (R442). -/
def execContextStopComplete (c : CtxId) (s : State) : Res :=
  clocked s fun s =>
    match (getCtx s c).bind (·.stop) with
    | some info => if handedOffDone s c then emptySlot s c 0x05 info.cls else s
    | none => s

/-! ### Service (R236 to R238) -/

/-- An engine leaves service or joins the ranks of those out (R237). -/
def leaveService (s : State) (te : TeId) : State :=
  let s := setTe s te { getTe s te with svc := if slotsEmpty s te then .out else .draining }
  refuseAffinity s te

/-- What OUT and OUT_NOW do to an engine that is not in service or draining (Table 8-4). -/
def outElse (s : State) (te : TeId) : State :=
  let t := getTe s te
  match t.svc with
  | .wiping => setTe s te { t with outNext := true }
  | .patrol => refuseAffinity (setTe s te { t with svc := .out }) te
  | .joining => refuseAffinity (setTe s te { t with svc := .out }) te
  | _ => s

/-- OUT drains an engine out of service (Table 8-4). -/
def execTeSvcOut (te : TeId) (s : State) : Res :=
  clocked s fun s => match (getTe s te).svc with
    | .inService => leaveService s te
    | _ => outElse s te

/-- A context that is not stopped yet is stopped by OUT_NOW. -/
def stopNow (s : State) (c : CtxId) : State := if ((getCtx s c).map (·.stop.isNone)).getD false then stopRec s c { cls := 0x12 } else s
/-- An engine is captured, leaves service and stops what it runs. -/
def leaveNow (s : State) (te : TeId) : State :=
  let s := leaveService (captureTe s te) te
  (resident s te).foldl stopNow s
/-- OUT_NOW stops every resident context, after a capture, and takes the engine out of service, a returning one too (Table 8-4, R459). -/
def execTeSvcOutNow (te : TeId) (s : State) : Res :=
  clocked s fun s =>
    match (getTe s te).svc with
    | .inService => leaveNow s te
    | .draining => leaveNow s te
    | .out => s
    | _ => outElse (captureTe s te) te

/-- IN brings an engine back (Table 8-4, R238). -/
def execTeSvcIn (te : TeId) (s : State) : Res :=
  clocked s fun s =>
    let t := getTe s te
    match t.svc with
    | .draining => setTe s te { t with svc := .inService }
    | .out => setTe s te { t with svc := .wiping, failed := false, outNext := false, wipeEnd := cycleNow s + 2048 }
    | _ => s

/-- The stores and registers of an engine are all zero (R238). -/
def wipeTe (s : State) (te : TeId) : State :=
  let g := te.val
  let t := getTe s te
  let s := setTe s te { t with shadowW := [], liveW := [] }
  { s with eng := { s.eng with
      tiles := smClear s.eng.tiles (2097152 * g) (2097152 * (g + 1))
      tileErr := smClear s.eng.tileErr (32768 * g) (32768 * (g + 1))
      acc := smClear s.eng.acc (131072 * g) (131072 * (g + 1))
      sregs := smClear s.eng.sregs (128 * g) (128 * (g + 1))
      vregs := smClear s.eng.vregs (32768 * g) (32768 * (g + 1))
      masks := smClear s.eng.masks (32 * g) (32 * (g + 1)) } }

/-- A returning engine's wipe ends, and its patrol pass begins (R238). -/
def execTeWipeEnd (te : TeId) (s : State) : Res :=
  clocked s fun s =>
    let t := getTe s te
    if t.svc ≠ .wiping ∨ !sequencersRun s ∨ !tePowered s te then s
    else
      let s := wipeTe (advanceCycle s t.wipeEnd) te
      let t := getTe s te
      if t.outNext then refuseAffinity (setTe s te { t with svc := .out, outNext := false }) te
      else setTe s te { t with svc := .patrol, patrolAt := cycleNow s }

/-! ### Array patrol (R412, R447 to R449) -/

/-- The record of a failed slice (R448, R449). -/
def patrolRecord (s : State) (te : TeId) (slice : Nat) (observed : W64) (stopped : Bool) : State :=
  let t := getTe s te
  let r : Rec := { cls := 0x14, action := if stopped then 1 else 3, cause := slice, die := (dieOf te).val, te := te.val
                   d0 := BitVec.ofNat 64 t.lastGood, d1 := BitVec.ofNat 64 t.form.code
                   d2 := Config.patrolSignature (192 * te.val + slice), d3 := observed }
  place s r

/-- A slice fails the pass: contexts stop, the engine's bit is set, a record is placed, and queued launches under affinity are refused (R448). -/
def patrolFails (s : State) (te : TeId) (slice : Nat) (observed : W64) : State :=
  let live := (resident s te).filter fun c => ((getCtx s c).map (·.stop.isNone)).getD false
  let s := patrolRecord s te slice observed (!live.isEmpty)
  let s := live.foldl (fun s c => haltCtx s c ⟨0x14, slice, 0, 0, 0⟩) s
  let jobs := (live.filterMap fun c => (getCtx s c).map (·.launch.job)).eraseDups
  let s := setTe s te { getTe s te with patrolFail := true, patrolSlice := 0, patrolPart := 0 }
  jobs.foldl (fun s j => autoAbort s j 0x14) (refuseAffinity s te)

/-- The patrol pass of a returning engine ends (R238). -/
def execReturnPatrolEnd (te : TeId) (failing : Option (Fin 192 × W64)) (s : State) : Res :=
  clocked s fun s =>
    let t := getTe s te
    if t.svc ≠ .patrol ∨ !sequencersRun s ∨ !tePowered s te then s
    else
      let s := advanceCycle s (t.patrolAt + 49152)
      match failing.filter fun f => decide (f.2 ≠ Config.patrolSignature (192 * te.val + f.1.val)) with
      | some f => patrolFails (setTe s te { t with svc := .out, failed := true }) te f.1.val f.2
      | none =>
        let cyc := cycleNow s
        setTe s te { t with svc := .joining, patrolFail := false, lastGood := s.stc.count.toNat, patrolSlice := 0, patrolPart := 0
                            mustExercise := false
                            exercised := [cyc, cyc, cyc, cyc] }

/-- Patrol intervals of a stitch (R412); the period is in 10 ns units. -/
def patrolParts (period : Nat) : Nat := if period ≤ 400000 then 1 else ceilDiv' period 400000
/-- MIN of R412. -/
def patrolMin (period : Nat) : Nat := ceilDiv' 49152 (800000 * patrolParts period / period)

/-- From READY on, patrol runs on an array that is between MMAs, in stretches of at most a slice of 256 cycles, within the interval's allowance; the signature is compared where a slice ends. A form that the array has entered and that was not exercised for 8 ms has a whole slice ahead of its first pass (R412, R447). Its cycles are neither progress nor stall of any context (R412). -/
def execPatrolSlice (te : TeId) (observed : W64) (s : State) : Res :=
  clocked s fun s =>
    let t := getTe s te
    let serves := decide (t.svc = .inService ∨ t.svc = .draining) && decide (s.boot.phase = 8) && sequencersRun s && tePowered s te
    let between := t.running.isNone && t.flights.isEmpty
    let allowance := patrolMin s.stc.period + fieldR s Reg.stcPatrol 23 0
    let entering := t.mustExercise && (match t.running with
      | some r => decide (r.form = t.form) && decide (r.enterNext = 0) && t.flights.isEmpty
      | none => between)
    let run := if entering then 256 else min (256 - t.patrolPart) (allowance - t.patrolUsed)
    if !serves || !(entering || between) || decide (run = 0) then s
    else
      let s := accountArray s te
      let s := advanceCycle s (cycleNow s + run)
      let cyc := cycleNow s
      let part := if entering then 256 else t.patrolPart + run
      let (n, s) := draw s
      let t := { getTe s te with
        patrolUsed := t.patrolUsed + run
        patrolPart := if part < 256 then part else 0
        patrolSums := some n
        occupiedFrom := cyc
        running := t.running.map fun r => { r with loadStart := r.loadStart.map fun _ => cyc } }
      if part < 256 then setTe s te t
      else
        let t := { t with exercised := t.exercised.set t.form.code cyc, mustExercise := false }
        let last := decide (t.patrolSlice = 191)
        if observed ≠ Config.patrolSignature (192 * te.val + t.patrolSlice) then patrolFails (setTe s te t) te t.patrolSlice observed
        else setTe s te { t with patrolSlice := if last then 0 else t.patrolSlice + 1
                                 lastGood := if last then s.stc.count.toNat else t.lastGood }

/-- An engine's patrol allowance begins anew. -/
def newAllowanceOf (s : State) (te : TeId) : State := setTe s te { getTe s te with patrolUsed := 0 }
/-- Every engine's patrol allowance begins anew. -/
def newAllowance (s : State) : State := allTes.foldl newAllowanceOf s

/-- A boundary of a patrol interval inside the stitch (R412). -/
def execPatrolInterval (s : State) : Res :=
  clocked s fun s =>
    let parts := patrolParts s.stc.period
    let k := s.stc.patrolIntervals + 1
    if parts ≤ k then s
    else
      let s := advanceTo s (s.stc.last + nsT (10 * s.stc.period) * k / parts)
      newAllowance { s with stc := { s.stc with patrolIntervals := k } }

end Sys2Proof.Machine
end

