-- ==== Sys2Proof/Machine/Orfin.lean ====
section
/-! DEFINITION. Rings, doorbells, descriptors, copies and completions (R350 to R370). -/

namespace Sys2Proof.Machine

/-! ### Ring configuration and doorbells (R350 to R354) -/

/-- A ring stops, once, with the cause of Table 13-10 (R369). -/
def ringStop (s : State) (r cause : Nat) : State :=
  let v := getRing s r
  if v.cause ≠ 0 then s else orfFlag (setRing s r { v with cause := cause }) 3 r

/-- A write of ORF_RING_CFG_r (R350, R351). A write to an enabled ring that sets a reserved bit does more than clear ENABLE, and is refused (R504). -/
def execOrfRingCfgWrite (r : RingId) (v : W64) (s : State) : Res :=
  clocked s fun s =>
    let n := r.val
    let whole := v
    let v := v &&& 0x0000FFFFFFFF007F
    let old := getR s (Reg.orfRingCfg n)
    let ring := getRing s n
    let misaligned := decide (fieldR s (Reg.orfSqBase n) 11 0 ≠ 0) || decide (fieldR s (Reg.orfCqBase n) 11 0 ≠ 0)
    if ringOn s n then
      (if whole = old &&& ~~~(1#64) then setRing (setR s (Reg.orfRingCfg n) v) n { ring with clearedAt := some s.now } else orfFlag s 5 n)
    else if bitAt v 0 then
      (if ringActive ring || decide (16 < bits v 5 1) || misaligned then orfFlag s 5 n
       else setRing (setR s (Reg.orfRingCfg n) v) n {})
    else if 16 < bits v 5 1 then
      setR (raise (setR s Reg.idLastAddr (BitVec.ofNat 64 (Reg.orfRingCfg n).addr)) Reg.idStatus 1) (Reg.orfRingCfg n)
        (setBits v 5 1 (bits old 5 1))
    else setR s (Reg.orfRingCfg n) v

/-- How far a position lies ahead of a count, modulo 255 × SIZE (R354). -/
def ringAhead (size lap index count : Nat) : Nat :=
  let full := 255 * size
  ((lap - 1) * size + index + full - ((lapStamp size count - 1) * size + count % size)) % full

/-- How many completions the CQ half reports consumed, decoded against the completion count: one behind by no more than SIZE (R354). None where it claims more than have been written. -/
def cqConsumed (size lap index written : Nat) : Option Nat :=
  let ahead := ringAhead size lap index written
  let behind := (255 * size - ahead) % (255 * size)
  if behind ≤ min size written then some (written - behind) else none

/-- A write of a doorbell (R353, R354). In the cycle in which ENABLE is cleared it is held and not acted on (R351). The count reported consumed never falls (DEDUCED, log entry 135). -/
def execDoorbellWrite (r : RingId) (v : W64) (s : State) : Res :=
  clocked s fun s =>
    let n := r.val
    let sq := bitAt v 24
    let cq := bitAt v 56
    let malformed := decide (bits v 31 25 ≠ 0) || decide (bits v 63 57 ≠ 0)
        || (sq && decide (bits v 23 16 = 0)) || (cq && decide (bits v 55 48 = 0))
    if !ringOn s n && !malformed && decide ((getRing s n).clearedAt = some s.now) then setRing s n { getRing s n with held := v }
    else if !ringOn s n || malformed then orfFlag s 2 n
    else
      let size := ringSize s n
      let s := setRing s n { getRing s n with held := v }
      let ring := getRing s n
      let new := ringAhead size (bits v 23 16) (bits v 15 0) ring.consumed
      let s := if !sq then s
        else if size < new then ringStop s n 1
        else setRing s n { ring with announced := ring.consumed + new, ahead := false }
      let ring := getRing s n
      if !cq then s
      else match cqConsumed size (bits v 55 48) (bits v 47 32) ring.written with
        | none => ringStop s n 2
        | some took => setRing s n { ring with taken := max ring.taken took }

/-! ### Fetching (R355 to R357) -/

/-- Reserved bits or fields of a descriptor make it unfit to execute (R357, R359, Tables 13-4 to 13-6). -/
def dsBad (d : BitVec 512) : Bool :=
  bitAt d 7 || decide (bits d 31 16 ≠ 0) || match dsType d with
    | 1 => decide (bits d 95 92 ≠ 0) || (decide (255 < bits d 111 96) && decide (bits d 111 96 ≠ 0xFFFF)) || decide (bits d 127 113 ≠ 0)
        || decide (bits d 511 320 ≠ 0) || decide (bits d 263 256 ≠ 0) || decide (bits d 319 308 ≠ 0)
    | 2 => copyBad d
    | 3 => copyBad d
    | 4 => decide (bits d 511 64 ≠ 0)
    | _ => true
where
  /-- Table 13-6. -/
  copyBad (d : BitVec 512) : Bool :=
    decide (bits d 127 64 ≠ 0) || decide (bits d 133 128 ≠ 0) || decide (bits d 191 184 ≠ 0) || decide (bits d 197 192 ≠ 0) || decide (bits d 255 244 ≠ 0)
      || decide (bits d 279 256 = 0) || decide (bits d 511 280 ≠ 0)

/-- A descriptor line has been read: it is accepted, or stale, or the read failed (R355 to R357, R369). A LAUNCH is not fetched while PLACE_EN is 0: the ring stands before it (R229, R368). -/
def takeLine (s : State) (r : Nat) (line : Option (BitVec 512)) : State :=
  let ring := getRing s r
  match line with
  | none => ringStop s r 3
  | some d =>
    if dsStamp d ≠ lapStamp (ringSize s r) ring.consumed then
      (match ring.staleAt with
       | none => setRing s r { ring with staleAt := some s.now, rereads := 0 }
       | some _ =>
         if ring.rereads < 3 then setRing s r { ring with rereads := ring.rereads + 1 }
         else orfFlag (setRing s r { ring with staleAt := none, rereads := 0, ahead := true }) 1 r)
    else if dsType d = 1 ∧ !flagR s Reg.teCtrl 0 then setRing s r { ring with staleAt := none, rereads := 0, atHead := true }
    else
      let s := setRing s r { ring with
        consumed := ring.consumed + 1, staleAt := none, rereads := 0, atHead := false
        fetched := ring.fetched ++ [{ index := ring.consumed, raw := d }] }
      let s := noteProgress s 1 r
      if dsBad d then finishDesc s r ring.consumed 0x01 0 0 0 else s

/-- A ring engine may read companion memory (R350, R355, R356, R369). -/
def mayFetch (s : State) (r : Nat) : Bool :=
  let ring := getRing s r
  flagR s Reg.orfCtrl 0 && ringOn s r && decide (ring.cause = 0) && decide (0 < ringNew ring)
    && decide (ringOut ring < ringSize s r) && !ring.ahead && !ring.holding

/-- The companion address of the slot of a count in a ring's submission ring (R350, R352). -/
def sqSlot (s : State) (r count : Nat) : Nat := fieldR s (Reg.orfSqBase r) 55 0 + 64 * (count % ringSize s r)
/-- The companion address of the slot of a count in a ring's completion ring (R350, R352). -/
def cqSlot (s : State) (r count : Nat) : Nat := fieldR s (Reg.orfCqBase r) 55 0 + 32 * (count % ringSize s r)
/-- The line of the next descriptor is read through the proxy and taken (R349), once the proxy may ask for it (R310). -/
def fetchLine (s : State) (r : Nat) (line : Option (BitVec 512)) : State :=
  match proxyRead s (sqSlot s r (getRing s r).consumed) line with
  | (t, some got) => takeLine t r got
  | (_, none) => s

/-- The next descriptor is fetched where the completion ring has room (R355). -/
def execDescriptorFetch (r : RingId) (line : Option (BitVec 512)) (s : State) : Res :=
  clocked s fun s =>
    if mayFetch s r.val && (getRing s r.val).staleAt.isNone && (orfinUp s || line.isNone) then fetchLine s r.val line else s

/-- A stale descriptor is read again; re-read `k` leaves `k` × 500 ns after the first stale read returned (R356). -/
def execDescriptorReread (r : RingId) (line : Option (BitVec 512)) (s : State) : Res :=
  clocked s fun s =>
    let ring := getRing s r.val
    match ring.staleAt with
    | some t => if mayFetch s r.val && (orfinUp s || line.isNone)
        then fetchLine (advanceTo s (t + nsT (500 * (ring.rereads + 1)))) r.val line else s
    | none => s

/-! ### Execution (R358 to R362) -/

/-- The descriptor of a type whose turn it is to start; a fenced one waits (R358). -/
def turnOf (s : State) (r ty : Nat) : Option Desc :=
  let ring := getRing s r
  match nextDesc ring with
  | some d => if flagR s Reg.orfCtrl 0 && decide (dsType d.raw = ty) && mayStart ring d then some d else none
  | none => none
/-- A descriptor has started. -/
def startDesc (s : State) (r index : Nat) : State :=
  let ring := getRing s r
  setRing s r { ring with
    holding := false
    fetched := ring.fetched.map fun d => if d.index = index then { d with started := true } else d }

/-- A NOP yields a completion (R358). -/
def execDescriptorNop (r : RingId) (s : State) : Res :=
  clocked s fun s => match turnOf s r.val 4 with
    | some d => finishDesc (startDesc s r.val d.index) r.val d.index 0 0 0 0
    | none => s

/-- The home engine of a launch: the engine named, or for ANY that of the partition with the fewest queued launches; none where R227 refuses it. -/
def launchHome (s : State) (p : PartId) (target : Nat) : Option TeId :=
  let e := getPart s p
  if h : target < 256 then
    let te : TeId := ⟨target, h⟩
    if !ptHas e target then none
    else if ptPolicy e = 0 ∧ ((getTe s te).svc ≠ .inService ∨ patrolFailed s te) then none
    else some te
  else if ptPolicy e = 0 then none
  else (allTes.filter fun te => ptHas e te.val).foldl (fun best te => match best with
    | none => some te
    | some b => if (getTe s te).queue.length < (getTe s b).queue.length then some te else some b) none

/-- The launch of a descriptor. -/
def launchOf (s : State) (r : RingId) (d : Desc) (p : PartId) (home : TeId) : Launch where
  job := d.raw.extractLsb' 64 16
  cid := d.raw.extractLsb' 80 12
  header := d.raw.extractLsb' 128 64
  args := d.raw.extractLsb' 192 64
  seg := bits d.raw 319 256
  priority := bits d.raw 112 112
  affinity := decide (ptPolicy (getPart s p) = 0)
  any := decide (bits d.raw 111 96 = 0xFFFF)
  part := p
  home := home
  ring := r
  index := d.index
  tag := d.raw.extractLsb' 32 32
  age := s.now / 30

/-- A ring holds at its launch. -/
def holdRing (s : State) (n : Nat) : State := noteHeld (setRing s n { getRing s n with holding := true })
/-- A launch completes without having been queued. -/
def finishAtOnce (s : State) (n : Nat) (d : Desc) (status detail : Nat) : State :=
  noteHeld (finishDesc (startDesc s n d.index) n d.index status detail 0 0)
/-- A LAUNCH is checked and queued at its home engine; the ring holds while placement is off or that queue is full (R227, R229, R231, R359, R368), and waits while a Seam link to that engine's die is not up (R18). -/
def execLaunch (r : RingId) (s : State) : Res :=
  clocked s fun s => match turnOf s r.val 1 with
    | none => s
    | some d =>
      let n := r.val
      let job : W16 := d.raw.extractLsb' 64 16
      if !flagR s Reg.teCtrl 0 then holdRing s n
      else if job.toNat ≠ fieldR s (Reg.orfRingCfg n) 31 16 then finishAtOnce s n d 0x03 0
      else match partOf s job with
        | none => finishAtOnce s n d 0x02 0
        | some p => match launchHome s p (bits d.raw 111 96) with
          | none => finishAtOnce s n d 0x02 0
          | some te =>
            let l := launchOf s r d p te
            if !routeUp s 4 (dieOf te).val then s
            else match if headerHeld s te l then none else fitsNever s te l with
            | some cls => autoAbort (finishAtOnce (unfitRecord s te l cls) n d 0x05 cls) job cls
            | none =>
              let t := getTe s te
              if 16 ≤ t.queue.length then holdRing s n
              else noteHeld (startDesc (setTe s te { t with queue := t.queue ++ [l] }) n d.index)

/-- CADDR. -/
def cpFrom (d : BitVec 512) : Nat := bits d 183 128
/-- PADDR. -/
def cpTo (d : BitVec 512) : Nat := bits d 243 192
/-- LINES. -/
def cpLines (d : BitVec 512) : Nat := bits d 279 256
/-- The package range of a copy lies in the ring's window (R361). -/
def copyInWindow (s : State) (r : Nat) (d : BitVec 512) : Bool :=
  let lo := fieldR s (Reg.orfWin r) 23 0 * 2 ^ 28
  decide (lo ≤ cpTo d) && decide (cpTo d + 64 * cpLines d ≤ lo + fieldR s (Reg.orfWin r) 55 32 * 2 ^ 28)
/-- The record of a copy that ends early (R259, R362). -/
def copyRecord (s : State) (r : Nat) (agent : Nat) (b : Bad) : State :=
  place s { cls := b.cls, action := 3, quar := b.quar, cause := b.cause, die := 4, job := BitVec.ofNat 16 (fieldR s (Reg.orfRingCfg r) 31 16)
            agent := agent, addr := b.addr, d0 := b.d0, d1 := b.d1 }
/-- A request that companion memory answers with Fail. -/
def companionBad (caddr : Nat) : Bad := { cls := 0x0F, cause := 0x01, addr := BitVec.ofNat 64 caddr }

/-- Companion lines are read through the proxy and written to package memory until one fails: what failed, and whose request it was. The companion answers the Peeks with the lines given, and with Fail after them. -/
def copyInFrom : Nat → Nat → Nat → List Line → State → State × Option (Nat × Bad)
  | 0, _, _, _, s => (s, none)
  | n + 1, caddr, pa, lines, s =>
    match proxyRead s caddr lines.head? with
    | (s, none) => (s, some (84, heldBad (pa / 64)))
    | (s, some none) => (s, some (84, companionBad caddr))
    | (s, some (some v)) =>
      if !lineOk s (pa / 64) then (s, some (86, addrBad pa))
      else match access s (pa / 64) { ask := .putLine, agent := 86, data := v } with
        | (s, .inl b) => (s, some (86, b))
        | (s, .inr _) => copyInFrom n (caddr + 64) (pa + 64) lines.tail s
/-- Package lines are read and leave as BulkWrites until one fails; a copy of the line in the proxy goes with them (R315). -/
def copyOutFrom : Nat → Nat → Nat → State → State × Option (Nat × Bad)
  | 0, _, _, s => (s, none)
  | n + 1, caddr, pa, s =>
    if !lineOk s (pa / 64) then (s, some (86, addrBad pa))
    else match peekLine s 86 .p1 (pa / 64) with
      | (s, .inl b) => (s, some (86, b))
      | (s, .inr v) =>
        let s := orfSend (proxyDrop s (caddr / 64)) (.bulkWrite caddr v)
        copyOutFrom n (caddr + 64) (pa + 64) { s with orf := { s.orf with bulkSent := s.orf.bulkSent + 1 } }

/-- A copy runs, and its completion is due (R361, R362); where a Seam link or a switch-over holds one of its lines, or the proxy is writing one back, it has not run yet. -/
def runCopy (s0 : State) (r : Nat) (d : Desc) (go : State → State × Option (Nat × Bad)) : State :=
  let s := startDesc s0 r d.index
  if !copyInWindow s r d.raw then finishDesc s r d.index 0x04 0 0 0
  else match go s with
    | (s, none) => finishDesc s r d.index 0x00 0 0 0
    | (s, some (agent, b)) => if b.held then s0 else finishDesc (copyRecord s r agent b) r d.index 0x07 b.cls 0 0

/-- COPY_IN; the companion answers with the lines given, and with Fail after them (R362). -/
def execCopyIn (r : RingId) (lines : List Line) (s : State) : Res :=
  clocked s fun s => match turnOf s r.val 2 with
    | some d => if orfinUp s then runCopy s r.val d (copyInFrom (cpLines d.raw) (cpFrom d.raw) (cpTo d.raw) lines) else s
    | none => s
/-- COPY_OUT (R362). -/
def execCopyOut (r : RingId) (s : State) : Res :=
  clocked s fun s => match turnOf s r.val 3 with
    | some d => if orfinUp s then runCopy s r.val d (copyOutFrom (cpLines d.raw) (cpFrom d.raw) (cpTo d.raw)) else s
    | none => s

/-! ### Completions and bulk order (R363 to R369) -/

/-- A completion entry (Table 13-7). -/
def completionEntry (s : State) (size k : Nat) (d : Desc) : BitVec 256 :=
  BitVec.ofNat 256 (lapStamp size k + d.status * 2 ^ 8 + d.index % size * 2 ^ 16 + dsTag d.raw * 2 ^ 32 + d.te * 2 ^ 64 + d.slot * 2 ^ 72
    + (if d.status = 5 ∨ d.status = 7 then d.detail else 0) * 2 ^ 80 + s.stc.count.toNat * 2 ^ 96)

/-- The completion writer writes the completion of a ring's oldest descriptor that is done, with its Notify (R363, R365, R347); a failed write stops the ring, which then drops its completions (R369). It goes through the proxy: a copy that the proxy has of the line is given up first, and the write waits for EvictAck (R310, R315). -/
def execCompletionWrite (r : RingId) (ok : Bool) (s : State) : Res :=
  clocked s fun s =>
    let n := r.val
    let ring := getRing s n
    match ring.fetched.find? fun d => d.done && (!dsOrder d.raw || d.flushed) with
    | none => s
    | some d =>
      let left := ring.fetched.filter fun e => decide (e.index ≠ d.index)
      if ring.cause = 4 then setRing s n { ring with fetched := left }
      else if !ok then ringStop (setRing s n { ring with fetched := left }) n 4
      else if !orfinUp s ∨ (proxyBuf s (cqSlot s n ring.written / 64)).isSome then s
      else if (getProxy s (cqSlot s n ring.written / 64)).st ≠ .i then proxyEvict s (cqSlot s n ring.written / 64)
      else
        let s := orfSend s (.completion n (cqSlot s n ring.written) (completionEntry s (ringSize s n) ring.written d))
        let s := setRing s n { ring with fetched := left, written := ring.written + 1 }
        let s := noteProgress (noteProgress s 1 n) 7 0
        if dsNotify d.raw && flagR s (Reg.orfRingCfg n) 6 then
          orfSend s (.notify n (BitVec.ofNat 16 (fieldR s (Reg.orfRingCfg n) 47 32)))
        else s

/-- The value of BULK_SYNC (Table 13-9). -/
def bulkSyncValue (s : State) : W64 :=
  BitVec.ofNat 64 (s.orf.bulkVisible % 2 ^ 48 + (if flagR s Reg.orfStatus 4 then 2 ^ 63 else 0))

/-- A read of BULK_SYNC waits for a BulkFlush sent after it (R366). A hart that reads it waits as well. -/
def syncRead (s : State) (hart off : Option Nat) : State :=
  let s := match hart with
    | some h => { s with harts := smMod {} s.harts h fun v => { v with waiting := true } }
    | none => s
  sendFlush { s with orf := { s.orf with syncWaits := s.orf.syncWaits ++ [⟨hart, off, false⟩] } }
/-- A read of BULK_SYNC that waited is answered: to the companion by an IoAck, to a hart with its result. -/
def syncAnswer (value : W64) (s : State) (w : SyncWait) : State :=
  match w.hart, w.off with
  | some h, _ => { s with harts := smMod {} s.harts h fun v => { v with waiting := false, result := value } }
  | none, some off => orfSend s (.ioAck off value false)
  | none, none => { s with orf := { s.orf with syncValue := value } }
/-- A read of BULK_SYNC through register space (R366). -/
def execBulkSyncRead (s : State) : Res := clocked s fun s => syncRead s none none

/-- BulkFlushResp arrives: what the flush answers proceeds, and what waits still is flushed next (R365, R366). -/
def execBulkFlushResp (s : State) : Res :=
  clocked s fun s => match s.orf.flushSent with
    | none => s
    | some n =>
      if !orfinUp s then s
      else
        let s := heard s 23
        let s := { s with orf := { s.orf with
          flushSent := none
          bulkVisible := n
          rings := s.orf.rings.map fun r : Nat × Ring =>
            (r.1, { r.2 with fetched := r.2.fetched.map fun d : Desc => if d.asked then { d with flushed := true } else d }) } }
        let due := s.orf.syncWaits.filter (·.asked)
        let s := { s with orf := { s.orf with syncWaits := s.orf.syncWaits.filter fun w => !w.asked } }
        sendFlush (due.foldl (syncAnswer (bulkSyncValue s)) s)

end Sys2Proof.Machine
end

