-- ==== Sys2Proof/Machine/RouteInstr.lean ====
section
/-! DEFINITION. ROUTE with its four kinds of descriptor, and what the dispatch engines and session units do with them (R156, R174 to R176, R192, R194 to R212). -/

namespace Sys2Proof.Machine

/-! ### DISPATCH -/

/-- The next deadline of an engine: the boundary that ends the present stitch, less GUARD (R208). -/
def deadlineOf (s : State) (d : CDie) : Nat :=
  s.stc.last + nsT (10 * s.stc.period) - nsT (10 * fieldR s (Reg.dspCtrl d) 31 16)

/-- A route receives a tag and its experts are selected; past its deadline it sends nothing (R199, R204, R208). -/
def openRoute (s : State) (d : CDie) (r : Route) : State × Option Issued :=
  match selectAll r.ctx r.desc r.seg (List.range (rdRows r.desc)) s with
  | (s, .bad b) => (s, some (.fail s b))
  | (s, .route cause row e) => (s, some (badRoute s cause r.at_ row e))
  | (s, .ok es ws hs) =>
    let r' := { r with tag := some (freeTag s d), experts := es, weights := ws, homes := hs }
    let s := modRoute s d r fun _ => r'
    let s := modCtx s r.ctx fun x => { x with ops := x.ops.map fun o =>
      if o.number = r.opNumber then { o with reads := (descReads r.desc).drop 1 } else o }
    (if r.deadline ≤ s.now then closeRoute s d r' else s, none)

/-- DISPATCH at issue (R197, R204). -/
def runDispatch (s : State) (c : CtxId) (ctx : Ctx) (desc : RDesc) (at_ : Nat) (tally : Option W32) : Issued :=
  let d := dieOf c.te
  let n := rdRows desc * rdK desc
  let r : Route := ⟨c, ctx.launch.job, ctx.launch.cid, ctx.launch.seg, desc, tally, ctx.opCount, s.stc.count.toNat,
    deadlineOf s d, none, [], [], [], List.replicate n .unsent, none, false, at_⟩
  let op : Op := ⟨.route, tally, 1, descReads desc, descWrites desc, ctx.launch.seg, ctx.opCount, s.now, true, false⟩
  let s1 := addOp (setRoutes s d (getRoutes s d ++ [r])) c op
  if 1024 ≤ taggedCount s d then .done s1
  else match openRoute s1 d r with
    | (s2, none) => .done s2
    | (_, some (.fail _ b)) => .fail s b
    | (_, some (.record _ x)) => .record s x
    | (s2, some _) => .done s2

/-! ### RETURN (R207) -/

/-- An inbox-table entry of an engine (Table 7-9). A base that is not a multiple of 64 is used as it is (DESIGN CHOICE, log entry 157). -/
def inboxEntry (s : State) (d : CDie) (slot : Nat) : State × (Bad ⊕ BitVec 128) :=
  match sysRead s d .p1 ((getR s (Reg.dspInboxBase d)).toNat + 16 * slot) 16 with
  | (s, .inl b) => (s, .inl b)
  | (s, .inr bs) => (s, .inr (BitVec.ofNat 128 (leNat bs)))
/-- CLUSTER, in the package. -/
def inboxCluster (d : CDie) (e : BitVec 128) : Fin 64 := ⟨16 * d.val + bits e 3 0 % 16, by have := d.isLt; omega⟩
/-- The first byte of a bank. -/
def inboxBank (e : BitVec 128) (bank : Nat) : Nat := 4096 * (if bank = 0 then bits e 18 8 else bits e 34 24)
/-- ROWS. -/
def inboxRows (e : BitVec 128) : Nat := bits e 75 64
/-- ROW_LINES. -/
def inboxLines (e : BitVec 128) : Nat := bits e 89 80
/-- The first byte of a row. -/
def inboxRow (e : BitVec 128) (bank i : Nat) : Nat := inboxBank e bank + i * (1 + inboxLines e) * 64

/-- The headers of consecutive inbox rows. -/
def inboxHeads (s : State) (d : CDie) (e : BitVec 128) (bank : Nat) : List Nat → State × (Bad ⊕ List (BitVec 512))
  | [] => (s, .inr [])
  | i :: rest =>
    match csLoad s (inboxCluster d e) (inboxRow e bank i) 64 with
    | (s, .inl b) => (s, .inl b)
    | (s, .inr bs) =>
      match inboxHeads s d e bank rest with
      | (s, .inr t) => (s, .inr (BitVec.ofNat 512 (leNat bs) :: t))
      | r => r

/-- A packet header (Table 7-8). -/
def mkPacket (kind srcNode srcDie dstNode dstDie : Nat) (job : Nat) (stitch layer expert slot status tag row rank fmt h lines : Nat) (weight : W32) : BitVec 512 :=
  BitVec.ofNat 512 (kind + srcNode * 2 ^ 8 + srcDie * 2 ^ 24 + dstNode * 2 ^ 32 + dstDie * 2 ^ 48 + job * 2 ^ 64 + stitch * 2 ^ 80
    + layer * 2 ^ 128 + expert * 2 ^ 136 + slot * 2 ^ 152 + status * 2 ^ 164 + tag * 2 ^ 168 + row * 2 ^ 184 + rank * 2 ^ 192
    + fmt * 2 ^ 200 + h * 2 ^ 208 + lines * 2 ^ 224 + weight.toNat * 2 ^ 256)

/-- The header of the RESULT that answers a TOKEN's header. -/
def resultHead (s : State) (d : CDie) (t : BitVec 512) (status fmt lines : Nat) : BitVec 512 :=
  mkPacket 2 (myNode s) d.val (bits t 23 8) (bits t 25 24) (bits t 79 64) (bits t 127 80) (bits t 135 128) (bits t 147 136) 0 status
    (bits t 183 168) (bits t 191 184) (bits t 195 192) fmt (bits t 222 208) lines (BitVec.ofNat 32 (bits t 287 256))

/-- A RESULT goes to where its TOKEN came from; one that cannot be sent is discarded and counted (R207). -/
def sendResult (s : State) (d : CDie) (t : BitVec 512) (payload : List Byte) (owner : Option (CtxId × Nat)) : State :=
  let node := bits t 23 8
  if unreachable s node then countR s Reg.xfEvt 31 16 1
  else sendDisp s d node (bits t 25 24) (BitVec.ofNat 16 (bits t 79 64)) payload owner

/-- The results of some inbox rows are sent in turn; none where Seam's buffer takes not all of them (R207, R373). -/
def sendResults (s : State) (d : CDie) (owner : Option (CtxId × Nat)) : List (BitVec 512 × List Byte) → Option State
  | [] => some s
  | (t, payload) :: rest =>
    if unreachable s (bits t 23 8) || dispRoom s d (bits t 23 8) (bits t 25 24) (BitVec.ofNat 16 (bits t 79 64)) payload
    then sendResults (sendResult s d t payload owner) d owner rest else none
/-- Some packet that XF has not accepted belongs to an operation: in the queue of a port, or on its way to that port (R212, R384). -/
def ownsQueued (s : State) (c : CtxId) (number : Nat) : Bool :=
  s.fab.links.any (fun l => l.2.sendQ.any fun q => decide (q.owner = some (c, number)))
    || s.fab.seam.any fun m => match m.queued with
      | some (_, q) => decide (q.owner = some (c, number))
      | none => false

/-- RETURN sends results for inbox rows back to their sources (R207). -/
def runReturn (s : State) (c : CtxId) (ctx : Ctx) (desc : RDesc) (at_ : Nat) (tally : Option W32) : Issued :=
  let d := dieOf c.te
  let bank := bits desc 28 28
  let first := bits desc 41 30
  let rows := rdRows desc
  let f : Fmt := if bits desc 164 160 = 0 then .fp32 else .bf16
  match inboxEntry s d (bits desc 27 16) with
  | (s, .inl b) => .fail s b
  | (s, .inr e) =>
    if inboxRows e < first + rows then badRoute s 0x01 at_ 0 0
    else match inboxHeads s d e bank ((List.range rows).map (first + ·)) with
    | (s, .inl b) => .fail s b
    | (s, .inr hs) =>
      let res := bits desc 148 128
      let rl (t : BitVec 512) := resLines f (bits t 222 208)
      let spans := hs.zipIdx.map fun t => (res + t.2 * rl t.1 * 64, res + (t.2 + 1) * rl t.1 * 64)
      match outOfShare s c spans with
      | some a => tsBounds s a
      | none =>
        if mustWait s c spans [] then .wait s 2
        else match readRuns s c 0 .p1 .tile (spans.map fun r => (r.1, r.2 - r.1)) with
        | (s, .inl b) => .fail s b
        | (s, .inr bodies) =>
          let number := ctx.opCount
          let out := (hs.zip bodies).map fun p => (p.1, bytesOf 64 (resultHead s d p.1 0 (bits desc 164 160) (rl p.1)).toNat ++ p.2)
          match sendResults s d (some (c, number)) out with
          | none => .wait s 2
          | some s =>
          let s := addOp s c ⟨.route, tally, 1, [], [], 0, number, s.now, false, false⟩
          .done (if ownsQueued s c number then s else performOp s c number)

/-! ### VERIFY and COMMIT (R174 to R176, R192, R194, R195) -/

/-- DRAFT and TARGET of a node (Table 6-10). -/
def recordDraft (rec : List Byte) (i : Nat) : Nat := leNat ((rec.drop (8 * i)).take 3)
/-- TARGET of a node. -/
def recordTarget (rec : List Byte) (i : Nat) : Nat := leNat ((rec.drop (8 * i + 4)).take 3)
/-- The accepted path from node `a` on (R175). -/
def acceptPath (e : BitVec 2048) (rec : List Byte) : Nat → Nat → List Nat
  | 0, a => [a]
  | f + 1, a =>
    match ((List.range 63).map (· + 1)).find? fun c =>
      decide (c < treeNodes e) && decide (treeParent e c = a) && decide (recordDraft rec c = recordTarget rec a) with
    | some c => a :: acceptPath e rec f c
    | none => [a]
/-- The acceptance result (Table 6-11). -/
def acceptResult (path : List Nat) (rec : List Byte) : List Byte :=
  let last := path.getLastD 0
  bytesOf 8 (path.length + last * 2 ^ 8 + recordTarget rec last * 2 ^ 16)
    ++ (List.range 64).map (fun k => BitVec.ofNat 8 (path.getD k 0xFF)) ++ List.replicate 56 0

/-- A refused VERIFY or COMMIT: its record, an event where its context has stopped already (R443), its status word, and its tally; the context goes on (R192). -/
def refuseSession (s : State) (c : CtxId) (number at_ stat id : Nat) (d1 : W64) (cause : Nat) : State :=
  match getCtx s c with
  | none => s
  | some x =>
    let s := place s (ctxRec c x.launch { cls := 0x0B, action := if x.stop.isSome then 0 else 3, cause := cause, addr := BitVec.ofNat 64 at_, d0 := BitVec.ofNat 64 id, d1 := d1 })
    performOp (tsWrite s c.te stat (bytesOf 8 cause)) c number

/-- VERIFY: the session unit performs acceptance and writes the result (R175, R176). -/
def runVerify (s : State) (c : CtxId) (ctx : Ctx) (desc : RDesc) (at_ : Nat) (tally : Option W32) : Issued :=
  match tsLoad s c.te (bits desc 148 128) 512 with
  | (s, .inl b) => .fail s b
  | (s, .inr rec) =>
    let id := bits desc 47 24
    let stat := bits desc 212 192
    let e := getSes s (id % 65536)
    let s := addOp (noteSession s (id % 65536)) c ⟨.route, tally, 1, [], [], 0, ctx.opCount, s.now, false, false⟩
    let cause := match sesCause s id ctx.launch.job with
      | some k => some k
      | none => if treeValid e then none else some 0x09
    match cause with
    | some k => .done (refuseSession s c ctx.opCount at_ stat id 0 k)
    | none =>
      let s := tsWrite s c.te (bits desc 180 160) (acceptResult (acceptPath e rec 64 0) rec)
      .done (performOp (tsWrite s c.te stat (bytesOf 8 0)) c ctx.opCount)

/-- The entry that a COMMIT leaves (R194, R195). -/
def committed (e : BitVec 2048) (accepted root : Nat) (stitch : BitVec 48) : BitVec 2048 :=
  let e := setBits e 63 32 (sesLen e + accepted)
  let e := setBits e 87 64 root
  let e := setBits e 1031 1024 0
  let e := setBits e 495 448 stitch.toNat
  if sesMirror e then setBits e 671 640 (bits e 671 640 + 1) else e

/-- COMMIT advances LEN and ROOT and clears the tree; a mirrored session then waits for its partner (R194, R195). Where the first copy has failed, it completes with cause 0x0B at once (R395; DESIGN CHOICE, log entry 48), and its copy is still sent. -/
def runCommit (s : State) (c : CtxId) (ctx : Ctx) (desc : RDesc) (at_ : Nat) (tally : Option W32) : Issued :=
  let id := bits desc 47 24
  let stat := bits desc 212 192
  let e := getSes s (id % 65536)
  let expect := bits desc 159 128
  let s := addOp (noteSession s (id % 65536)) c ⟨.route, tally, 1, [], [(stat, stat + 8)], 0, ctx.opCount, s.now, false, false⟩
  let cause := match sesCause s id ctx.launch.job with
    | some k => some k
    | none => if sesLen e = expect then none else some 0x0A
  match cause with
  | some k => .done (refuseSession s c ctx.opCount at_ stat id (BitVec.ofNat 64 expect) k)
  | none =>
    let e := committed e (bits desc 70 64) (bits desc 95 72) s.stc.count
    let s := setSes s id e
    if !sesMirror e then .done (performOp (tsWrite s c.te stat (bytesOf 8 0)) c ctx.opCount)
    else
      let first := s.mir.reqs.all fun q => decide (q.session ≠ id)
      let s := if first then sendMent s id e else s
      let late := smGet false s.mir.failedInit id
      let w : CommitWait := { session := id, seq := BitVec.ofNat 32 (bits e 671 640), ctx := c, opNumber := ctx.opCount, stat := stat, boundaries := 0
                              entry := e, sent := first, since := s.now, at_ := at_, expect := BitVec.ofNat 32 expect, failed := late }
      let s := if late && first then s else { s with mir := { s.mir with commits := s.mir.commits ++ [w] } }
      if late then
        let s := { s with mir := { s.mir with failedInit := smSet false s.mir.failedInit id false } }
        .done (refuseSession s c ctx.opCount at_ stat id (BitVec.ofNat 64 expect) 0x0B)
      else .done s

/-! ### ROUTE -/

/-- ROUTE at issue: its descriptor is read, checked and handed on by its KIND (R156, R196). -/
def runRoute (s : State) (c : CtxId) (ctx : Ctx) (w : W64) : Issued :=
  let ra := (sreg s c (bits w 13 9)).toNat
  let rh := sreg s c (bits w 18 14)
  let asks := decide (bits w 18 14 ≠ 0)
  match outOfShare s c [(ra, ra + 64)] with
  | some a => tsBounds s a
  | none =>
    if ra % 64 ≠ 0 then misaligned s ra
    else if mustWait s c [(ra, ra + 64)] [] then .wait s 2
    else match tsLoad s c.te ra 64 with
    | (s, .inl b) => failOrTally s b asks rh
    | (s, .inr bs) =>
      let desc : RDesc := BitVec.ofNat 512 (leNat bs)
      match outOfShare s c (descReads desc ++ descWrites desc) with
      | some a => tsBounds s a
      | none =>
        let stage := (rdStage desc, rdRows desc * rdK desc * rdRl desc * 64)
        if rdKind desc = 1 ∧ !inWindow s ctx.launch.job stage.1 stage.2 then .stop s 0x04 0x04 (BitVec.ofNat 64 stage.1) 0
        else if asks && badHandle rh then badTally s rh
        else if !descOk desc then badRoute s 0x01 ra 0 0
        else if !(flagR s (Reg.dspCtrl (dieOf c.te)) 0) then badRoute s 0x04 ra 0 0
        else if mustWait s c (descReads desc) (descWrites desc) then .wait s 2
        else
          let tally := if asks then some (rh.truncate 32) else none
          match rdKind desc with
          | 1 => runDispatch s c ctx desc ra tally
          | 2 => runReturn s c ctx desc ra tally
          | 3 => runVerify s c ctx desc ra tally
          | _ => runCommit s c ctx desc ra tally

/-- ROUTE as an instruction. -/
def issueRoute (c : CtxId) (w x : W64) (s : State) : State :=
  issue s c w x 0x74 false { writes := true } (fun _ => [rsv w 63 19]) fun s ctx => runRoute s c ctx w

/-- ROUTE with a DISPATCH descriptor selects experts and opens a route (R197). -/
def execDispatch (c : CtxId) (w x : W64) (s : State) : Res := clocked s (issueRoute c w x)
/-- ROUTE with a RETURN descriptor sends results back (R207). -/
def execReturnRoute (c : CtxId) (w x : W64) (s : State) : Res := clocked s (issueRoute c w x)
/-- ROUTE with a VERIFY descriptor has acceptance performed (R175). -/
def execVerify (c : CtxId) (w x : W64) (s : State) : Res := clocked s (issueRoute c w x)
/-- ROUTE with a COMMIT descriptor advances LEN and ROOT (R194). -/
def execCommit (c : CtxId) (w x : W64) (s : State) : Res := clocked s (issueRoute c w x)

/-- A route that never had a tag is combined, with every pair as zero (R209, R210). -/
def finishUntagged (s : State) (d : CDie) (r : Route) : State :=
  finishRoute s d { r with pairs := r.pairs.map fun _ => .zero, weights := [] }
/-- A queued DISPATCH receives a free tag, and its experts are selected (R204); one that an abort has closed is combined instead (R209, R393). -/
def execRouteTagAssign (d : CDie) (s : State) : Res :=
  onDie s d.val fun s =>
    match (getRoutes s d).find? fun r => r.tag.isNone with
    | none => s
    | some r =>
      if r.closedAt.isSome then finishUntagged s d r
      else if 1024 ≤ taggedCount s d then s
      else match openRoute s d r with
        | (s, none) => s
        | (_, some (.fail u b)) => if b.held then s else dropOp (stopBad (dropRoute u d r) r.ctx b) r.ctx r.opNumber
        | (_, some (.record s x)) => dropOp (stopRec (dropRoute s d r) r.ctx x) r.ctx r.opNumber
        | (s, some _) => s

/-- The home that a token goes to: its entry's part, and whether it is the other of the two (R202, R210); none where it counts as zero. -/
def chooseHome (s : State) (d : CDie) (h : BitVec 128) (row : Nat) : Option (Nat × Nat × Nat × Bool) :=
  let prim := (bits h 15 0, bits h 17 16, bits h 35 24)
  let rep := (bits h 79 64, bits h 81 80, bits h 99 88)
  let toRep := bitAt h 41 && decide (bits h 43 42 = 1) && decide (row % 2 = 1)
  let a := if toRep then rep else prim
  let b := if toRep then prim else rep
  if !nodeAbsent s d a.1 then some (a.1, a.2.1, a.2.2, false)
  else if bitAt h 41 && !nodeAbsent s d b.1 then some (b.1, b.2.1, b.2.2, true)
  else none

/-- The next TOKEN of a route is sent to its chosen home, or its pair counts as zero (R202, R203, R210). -/
def execTokenSend (d : CDie) (tag : Fin 1024) (s : State) : Res :=
  onDie s d.val fun s =>
    match (getRoutes s d).find? fun r => decide (r.tag = some tag.val) && r.closedAt.isNone with
    | none => s
    | some r =>
      if r.deadline ≤ s.now then s
      else match r.pairs.findIdx? fun p => decide (p = .unsent) with
      | none => s
      | some i =>
        let desc := r.desc
        let k := rdK desc
        let row := i / k
        let h := r.homes.getD i 0
        match chooseHome s d h row with
        | none => resolvePair (dspCount s d .absent 1) d r i .zero
        | some (node, die, slot, other) =>
          let f := rdAfmt desc
          match tsLoad s r.ctx.te (bits desc 180 160 + row * rdAl desc * 64) (rdAl desc * 64) with
          | (s, .inl b) => stopBad (resolvePair (dspCount s d .absent 0) d r i .zero) r.ctx b
          | (s, .inr bs) =>
            let used := f.bytes (rdH desc) + (if f.isMx then ceilDiv' (rdH desc) 32 else 0)
            let body := bs.take used ++ List.replicate (rdAl desc * 64 - used) 0
            let hd := mkPacket 1 (myNode s) d.val node die r.job.toNat r.stitch (rdLayer desc) (r.experts.getD i 0) slot 0 tag.val row (i % k)
              (bits desc 284 280) (rdH desc) (rdAl desc) (r.weights.getD i 0)
            let packet := bytesOf 64 hd.toNat ++ body
            if !dispRoom s d node die r.job packet then s
            else
              let s := if other then dspCount s d .replica 1 else s
              let s := sendDisp s d node die r.job packet none
              modRoute (noteProgress s 4 d.val) d r fun q => { q with pairs := q.pairs.set i .sent }

/-- The inner header of a packet. -/
def innerHead (p : XfPacket) : BitVec 512 := BitVec.ofNat 512 (leNat (p.payload.take 64))

/-- A DISP packet reaches a dispatch engine: across Seam from a C-die of the package, or by an XF port under R390 and from that port's die. Seam holds it where a link of its route is not up: nothing arrives (R18; DESIGN CHOICE, log entry 130). -/
def acceptDisp (s : State) (d : CDie) (port : Option XfPort) (p : XfPacket) : State × Bool :=
  let source := match port with
    | none => bits (innerHead p) 25 24
    | some q => q.val / 4
  if (seamStop s source d.val).isSome then (s, false)
  else match port with
  | none => (s, true)
  | some q => acceptXf s q p (some (bits (innerHead p) 79 64)) true

/-- The first refusal under an inbox base is recorded (R205). -/
def inboxRecord (s : State) (d : CDie) (b : Bad) : State :=
  if smGet false s.dsp.inboxTold d.val then s
  else
    let s := { s with dsp := { s.dsp with inboxTold := smSet false s.dsp.inboxTold d.val true } }
    place s { cls := b.cls, action := 3, cause := b.cause, quar := b.quar, die := d.val, agent := 80 + d.val, addr := b.addr, d0 := b.d0, d1 := b.d1 }

/-- A TOKEN is refused at once by a RESULT without payload (R206). -/
def refuseToken (s : State) (d : CDie) (t : BitVec 512) (status : Nat) : State :=
  let s := if status = 1 then dspCount s d .homeFull 1 else s
  sendResult s d t (bytesOf 64 (resultHead s d t status (bits t 204 200) 0).toNat) none

/-- The refusal that an inbox entry gives a TOKEN, in the order of R206. -/
def tokenStatus (s : State) (d : CDie) (t : BitVec 512) (e : BitVec 128) (bank fillKey : Nat) : Nat :=
  let job := BitVec.ofNat 16 (bits t 79 64)
  let aborted := s.fab.slots.any fun k => decide (k.2.job = job) && k.2.aborted
  if !(flagR s (Reg.dspCtrl d) 0) ∨ inboxRows e = 0 ∨ inboxLines e < bits t 234 224
      ∨ 8388608 < inboxBank e bank + inboxRows e * (1 + inboxLines e) * 64 then 2
  else if bits e 63 48 ≠ job.toNat ∨ aborted then 3
  else if inboxRows e ≤ smGet 0 s.dsp.fill fillKey then 1
  else 0

/-- An arriving TOKEN is placed in its inbox bank, or refused or discarded (R205, R206); one whose inbox entry or tally Seam holds has not arrived yet (R18; DESIGN CHOICE, log entry 130). -/
def execTokenArrive (d : CDie) (port : Option XfPort) (p : XfPacket) (s : State) : Res :=
  onDie s d.val fun before =>
    match acceptDisp before d port p with
    | (s, false) => s
    | (s, true) =>
      let t := innerHead p
      let stitch := bits t 127 80
      let now := s.stc.count.toNat
      if stitch ≠ now ∧ stitch ≠ (now + 2 ^ 48 - 1) % 2 ^ 48 then dspCount s d .stray 1
      else
        let slot := bits t 163 152
        let bank := stitch % 2
        let key := (4096 * d.val + slot) * 2 + bank
        match inboxEntry s d slot with
        | (s, .inl b) => if b.held then before else refuseToken (inboxRecord s d b) d t 2
        | (s, .inr e) =>
          if !tallyUp s d.val (BitVec.ofNat 32 (bits e 127 96)) then before
          else match tokenStatus s d t e bank key with
          | 0 =>
            let i := smGet 0 s.dsp.fill key
            let s := csWrite s (inboxCluster d e) (inboxRow e bank i) (p.payload.take (64 * (1 + inboxLines e)))
            let s := noteProgress { s with dsp := { s.dsp with fill := smSet 0 s.dsp.fill key (i + 1) } } 4 d.val
            let h : W32 := BitVec.ofNat 32 (bits e 127 96)
            if (handleKey h).isSome then handleAdd s (some h) 1
            else if smGet false s.dsp.badTally key then s
            else
              let s := { s with dsp := { s.dsp with badTally := smSet false s.dsp.badTally key true } }
              place s { cls := 0x09, action := 3, cause := 0x03, die := d.val, d0 := BitVec.ofNat 64 h.toNat, d1 := BitVec.ofNat 64 slot }
          | status => refuseToken s d t status

/-- A RESULT fits a pair of a route that has no outcome yet (Table 7-10). -/
def resultFits (r : Route) (t : BitVec 512) : Bool :=
  let i := bits t 191 184 * rdK r.desc + bits t 195 192
  decide (bits t 127 80 = r.stitch) && decide (bits t 191 184 < rdRows r.desc) && decide (bits t 195 192 < rdK r.desc)
    && (decide (bits t 167 164 ≠ 0) || decide (bits t 234 224 = rdRl r.desc)) && ((r.pairs.getD i .zero).pending)

/-- An arriving RESULT lands in STAGE, resolves its pair as zero where it is a refusal, or is discarded (R208, R210). -/
def execResultArrive (d : CDie) (port : Option XfPort) (p : XfPacket) (s : State) : Res :=
  onDie s d.val fun s =>
    match acceptDisp s d port p with
    | (s, false) => s
    | (s, true) =>
      let t := innerHead p
      match (getRoutes s d).find? fun r => decide (r.tag = some (bits t 183 168)) with
      | none => dspCount s d .stray 1
      | some r =>
        if bits t 127 80 = r.stitch ∧ r.closedAt.isSome then dspCount s d .lateDiscard 1
        else if !resultFits r t then dspCount s d .stray 1
        else
          let i := bits t 191 184 * rdK r.desc + bits t 195 192
          if bits t 167 164 ≠ 0 then resolvePair (dspCount s d .refused 1) d r i .zero
          else
            let s := csWrite s (clusterOf r.ctx.te) (rdStage r.desc + i * rdRl r.desc * 64) ((p.payload.drop 64).take (rdRl r.desc * 64))
            resolvePair s d r i .result

/-- The one of two routes whose deadline is the earlier; the first among equals. -/
def earlierRoute : Option Route → Route → Option Route
  | some q, r => if q.deadline ≤ r.deadline then some q else some r
  | none, r => some r

/-- The earliest deadline of an engine expires, and unresolved pairs count as zero; a route that never had a tag is combined at once (R208, R210). -/
def execDispatchDeadline (d : CDie) (s : State) : Res :=
  onDie s d.val fun s =>
    let live := (getRoutes s d).filter fun r => r.closedAt.isNone
    match live.foldl earlierRoute none with
    | none => s
    | some r =>
      let s := closeRoute (advanceTo s r.deadline) d r
      if r.tag.isSome then s
      else finishUntagged s d r

/-- The combine of a closed route ends (R209, R212). -/
def execCombineDone (d : CDie) (tag : Fin 1024) (s : State) : Res :=
  onDie s d.val fun s =>
    match (getRoutes s d).find? fun r => decide (r.tag = some tag.val) with
    | none => s
    | some r =>
      match r.closedAt with
      | none => s
      | some t => finishRoute (advanceTo s (t + cycT (combineCycles r.desc))) d r

/-- No mirror acknowledgement has arrived by the first stitch boundary after the commit; it completes with cause 0x0B, its copy still to be sent where it waits behind rows, or the first copy has failed (R7, R195, R395). -/
def execMirrorAckTimeout (session : Session) (s : State) : Res :=
  clocked s fun s =>
    match s.mir.commits.find? fun w => decide (w.session = session.val) && decide (1 ≤ w.boundaries) && !w.failed with
    | some w =>
      let left := if w.sent then s.mir.commits.filter fun q => decide (q ≠ w) else s.mir.commits.map fun q => if q = w then { q with failed := true } else q
      refuseSession { s with mir := { s.mir with commits := left } } w.ctx w.opNumber w.at_ w.stat session.val (w.expect.setWidth 64) 0x0B
    | none =>
      match s.mir.initial.find? fun i => decide (i.session = session.val) && decide (1 ≤ i.boundaries) with
      | some i => { s with mir := { s.mir with
          initial := s.mir.initial.filter fun q => decide (q ≠ i), failedInit := smSet false s.mir.failedInit session.val true } }
      | none => s

end Sys2Proof.Machine
end

