-- ==== Sys2Proof/Machine/Links.lean ====
section
/-! DEFINITION. Seam, XF, Orfin and mirror-port links: flit errors, acknowledgements and replay, training, versions, SYNC and going down (R343, R344, R372, R375, R378 to R381, R388, R391, R445). -/

namespace Sys2Proof.Machine

/-- The Seam link of an end. -/
def seamAt (die l : Nat) : Option Nat := (List.range 7).find? fun k => (seamEnds k).contains (die, l)

/-- Every end of a Seam link sets a flag of SEAM_STATUS. -/
def seamFlag (s : State) (l bit : Nat) : State :=
  (seamEnds l).foldl (fun s e => raise s (Reg.seamStatus (dieAt e.1) e.2) bit) s
/-- Every end of a Seam link counts events. -/
def seamCount (s : State) (l hi lo n : Nat) : State :=
  (seamEnds l).foldl (fun s e => countR s (Reg.seamEvt (dieAt e.1) e.2) hi lo n) s
/-- The record of a link (Table 17-2): Seam class 0x36 with cause 1 or 2, others class 0x37 with cause 5 or 6. -/
def linkRecord (s : State) (l : Nat) (version : Bool) : State :=
  if l < 7 then place s { cls := 0x36, action := 3, cause := if version then 2 else 1, die := linkDie l
                          d0 := BitVec.ofNat 64 (((seamEnds l).map (·.2)).headD 0) }
  else place s { cls := 0x37, action := 3, cause := if version then 6 else 5, die := linkDie l, d0 := BitVec.ofNat 64 (l - 7) }

/-- The operation that waited for a packet to be accepted, and waits for none any longer, has ended (R212). -/
def releaseOwner (s : State) (q : Queued) : State :=
  match q.owner with
  | some o => if ownsQueued s o.1 o.2 then s else performOp s o.1 o.2
  | none => s
/-- The operations that waited for some packets to be accepted. -/
def releaseOwners (s : State) (qs : List Queued) : State := qs.foldl releaseOwner s

/-- The charge that a packet queued on a port holds: where its node's credit covers it, it has taken it (R386, R388; DESIGN CHOICE, log entry 81). -/
def holdCharge (s : State) (q : Queued) : State :=
  let n := charge q.packet.payload.length
  if (hdrClass q.packet.hdr = 0 ∨ hdrClass q.packet.hdr = 2) ∧ n ≤ creditOf s q.node then
    { s with fab := { s.fab with used := smMod 0 s.fab.used q.node (· + n) } }
  else s
/-- The packets queued on a port are discarded and counted, and the charges that they hold are not returned (R388). -/
def dropQueue (s : State) (l : Nat) : State :=
  let v := getLink s l
  let s := setLink s l { v with sendQ := [] }
  let s := if l < 7 ∨ l = 23 then s else countR s Reg.xfEvt 31 16 v.sendQ.length
  let s := if l < 23 then v.sendQ.foldl holdCharge s else s
  releaseOwners s v.sendQ

/-- A link goes down: its flag, its record, and the end of what it held (R375, R388, R445, R477). -/
def linkDown (s : State) (l : Nat) : State :=
  let v := getLink s l
  let s := setLink s l { v with
    phase := .down, nak := false, replays := 0, failedRetrains := 0, versionSent := false, versionOk := false
    readySent := false, readyGot := false, keyValid := false, keyHello := false, helloSent := false, kem := 0, portKey := 0 }
  let s := if l < 7 then seamFlag s l 16
    else if l < 23 then raise s (Reg.xfPort (l - 7)) 3
    else if l = 23 then s
    else raise (setKey s (256 + (l - 24)) {}) (Reg.mirPort (l - 24)) 19
  dropQueue (linkRecord s l false) l

/-- A link that trains: both ends will exchange versions again (R344, R375, R380). -/
def retraining (k : Link) (p : LinkPhase) : Link :=
  { k with phase := p, nak := false, replays := 0, failedRetrains := 0, versionSent := false, versionOk := false, readySent := false, readyGot := false }
/-- A link trains, from its present state. -/
def beginTraining (s : State) (l : Nat) (p : LinkPhase) : State := setLink s l (retraining (getLink s l) p)
/-- A link that is up trains again (R344, R375). -/
def retrain (s : State) (l : Nat) : State :=
  beginTraining (if l < 7 then seamCount s l 47 32 1 else s) l .retraining

/-! ### Flits that arrive, and replay (R343, R344, R372, R375, R381) -/

/-- A flit fails its CRC. -/
def badFlit (s : State) (l : Nat) : State :=
  let v := getLink s l
  if v.phase = .up then setLink s l { v with nak := true } else s
/-- BulkWrites whose flits the companion has acknowledged are not lost any more (R344). -/
def pruneBulk (s : State) : State :=
  let kept := (getLink s 23).replay.map Flit.seq
  { s with orf := { s.orf with bulkSeqs := s.orf.bulkSeqs.filter kept.contains } }
/-- An acknowledgement reaches a link. -/
def acked (s : State) (l : Nat) (ack : BitVec 12) : State :=
  let s := setLink s l (takeAck (getLink s l) ack)
  if l = 23 then pruneBulk s else s
/-- What waits at a link leaves as far as it may; packets of XF leave with XF_PACKET_SEND and CRED_SEND. -/
def linkPump (s : State) (l : Nat) : State :=
  if l = 23 then orfPump s else if 24 ≤ l then mirrorPump ((getLink s l).sendQ.length + 1) s (l - 24) else s
/-- A link sends again every flit behind those acknowledged; the sixteenth replay of one flit in a row makes it train again (R344, R375). On Seam the flits replayed are counted, one at least, and the replay that the other end awaited has come. -/
def replayFrom (s : State) (l : Nat) : State :=
  let v := getLink s l
  let s := if l < 7 then seamCount s l 31 0 (max 1 v.replay.length) else s
  if 16 ≤ v.replays + 1 then retrain (sendRetrain s l) l
  else
    let s := setLink s l { v with nak := v.nak && decide (7 ≤ l), replays := v.replays + 1 }
    { s with fab := { s.fab with wire := s.fab.wire ++ v.replay.map fun f => (l, f) } }
/-- A good flit that is next in its sequence: its acknowledgement, its credit returns and its NAK are taken (Tables 13-1, 14-1, 14-6). -/
def takeFlit (s : State) (l : Nat) (f : Flit) : State :=
  let s := acked s l f.ack
  let s := setLink s l (takeCredits { getLink s l with lastGood := s.now, nak := false, got := f.seq } f.credits)
  linkPump (if f.nak then replayFrom s l else s) l
/-- The bytes of a flit reach a link that is up: CRC-32 tells whether they are right; a failed flit is answered with NAK, and a good one out of its sequence awaits the replay. -/
def flitIn (s : State) (l : Nat) (bs : List Byte) : State :=
  let v := getLink s l
  if v.phase ≠ .up then s
  else match readFlit l bs with
    | none => badFlit s l
    | some f => if f.seq = v.got + 1 then takeFlit s l f else setLink s l { v with lastGood := s.now }
/-- A Seam flit arrives; where its CRC fails it is answered with NAK (R375). -/
def execSeamFlitError (l : SeamFlit) (s : State) : Res := clocked s fun s => flitIn s l.link.val l.bytes
/-- A flit of Orfin, XF or a mirror port arrives; where its CRC fails it is answered with NAK (R344, R381). -/
def execSerdesFlitError (l : SerdesFlit) (s : State) : Res := clocked s fun s => if l.link.num < 7 then s else flitIn s l.link.num l.bytes

/-- A NAK with the last SEQ received right makes the sender replay (R344, R375). A Seam flit is replayed only after it has failed. -/
def execNakReplay (l : NakFlit) (s : State) : Res :=
  clocked s fun s =>
    let v := getLink s l.link.num
    if v.phase ≠ .up ∨ (l.link.num < 7 ∧ !v.nak) then s else replayFrom (acked s l.link.num l.ack) l.link.num

/-! ### Training and versions (R375, R378 to R380) -/

/-- Spare wires or lanes that a link has (R375, R378). -/
def spareLimit (l : Nat) : Nat := if l < 7 then 32 else if l < 23 then 1 else 0

/-- The messages without the last few BulkWrites among them. -/
def withoutBulk (n : Nat) (out : List OrfMsg) : List OrfMsg :=
  (out.reverse.foldl (fun (a : Nat × List OrfMsg) m => match m with
    | .bulkWrite _ _ => if a.1 = 0 then (0, m :: a.2) else (a.1 - 1, a.2)
    | _ => (a.1, m :: a.2)) (n, [])).2
/-- BulkWrites that were sent and whose flits the companion has not acknowledged are lost with the link. They never count as visible, and a BulkFlush on its way is sent anew (R344). -/
def loseBulk (s : State) : State :=
  let rings := s.orf.rings.map fun r : Nat × Ring =>
    (r.1, { r.2 with fetched := r.2.fetched.map fun d : Desc => if d.asked && !d.flushed then { d with asked := false } else d })
  let n := s.orf.bulkSeqs.length
  let s := { s with orf := { s.orf with
    out := withoutBulk n s.orf.out, bulkSent := s.orf.bulkSent - n, bulkSeqs := []
    wait := s.orf.wait.filter fun m => decide (m ≠ .bulkFlush)
    flushSent := none, rings := rings, syncWaits := s.orf.syncWaits.map fun w : SyncWait => { w with asked := false } } }
  sendFlush (orfFlag s 4 0)

/-- A training ends: VERSION is sent, or the link tries again or is down (R375, R378, R380). A Seam link trains only after a retrain has been called for. -/
def execLinkTrainDone (l : LinkId) (ok : Bool) (spares : Byte) (s : State) : Res :=
  clocked s fun s =>
    let n := l.num
    let v := getLink s n
    let good := ok && decide (spares.toNat ≤ spareLimit n)
    if v.phase = .up ∨ v.versionSent ∨ (n < 7 ∧ v.phase = .down) then s
    else if good then
      sendVersion (setLink s n { v with
        phase := if v.phase = .down then .training else v.phase
        failedRetrains := 0, sparesUsed := spares.toNat, spareInUse := decide (0 < spares.toNat), versionSent := true }) n
    else if n < 7 then
      (if ok || decide (3 ≤ v.failedRetrains + 1) then linkDown s n else seamCount (setLink s n { v with failedRetrains := v.failedRetrains + 1 }) n 47 32 1)
    else if v.phase = .retraining then
      (let s := linkDown s n; if n = 23 then loseBulk s else s)
    else setLink s n { v with phase := .down }

/-- A write of SEAM_CTRL.RETRAIN trains a Seam link again (R375). -/
def seamRetrain (s : State) (l : Nat) : State :=
  if (getLink s l).phase = .up then retrain (sendRetrain s l) l
  else beginTraining (seamCount s l 47 32 1) l .training
/-- SEAM_CTRL_RETRAIN (R375). -/
def execSeamCtrlRetrain (l : Fin 7) (s : State) : Res := clocked s fun s => seamRetrain s l.val

/-- READY is sent and received, and messages flow (R380): what waited for a Seam link or for Orfin goes on (R344, R375), and a mirror port agrees its key (R477). -/
def linkUpCheck (s : State) (l : Nat) : State :=
  let v := getLink s l
  if v.versionOk && v.readySent && v.readyGot && decide (v.phase ≠ .up) then
    let s := setLink s l { v with phase := .up, lastGood := s.now, nak := false, replays := 0, keyValid := false, keyHello := false, helloSent := false }
    if 24 ≤ l then pkeyHello s (l - 24)
    else if l = 23 then orfPump s
    else if l < 7 then (let s := drainSeam s.fab.writes { s with fab := { s.fab with writes := [] } }
      capResume ((allResident s).foldl settleOps (seamResume s)))
    else s
  else s

/-- The peer's VERSION is compared; a link of another TYPE or major version stays down (R380). READY on Orfin waits for the end of start-up (R371). -/
def execVersionReceive (l : LinkId) (v : W64) (s : State) : Res :=
  clocked s fun s =>
    let n := l.num
    let k := getLink s n
    if !k.versionSent ∨ k.phase = .up ∨ k.phase = .down then s
    else if bits v 19 16 ≠ linkType n ∨ bits v 7 0 ≠ 1 then
      let s := setLink s n { k with phase := .down, versionSent := false, versionOk := false, readySent := false, readyGot := false }
      let s := if n < 7 then seamFlag s n 17 else if n < 23 then raise s (Reg.xfPort (n - 7)) 4 else s
      let s := dropQueue (linkRecord s n true) n
      if n = 23 ∧ k.phase = .retraining then loseBulk s else s
    else
      let ready := decide (n ≠ 23) || flagR s Reg.orfStatus 0
      let s := setLink s n { k with
        versionOk := true, readySent := ready
        minor := min (bits v 15 8) 0, peer := v.extractLsb' 24 16 }
      linkUpCheck (if ready then sendReady s n else s) n

/-- The peer's READY (R380). -/
def execReadyReceive (l : LinkId) (s : State) : Res :=
  clocked s fun s =>
    let n := l.num
    let k := getLink s n
    if k.versionOk && decide (k.phase ≠ .up) then linkUpCheck (setLink s n { k with readyGot := true }) n else s

/-- The peer asks for a retrain (R379). -/
def execRetrainReceive (l : LinkId) (s : State) : Res :=
  clocked s fun s => if (getLink s l.num).phase = .up then retrain s l.num else s

/-- SYNC is compared with the local count, and its arrival time is kept (R391). -/
def execSyncReceive (l : LinkId) (count : BitVec 48) (ns : W32) (s : State) : Res :=
  clocked s fun s =>
    let n := l.num
    if n < 7 ∨ n = 23 ∨ (getLink s n).phase ≠ .up then s
    else
      let s := heard s n
      let s := setLink s n { getLink s n with syncOffset := ns - 250 }
      if count = s.stc.count then s
      else place (raise s Reg.xfStatus 0) { cls := 0x35, action := 3, cause := 3, die := linkDie n
                                            d0 := s.stc.count.setWidth 64, d1 := count.setWidth 64 }

/-- A SerDes link that is up hears no good flit for 10 µs and goes down (R445). -/
def execLinkTimeout (l : LinkId) (s : State) : Res :=
  clocked s fun s =>
    let v := getLink s l.num
    if l.num < 7 ∨ v.phase ≠ .up then s
    else linkDown (advanceTo s (v.lastGood + usT 10)) l.num

end Sys2Proof.Machine
end

