-- ==== Sys2Proof/Machine/SessionTable.lean ====
section
/-! DEFINITION. Host writes of the session table and its transitions (R184 to R191, R395). -/

namespace Sys2Proof.Machine

/-- The H-die that holds an entry (R12). -/
def sesDie (n : Nat) : HDie := if n < 32768 then 0 else 1
/-- Notes the entry of a refused write or transition: SES_STATUS and SES_REFUSED (R186, R187). -/
def sesRefuse (s : State) (n bit : Nat) : State :=
  setR (raise s (Reg.sesStatus (sesDie n)) bit) (Reg.sesRefused (sesDie n)) (BitVec.ofNat 64 (n % 32768))

/-- A mask of one word of an entry: the fields that a host write may change while the entry is LIVE (R186). -/
def liveMask (word : Nat) : W64 :=
  match word with
  | 3 => 0x00000000FFFFFFFF
  | 5 => 0x000001FFFFFFFFFF
  | 6 => 0x00000000FFFFFFFF
  | _ => if 16 ≤ word then BitVec.allOnes 64 else 0

/-- Fields that no host write changes in any state: COMMIT_STITCH and MIR_SEQ are RO (Table 7-1). -/
def roMask (word : Nat) : W64 :=
  match word with
  | 7 => 0x0000FFFFFFFFFFFF
  | 10 => 0x00000000FFFFFFFF
  | _ => 0

/-- The bits of a word other than STATE that a host write may change in a state of the entry (R186). -/
def hostMask (st word : Nat) : W64 :=
  if st = 1 then liveMask word else if st = 3 then 0 else ~~~(roMask word)

/-- A word of an entry. -/
def sesWord (e : BitVec 2048) (word : Nat) : W64 := e.extractLsb' (64 * word) 64
/-- A word of an entry takes a value. -/
def setSesWord (e : BitVec 2048) (word : Nat) (v : W64) : BitVec 2048 := setBits e (64 * word + 63) (64 * word) v.toNat

/-- FP32 is finite and greater than zero. -/
def finitePos (w : W32) : Bool := match dec32 w with | .fin n m _ => !n && decide (0 < m) | _ => false
/-- FP32 lies in (0, 1]. -/
def unitRange (w : W32) : Bool := finitePos w && !((dec32 0x3F800000).lt (dec32 w))
/-- Reserved bit ranges of an entry (Table 7-1). -/
def sesReserved : List (Nat × Nat) :=
  [(7, 4), (15, 9), (95, 88), (111, 105), (127, 125), (255, 224), (287, 280), (319, 312), (383, 361), (447, 432), (511, 496), (1023, 688)]
/-- The fields of an entry allow LIVE (R188). -/
def canLive (e : BitVec 2048) : Bool :=
  (sesElem e).isSome && decide (1 ≤ sesLayers e ∧ sesLayers e ≤ 256) && decide (1 ≤ sesHeads e ∧ sesHeads e ≤ 64)
    && decide (1 ≤ bits e 360 352 ∧ bits e 360 352 ≤ 256) && finitePos (BitVec.ofNat 32 (bits e 351 320)) && unitRange (BitVec.ofNat 32 (bits e 415 384))
    && decide (sesTable e % 64 = 0) && decide (bits e 191 180 = 0) && sesReserved.all fun r => decide (bits e r.1 r.2 = 0)

/-- A session ID begins anew: no first copy of it is awaited or has failed (R189, R395). -/
def sesFresh (s : State) (n : Nat) : State :=
  { s with mir := { s.mir with initial := s.mir.initial.filter fun i => decide (i.session ≠ n), failedInit := smSet false s.mir.failedInit n false } }
/-- A host write of LIVE (Table 7-3, R188); a mirrored entry is copied to its partner (R395). -/
def toLive (s : State) (n : Nat) : State :=
  let e := getSes s n
  let st := sesState e
  if (st = 0 ∨ st = 2) ∧ canLive e then
    let e := setBits e 3 0 1
    let e := if st = 0 then setBits (setBits e 671 640 0) 495 448 0 else e
    let s := if st = 0 then sesFresh (setSes s n e) n else setSes s n e
    if sesMirror e then
      let s := { s with mir := { s.mir with initial := s.mir.initial ++ [⟨n, 0, s.now⟩] } }
      sendMent s n (setBits e 671 640 0)
    else s
  else sesRefuse s n 1
/-- A host write of HELD (Table 7-3). -/
def toHeld (s : State) (n : Nat) : State :=
  let e := getSes s n
  if sesState e = 1 then setSes s n (setBits e 3 0 2) else sesRefuse s n 1
/-- A host write of FREE wipes the whole entry (R189). -/
def toFree (s : State) (n : Nat) : State := sesFresh (setSes s n 0) n

/-- A transition that a host write of STATE asks for: FREE from any state (Table 7-3), and any other value where it differs from the present one, since a store that keeps STATE asks for no transition (R187; DESIGN CHOICE, log entry 133). -/
def sesMove (s : State) (n st : Nat) : State :=
  if st ≠ 0 ∧ st = sesState (getSes s n) then s
  else match st with
    | 0 => toFree s n
    | 1 => toLive s n
    | 2 => toHeld s n
    | _ => sesRefuse s n 1

/-- A host store to one word of an entry: the permitted fields are written first, then STATE (R186, R187). -/
def sesStore (s : State) (n word : Nat) (v : W64) : State :=
  let e := getSes s n
  let old := sesWord e word
  let st := sesState e
  let state : W64 := if word = 0 then 0xF else 0
  let allowed := hostMask st word &&& ~~~state
  let lowers := decide (st = 1) && decide (word = 3) && decide (bits v 31 0 < bits old 31 0)
  let allowed := if lowers then 0 else allowed
  let new := (old &&& ~~~allowed) ||| (v &&& allowed)
  let s := setSes s n (setSesWord e word new)
  let barred := decide (st = 1 ∨ st = 3) && decide ((v ^^^ old) &&& ~~~(allowed ||| state ||| roMask word) ≠ 0)
  let s := if barred then sesRefuse s n 0 else s
  if word = 0 then sesMove s n (bits v 3 0) else s

/-- A host store to the session table (R185, R186). -/
def execSesTableWrite (_ : Hart) (session : Session) (word : Fin 32) (v : W64) (s : State) : Res :=
  clocked s fun s => sesStore (noteSession s session.val) session.val word.val v
/-- A host write of LIVE (R188). -/
def execSessionLive (session : Session) (s : State) : Res := clocked s fun s => sesMove (noteSession s session.val) session.val 1
/-- A host write of HELD (R187). -/
def execSessionHeld (session : Session) (s : State) : Res := clocked s fun s => sesMove (noteSession s session.val) session.val 2
/-- A host write of FREE (R189). -/
def execSessionFree (session : Session) (s : State) : Res := clocked s fun s => toFree (noteSession s session.val) session.val

end Sys2Proof.Machine
end

