-- ==== Sys2Proof/Machine/Fabric.lean ====
section
/-! DEFINITION. Packets and credits of XF, aborts from other packages, and the mirror ports (R383 to R399). -/

namespace Sys2Proof.Machine

/-! ### XF packets and credits (R386 to R390) -/

/-- A TOKEN whose route has closed, or is past its deadline: it is not sent any more (R208). -/
def tokenLate (s : State) (q : Queued) : Bool :=
  let t := innerHead q.packet
  decide (hdrClass q.packet.hdr = 0) && decide (bits t 7 0 = 1) &&
    !((getRoutes s (Fin.ofNat 4 (bits t 25 24))).any fun r =>
      decide (r.tag = some (bits t 183 168)) && decide (r.stitch % 2 ^ 48 = bits t 127 80) && r.closedAt.isNone && decide (s.now < r.deadline))
/-- A RESULT whose node is unreachable when it is to be sent (R207). -/
def resultStray (s : State) (q : Queued) : Bool :=
  decide (hdrClass q.packet.hdr = 0) && decide (bits (innerHead q.packet) 7 0 = 2) && unreachable s q.node
/-- A port's queue before it sends: late TOKENs leave it, and RESULTs to unreachable nodes are discarded, counted and taken as accepted (R207, R208). -/
def pruneQueue (s : State) (l : Nat) : State :=
  let v := getLink s l
  let gone := v.sendQ.filter (resultStray s)
  let s' := setLink s l { v with sendQ := v.sendQ.filter fun q => !resultStray s q && !tokenLate s q }
  releaseOwners (countR s' Reg.xfEvt 31 16 gone.length) gone

/-- A waiting packet may be sent on its port: its key, its node, that node's credit, and the port's own credits of its class (R380, R382, R384, R386, R389). -/
def maySend (s : State) (l : Nat) (q : Queued) : Bool :=
  (slotOfJob s q.job).isSome && !unreachable s q.node && decide (charge q.packet.payload.length ≤ creditOf s q.node) && packetMay s l q.packet
/-- The packet that a port sends next: an ABORT ahead of DISP, and within a class to one node the oldest (R382). -/
def nextPacket (s : State) (l : Nat) (qs : List Queued) : Option Queued :=
  let cls (q : Queued) : Nat := hdrClass q.packet.hdr
  let heads := qs.filter fun q => decide ((qs.find? fun p => decide (p.node = q.node) && decide (cls p = cls q)) = some q)
  match heads.find? fun q => decide (cls q = 2) && maySend s l q with
  | some q => some q
  | none => heads.find? (maySend s l)

/-- The packet of a KEX message: its transport header and its content, which carries its own protection (R382, R383). -/
def kexPacket (s : State) (m : KexOut) : XfPacket := ⟨mkHdr m.dst (myNode s) 3 false m.slot 0 0 (ceilDiv' m.body.length 64), m.body, true⟩
/-- A KEX message may leave by a port: XF_ROUTE names it, Seam joins it to H0, and it has credits of class 3 (R382, R384). -/
def kexMay (s : State) (l : Nat) (m : KexOut) : Bool :=
  decide (routePort s m.dst = l) && !unreachable s m.dst && routeUp s 4 (linkDie l) && packetMay s l (kexPacket s m)
/-- A packet that a block of H0 builds crosses Seam to the die of its port in class XFD, and leaves (R373, R384). -/
def sendFromH0 (s : State) (l : Nat) (p : XfPacket) : State :=
  sendOut (crossFlits s 6 4 (linkDie l) (bytesOf 32 p.hdr.toNat ++ p.payload)) l p

/-- A packet is sent once the destination's credit covers its charge and the port has credits of its class (R382, R386); the operation that waited for it ends (R212). A KEX message goes first (DESIGN CHOICE, log entry 131). -/
def execXfPacketSend (l : LinkId) (s : State) : Res :=
  clocked s fun s =>
    let n := l.num
    if n < 7 ∨ 22 < n then s
    else
      let s := pruneQueue s n
      match s.fab.kexOut.find? (kexMay s n) with
      | some m => sendFromH0 { s with fab := { s.fab with kexOut := s.fab.kexOut.erase m } } n (kexPacket s m)
      | none =>
        let v := getLink s n
        match nextPacket s n v.sendQ with
        | none => s
        | some q => match slotOfJob s q.job with
          | none => s
          | some slot =>
            let s := setLink s n { v with sendQ := v.sendQ.erase q }
            let s := { s with fab := { s.fab with used := smMod 0 s.fab.used q.node (· + charge q.packet.payload.length) } }
            releaseOwners (stampSend s n q slot) [q]

/-- A charge that no packet has returned goes back in a CRED packet (R386), under the key of the lowest slot that the node shares, from the XF_ block on H0 across Seam. -/
def execCredSend (node : BitVec 11) (s : State) : Res :=
  clocked s fun s =>
    let n := node.toNat
    let owed := smGet 0 s.fab.owed n
    let slot := s.fab.slots.find? fun e => decide (e.1 < 255) && e.2.valid && bitAt (smGet 0 s.fab.peers e.1) n
    match slot with
    | some e =>
      let p : XfPacket := ⟨mkHdr n (myNode s) 1 false e.1 0 0 0, [], true⟩
      let l := routePort s n
      if owed = 0 ∨ unreachable s n ∨ n = myNode s ∨ !routeUp s 4 (linkDie l) ∨ !packetMay s l p then s
      else stampSend (crossFlits s 6 4 (linkDie l) (bytesOf 32 p.hdr.toNat)) l ⟨p, n, e.2.job, none⟩ e.1
    | none => s

/-! ### Mirror packets (R390, R394) -/

/-- The record of a refused mirror packet (R390). -/
def mirRecord (s : State) (n cause : Nat) (h : BitVec 256) : State :=
  place s { cls := 0x37, action := 3, cause := cause, die := 5
            d0 := BitVec.ofNat 64 (17 + n), d1 := BitVec.ofNat 64 (hdrSrc h + 65536 * hdrSlot h) }

/-- A packet that arrives on a mirror port is accepted under R390 with the port's key, or discarded. -/
def acceptMirror (s : State) (n cls : Nat) (p : XfPacket) : State × Bool :=
  let h := p.hdr
  let v := getLink s (24 + n)
  let k := getKey s (256 + n)
  if v.phase ≠ .up ∨ !flagR s Reg.mirCtrl 0 ∨ hdrClass h ≠ cls then (s, false)
  else
    let s := heardPacket s (24 + n) cls p.payload.length
    if hdrDst h ≠ myNode s then (mirRecord (countR s Reg.xfEvt 63 48 1) n 7 h, false)
    else
      let cause := if hdrSlot h ≠ 255 ∨ !v.keyValid then some 3
        else if !p.tagOk then some 1
        else if hdrSeq h ≤ smGet 0 k.seqIn (hdrSrc h) then some 2 else none
      match cause with
      | some c => (mirRecord (raise (countR s Reg.xfEvt 15 0 1) Reg.xfStatus 1) n c h, false)
      | none =>
        let s := setKey s (256 + n) { k with seqIn := smSet 0 k.seqIn (hdrSrc h) (hdrSeq h) }
        (restore s (hdrSrc h) (hdrRet h), true)

/-- A CRED packet restores the sender's counter (R386). -/
def execCredReceive (l : LinkId) (p : XfPacket) (s : State) : Res :=
  clocked s fun s =>
    let n := l.num
    if hdrClass p.hdr ≠ 1 ∨ !linkUp s n then s
    else if 7 ≤ n ∧ n < 23 then (acceptXf s (Fin.ofNat 16 (n - 7)) p none false).1
    else if 24 ≤ n then (acceptMirror s (n - 24) 1 p).1
    else s

/-- A write of XF_E2E_RESET restores a node's counter to LINES (R388). -/
def e2eReset (s : State) (n : Nat) : State := { s with fab := { s.fab with used := smErase s.fab.used n } }
/-- XF_E2E_RESET (R388). -/
def execXfE2eReset (v : W64) (s : State) : Res := clocked s fun s => e2eReset s (bits v 15 0)

/-! ### Aborts (R392, R393) -/

/-- A write of XF_ABORT starts an abort of a job (R392). -/
def execXfAbort (v : W64) (s : State) : Res :=
  clocked s fun s => startAbort s (v.extractLsb' 0 16) (bits v 23 16)

/-- An ABORT that has not been seen is acted on and sent on; a copy is dropped and counted (R392, R393). -/
def execAbortReceive (port : XfPort) (p : XfPacket) (s : State) : Res :=
  clocked s fun s =>
    if hdrClass p.hdr ≠ 2 then s
    else match acceptXf s port p none true with
      | (s, false) => s
      | (s, true) =>
        let w := leNat p.payload
        let job : W16 := BitVec.ofNat 16 w
        let origin := w / 2 ^ 16 % 2 ^ 16
        let id := w / 2 ^ 32 % 2 ^ 32
        let reason := w / 2 ^ 112 % 256
        let s := raise s Reg.xfStatus 2
        if s.fab.seen.contains (origin, id) then countR s Reg.xfEvt 47 32 1
        else
          let s := { s with fab := { s.fab with seen := s.fab.seen ++ [(origin, id)] } }
          let s := match slotOfJob s job with
            | some k =>
              let s := spreadAbort s k job (abortLine job origin id (w / 2 ^ 64 % 2 ^ 48) reason)
              setKey s k { getKey s k with aborted := true }
            | none => s
          let (s, n) := abortActions s job ⟨0x11, reason, 0, 0, 0⟩
          abortRecord s job origin id reason n

/-! ### Mirrored rows and entries (R395 to R399) -/

/-- H1's port reads bytes of memory in class P2 (R395). -/
def portRead (s : State) (addr n : Nat) : State × (Bad ⊕ List Byte) :=
  let first := addr / 64
  let lines := (List.range ((addr + n + 63) / 64 - first)).map (first + ·)
  let r := lines.foldl (fun (a : State × (Bad ⊕ List Byte)) line => match a with
    | (s, .inl b) => (s, .inl b)
    | (s, .inr bs) =>
      if !lineOk s line then (s, .inl (addrBad (64 * line)))
      else match peekLine s 87 .p2 line with
        | (s, .inl b) => (s, .inl b)
        | (s, .inr v) => (s, .inr (bs ++ lineBytes v))) (s, .inr [])
  match r with
  | (s, .inl b) => (s, .inl b)
  | (s, .inr bs) => (s, .inr ((bs.drop (addr % 64)).take n))
/-- H1's port writes bytes of one line. -/
def portWrite (s : State) (addr : Nat) (bs : List Byte) : State × Option Bad :=
  match access s (addr / 64) { ask := .putBytes, agent := 87, data := BitVec.ofNat 512 (leNat bs * 2 ^ (8 * (addr % 64)))
                               mask := BitVec.ofNat 64 ((2 ^ bs.length - 1) * 2 ^ (addr % 64)) } with
  | (s, .inl b) => (s, some b)
  | (s, .inr _) => (s, none)

/-- The block-table entries that some positions of a session need, read through H1's port. -/
def mirrorBlocks (s : State) (e : BitVec 2048) (pos tokens : Nat) : State × (Bad ⊕ List W64) :=
  let first := pos / 64
  let idx := (List.range ((pos + tokens - 1) / 64 + 1 - first)).map (first + ·)
  idx.foldl (fun (a : State × (Bad ⊕ List W64)) i => match a with
    | (s, .inl b) => (s, .inl b)
    | (s, .inr ws) =>
      if sesCount e ≤ i then (s, .inr (ws ++ [0]))
      else match portRead s (sesTable e + 8 * i) 8 with
        | (s, .inl b) => (s, .inl b)
        | (s, .inr bs) => (s, .inr (ws ++ [BitVec.ofNat 64 (leNat bs)]))) (s, .inr [])

/-- The entries of the commits of a session that still wait for its rows are sent (R195, R395), those of commits that have completed with cause 0x0B among them. -/
def sendCommits (s : State) (session : Nat) : State :=
  if s.mir.reqs.any (fun q => decide (q.session = session)) then s
  else
    let due := s.mir.commits.filter fun w => decide (w.session = session) && !w.sent
    let s := due.foldl (fun s w => sendMent s session w.entry) s
    let left := s.mir.commits.filter fun w => !(decide (w.session = session) && w.failed)
    { s with mir := { s.mir with commits := left.map fun w => if w.session = session then { w with sent := true } else w } }

/-- A mirror copy whose rows cannot be read is left incomplete, with a record. -/
def mkvFails (s : State) (session : Nat) (b : Bad) : State :=
  let s := place s { cls := b.cls, action := 3, cause := b.cause, die := 5, agent := 87, addr := b.addr, d0 := b.d0, d1 := b.d1, quar := b.quar }
  sendCommits { s with mir := { s.mir with failedInit := smSet false s.mir.failedInit session true } } session

/-- The mirroring reads have all been served, in the share that P2 gives them (R395, R410): the rows of a request are read at once, and the next waits until then (DESIGN CHOICE, log entry 149). -/
def mirrorServed (s : State) : Bool := s.ctrls.all fun c => c.2.reqs.all fun r => decide (r.kind ≠ .mirror)
/-- The rows of the oldest mirror request that a port can carry are read back and sent (R395). Rows that cannot be read leave the copy incomplete: the next commit fails with cause 0x0B. -/
def execMkvSend (s : State) : Res :=
  clocked s fun s =>
    let dead (q : MirReq) : Bool := !sesMirror (getSes s q.session)
    let ready (q : MirReq) : Bool := dead q || (mirrorPort s (bits (getSes s q.session) 687 672)).isSome
    if !mirrorServed s then s
    else match s.mir.reqs.find? ready with
    | none => s
    | some q =>
      let s' := { s with mir := { s.mir with reqs := s.mir.reqs.erase q } }
      if dead q then s'
      else
        let e := getSes s q.session
        let el := (sesElem e).getD 1
        match mirrorBlocks s' e q.pos q.tokens with
        | (t, .inl b) => if b.held then s else mkvFails t q.session b
        | (t, .inr ws) =>
          let runs := appendRuns e el q.layer q.head q.pos q.tokens ws (List.replicate (2 * q.tokens * 128 * el) 0)
          match collect (fun s (p : Nat × List Byte) => portRead s p.1 p.2.length) runs t with
          | (t, .inl b) => if b.held then s else mkvFails t q.session b
          | (s, .inr bs) =>
            match mirrorPort s (bits e 687 672) with
            | some n => sendCommits (sendMirror s n 0 (mirrorHead q.session q.layer q.head q.pos q.tokens ++ bs)) q.session
            | none => s

/-- A mirror event of a session that makes its next MACK carry REFUSED (R398). -/
def mirrorRefuse (s : State) (session bit hi lo : Nat) : State :=
  let s := countR (raise s Reg.mirStatus bit) Reg.mirEvt hi lo 1
  { s with mir := { s.mir with refuseNext := smSet false s.mir.refuseNext session true } }

/-- A mirrored row of a session that is not STANDBY is dropped and counted (R398). -/
def mirrorStale (s : State) (session : Nat) : State := mirrorRefuse s session 1 15 0
/-- A mirrored row that cannot be written is dropped and counted (R398). -/
def mirrorRefused (s : State) (session : Nat) : State := mirrorRefuse s session 2 31 16

/-- The partner writes mirrored rows through its own STANDBY entry, or discards them (R396 to R398); rows whose lines cannot be reached at present have not arrived yet (R18; DESIGN CHOICE, log entry 130). -/
def execMkvReceive (n : Fin 2) (p : XfPacket) (s : State) : Res :=
  clocked s fun before => match acceptMirror before n.val 0 p with
    | (s, false) => s
    | (s, true) =>
      let head := leNat (p.payload.take 64)
      let session := head % 2 ^ 32
      let layer := head / 2 ^ 32 % 2 ^ 16
      let hd := head / 2 ^ 48 % 2 ^ 16
      let pos := head / 2 ^ 64 % 2 ^ 64
      let tokens := head / 2 ^ 128 % 2 ^ 16
      let e := getSes s session
      if 65536 ≤ session ∨ sesState e ≠ 3 then mirrorStale s session
      else match sesElem e with
        | none => mirrorRefused s session
        | some el =>
          let body := p.payload.drop 64
          if sesLayers e ≤ layer ∨ sesHeads e ≤ hd ∨ tokens = 0 ∨ 64 < tokens ∨ body.length ≠ 2 * tokens * 128 * el then mirrorRefused s session
          else match mirrorBlocks s e pos tokens with
            | (s, .inl b) => if b.held then before else mirrorRefused s session
            | (s, .inr ws) =>
              if (blockCause e el ws).isSome then mirrorRefused s session
              else
                let pieces := ((appendRuns e el layer hd pos tokens ws body).map fun r => writePieces r.1 r.2).flatten
                if pieces.any (fun q => !lineOk s (q.1 / 64)) then mirrorRefused s session
                else if pieces.any (fun q => lineHeld s 87 (q.1 / 64)) then before
                else
                  let r := pieces.foldl (fun (a : State × Bool) q => match portWrite a.1 q.1 q.2 with
                    | (s, b) => (s, a.2 || b.isSome)) (s, false)
                  if r.2 then mirrorRefused r.1 session else r.1

/-- MACK of a session leaves (R396). -/
def sendMack (s : State) (n session : Nat) (seq : Nat) (refused : Bool) : State :=
  sendMirror s n 3 (bytesOf 4 session ++ bytesOf 4 seq ++ bytesOf 1 (if refused then 1 else 0) ++ List.replicate 55 0)

/-- The partner applies a mirrored entry as STANDBY, or discards it, and answers (R396, R398). -/
def execMentReceive (n : Fin 2) (p : XfPacket) (s : State) : Res :=
  clocked s fun s => match acceptMirror s n.val 2 p with
    | (s, false) => s
    | (s, true) =>
      let session := leNat (p.payload.take 4)
      let e : BitVec 2048 := BitVec.ofNat 2048 (leNat ((p.payload.drop 64).take 256))
      let seq := bits e 671 640
      let mine := sesState (getSes s session)
      if 65536 ≤ session ∨ mine = 1 ∨ mine = 2 then
        let s := { s with mir := { s.mir with refuseNext := smSet false s.mir.refuseNext session false } }
        sendMack (countR (raise s Reg.mirStatus 1) Reg.mirEvt 15 0 1) n.val session seq true
      else
        let refused := smGet false s.mir.refuseNext session
        let s := setSes (noteSession s session) session (setBits e 3 0 3)
        sendMack { s with mir := { s.mir with refuseNext := smSet false s.mir.refuseNext session false } } n.val session seq refused

/-- A mirror acknowledgement completes the commit that waits for it, with cause 0x0B where it carries REFUSED (R195, R395, R396). -/
def execMackReceive (n : Fin 2) (p : XfPacket) (s : State) : Res :=
  clocked s fun s => match acceptMirror s n.val 3 p with
    | (s, false) => s
    | (s, true) =>
      let session := leNat (p.payload.take 4)
      let seq := leNat ((p.payload.drop 4).take 4)
      let refused := decide (leNat ((p.payload.drop 8).take 1) % 2 = 1)
      if seq = 0 then
        (match s.mir.initial.find? fun i => decide (i.session = session) with
         | some i => { s with mir := { s.mir with
             initial := s.mir.initial.erase i
             failedInit := if refused then smSet false s.mir.failedInit session true else s.mir.failedInit } }
         | none => s)
      else match s.mir.commits.find? fun w => decide (w.session = session) && decide (w.seq.toNat = seq) && w.sent with
        | none => s
        | some w =>
          let s := noteSession { s with mir := { s.mir with commits := s.mir.commits.erase w } } session
          if refused then refuseSession s w.ctx w.opNumber w.at_ w.stat session (w.expect.setWidth 64) 0x0B
          else performOp (tsWrite s w.ctx.te w.stat (bytesOf 8 0)) w.ctx w.opNumber

/-- A job joins the takeover set (R399). -/
def execMirTakeover (v : W64) (s : State) : Res :=
  clocked s fun s =>
    let job : W16 := v.extractLsb' 0 16
    if s.mir.takeover.any (fun t => decide (t.1 = job)) then s
    else if 8 ≤ s.mir.takeover.length then raise s Reg.mirStatus 3
    else { s with mir := { s.mir with takeover := s.mir.takeover ++ [(job, s.now)] } }

/-- At a stitch boundary the STANDBY entries of the jobs in the takeover set become LIVE; a job written less than 1 µs before stays for the next (R399). -/
def takeOver (s : State) : State :=
  let due := s.mir.takeover.filter fun t => decide (t.2 + usT 1 ≤ s.stc.last)
  if due.isEmpty then s
  else
    let mine (e : BitVec 2048) : Bool := decide (sesState e = 3) && due.any fun t => decide (t.1.toNat = sesJob e)
    let n := (s.ses.filter fun e => mine e.2).length
    let s := { s with ses := s.ses.map fun e => if mine e.2 then (e.1, setBit (setBits e.2 3 0 1) 8 false) else e }
    let s := setFieldR s Reg.mirEvt 47 32 (min n 0xFFFF)
    { s with mir := { s.mir with takeover := s.mir.takeover.filter fun t => !decide (t.2 + usT 1 ≤ s.stc.last) } }

end Sys2Proof.Machine
end

