-- ==== Sys2Proof/Machine/Keys.lean ====
section
/-! DEFINITION. Key agreement for job keys and port keys (R474 to R477). -/

namespace Sys2Proof.Machine

/-- The SEC_POLICY digest; all zero asks for no check (R475). -/
def policyWord (s : State) : BitVec 512 :=
  (List.range 8).foldl (fun (a : BitVec 512) w => a ||| ((getR s (Reg.secPolicy w)).setWidth 512 <<< (64 * w))) 0
/-- Signature, chain and policy of a message hold (R475). -/
def kexGood (s : State) (m : KexMsg) : Bool :=
  m.sigOk && m.chainOk && (decide (policyWord s = 0) || decide (m.digest = policyWord s))
/-- The nodes that XF_JOBPEER marks, but for this package. -/
def peersOf (s : State) (k : Nat) : List Nat :=
  (List.range 2048).filter fun n => bitAt (smGet 0 s.fab.peers k) n && decide (n ≠ myNode s)
/-- The lowest node of a slot's peers and this package (R474). -/
def leaderOf (s : State) (peers : List Nat) : Nat := peers.foldl min (myNode s)
/-- The agreement in progress takes a value. -/
def setAgree (s : State) (a : Option KeyAgree) : State := { s with fab := { s.fab with agree := a } }
/-- An agreement ends with a result (Table 18-8). -/
def endAgree (s : State) (result node : Nat) : State :=
  let s := setAgree s none
  { s with sec := { s.sec with keyResult := result, keyNode := node } }
/-- A refused write of a SEC_ register (R487). -/
def secRefuse (s : State) : State := raise s Reg.secStatus 6

/-- A job key is installed: in epoch 0 of a bound slot, whose sequence numbers start anew, or in the epoch not in use of a slot whose key rotates (R474, R476). -/
def installKey (s : State) (k : Nat) (job : W16) (rotate : Bool) (key : BitVec 256) : State :=
  let v := getKey s k
  let off (epoch : Bool) : SMap Nat := v.seqIn.filter fun e => decide ((e.1 / 65536 = 1) ≠ (epoch = true))
  if !rotate then setKey s k { job := job, valid := true, key0 := key, has0 := true }
  else if v.epoch then setKey s k { v with key0 := key, has0 := true, seqIn := off false }
  else setKey s k { v with key1 := key, has1 := true, seqIn := off true }

/-- HELLO leaves once the alias key is ready (R468, R474); the leader of a rotation asks its peers for theirs (R476). -/
def sendHello (s : State) : State :=
  match s.fab.agree with
  | some a =>
    if a.helloSent || !s.sec.aliasReady then s
    else if a.leader then setAgree (if a.rotate then a.peers.foldl (fun s n => kexSend s 0 a.slot n []) s else s) (some { a with helloSent := true })
    else
      let (n, s) := draw s
      setAgree (kexSend s 1 a.slot (leaderOf s a.peers) (helloContent s (Config.draw512 n))) (some { a with helloSent := true, kem := Config.draw512 n })
  | none => s

/-- The first boundary at least 10 µs away, as a stitch count (R476). -/
def switchStitch (s : State) : BitVec 48 :=
  let next := s.stc.last + nsT (10 * s.stc.period)
  if s.now + usT 10 ≤ next then s.stc.count + 1 else s.stc.count + 2

/-- The leader goes on when every acknowledgement is there: the key is installed, and for a rotation the switch is announced (R474, R476). -/
def leaderDone (s : State) : State :=
  match s.fab.agree with
  | some a =>
    if !a.leader || a.peers.any (fun n => !a.acks.contains n) then s
    else
      let s := installKey s a.slot a.job a.rotate a.key
      let s := if a.rotate then
          let at_ := switchStitch s
          let s := a.peers.foldl (fun s n => kexSend s 4 a.slot n (bytesOf 6 at_.toNat)) s
          { s with fab := { s.fab with switches := s.fab.switches ++ [⟨a.slot, at_, false⟩] } }
        else s
      endAgree s 0 0
  | none => s

/-- An agreement starts (R474, R476). -/
def startAgree (s : State) (k : Nat) (job : W16) (rotate : Bool) : State :=
  let peers := peersOf s k
  let leader := decide (leaderOf s peers = myNode s)
  let (n, s) := draw s
  let a : KeyAgree := { slot := k, job := job, rotate := rotate, leader := leader, peers := peers, hellos := [], acks := []
                        key := Config.draw256 n, since := s.now, helloSent := false }
  leaderDone (sendHello (setAgree s (some a)))

/-- BIND gives a slot to a job (R474); a slot that is valid refuses it with RESULT 3 (R476, R487). -/
def execBind (v : W64) (s : State) : Res :=
  clocked s fun s =>
    let k := bits v 7 0
    if k = 255 ∨ s.fab.agree.isSome then secRefuse s
    else if (getKey s k).valid then secRefuse { s with sec := { s.sec with keyResult := 3, keyNode := 0 } }
    else startAgree s k (v.extractLsb' 16 16) false
/-- ROTATE installs a new key in the epoch not in use; it is the leader's alone (R476). -/
def execRotate (v : W64) (s : State) : Res :=
  clocked s fun s =>
    let k := bits v 7 0
    if k = 255 ∨ s.fab.agree.isSome ∨ !(getKey s k).valid ∨ leaderOf s (peersOf s k) ≠ myNode s then secRefuse s
    else startAgree s k (getKey s k).job true
/-- CLEAR erases both epochs of a slot (R476). -/
def execClear (v : W64) (s : State) : Res :=
  clocked s fun s =>
    let k := bits v 7 0
    if k = 255 then secRefuse s
    else setKey { s with fab := { s.fab with switches := s.fab.switches.filter fun w => decide (w.slot ≠ k) } } k {}

/-- An agreement has not completed 1 s after it was asked for: the first missing node is reported (R474). -/
def execBindTimeout (s : State) : Res :=
  clocked s fun s => match s.fab.agree with
    | none => s
    | some a =>
      let s := advanceTo s (a.since + usT 1000000)
      let missing := if !a.leader then leaderOf s a.peers
        else match a.peers.find? fun n => !a.hellos.contains n with
          | some n => n
          | none => (a.peers.find? fun n => !a.acks.contains n).getD 0
      endAgree s 1 missing

/-- A peer answers the leader's request for a HELLO, with which a rotation begins (R476). -/
def helloAnswer (s : State) (m : KexMsg) : State :=
  let k := m.slot.toNat
  let src := m.src.toNat
  let peers := peersOf s k
  if k = 255 || !(getKey s k).valid || decide (m.job ≠ (getKey s k).job) || !peers.contains src || decide (src ≠ leaderOf s peers) || !kexGood s m then s
  else
    let (n, s) := draw s
    kexSend (setKey s k { getKey s k with kem := Config.draw512 n }) 1 k src (helloContent s (Config.draw512 n))
/-- The leader checks a peer's HELLO, and wraps the job key to it (R474, R475). -/
def kexHello (s : State) (m : KexMsg) : State :=
  match s.fab.agree with
  | none => helloAnswer s m
  | some a =>
    let src := m.src.toNat
    if !a.leader || decide (m.slot.toNat ≠ a.slot) then helloAnswer s m
    else if decide (m.job ≠ a.job) || !a.peers.contains src || a.hellos.contains src then s
    else if !kexGood s m then endAgree s 2 src
    else
      let (n, s) := draw s
      let ek := m.body.take kemBytes
      let kek := kekOf (Config.kemSecret ek (Config.draw256 n)) (myNode s) src a.job a.slot
      setAgree (kexSend s 2 a.slot src (Config.kemCipher ek (Config.draw256 n) ++ Config.sealKey kek a.key)) (some { a with hellos := a.hellos ++ [src] })
/-- The job key in a WRAP, found with the secret of the own HELLO (R474). -/
def wrappedKey (s : State) (m : KexMsg) (secret : BitVec 512) : BitVec 256 :=
  Config.openKey (kekOf (Config.kemOpen secret (m.body.take kemBytes)) m.src.toNat (myNode s) m.job m.slot.toNat) (m.body.drop kemBytes)
/-- A peer checks the leader, installs the job key and acknowledges (R474, R475); a rotation reaches a slot that is valid already (R476). -/
def kexWrap (s : State) (m : KexMsg) : State :=
  let k := m.slot.toNat
  let src := m.src.toNat
  let rotation :=
    let peers := peersOf s k
    if k = 255 || !(getKey s k).valid || decide (m.job ≠ (getKey s k).job) || !peers.contains src || decide (src ≠ leaderOf s peers) || !kexGood s m then s
    else kexSend (installKey s k m.job true (wrappedKey s m (getKey s k).kem)) 3 k src []
  match s.fab.agree with
  | none => rotation
  | some a =>
    if k ≠ a.slot then rotation
    else if a.leader || !a.helloSent || decide (m.job ≠ a.job) || decide (src ≠ leaderOf s a.peers) then s
    else if !kexGood s m then endAgree s 2 src
    else endAgree (kexSend (installKey s k a.job false (wrappedKey s m a.kem)) 3 k src []) 0 0
/-- The leader takes an ACK, and installs the key once every one has come (R474). -/
def kexAck (s : State) (m : KexMsg) : State :=
  match s.fab.agree with
  | none => s
  | some a =>
    let src := m.src.toNat
    if !a.leader || decide (m.slot.toNat ≠ a.slot) || !a.hellos.contains src || a.acks.contains src then s
    else if !kexGood s m then endAgree s 2 src
    else leaderDone (setAgree s (some { a with acks := a.acks ++ [src] }))
/-- A peer schedules the new epoch from boundary S (R476). -/
def kexSwitch (s : State) (m : KexMsg) : State :=
  let k := m.slot.toNat
  let peers := peersOf s k
  let v := getKey s k
  if k = 255 || !v.valid || !(if v.epoch then v.has0 else v.has1) || !peers.contains m.src.toNat
      || decide (m.src.toNat ≠ leaderOf s peers) || !kexGood s m then s
  else { s with fab := { s.fab with switches := s.fab.switches ++ [⟨k, m.stitch, false⟩] } }
/-- A PKEY message from the partner: its HELLO first, to whose key the end of lower node ID encapsulates; then the ciphertext or the other end's word that it has installed the key, with which KEY_VALID sets (R394, R477). -/
def pkeyTake (s : State) (n : Nat) (m : KexMsg) : State :=
  let l := 24 + n
  let v := getLink s l
  let me := myNode s
  let partner := fieldR s (Reg.mirPort n) 15 0
  if v.phase ≠ .up ∨ v.keyValid ∨ !v.helloSent ∨ m.src.toNat ≠ partner ∨ !kexGood s m then s
  else if !v.keyHello then
    if me < partner then
      let (d, s) := draw s
      let ek := m.body.take kemBytes
      let v := { v with keyHello := true, portKey := portKeyOf (Config.kemSecret ek (Config.draw256 d)) me partner }
      pkeySend (setLink s l v) n 2 (Config.kemCipher ek (Config.draw256 d))
    else setLink s l { v with keyHello := true }
  else
    let key := if me < partner then v.portKey else portKeyOf (Config.kemOpen v.kem (m.body.take kemBytes)) me partner
    let s := setKey (setLink s l { v with keyValid := true, portKey := key }) (256 + n) {}
    if me < partner then s else pkeySend s n 3 []

/-- Thimble processes a message of a kind: HELLO 1, WRAP 2, ACK 3, SWITCH 4, and the PKEY messages of the mirror ports, 5 and 6. -/
def kexDo (s : State) (kind : Nat) (m : KexMsg) : State :=
  match kind with
  | 1 => kexHello s m
  | 2 => kexWrap s m
  | 3 => kexAck s m
  | 4 => kexSwitch s m
  | 5 => pkeyTake s 0 m
  | _ => pkeyTake s 1 m
/-- A message is processed once the alias certificate is ready; until then it waits (R468). -/
def kexMessage (s : State) (kind : Nat) (m : KexMsg) : State :=
  if s.sec.aliasReady then kexDo s kind m else { s with sec := { s.sec with kexWaiting := s.sec.kexWaiting ++ [(kind, m)] } }
/-- Bytes of a KEX packet's payload: kind, slot, content and signature, which is padded to 1,280 B (Table 18-2). -/
def kexPayload (m : KexMsg) : Nat := 2 + m.body.length + 1280
/-- A packet of class KEX arrives at an XF port that is up: one for another node is discarded, counted and recorded before any other check (R380, R390). -/
def kexArrives (s : State) (kind : Nat) (m : KexMsg) : State :=
  let l := 7 + m.port.val
  if !linkUp s l then s
  else
    let s := heardPacket s l 3 (kexPayload m)
    if m.dst.toNat ≠ myNode s then
      xfRecord (countR s Reg.xfEvt 63 48 1) m.port 0x07 (mkHdr m.dst.toNat m.src.toNat 3 false m.slot.toNat 0 0 0)
    else kexMessage s kind m

/-- HELLO_RECEIVE: the leader checks a peer's HELLO and wraps the job key to it; a peer answers the leader's request for one (R474 to R476). -/
def execHelloReceive (m : KexMsg) (s : State) : Res := clocked s fun s => kexArrives s 1 m
/-- WRAP_RECEIVE: a peer installs the job key and acknowledges (R474 to R476). -/
def execWrapReceive (m : KexMsg) (s : State) : Res := clocked s fun s => kexArrives s 2 m
/-- KEX_ACK_RECEIVE: the leader installs the key once every ACK has come (R474). -/
def execKexAckReceive (m : KexMsg) (s : State) : Res := clocked s fun s => kexArrives s 3 m
/-- SWITCH_RECEIVE: a peer schedules the new epoch (R476). -/
def execSwitchReceive (m : KexMsg) (s : State) : Res := clocked s fun s => kexArrives s 4 m
/-- PKEY_RECEIVE: a message in PKEY flits of a mirror port that is up (R394, R477). -/
def execPkeyReceive (n : Fin 2) (m : KexMsg) (s : State) : Res :=
  clocked s fun s => if linkUp s (24 + n.val) then kexMessage (heardFlits s (24 + n.val) (ceilDiv' (kexPayload m) 1000)) (5 + n.val) m else s

/-- One switch of epochs at a boundary: from S on the new epoch sends, and from S + 1 on the old one is erased (R476). -/
def switchEpoch (s : State) (w : EpochSwitch) : State :=
  let v := getKey s w.slot
  let s := if !w.stage ∧ w.stitch ≤ s.stc.count then
      setKey s w.slot { v with epoch := !v.epoch, seqOut := [] } else s
  let v := getKey s w.slot
  if w.stitch + 1 ≤ s.stc.count then
    let kept : SMap Nat := v.seqIn.filter fun e => decide ((e.1 / 65536 = 1) = (v.epoch = true))
    setKey s w.slot (if v.epoch then { v with key0 := 0, has0 := false, seqIn := kept } else { v with key1 := 0, has1 := false, seqIn := kept })
  else s
/-- The switches of epochs at a boundary (R476). -/
def switchEpochs (s : State) : State :=
  let count := s.stc.count
  let s := s.fab.switches.foldl switchEpoch s
  let left := (s.fab.switches.filter fun w => !decide (w.stitch + 1 ≤ count)).map fun w => if w.stitch ≤ count then { w with stage := true } else w
  { s with fab := { s.fab with switches := left } }

end Sys2Proof.Machine
end

