-- ==== Sys2Proof/Machine/PowerOps.lean ====
section
/-! DEFINITION. The budget mailbox, the dealing, the limiters, droop, gating, heat and the protections (R416 to R432, R446). -/

namespace Sys2Proof.Machine

/-- A die's power state. -/
def getDie (s : State) (d : Nat) : DiePower := smGet {} s.pwr.dies d
/-- A die's power state takes a value. -/
def setDie (s : State) (d : Nat) (v : DiePower) : State := { s with pwr := { s.pwr with dies := smSet {} s.pwr.dies d v } }
/-- A region or host-core domain (Table 16-3's numbers). -/
def getRegion (s : State) (i : Nat) : RegionPower := smGet {} s.pwr.regions i
/-- A region takes a value. -/
def setRegion (s : State) (i : Nat) (v : RegionPower) : State := { s with pwr := { s.pwr with regions := smSet {} s.pwr.regions i v } }
/-- The point a die runs at; the BOOT point until a step is taken (R418). -/
def pointOf (s : State) (d : Nat) : Nat := (getDie s d).point.getD (Config.bootPoint d).val
/-- The life-cycle states in which tests are allowed (R254, R431). -/
def testState (s : State) : Bool := decide (s.sec.lc = .manufacture ∨ s.sec.lc = .service)

/-! ### The mailbox and the heartbeat (R419, R420) -/

/-- A write of the mailbox (R419). -/
def execPwrMboxWrite (v : W64) (s : State) : Res :=
  clocked s fun s =>
    if 1200 ≤ bits v 11 0 ∧ bits v 11 0 ≤ 3600 ∧ bits v 15 12 = 0 ∧ bits v 63 33 = 0 then
      { setR s Reg.pwrMbox v with pwr := { s.pwr with writes := s.pwr.writes ++ [(s.now, v)] } }
    else raise s Reg.pwrStatus 0
/-- A write of PWR_LOOP, the heartbeat of the dealing (R420). -/
def execPwrLoopWrite (v : W64) (s : State) : Res :=
  clocked s fun s => { s with pwr := { s.pwr with loopSeen := true, sinceLoop := 0, loopStitch := v.extractLsb' 0 48 } }

/-! ### The package limiter (R417) -/

/-- B, the budget in force. -/
def budgetB (s : State) : Nat := bits s.pwr.inForce 11 0
/-- E, the excursion ceiling. -/
def ceilingE (s : State) : Nat :=
  if bitAt s.pwr.inForce 32 && decide (s.pwr.barred ≤ s.now) then min 4200 (budgetB s + 600) else budgetB s

/-- The package limiter's sample of each microsecond (R417). -/
def execPowerSample (watts : BitVec 13) (s : State) : Res :=
  clocked s fun s =>
    let s := advanceTo s (s.pwr.sampledAt + usT 1)
    let w := watts.toNat
    let above := decide (budgetB s < w)
    let peak := decide (ceilingE s < w)
    let p := s.pwr
    let s := { s with pwr := { p with
      sampledAt := s.now, now := w, sum := p.sum + w, samples := p.samples + 1
      run := if above then p.run + 1 else 0
      barred := if !above ∧ 0 < p.run then s.now + usT 10000 else p.barred
      clockStretch := if peak then true else p.clockStretch && above
      excursion := p.excursion && above } }
    if peak then raise s Reg.pwrStatus 2 else s

/-- A step to another V/F point begins; the limiter marks a step down (R422). -/
def stepTo (s : State) (d target : Nat) : State :=
  let v := getDie s d
  if target = pointOf s d then s
  else setDie s d { v with stepping := some (target, s.now), limited := v.limited || decide (target < pointOf s d), below := 0 }

/-- A V/F step that is under way is done (R422). -/
def finishStep (s : State) (d : Nat) : State :=
  let v := getDie s d
  match v.stepping with
  | some t => setDie s d { v with point := some t.1, stepping := none }
  | none => s

/-- A die's limiter steps down by one point, once a step under way is done. -/
def stepDown (s : State) (d : Nat) : State :=
  let s := finishStep s d
  stepTo s d (pointOf s d - 1)
/-- Samples above B for a millisecond set EXC_LIMIT and make every die step down (R417); its limiter's ticks go on stepping while they last. -/
def execExcursionLimit (s : State) : Res :=
  clocked s fun s =>
    if s.pwr.run < 1000 then s
    else
      let t := raise { s with pwr := { s.pwr with excursion := true } } Reg.pwrStatus 1
      if s.pwr.excursion then t else (List.range 6).foldl stepDown t

/-! ### Die and region limiters (R422, R423) -/

/-- A V/F step ends after 2 µs (R422). -/
def execVfStepDone (die : Fin 6) (s : State) : Res :=
  clocked s fun s => match (getDie s die.val).stepping with
    | some t => finishStep (advanceTo s (t.2 + usT 2)) die.val
    | none => s

/-- The tick of a die's limiter each 10 µs (R417, R418, R422, R429). -/
def execDieLimiterTick (die : Fin 6) (watts : BitVec 12) (s : State) : Res :=
  clocked s fun s =>
    let d := die.val
    let s := finishStep (advanceTo s ((getDie s d).tickAt + usT 10)) d
    let v := getDie s d
    let w := watts.toNat
    let low := s.pwr.dealtYet && decide (100 * w < 95 * v.dealt)
    let below := if low then v.below + 1 else 0
    let s := setDie s d { v with tickAt := s.now, sum := v.sum + w, samples := v.samples + 1, below := below }
    let down := (s.pwr.dealtYet && decide (v.dealt < w)) || decide (105 ≤ v.temp) || s.pwr.excursion
    let top := if v.sensorFailed then (Config.bootPoint d).val else 15
    if down then stepTo s d (pointOf s d - 1)
    else if 5 ≤ below ∧ pointOf s d < top then stepTo s d (pointOf s d + 1)
    else s

/-- The tick of a region's limiter each 10 µs: a C-die's regions are limited once budgets are dealt (R418, R423). -/
def execRegionLimiterTick (rgn : Fin 24) (watts : BitVec 12) (s : State) : Res :=
  clocked s fun s =>
    let i := rgn.val
    let s := advanceTo s ((getRegion s i).tickAt + usT 10)
    let v := getRegion s i
    let w := watts.toNat
    let limited := s.pwr.dealtYet && decide (i < 16) && !v.gated
    let below := if limited ∧ 100 * w < 95 * v.dealt then v.below + 1 else 0
    let v := { v with tickAt := s.now, sum := v.sum + w, samples := v.samples + 1, below := below }
    setRegion s i (if limited ∧ v.dealt < w then { v with stretch := min 8 (v.stretch + 1), below := 0 }
      else if 5 ≤ below then { v with stretch := v.stretch - 1, below := 0 } else v)

/-! ### Droop (R425) -/

/-- A droop detector trips: the domain's clock runs at twice its period (R425). -/
def execDroopTrip (rgn : Fin 24) (s : State) : Res :=
  clocked s fun s =>
    let v := getRegion s rgn.val
    if v.gated then s
    else countR (setRegion s rgn.val { v with droop := some s.now }) (Reg.pwrRgn rgn.val) 47 32 1
/-- The supply has stayed above the threshold for 64 cycles of the stretched clock (R425). -/
def execDroopRecover (rgn : Fin 24) (s : State) : Res :=
  clocked s fun s =>
    let v := getRegion s rgn.val
    match v.droop with
    | some t => setRegion (advanceTo s (t + if rgn.val < 16 then cycT 128 else nsT 40)) rgn.val { v with droop := none }
    | none => s

/-! ### Gating (R341, R426) -/

/-- The tensor engines of a region. -/
def regionTes (i : Nat) : List TeId := allTes.filter fun te => decide (te.val / 16 = i)
/-- Power leaves a region whose engines are all out of service (R426). -/
def regionOff (s : State) (i : Nat) : State :=
  if 16 ≤ i ∨ (regionTes i).any (fun te => decide ((getTe s te).svc ≠ .out)) then raise s Reg.pwrStatus 0
  else
    let v := getRegion s i
    setRegion s i { v with gated := true, dealt := 0, droop := none, stretch := 0, below := 0 }
/-- PWR_GATE KIND 0x1 (R426). -/
def execRegionOff (target : Byte) (s : State) : Res := clocked s fun s => regionOff s target.toNat
/-- A region returns and its engines are wiped; their service states stay (R426). -/
def regionOn (s : State) (i : Nat) : State :=
  if 16 ≤ i then raise s Reg.pwrStatus 0
  else
    let v := getRegion s i
    if v.gated then (regionTes i).foldl wipeTe (setRegion s i { v with gated := false }) else s
/-- PWR_GATE KIND 0x2 (R426). -/
def execRegionOn (target : Byte) (s : State) : Res := clocked s fun s => regionOn s target.toNat

/-- The lines of which an agent holds a copy. -/
def linesOf (s : State) (a : Nat) : List Nat := (s.coh.copies.filter fun e => decide (e.1 % 128 = a)).map (·.1 / 128)
/-- An agent gives up its copy of a line, writing back a dirty one. -/
def giveUp (h : Nat) (s : State) (line : Nat) : State :=
  let s := evictCopy s h line
  match getBuf s h line with
  | some b => if b.taken then setBuf s h line none else s
  | none => s
/-- A hart's core loses power: its caches are written back, its buffered stores are lost (R341). -/
def hostCoreOff (s : State) (h : Nat) : State :=
  if 80 ≤ h then raise s Reg.pwrStatus 0
  else
    let s := (linesOf s h).foldl (giveUp h) s
    { s with harts := smMod {} s.harts h fun c => { c with gated := true, stores := [], reservation := none } }
/-- PWR_GATE KIND 0x3 (R426). -/
def execHostCoreOff (target : Byte) (s : State) : Res := clocked s fun s => hostCoreOff s target.toNat
/-- A host core returns (R426). -/
def hostCoreOn (s : State) (h : Nat) : State :=
  if 80 ≤ h then raise s Reg.pwrStatus 0
  else { s with harts := smMod {} s.harts h fun c => { c with gated := false } }
/-- PWR_GATE KIND 0x4 (R426). -/
def execHostCoreOn (target : Byte) (s : State) : Res := clocked s fun s => hostCoreOn s target.toNat

/-! ### The dealing (R420, R421) -/

/-- One participant of a dealing. -/
structure Share where
  base : Nat
  demand : Nat
  budget : Nat
deriving DecidableEq, Repr

/-- What R421 gives a participant before the pool is shared out. -/
def mkShare (base drawn : Nat) (limited : Bool) : Share :=
  let demand := if limited then (drawn * 110 + 99) / 100 else (drawn * 105 + 99) / 100
  ⟨base, demand, if demand < base then demand else base⟩
/-- One round of sharing: the takers' parts, and what was not given. -/
def dealRound (pool : Nat) (l : List Share) : Nat × List Share :=
  let sum := ((l.filter fun x => decide (x.budget < x.demand)).map (·.base)).sum
  let give (x : Share) : Nat := if x.budget < x.demand ∧ sum ≠ 0 then min (x.demand - x.budget) (pool * x.base / sum) else 0
  (pool - (l.map give).sum, l.map fun x => { x with budget := x.budget + give x })
/-- Rounds until the pool is empty, no taker remains, or a round gives nothing. -/
def dealRounds : Nat → Nat → List Share → List Share
  | 0, _, l => l
  | n + 1, pool, l =>
    let r := dealRound pool l
    if r.1 = pool then r.2 else dealRounds n r.1 r.2
/-- The budgets that R421 gives to participants with their f, their drawn power and whether they are limited. -/
def dealTo (avail : Nat) (l : List (Nat × Nat × Bool)) : List Nat :=
  let total := (l.map (·.1)).sum
  let shares := l.map fun x => mkShare (x.1 * avail / total) x.2.1 x.2.2
  let spare := avail - (shares.map (·.base)).sum
  let pool := spare + (shares.map fun x => if x.demand < x.base then x.base - x.demand else 0).sum
  (dealRounds (pool + 1) pool shares).map (·.budget)

/-- A stack of a C-die is HOT (R252, R429). -/
def stackHot (s : State) (d : Nat) : Bool := (List.finRange 12).any fun st => decide (st.val / 3 = d) && flagR s (Reg.stkStatus st) 16

/-- The regions of a C-die are dealt its budget; a gated region takes no part (R421, R426). -/
def dealRegions (s : State) (d : Nat) : State :=
  let on := ((List.range 4).map (4 * d + ·)).filter fun i => !(getRegion s i).gated
  let budgets := dealTo (getDie s d).dealt (on.map fun i => (1, (getRegion s i).drawn, decide (0 < (getRegion s i).stretch)))
  (on.zip budgets).foldl (fun s p => setRegion s p.1 { getRegion s p.1 with dealt := p.2 }) s

/-- The mailbox value of a dealing: the last write made at least 1 µs before its boundary (R419). -/
def takeMailbox (s : State) : State :=
  let due := s.pwr.writes.filter fun w => decide (w.1 + usT 1 ≤ s.stc.last)
  { s with pwr := { s.pwr with
      inForce := (due.getLast?.map (·.2)).getD s.pwr.inForce
      writes := s.pwr.writes.filter fun w => !decide (w.1 + usT 1 ≤ s.stc.last) } }

/-- The dies whose sensors and power the delegate on H1 serves, under instructions from H0 (R11). -/
def delegated (d : Nat) : Bool := decide (d = 2 ∨ d = 3 ∨ d = 5)
/-- The way of an instruction of the primary management core to a die: through the delegate on H1 for the dies that it serves (R11). -/
def mgtWay (d : Nat) : List (Nat × Nat) :=
  if d = 4 then [] else if d = 5 then [(4, 5)] else if delegated d then [(4, 5), (5, d)] else [(4, d)]
/-- A die's budget reaches it, and its regions' (R11, R18, R410). -/
def giveBudget (s : State) (d budget : Nat) : State :=
  if delegated d && !s.boot.delegate then s
  else match mgtSend s (mgtWay d) 1 with
    | none => s
    | some s =>
      let v := getDie s d
      let b := if d < 4 && stackHot s d && s.pwr.dealtYet then min budget (v.dealt * 9 / 10) else budget
      let s := setDie s d { v with dealt := b }
      if d < 4 then dealRegions s d else s
/-- A dealing at a boundary (R420, R421); a die that the management traffic does not reach keeps its budget. -/
def dealPower (s : State) : State :=
  let s := takeMailbox s
  let dies := List.range 6
  let rest := s.pwr.avg - (dies.map fun d => (getDie s d).drawn).sum
  let budgets := dealTo (budgetB s - rest) (dies.map fun d => (if d < 4 then 620 else 220, (getDie s d).drawn, (getDie s d).limited))
  let s := (dies.zip budgets).foldl (fun s p => giveBudget s p.1 p.2) s
  let new := decide (s.pwr.dealtUnder ≠ some s.pwr.inForce)
  { s with pwr := { s.pwr with
      dealtYet := true, dealtUnder := some s.pwr.inForce
      ackSeq := if new then s.pwr.inForce.extractLsb' 16 16 else s.pwr.ackSeq
      ackStitch := if new then s.stc.count else s.pwr.ackStitch } }

/-- What a boundary does to power: averages of the stitch, the dealing, LAPSED at every boundary from the second without a write of PWR_LOOP, which the delegate on H1 reports once where it runs (R11; DEDUCED, log entry 147), and the LIMITED bits (R420 to R422). -/
def powerBoundary (s : State) : State :=
  let mean (sum n : Nat) : Nat := if n = 0 then 0 else sum / n
  let p := s.pwr
  let dies : SMap DiePower := p.dies.map fun e : Nat × DiePower => (e.1, { e.2 with drawn := mean e.2.sum e.2.samples, sum := 0, samples := 0 })
  let regions : SMap RegionPower := p.regions.map fun e : Nat × RegionPower => (e.1, { e.2 with drawn := mean e.2.sum e.2.samples, sum := 0, samples := 0 })
  let s := { s with pwr := { p with
    dies := dies, regions := regions, avg := mean p.sum p.samples, sum := 0, samples := 0
    sinceLoop := if p.loopSeen then p.sinceLoop + 1 else 0 } }
  let s := if p.loopSeen ∧ p.sinceLoop = 0 then dealPower s else s
  let s := if s.pwr.loopSeen ∧ 2 ≤ s.pwr.sinceLoop then raise s Reg.pwrStatus 3 else s
  let s := if s.pwr.loopSeen ∧ s.pwr.sinceLoop = 2 then
      place s { cls := 0x3A, action := 3, cause := 1, die := if s.boot.delegate then 5 else 4, d0 := s.pwr.loopStitch.setWidth 64 }
    else s
  let dies : SMap DiePower := (s.pwr.dies.map fun e : Nat × DiePower => (e.1, { e.2 with limited := false })).filter fun e => decide (e.2 ≠ {})
  let regions : SMap RegionPower := s.pwr.regions.filter fun e => decide (e.2 ≠ {})
  { s with pwr := { s.pwr with dies := dies, regions := regions } }

/-! ### Heat and the protections (R429 to R432, R446) -/

/-- A die's junction sensors are read each microsecond, whether or not firmware is running: its limiter has the reading at once, and THM_DIE and DIE_HOT of H0 take it as Seam brings it in class MGT, by way of H1 for the dies that the delegate serves once it runs (R11, R18, R429). -/
def execJunctionSensorRead (die : Fin 6) (temp : Byte) (s : State) : Res :=
  clocked s fun s =>
    let d := die.val
    let v := getDie s d
    let s := advanceTo s (v.lastValid + usT 1)
    let s := setDie s d { v with temp := temp.toNat, lastValid := s.now, sensorFailed := false }
    let way := if s.boot.delegate then ((mgtWay d).reverse.map fun p => (p.2, p.1)) else if d = 4 then [] else [(d, 4)]
    match mgtSend s way 1 with
    | none => s
    | some s =>
      let s := if fieldR s (Reg.thmDie d) 15 8 < temp.toNat then setFieldR s (Reg.thmDie d) 15 8 temp.toNat else s
      if 105 ≤ temp.toNat then raise s Reg.thmStatus d else s
/-- A die is held at or below its BOOT point, a step above it under way among what ends (R429). -/
def holdAtBoot (s : State) (d : Nat) : State :=
  let boot := (Config.bootPoint d).val
  let v := getDie s d
  let s := if (v.stepping.map fun t => decide (boot < t.1)).getD false then setDie s d { v with stepping := none } else s
  if boot < pointOf s d then stepTo s d boot else s
/-- A die's sensors have given no valid reading for a millisecond: the die is held at or below its BOOT point (R429). -/
def execDieSensorFail (die : Fin 6) (s : State) : Res :=
  clocked s fun s =>
    let d := die.val
    let v := getDie s d
    if v.sensorFailed then s
    else
      let s := advanceTo s (v.lastValid + usT 1000)
      let s := holdAtBoot (setDie s d { v with sensorFailed := true }) d
      place (raise s Reg.thmStatus (8 + d)) { cls := 0x34, action := 3, cause := 2, die := d, d0 := BitVec.ofNat 64 d }

/-- Every clock is gated and THERMTRIP_N asserted until power is removed (R431, R432). -/
def tripPackage (s : State) : State := { s with brd := { s.brd with gated := true, latched := true, thermtripN := false } }
/-- COOLANT_OK has been low for a time: for 2 µs or more while armed it stops the package (R431). -/
def execCoolantStop (lowNs : W32) (s : State) : Res :=
  if s.brd.latched then .next s
  else
    let low := decide (2000 ≤ lowNs.toNat)
    let s := { s with brd := { s.brd with coolantOk := !low } }
    .next (if low && flagR s Reg.thmCtrl 0 then tripPackage s else s)
/-- COOLANT_ARM is set, which stops the package where COOLANT_OK is low, or cleared in the test states alone (R431). -/
def thmCtrlWrite (s : State) (v : W64) : State :=
  if bitAt v 0 then (let s := setR s Reg.thmCtrl 1; if s.brd.coolantOk then s else tripPackage s)
  else if testState s then setR s Reg.thmCtrl 0 else s
/-- THM_CTRL_WRITE (R431). -/
def execThmCtrlWrite (v : W64) (s : State) : Res := clocked s fun s => thmCtrlWrite s v
/-- The comparator of a die trips at 125 °C (R432). -/
def execThermalTrip (_ : Fin 6) (s : State) : Res := clocked s tripPackage

/-- The harts of a die lose the stores that have not drained (R341). -/
def loseStores (die : Nat) (m : SMap HartState) : SMap HartState :=
  (m.map fun e : Nat × HartState => (e.1, if agentDie e.1 = die then { e.2 with stores := [] } else e.2)).filter fun e => decide (e.2 ≠ {})
/-- The Seam links of a die. -/
def linksOf (die : Nat) : List Nat := (List.range 7).filter fun l => (seamEnds l).any fun e => decide (e.1 = die)
/-- A die stops: what its movers and harts had not drained is lost, its stitch count stands, and its Seam links train again, as flits that fail make them (R341, R375, R446). -/
def stopDie (s : State) (d : Nat) : State :=
  let s := { s with
    brd := { s.brd with clockLost := setBit s.brd.clockLost d true }
    stc := { s.stc with dieCounts := smSet none s.stc.dieCounts d (some ((smGet none s.stc.dieCounts d).getD s.stc.count)) }
    cl := { s.cl with writes := s.cl.writes.filter fun e => decide (e.1 / 16 ≠ d) }
    harts := loseStores d s.harts }
  (linksOf d).foldl (fun s l => if linkUp s l then retrain s l else s) s
/-- A clock monitor finds REFCLK absent or a PLL out of lock: the die's domains stop, and a record is placed (R446). Which domains a PLL drives is not stated: the whole die (DESIGN CHOICE, log entry 148). -/
def execClockLoss (die : Fin 6) (pll : Option Byte) (s : State) : Res :=
  clocked s fun s =>
    let s := if bitAt s.brd.clockLost die.val then s else stopDie s die.val
    place s { cls := 0x39, action := 3, cause := if pll.isNone then 1 else 2, die := die.val
              d0 := BitVec.ofNat 64 ((pll.map (·.toNat)).getD 0) }

end Sys2Proof.Machine
end

