-- ==== Sys2Proof/Machine/Stacks.lean ====
section
/-! DEFINITION. The stack and deep-tier controllers: sensors, refresh, arbitration, scrub and repair (R241 to R255, R410, R411). -/

namespace Sys2Proof.Machine

/-- The controller of a stack. -/
def stackCtrl (st : StackId) : CtrlId := ⟨st.val, by have := st.isLt; omega⟩
/-- The controller of an H-die. -/
def deepCtrl (h : HDie) : CtrlId := ⟨12 + h.val, by have := h.isLt; omega⟩

/-! ### Sensors and refresh (R250 to R253) -/

/-- The refresh rate that a reading asks for: 0, 1, 2 for 1×, 2×, 4× (Table 9-3). -/
def riseRate (temp : Nat) : Nat := if 95 ≤ temp then 2 else if 85 ≤ temp then 1 else 0
/-- The rate to which a stack falls at a boundary, from its rate and the highest reading of the stitch (R250). -/
def fallRate (rate top : Nat) : Nat :=
  if rate = 2 ∧ top < 93 then (if top < 83 then 0 else 1) else if rate = 1 ∧ top < 83 then 0 else rate
/-- The rate in force: never below what REF_FORCE holds (R251). -/
def refreshRate (s : State) (st : StackId) : Nat := max (getCtrl s (stackCtrl st)).rate (min 2 (fieldR s (Reg.stkCtrl st) 2 1))

/-- A controller reads its stack's temperature, a microsecond after the reading before; the refresh rate may rise, and HOT and STACK_HOT may be set (R250, R252, R429). -/
def execStackSensorRead (st : StackId) (temp : Byte) (s : State) : Res :=
  clocked s fun s =>
    let v := getCtrl s (stackCtrl st)
    let s := advanceTo s (v.lastValid + usT 1)
    let t := temp.toNat
    let s := setCtrl s (stackCtrl st) { v with
      temp := t, maxTemp := max v.maxTemp t, lastValid := s.now, sensorFailed := false, rate := max v.rate (riseRate t) }
    if 105 ≤ t then raise (raise s (Reg.stkStatus st) 16) Reg.thmStatus 6 else s

/-- A sensor has given no valid reading for a millisecond: the stack goes to 4×, with a record (R252). -/
def execStackSensorFail (st : StackId) (s : State) : Res :=
  clocked s fun s =>
    let v := getCtrl s (stackCtrl st)
    if v.sensorFailed then s
    else
      let s := advanceTo s (v.lastValid + usT 1000)
      let s := setCtrl s (stackCtrl st) { v with rate := 2, sensorFailed := true }
      place (raise s (Reg.stkStatus st) 17) { cls := 0x34, action := 3, cause := 0x01, die := stackDie st.val, d0 := BitVec.ofNat 64 st.val }

/-- A controller issues a refresh command ahead of every class (R251). -/
def execRefresh (st : StackId) (s : State) : Res :=
  clocked s fun s =>
    let v := getCtrl s (stackCtrl st)
    setCtrl s (stackCtrl st) { v with refreshes := v.refreshes + 1 }

/-- A deep-tier controller takes a package's refresh rate from its indication (R253). -/
def execLpddrRefreshIndication (pkg : DeepId) (code : Byte) (s : State) : Res :=
  clocked s fun s =>
    let c := deepCtrl (if pkg.val < 9 then 0 else 1)
    let v := getCtrl s c
    setCtrl s c { v with rates := smSet 0 v.rates (pkg.val % 9) code.toNat }

/-! ### Arbitration and scrub (R247 to R249, R410, R411) -/

/-- The priority register of a controller. -/
def ctrlPrio (c : CtrlId) : Reg :=
  if h : c.val < 12 then Reg.stkPrio ⟨c.val, h⟩ else Reg.lpdPrio ⟨c.val - 12, by have := c.isLt; omega⟩
/-- The nominal transfer count of a stitch, in lines: 400 or 96 for each 10 ns (R249). -/
def nominalLines (s : State) (c : CtrlId) : Nat := (if c.val < 12 then 400 else 96) * s.stc.period
/-- Lines of P2 that a field in 1/1,024 units allows in a stitch. A share that is no whole number of lines is rounded down (DESIGN CHOICE, log entry 159). -/
def shareLines (s : State) (c : CtrlId) (field : Nat) : Nat := nominalLines s c * field / 1024
/-- P2_CAP in lines. -/
def capLines (s : State) (c : CtrlId) : Nat := shareLines s c (fieldR s (ctrlPrio c) 25 16)
/-- P2 has had less than it is owed at this time of the stitch (R248). -/
def p2Owed (s : State) (c : CtrlId) : Bool :=
  decide ((getCtrl s c).p2Served * (1024 * nsT (10 * s.stc.period)) < nominalLines s c * fieldR s (ctrlPrio c) 9 0 * (s.now - s.stc.last))

/-- The activities of P2 in turn: Tilth, mirroring, scrub with the rewriting of corrected lines, repair (R411). -/
def p2Activity : ReqKind → Nat
  | .migrate => 0
  | .mirror => 1
  | .scrub => 2
  | .correct => 2
  | _ => 3
/-- Lines that an activity has been served in the stitch, against its cap (Table 15-3). -/
def underCap (s : State) (c : CtrlId) (a : Nat) : Bool :=
  let v := getCtrl s c
  let cap (hi lo : Nat) : Nat := capLines s c * fieldR s Reg.stcP2share hi lo / 1024
  match a with
  | 0 => decide (v.migServed < cap 10 0)
  | 1 => decide (v.mirServed < cap 26 16)
  | 2 => decide (v.scrubServed < cap 42 32)
  | _ => true
/-- A controller scrubs: a stack once it is online, the deep tier always. -/
def scrubs (s : State) (c : CtrlId) : Bool := ctrlUp s c
/-- An activity has a request waiting; scrub always has its next line. -/
def p2Waits (s : State) (c : CtrlId) (a : Nat) : Bool :=
  (decide (a = 2) && scrubs s c) || (getCtrl s c).reqs.any fun r => decide (r.cls = .p2) && decide (p2Activity r.kind = a)
/-- The activity whose turn it is (R411). -/
def p2Turn (s : State) (c : CtrlId) : Option Nat :=
  (List.range 4).findSome? fun i =>
    let a := ((getCtrl s c).turn + 1 + i) % 4
    if p2Waits s c a && underCap s c a then some a else none

/-- What a controller serves next (R248): a waiting request by its place in the queue, a line of scrub, or nothing. -/
inductive Serve where
  | req (i : Nat)
  | scrub
  | idle

/-- The oldest request of a kind. -/
def oldestReq (v : Ctrl) (ok : MemReq → Bool) : Option Nat := v.reqs.findIdx? ok
/-- What P2 serves: the oldest request of the activity in turn. -/
def serveP2 (s : State) (c : CtrlId) : Serve :=
  match p2Turn s c with
  | none => .idle
  | some a =>
    match oldestReq (getCtrl s c) fun r => decide (r.cls = .p2) && decide (p2Activity r.kind = a) with
    | some i => .req i
    | none => if a = 2 then .scrub else .idle
/-- The rule of R248. -/
def nextServe (s : State) (c : CtrlId) : Serve :=
  let v := getCtrl s c
  let p2 := (p2Turn s c).isSome && decide (v.p2Served < capLines s c)
  if p2 && p2Owed s c then serveP2 s c
  else match oldestReq v fun r => decide (r.cls = .p1) && r.promoted with
  | some i => .req i
  | none => match oldestReq v fun r => decide (r.cls = .p0) with
    | some i => .req i
    | none => match oldestReq v fun r => decide (r.cls = .p1) with
      | some i => .req i
      | none => if p2 then serveP2 s c else .idle

/-- Lines in a controller's range. -/
def rangeLines (c : CtrlId) : Nat := if c.val < 12 then 1207959552 else 12884901888
/-- The direct address of a line of a controller's range, in ascending order (R13, R244). -/
def rangeAddr (c : CtrlId) (i : Nat) : Nat :=
  if c.val < 12 then c.val * 2 ^ 37 + 64 * i
  else deepBase + (2 * (i / 64) + (c.val - 12)) * 4096 + i % 64 * 64

/-- Scrub reads and corrects the next line of the range; an uncorrectable one has a record and stops nothing (R411). Of a deep-tier line it needs the check line (R245). -/
def scrubLine (s : State) (c : CtrlId) : State :=
  let s := if c.val < 12 then s else (needCheck s (c.val - 12) .p2 (rangeAddr c (getCtrl s c).scrubNext / 64) .scrub).1
  let v := getCtrl s c
  let wrap := decide (rangeLines c ≤ v.scrubNext + 1)
  match decodeRaw s (rangeAddr c v.scrubNext) with
  | (s, r) =>
    let v := getCtrl s c
    let s := setCtrl s c { v with
      scrubNext := if wrap then 0 else v.scrubNext + 1, scrubPasses := v.scrubPasses + (if wrap then 1 else 0)
      scrubServed := v.scrubServed + 1, p2Served := v.p2Served + 1, turn := 2 }
    match r with
    | .inl b => place s { cls := b.cls, action := 3, cause := b.cause, die := ctrlDie c, addr := b.addr, d0 := b.d0, d1 := b.d1 }
    | .inr _ => s

/-- A request of a controller is served and counted (R248). -/
def serveReq (s : State) (c : CtrlId) (i : Nat) : State :=
  let v := getCtrl s c
  match v.reqs[i]? with
  | none => s
  | some r =>
    let v := { v with reqs := v.reqs.eraseIdx i }
    match r.cls with
    | .p2 =>
      let a := p2Activity r.kind
      setCtrl s c { v with
        p2Served := v.p2Served + 1, turn := a
        migServed := v.migServed + (if a = 0 then 1 else 0), mirServed := v.mirServed + (if a = 1 then 1 else 0)
        scrubServed := v.scrubServed + (if a = 2 then 1 else 0) }
    | _ => setCtrl s c { v with p0p1Served := v.p0p1Served + 1 }

/-- A controller runs: its die has its clock, and a stack is not in the self-refresh of a compute reset (Table 17-8). -/
def ctrlRuns (s : State) (c : CtrlId) : Bool :=
  !(bitAt s.brd.clockLost (ctrlDie c)) && !(decide (c.val < 12) && decide (2 ≤ s.err.phase))

/-- A memory controller serves the next line transfer (R248). -/
def execControllerServe (ctrl : CtrlId) (s : State) : Res :=
  clocked s fun s =>
    if !ctrlRuns s ctrl then s
    else match nextServe s ctrl with
      | .req i => noteProgress (serveReq s ctrl i) 6 ctrl.val
      | .scrub => noteProgress (scrubLine s ctrl) 6 ctrl.val
      | .idle => s

/-- A P1 request that has waited longer than P1_AGE is promoted (R248). -/
def execP1Promote (ctrl : CtrlId) (s : State) : Res :=
  clocked s fun s =>
    let v := getCtrl s ctrl
    match v.reqs.findIdx? fun r => decide (r.cls = .p1) && !r.promoted with
    | none => s
    | some i =>
      let s := advanceTo s (((v.reqs[i]?.map (·.since)).getD 0) + usT (fieldR s (ctrlPrio ctrl) 39 32))
      setCtrl s ctrl { v with reqs := v.reqs.modify i fun r => { r with promoted := true } }

/-! ### Repair (R254, R255, Table 9-4) -/

/-- The test window acts: MANUFACTURE or SERVICE, and the stack offline (R254). -/
def testOpen (s : State) (st : StackId) : Bool :=
  decide (s.sec.lc = .manufacture ∨ s.sec.lc = .service) && !(flagR s (Reg.stkCtrl st) 0)
/-- A repair command is one of Table 9-4. -/
def repairOk (v : W64) : Bool :=
  match bits v 2 0 with
  | 1 => decide (bits v 41 39 ≤ 4)
  | 2 => true
  | 3 => true
  | _ => false
/-- A write of STK_TEST_CMD (R254, R255). -/
def testCommand (s : State) (st : StackId) (v : W64) : State :=
  let c := stackCtrl st
  let k := getCtrl s c
  if !testOpen s st || k.busy then raise s (Reg.stkStatus st) 18
  else if repairOk v then setCtrl s c { k with busy := true, testCmd := v }
  else setCtrl s c { k with testCmd := v, result := 3 }

/-- Lane repair maps a failed lane to a spare (R254). -/
def execLaneRepair (st : StackId) (v : W64) (s : State) : Res := clocked s fun s => testCommand s st v
/-- Soft PPR repairs a row until power-off (R254). -/
def execSoftPpr (st : StackId) (v : W64) (s : State) : Res := clocked s fun s => testCommand s st v
/-- Hard PPR repairs a row for good (R254). -/
def execHardPpr (st : StackId) (v : W64) (s : State) : Res := clocked s fun s => testCommand s st v

/-- Hard repair rows left in a pseudo-channel (Table 9-7). -/
def pprLeft (s : State) (st : StackId) (pc : Nat) : Nat :=
  (Config.pprLeft (64 * st.val + pc)).toNat - smGet 0 (getCtrl s (stackCtrl st)).pprUsed pc

/-- No repair is left for a command: its bank's soft repair is in use, or its pseudo-channel has no hard one left (R254, Table 9-4). -/
def noSpare (s : State) (st : StackId) (v : W64) : Bool :=
  let pc := bits v 8 3
  match bits v 2 0 with
  | 2 => (getCtrl s (stackCtrl st)).softUsed.contains (64 * bits v 13 9 + pc)
  | 3 => decide (pprLeft s st pc = 0)
  | _ => false
/-- A repair command ends (R255): a row that has been replaced holds undefined contents. -/
def execRepairDone (st : StackId) (result : Fin 4) (s : State) : Res :=
  clocked s fun s =>
    let c := stackCtrl st
    let k := getCtrl s c
    if !k.busy then s
    else
      let v := k.testCmd
      let pc := bits v 8 3
      let bank := 64 * bits v 13 9 + pc
      let r := if noSpare s st v then 1 else result.val
      let k := { k with busy := false, result := r }
      if r ≠ 0 then setCtrl s c k
      else match bits v 2 0 with
        | 1 => setCtrl s c { k with lanes := smSet 0 k.lanes (8 * (pc / 2) + bits v 41 39) (bits v 38 32 + 1) }
        | 2 =>
          let (n, s) := draw s
          setCtrl s c { k with softUsed := k.softUsed ++ [bank], undef := ⟨v, n, []⟩ :: k.undef }
        | _ =>
          let (n, s) := draw s
          setCtrl s c { k with pprUsed := smMod 0 k.pprUsed pc (· + 1), undef := ⟨v, n, []⟩ :: k.undef }

/-- A boundary closes a controller's stitch (R248, R250, Table 9-7). -/
def ctrlBoundary (s : State) (c : CtrlId) : State :=
  let v := getCtrl s c
  setCtrl s c { v with
    p2Last := v.p2Served, p0p1Last := v.p0p1Served
    p2Served := 0, p0p1Served := 0, migServed := 0, mirServed := 0, scrubServed := 0
    rate := if v.sensorFailed then v.rate else fallRate v.rate v.maxTemp, maxTemp := 0 }

end Sys2Proof.Machine
end

