-- ==== Sys2Proof/Machine/StitchOps.lean ====
section
/-! DEFINITION. The stitch: edges, boundaries and everything that a boundary does (R233 to R235, R401 to R415, R427, R428, R450, R451). -/

namespace Sys2Proof.Machine

/-! ### Counting the stitch's cycles (R233, R234) -/

/-- An interval joins a list sorted by first cycle. -/
def insertSpan (x : Nat × Nat) : List (Nat × Nat) → List (Nat × Nat)
  | [] => [x]
  | y :: t => if x.1 ≤ y.1 then x :: y :: t else y :: insertSpan x t
/-- Intervals in order of their first cycles. -/
def sortSpans (l : List (Nat × Nat)) : List (Nat × Nat) := l.foldl (fun acc x => insertSpan x acc) []
/-- How many cycles at least one of some intervals holds between two bounds. -/
def cyclesIn (l : List (Nat × Nat)) (lo hi : Nat) : Nat :=
  ((sortSpans l).foldl (fun (a : Nat × Nat) x =>
    let from' := max x.1 a.1
    let to' := min x.2 hi
    if from' < to' then (to', a.2 + (to' - from')) else a) (lo, 0)).2
/-- What remains of intervals after a cycle. -/
def spansAfter (l : List (Nat × Nat)) (cyc : Nat) : List (Nat × Nat) := l.filter fun x => decide (cyc < x.2)

/-- RATIO of a slot (R234). -/
def slowRatioOf (busy stalled : Nat) : Nat :=
  if busy = 0 then 0 else if busy = stalled then 0xFFFF else min 0xFFFF (256 * busy / (busy - stalled))

/-- Bank conflicts cost a slot cycles only where another context is resident on its engine (R61, R233). -/
def sharesTe (s : State) (c : CtxId) : Bool := (resident s c.te).any fun d => decide (d ≠ c)
/-- The cycles of a stitch that a slot has lost to bank conflicts, a free value among those that are neither progress nor stalled otherwise: the banks that addresses lie in are not stated (R61, R233). -/
def conflictCycles (s : State) (c : CtxId) (neither : Nat) : Nat × State :=
  if sharesTe s c then
    let d := draw s
    (min (Config.bankConflicts d.1) neither, d.2)
  else (0, s)
/-- A slot's counts of the stitch that ends, its slow-down record, and its hang check (R234, R235, R451). -/
def slotBoundary (s : State) (c : CtxId) (lo hi : Nat) : State :=
  let v := getSlot s c
  match v.ctx with
  | none => setSlot s c { v with slowBusy := 0, slowStalled := 0, slowRatio := 0, slowHold := v.slowHold - 1, progress := [], stalled := [] }
  | some x =>
    let lo := max lo v.since
    let prog := cyclesIn v.progress lo hi
    let held := cyclesIn (v.progress ++ v.stalled) lo hi
    let (conflicts, s) := conflictCycles s c (hi - lo - held)
    let busy := held + conflicts
    let stalled := busy - prog
    let ratio := slowRatioOf busy stalled
    let hold := v.slowHold - 1
    let tell := decide (fieldR s Reg.teCtrl 31 16 ≤ ratio) && decide (hold = 0)
    let idle := if 0 < prog then 0 else x.idle + 1
    let limit := fieldR s (Reg.errWdog 0) 7 0
    let hung := decide (s.boot.phase = 8) && decide (limit ≠ 0) && decide (limit ≤ idle) && !x.hangReported
    let s := setSlot s c { v with
      slowBusy := busy, slowStalled := stalled, slowRatio := ratio
      slowHold := if tell then fieldR s Reg.teCtrl 15 8 else hold
      progress := spansAfter v.progress hi, stalled := spansAfter v.stalled hi
      ctx := some { x with idle := idle, hangReported := (x.hangReported && decide (prog = 0)) || hung } }
    let s := if tell then place s (ctxRec c x.launch { cls := 0x21, d0 := BitVec.ofNat 64 busy, d1 := BitVec.ofNat 64 stalled, d2 := BitVec.ofNat 64 ratio }) else s
    if hung then place s (ctxRec c x.launch { cls := 0x10, addr := x.lastPc, d0 := BitVec.ofNat 64 idle }) else s

/-- Every slot that the state lists. -/
def listedSlots (s : State) : List CtxId :=
  (s.eng.slots.map (·.1)).filterMap fun k => if h : k / 4 < 256 then some (ctxAt ⟨k / 4, h⟩ (k % 4)) else none
/-- Every engine that the state lists. -/
def listedTes (s : State) : List TeId := (s.eng.te.map (·.1)).filterMap fun k => if h : k < 256 then some ⟨k, h⟩ else none

/-- What an engine's contexts have been doing at a boundary counts until there: a weight load, a wait at R77, drains that stand behind another's, and issue cycles lost to others by a context that nothing holds back (R233). -/
def accountWaits (hi : Nat) (s : State) (te : TeId) : State :=
  let t := getTe s te
  let s := match t.running with
    | some r =>
      let c : CtxId := ⟨te, r.mma.slot⟩
      let s := match r.loadStart, r.loaded with
        | some c0, none => if c0 < hi ∧ !t.mustExercise then progressed s c c0 (min hi (c0 + loadCycles r.form (rateOf (mmaFmts r.mma).1 (mmaFmts r.mma).2) (mmaFmts r.mma).2)) else s
        | _, _ => s
      match r.heldFrom with
      | some h => if h < hi then stalledFor s c h hi else s
      | none => s
    | none => s
  let s := drainsStand s te hi
  let s := allSlots.foldl (fun s k =>
    let c : CtxId := ⟨te, k⟩
    if ((getCtx s c).map fun x => x.stop.isNone && !x.ended && decide (x.wait = 0) && x.hold.isEmpty).getD false then bookLost s c else s) s
  setTe s te { getTe s te with issues := [] }
/-- The counts of R234, and the energy that they divide (R428). Its records carry the count of the stitch that has ended (DESIGN CHOICE, log entry 158). -/
def slowBoundary (s : State) (lo hi : Nat) : State :=
  let s := (listedTes s).foldl accountArray s
  let s := (listedTes s).foldl (accountWaits hi) s
  (listedSlots s).foldl (fun s c => slotBoundary s c lo hi) s

/-- Energy of the stitch: each engine's estimate is divided among its contexts in proportion to their BUSY counts; everything else is not attributed (R428). -/
def energyBoundary (s : State) : State :=
  let (n, s) := draw s
  let busyOf (c : CtxId) : Nat := (getSlot s c).slowBusy
  let shared := (listedSlots s).filter fun c => decide (0 < busyOf c)
  let s := shared.foldl (fun s c =>
    match getCtx s c with
    | none => s
    | some x =>
      let total := (allSlots.map fun k => busyOf ⟨c.te, k⟩).sum
      let part := (Config.teEnergy (256 * n + c.te.val)).toNat * busyOf c / total
      { s with pwr := { s.pwr with energy := smMod 0 s.pwr.energy x.launch.part.val (· + BitVec.ofNat 64 part) } }) s
  { s with pwr := { s.pwr with unattr := s.pwr.unattr + Config.restEnergy n } }

/-- The step margin of the stitch that ends, of a period in 10 ns units (R427). -/
def marginBoundary (s : State) (period : Nat) : State :=
  if !flagR s Reg.pwrMarginCfg 32 then { s with stc := { s.stc with marginAt := none } }
  else
    let last := match s.stc.marginAt with
      | some t => period - (t - s.stc.last) / 30
      | none => 0
    let s := setFieldR s Reg.pwrMargin 20 0 (min last 0xFFFFF + (if s.stc.marginAt.isNone then 2 ^ 20 else 0))
    let s := if last < fieldR s Reg.pwrMargin 51 32 then setFieldR s Reg.pwrMargin 51 32 last else s
    { s with stc := { s.stc with marginAt := none } }

/-! ### Watchdogs and overload (R414, R450) -/

/-- A transfer that a cluster mover still has to make: a tile-to-tile move and a ROUTE are other units' (R130, Table 17-5). -/
def moverHas (o : Op) : Bool := !o.performed && decide (o.kind ≠ .route ∧ o.kind ≠ .tmov false ∧ o.kind ≠ .signal)
/-- A RETURN of a C-die is open: packets of it wait to be sent (R207, R212). -/
def returnOpen (s : State) (d : Nat) : Bool :=
  (s.fab.links.any fun l => l.2.sendQ.any fun q => (q.owner.map fun o => decide ((dieOf o.1.te).val = d)).getD false)
    || s.fab.seam.any fun m => match m.queued with
      | some (_, q) => (q.owner.map fun o => decide ((dieOf o.1.te).val = d)).getD false
      | none => false
/-- The units of Table 17-5 that have work pending: unit code, number, and die. -/
def pendingUnits (s : State) : List (Nat × Nat × Nat) :=
  let rings := (s.orf.rings.filter fun r => ringActive r.2 || (ringOn s r.1 && decide (0 < ringNew r.2))).map fun r => (1, r.1, 4)
  let queued := s.eng.te.any fun e => !e.2.queue.isEmpty
  let placing := if queued then
      ((List.range 4).filter fun d => allTes.any fun te => decide ((dieOf te).val = d) && takesLaunches s te && (launchFor s te).isSome).map fun d => (2, d, d)
    else []
  let movers := ((List.range 64).filter fun k =>
    decide ((smGet [] s.cl.writes k) ≠ [])
      || (listedSlots s).any fun c => decide ((clusterOf c.te).val = k)
        && ((getCtx s c).map fun x => x.ops.any moverHas).getD false).map fun k => (3, k, k / 16)
  let disp := ((List.range 4).filter fun d => decide ((smGet [] s.dsp.routes d) ≠ []) || returnOpen s d).map fun d => (4, d, d)
  let sessions := ((List.range 2).filter fun h => s.mir.commits.any fun w => decide (w.session / 32768 = h) && !w.failed).map fun h => (5, h, 4 + h)
  let ctrls := (s.ctrls.filter fun c => !c.2.reqs.isEmpty).map fun c => (6, c.1, if c.1 < 12 then c.1 / 3 else c.1 - 8)
  let writer := if s.orf.rings.any (fun r => r.2.fetched.any fun d => d.done && (!dsOrder d.raw || d.flushed)) then [(7, 0, 4)] else []
  rings ++ placing ++ movers ++ disp ++ sessions ++ ctrls ++ writer

/-- The stall watchdogs at a boundary (R450). -/
def stallBoundary (s : State) : State :=
  let on := flagR s (Reg.errWdog 0) 8 && decide (s.boot.phase = 8)
  let key (u : Nat × Nat × Nat) : Nat := 4096 * u.1 + u.2.1
  let units := if on then pendingUnits s else []
  let told : SMap Bool := s.err.stallTold.filter fun e => !smGet false s.err.progress e.1
  let stuck := units.filter fun u => smGet false s.err.pending (key u) && !smGet false s.err.progress (key u) && !smGet false told (key u)
  let s := stuck.foldl (fun s u => place s { cls := 0x38, action := 3, cause := u.1, die := u.2.2, d0 := BitVec.ofNat 64 u.2.1 }) s
  { s with err := { s.err with
      progress := []
      pending := units.foldl (fun m u => smSet false m (key u) true) []
      stallTold := stuck.foldl (fun m u => smSet false m (key u) true) told } }

/-- The largest RATIO of the last stitch, with its slot. -/
def worstSlot (s : State) : Nat × Option CtxId :=
  (listedSlots s).foldl (fun a c => if a.1 < (getSlot s c).slowRatio then ((getSlot s c).slowRatio, some c) else a) (0, none)

/-- HELD of the stitch that ends, and the overload check (R414). -/
def overloadBoundary (s : State) (length : Nat) : State :=
  let held := s.orf.heldTime + (match s.orf.heldSince with | some t => s.now - t | none => 0)
  let s := { s with orf := { s.orf with heldTime := 0, heldSince := s.orf.heldSince.map fun _ => s.now } }
  let worst := worstSlot s
  let stitches := fieldR s Reg.stcOvl 15 8
  let above := decide (fieldR s Reg.stcOvl 7 0 * length ≤ held * 256)
  let run := if above then s.stc.overFor + 1 else 0
  let tell := above && decide (stitches ≠ 0) && decide (stitches ≤ run) && !s.stc.overTold
  let s := { s with stc := { s.stc with
    held := held / 30, maxRatio := worst.1, overFor := run, overTold := (s.stc.overTold && above) || tell } }
  if !tell then s
  else
    let r : Rec := { cls := 0x22, d0 := BitVec.ofNat 64 (held / 30), d1 := BitVec.ofNat 64 worst.1 }
    let r := match worst.2 with
      | some c => { r with te := c.te.val, slot := c.slot.val, teValid := true
                           job := ((getCtx s c).map (·.launch.job)).getD 0xFFFF, ctx := ((getCtx s c).map (·.launch.cid.toNat)).getD 0 }
      | none => r
    place (raise s Reg.stcStatus 6) r

/-! ### Ticks and counts (R406, R408) -/

/-- The tick entries of the C-dies (R408). -/
def ticks (s : State) : State :=
  ((List.range 4).map fun d => (List.range 8).map fun k => (d, k)).flatten.foldl (fun s p =>
    let v := getR s (Reg.stcTick p.1 p.2)
    let key := 8 * p.1 + p.2
    if !bitAt v 32 || bitAt s.brd.clockLost p.1 then s
    else match handleKey (v.truncate 32) with
      | some t => tallyAdd s t 1
      | none =>
        if smGet false s.stc.tickTold key then s
        else
          let s := { s with stc := { s.stc with tickTold := smSet false s.stc.tickTold key true } }
          place s { cls := 0x09, action := 3, cause := 2, die := p.1, d0 := v &&& 0xFFFFFFFF, d1 := BitVec.ofNat 64 (p.1 + 256 * p.2) }) s

/-- The count of a die: H0's, but for one that has stood without its clock. -/
def dieCount (s : State) (d : Nat) : BitVec 48 := (smGet none s.stc.dieCounts d).getD s.stc.count
/-- A die's count reaches H0 in class MGT and is compared with H0's (R406). -/
def compareCount (s : State) (d : Nat) : State :=
  match mgtSend s [(d, 4)] 1 with
  | none => s
  | some s =>
    let c := dieCount s d
    if c = s.stc.count then s
    else place (raise s Reg.stcStatus 5) { cls := 0x35, action := 3, cause := 2, die := d, d0 := s.stc.count.setWidth 64, d1 := c.setWidth 64 }
/-- Every die sends its count to H0, but for one without its clock (R406, R446). -/
def compareCounts (s : State) : State :=
  if bitAt s.brd.clockLost 4 then s
  else ([0, 1, 2, 3, 5].filter fun d => !(s.brd.clockLost.getLsbD d)).foldl compareCount s

/-- Every port of XF and of the mirror ports that is up sends SYNC (R391). -/
def sendSyncs (s : State) : State :=
  ((s.fab.links.map (·.1)).filter fun l => decide (7 ≤ l ∧ l ≠ 23) && linkUp s l).foldl (fun s l =>
    sendSync (setLink s l { getLink s l with syncSent := s.stc.count.toNat }) l) s

/-- Engines that are joining enter service, and every patrol allowance begins anew (R238, R412); a compute reset keeps joining engines where they are (R236). -/
def joinEngines (s : State) : State :=
  let s := if s.err.phase ≠ 0 then s
    else (listedTes s).foldl (fun s te => if (getTe s te).svc = .joining then setTe s te { getTe s te with svc := .inService } else s) s
  newAllowance { s with stc := { s.stc with patrolIntervals := 0 } }

/-- An open route's deadline is no later than the boundary that ends its stitch (R208). -/
def routeBoundary (s : State) (t : Nat) : State :=
  { s with dsp := { s.dsp with routes := s.dsp.routes.map fun d => (d.1, d.2.map fun r => { r with deadline := min r.deadline t }) } }

/-- The boundaries since an event, after one at `t`: an event at that time falls after it (R7). -/
def passed (t since n : Nat) : Nat := if since < t then n + 1 else n
/-- A stitch boundary counts for every limit that is given in stitches (R7): invalidations (R286), the pause of a move (R294), and the copies that wait for a mirror partner (R195). -/
def countLimits (s : State) : State :=
  let t := s.stc.last
  let pend : SMap (Option XltPend) := s.xlt.pend.map fun e => (e.1, e.2.map fun p => { p with boundaries := passed t p.since p.boundaries })
  let run := s.xlt.run.map fun r => { r with boundaries := passed t r.pausedAt r.boundaries }
  { s with
    xlt := { s.xlt with pend := pend, run := run }
    mir := { s.mir with
      commits := s.mir.commits.map fun w => { w with boundaries := passed t w.since w.boundaries }
      initial := s.mir.initial.map fun i => { i with boundaries := passed t i.since i.boundaries } } }
/-- The bank whose parity the new count has is filled anew: its rows, and the TALLY record of its slots (R206). -/
def freshBanks (s : State) : State :=
  let other (k : Nat) : Bool := decide (k % 2 ≠ s.stc.count.toNat % 2)
  { s with dsp := { s.dsp with fill := s.dsp.fill.filter fun e => other e.1, badTally := s.dsp.badTally.filter fun e => other e.1 } }

/-! ### Boundaries (R402 to R409) -/

/-- The counts of the dies that differ after a boundary: a die with its clock counts, or takes the load; one without stands (R406, R407, R446). -/
def countDies (s : State) (load : Option (BitVec 48)) : SMap (Option (BitVec 48)) :=
  s.stc.dieCounts.filterMap fun e =>
    if bitAt s.brd.clockLost e.1 then some e else if load.isSome then none else some (e.1, e.2.map (· + 1))
/-- The stitch blocks' own part of a boundary: the count, the last pending load, and the last pending PERIOD and TOL (R405, R409). -/
def countBoundary (s : State) (t : Nat) : State :=
  let c := s.stc
  let early (at_ : Nat) : Bool := decide (at_ + usT 1 ≤ t)
  let load := (c.nextLoad.filter fun x => early x.2).getLast?
  let per := (c.nextPeriod.filter fun x => early x.2.2).getLast?
  { s with stc := { c with
    last := t, edge := none, mgt := []
    dieCounts := countDies s (load.map (·.1))
    count := match load with | some x => x.1 | none => c.count + 1
    nextLoad := c.nextLoad.filter fun x => !early x.2
    period := match per with | some x => x.1 | none => c.period
    tol := match per with | some x => x.2.1 | none => c.tol
    nextPeriod := c.nextPeriod.filter fun x => !early x.2.2 } }
/-- Only the stitch blocks run: from the first start's RESET phase until power is removed they go on through every reset (R24, R494). -/
def stitchAlone (s : State) : Bool := !running s || decide (s.boot.phase = 1 ∨ s.boot.failPhase = 1)

/-- A boundary at a time (R409). -/
def boundary (s : State) (t : Nat) : State :=
  if stitchAlone s then countBoundary (advanceTo s t) t else
  let start := s.stc.last
  let s := advanceTo s t
  let lo := start / 2
  let hi := t / 2
  let s := routeBoundary (slowBoundary s lo hi) t
  let s := marginBoundary (energyBoundary s) s.stc.period
  let s := freshBanks (countLimits (countBoundary s t))
  let s := (List.finRange 14).foldl ctrlBoundary s
  let s := sendSyncs (capResume (compareCounts (joinEngines s)))
  let s := switchEpochs (takeOver s)
  let s := stallBoundary (overloadBoundary s (t - start))
  powerBoundary (ticks s)

/-- P in the model's unit of time. -/
def periodT (s : State) : Nat := nsT (10 * s.stc.period)
/-- W in the model's unit of time. -/
def tolT (s : State) : Nat := nsT (10 * s.stc.tol)
/-- EDGE_OFFSET takes a difference of times (R402 to R404). -/
def setOffset (s : State) (t base : Nat) : State :=
  let d : W32 := if base ≤ t then BitVec.ofNat 32 ((t - base) / 3) else 0 - BitVec.ofNat 32 ((base - t) / 3)
  { s with stc := { s.stc with offset := d } }

/-- The stitch blocks run from the end of RESET on (R494), and no reset short of a power cycle stops them (R24). -/
def stitchRuns (s : State) : Bool := !stitchAlone s || (s.brd.stitchUp && s.brd.pwrGood && !s.brd.gated && !s.brd.latched)
/-- A command of the stitch blocks. -/
def stitching (s : State) (f : State → State) : Res := .next (if stitchRuns s then f s else s)

/-- No edge has come by P + W: a substitute boundary, and holdover begins (R402, R403). -/
def beginHoldover (s : State) : State :=
  let e := s.stc.edge
  let s := boundary s (s.stc.last + periodT s + tolT s)
  let s := { s with stc := { s.stc with holdover := true, edge := e } }
  let s := countR (raise s Reg.stcStatus 1) Reg.stcEvt 31 16 1
  place s { cls := 0x35, action := 3, cause := 1, d0 := s.stc.count.setWidth 64 }

/-- An edge that no window takes: during holdover it has returned (R403). -/
def edgeReturned (s : State) (t : Nat) : State :=
  let p := periodT s
  let k := (t - s.stc.last) / p
  let near := if p ≤ 2 * ((t - s.stc.last) % p) then s.stc.last + (k + 1) * p else s.stc.last + k * p
  raise (setOffset s t near) Reg.stcStatus 4

/-- An accepted edge is treated by its time (R402 to R404). -/
def treatEdge (s : State) (t : Nat) : State :=
  let p := periodT s
  let w := tolT s
  let d := t - s.stc.last
  if !s.stc.holdover then
    if d < p - w then countR (raise s Reg.stcStatus 3) Reg.stcEvt 15 0 1
    else if d ≤ p + w then boundary (setOffset s t (s.stc.last + p)) t
    else edgeReturned (beginHoldover s) t
  else match s.stc.armed with
    | none => edgeReturned s t
    | some at_ =>
      if at_ ≤ t ∧ p ≤ 2 * d ∧ 2 * d ≤ 3 * p then
        let s := boundary (setOffset s t (s.stc.last + p)) t
        { s with stc := { s.stc with holdover := false, armed := none } }
      else if 3 * p < 2 * d then
        let s := boundary s (s.stc.last + p + p / 2)
        edgeReturned { s with stc := { s.stc with armed := none } } t
      else edgeReturned s t

/-- An edge that has stayed high for 20 ns is accepted (R401, R402). -/
def acceptEdge (s : State) : State :=
  match s.stc.edge with
  | none => s
  | some t => advanceTo (treatEdge { s with stc := { s.stc with edge := none } } t) (t + nsT 20)
/-- A rising edge arrives on STITCH_IN, so many nanoseconds after the last boundary, and the input stays high for so many: an input that falls before 20 ns is not accepted (R401). The edge before, which must have been accepted by then, comes first. -/
def execStitchEdge (ns : StitchPulse) (s : State) : Res :=
  stitching s fun s =>
    let t := s.stc.last + nsT ns.ns.toNat
    if t < s.now then s
    else
      let s := advanceTo (acceptEdge s) t
      if ns.high.toNat < 20 then s else { s with stc := { s.stc with edge := some t } }
/-- STITCH_EDGE_ACCEPT (R401, R402). -/
def execStitchEdgeAccept (s : State) : Res := stitching s acceptEdge

/-- No edge by P + W (R402). -/
def execSubstituteBoundary (s : State) : Res :=
  stitching s fun s =>
    let due := s.stc.last + periodT s + tolT s
    let waits := match s.stc.edge with | some t => decide (t ≤ due) | none => false
    if s.stc.holdover || waits then s else beginHoldover s
/-- A substitute boundary every P in holdover (R403). -/
def execHoldoverBoundary (s : State) : Res :=
  stitching s fun s =>
    if !s.stc.holdover || s.stc.armed.isSome then s
    else
      let e := s.stc.edge
      let s := boundary s (s.stc.last + periodT s)
      { s with stc := { s.stc with edge := e } }
/-- RELOCK arms a re-lock in holdover (R404). -/
def stcRelock (s : State) : State :=
  if s.stc.holdover && s.stc.armed.isNone then { s with stc := { s.stc with armed := some s.now } } else s
/-- STC_RELOCK (R404). -/
def execStcRelock (s : State) : Res := clocked s stcRelock
/-- No edge by 1.5 P while a re-lock is armed (R404). -/
def execRelockTimeout (s : State) : Res :=
  stitching s fun s =>
    let due := s.stc.last + periodT s + periodT s / 2
    let waits := match s.stc.edge with | some t => decide (t ≤ due) | none => false
    if s.stc.armed.isNone || waits then s
    else
      let e := s.stc.edge
      let s := boundary s due
      { s with stc := { s.stc with armed := none, edge := e } }

/-- PERIOD and TOL from the next boundary (R405). -/
def stcPeriodWrite (s : State) (v : W64) : State :=
  let p := bits v 19 0
  let w := bits v 48 32
  if 2000 ≤ p ∧ p ≤ 1000000 ∧ 1 ≤ w ∧ 8 * w ≤ p then
    { setR s Reg.stcPeriod (v &&& 0x1FFFF000FFFFF) with stc := { s.stc with nextPeriod := s.stc.nextPeriod ++ [(p, w, s.now)] } }
  else raise s Reg.stcStatus 7
/-- STC_PERIOD_WRITE (R405). -/
def execStcPeriodWrite (v : W64) (s : State) : Res := clocked s fun s => stcPeriodWrite s v
/-- The count of the next stitch (R405, R407). -/
def execStcLoad (v : W64) (s : State) : Res :=
  clocked s fun s => { s with stc := { s.stc with nextLoad := s.stc.nextLoad ++ [(v.extractLsb' 0 48, s.now)] } }

end Sys2Proof.Machine
end

