-- ==== Sys2Proof/Machine/Tilth.lean ====
section
/-! DEFINITION. Invalidations of the translation caches, the tier map and Tilth's moves (R281 to R297, R455). -/

namespace Sys2Proof.Machine

/-! ### Invalidation (R282 to R286) -/

/-- A hart's pending invalidation. -/
def getPend (s : State) (h : Nat) : Option XltPend := smGet none s.xlt.pend h
/-- A hart's pending invalidation takes a value. -/
def setPend (s : State) (h : Nat) (v : Option XltPend) : State := { s with xlt := { s.xlt with pend := smSet none s.xlt.pend h v } }
/-- An invalidation covers a cached segment (R282). -/
def pendCovers (p : XltPend) (table index : Nat) : Bool :=
  match p.scope with
  | 0 => true
  | 1 => decide (table = p.table)
  | _ => decide (table = p.table) && decide (index = p.seg)
/-- Removes what an invalidation covers from the translation caches of a C-die (R283). -/
def dropSegs (s : State) (p : XltPend) (d : CDie) : State :=
  let keep (l : List SegEntry) : List SegEntry := l.filter fun e => !(pendCovers p e.table e.index)
  let clean (here : Nat → Bool) (m : SMap (List SegEntry)) : SMap (List SegEntry) :=
    (m.map fun e => if here e.1 then (e.1, keep e.2) else e).filter fun e => decide (e.2 ≠ [])
  { s with cl := { s.cl with xlt := clean (fun k => decide (k / 16 = d.val)) s.cl.xlt, dieXlt := clean (fun k => decide (k = d.val)) s.cl.dieXlt } }
/-- An invalidation reaches a C-die over Seam, behind those before it, once the way is free (R18, R283, R285). -/
def xltReach (s : State) (h : Nat) (d : CDie) : State :=
  match getPend s h with
  | none => s
  | some p =>
    if (p.reached.map (·.1)).contains d.val || !diesJoined s [4, d.val] then s
    else
      let era := s.xlt.era + 1
      setPend (dropSegs { s with xlt := { s.xlt with era := era } } p d) h (some { p with reached := smSet 0 p.reached d.val era })

/-- A hart writes its XLT_INVAL register (R282, R283, R285). -/
def execXltInval (hart : Hart) (v : W64) (s : State) : Res :=
  clocked s fun s =>
    if bits v 1 0 = 3 ∨ (getPend s hart.val).isSome then raise s (Reg.xltStatus hart.val) 1
    else
      let era := s.xlt.era + 1
      let p : XltPend := ⟨bits v 1 0, bits v 7 4, bits v 51 8 * 256, [], era, 0, false, s.now, []⟩
      (List.finRange 4).foldl (fun s d => xltReach s hart.val d) (setPend { s with xlt := { s.xlt with era := era } } hart.val (some p))

/-- No write that a C-die's movers translated through a removed entry before the invalidation reached it is outstanding: reads have their data when they issue, and other writes are performed by the command that makes them (R283, R455). -/
def xltDrained (s : State) (d : CDie) (p : XltPend) : Bool :=
  let done (w : BufWrite) : Bool := decide (smGet 0 p.reached d.val ≤ w.era) || decide (16 ≤ w.index) || !(pendCovers p w.table w.index)
  (p.reached.map (·.1)).contains d.val
    && (s.fab.writes.all fun w => decide (dieOf w.ctx.te ≠ d) || done w)
    && (List.finRange 64).all fun cl => decide (cl.val / 16 ≠ d.val) || (writeBuf s cl).all done
/-- A C-die has handled every invalidation that came before (R285). -/
def xltFirst (s : State) (d : CDie) (p : XltPend) : Bool :=
  s.xlt.pend.all fun e => match e.2 with
    | some q => decide (p.era ≤ q.era) || q.acked.contains d
    | none => true

/-- A C-die has acknowledged an invalidation; the last of the four ends it. -/
def xltAcked (s : State) (h : Nat) (p : XltPend) (d : CDie) : State :=
  let acked := if p.acked.contains d then p.acked else p.acked ++ [d]
  setPend s h (if 4 ≤ acked.length then none else some { p with acked := acked })

/-- A C-die acknowledges over Seam once the accesses through its removed entries have completed, in order of arrival (R283, R285). -/
def execXltAck (d : CDie) (hart : Hart) (s : State) : Res :=
  clocked s fun s =>
    let s := xltReach s hart.val d
    match getPend s hart.val with
    | some p => if xltDrained s d p && xltFirst s d p && diesJoined s [4, d.val] then xltAcked s hart.val p d else s
    | none => s

/-- An invalidation is still pending at the first stitch boundary after its write (R7, R286). -/
def execXltOverdue (hart : Hart) (s : State) : Res :=
  clocked s fun s => match getPend s hart.val with
    | some p =>
      if p.overdue || decide (p.boundaries = 0) then s
      else
        let s := setPend (raise s (Reg.xltStatus hart.val) 2) hart.val (some { p with overdue := true })
        let missing := ((List.finRange 4).map fun d : CDie => if p.acked.contains d then 0 else 2 ^ d.val).sum
        place s { cls := 0x30, action := 3, cause := p.scope, die := 4, addr := BitVec.ofNat 64 p.table
                  d0 := BitVec.ofNat 64 hart.val, d1 := BitVec.ofNat 64 missing }
    | none => s

/-! ### The tier map (R288 to R291) -/

/-- The RW fields of an entry: VALID, HINT and BACKING (Table 10-6). -/
def mapRw : W64 := 0xFFFFFFF1
/-- A slab is a whole slab of a direct range whose controller is online, and no valid entry but one names it (R289). -/
def slabFree (s : State) (but slab : Nat) : Bool :=
  (match directCtrl (slab * 2 ^ 28) with | some c => ctrlUp s c | none => false)
    && s.xlt.map.all fun e => decide (e.1 = but) || !(bitAt e.2 0)
      || (decide (bits e.2 31 8 ≠ slab) && !(bitAt e.2 1 && decide (bits e.2 55 32 = slab)))
/-- An entry with its DEEP bit as its backing gives it. -/
def withDeep (e : W64) : W64 := setBit e 2 (decide (deepBase ≤ bits e 31 8 * 2 ^ 28))
/-- An entry takes a value in every replica. -/
def setMap (s : State) (slab : Nat) (v : W64) : State := { s with xlt := { s.xlt with map := smSet 0 s.xlt.map slab v } }

/-- A line's whole set of copies is recalled to its home, behind the requests that it is at (R290, R294); an uncorrectable copy is quarantined and stays (R267, R319). What Seam holds stays as well (R18). -/
def recallLine (s : State) (line : Nat) : State :=
  if !diesJoined s (accessDies s 85 line) then s else
  let s := mendDir 200 (settleLine (enough s line) s line) line
  let s := (agentsOf (getDir s line).holders).foldl (fun s a => match checkCopy s a line with
    | (s, true) => evictCopy s a line
    | (s, false) => s) s
  (List.range 84).foldl (fun s a => match getBuf s a line with
    | some b => if b.taken then setBuf s a line none else s
    | none => s) s
/-- The lines of a pooled slab that the coherent set holds. -/
def slabLines (s : State) (slab : Nat) : List Nat :=
  let lo := (poolBase + slab * 2 ^ 28) / 64
  ((s.coh.copies.map (fun e : Nat × Copy => e.1 / 128) ++ s.coh.evicts.map (fun e : Nat × Option EvictBuf => e.1 / 128) ++ s.coh.home.map fun e : Nat × HomeLine => e.1).filter fun l => decide (lo ≤ l) && decide (l < lo + 4194304)).dedup
/-- A buffered write goes to a pooled slab. -/
def toSlab (slab : Nat) (w : BufWrite) : Bool := decide (pooledSlab w.addr = some slab)
/-- Writes to a slab that cluster movers hold reach their homes, behind those that come before them (R294, R338). -/
def drainSlab (s : State) (slab : Nat) : State :=
  (List.finRange 64).foldl (fun s cl => match drainPicked s cl (toSlab slab) with
    | (s, bad) => failDrained s bad) s
/-- Every line of a slab is recalled. -/
def recallSlab (s : State) (slab : Nat) : State := (slabLines s slab).foldl recallLine s
/-- No access to a slab is left: no write that a mover or Seam holds, and no copy, write-back or request but of a line under quarantine (R290, R294, R319). -/
def slabDone (s : State) (slab : Nat) : Bool :=
  (List.finRange 64).all (fun cl => (writeBuf s cl).all fun w => !toSlab slab w) && s.fab.writes.all (fun w => !toSlab slab w)
    && (slabLines s slab).all fun l => decide (quarAgents s l ≠ [])
/-- A write of an entry clears its VALID (R290). -/
def clearsValid (s : State) (slab : Nat) (v : W64) : Bool :=
  let old := mapEntry s slab
  bitAt old 0 && !bitAt v 0 && !bitAt old 1 && decide (bits v 31 8 = bits old 31 8)

/-- A write of a tier-map entry (R289, R290). One that clears VALID completes only after its drain: as long as an access to the slab is left, the entry stays valid and the write waits. -/
def writeMap (s : State) (slab : Nat) (v : W64) : State :=
  let old := mapEntry s slab
  let new := withDeep ((old &&& ~~~mapRw) ||| (v &&& mapRw))
  let refuse := raise s Reg.tltStatus 8
  if !bitAt old 0 then
    if !bitAt v 0 then setMap s slab new
    else if slabFree s slab (bits v 31 8) && decide (bits v 3 3 = 0) && decide (bits v 63 56 = 0) then setMap s slab new
    else refuse
  else if bits v 31 8 ≠ bits old 31 8 then refuse
  else if bitAt v 0 then setMap s slab new
  else if bitAt old 1 then refuse
  else
    let s := recallSlab (drainSlab s slab) slab
    if slabDone s slab && diesJoined s (List.range 6) then setMap s slab new else s

/-- A host write of a tier-map entry (R289). -/
def execTltMapWrite (slab : Fin 16384) (v : W64) (s : State) : Res := clocked s fun s => writeMap s slab.val v
/-- A host write that clears VALID and changes nothing else (R290). -/
def execTltMapInvalidate (slab : Fin 16384) (s : State) : Res :=
  clocked s fun s => writeMap s slab.val (mapEntry s slab.val &&& ~~~(1 : W64))

/-! ### Moves (R292 to R296) -/

/-- The running move takes a value. -/
def setRun (s : State) (r : Option MoveRun) : State := { s with xlt := { s.xlt with run := r } }
/-- The running move changes. -/
def modRun (s : State) (f : MoveRun → MoveRun) : State := { s with xlt := { s.xlt with run := s.xlt.run.map f } }

/-- TLT_MOVE queues a move, or is refused (R292). -/
def execTltMove (v : W64) (s : State) : Res :=
  clocked s fun s =>
    let slab := bits v 13 0
    let dest := bits v 39 16
    let e := mapEntry s slab
    let busy := (match s.xlt.run with | some r => decide (r.req.slab = slab) | none => false) || s.xlt.moves.any fun m => decide (m.slab = slab)
    if !bitAt e 0 ∨ busy ∨ !slabFree s slab dest ∨ dest = bits e 31 8 ∨ 64 ≤ s.xlt.moves.length then raise s Reg.tltStatus 8
    else { s with xlt := { s.xlt with moves := s.xlt.moves ++ [⟨slab, dest, bitAt v 40⟩] } }

/-- Tilth takes the next queued move, and marks its slab in every replica (R293). -/
def execMoveMark (s : State) : Res :=
  clocked s fun s =>
    if s.xlt.run.isSome ∨ !(flagR s Reg.tltCtrl 0) ∨ s.err.phase ≠ 0 then s
    else match s.xlt.moves with
      | [] => s
      | m :: rest =>
        let s := { s with xlt := { s.xlt with moves := rest } }
        let e := mapEntry s m.slab
        if !bitAt e 0 then raise s Reg.tltStatus 8
        else
          let s := setMap s m.slab (setBits (setBit e 1 true) 55 32 m.dest)
          setRun s (some { req := m, phase := .mark, acks := [], tile := 0, source := bits e 31 8, boundaries := 0, recalled := false, overdue := false })

/-- A die acknowledges MARK; with all six, COPY begins (R293). -/
def execMoveMarkAck (die : Fin 6) (s : State) : Res :=
  clocked s fun s => match s.xlt.run with
    | some r =>
      if r.phase ≠ .mark then s
      else
        let acks := if r.acks.contains die.val || !diesJoined s [4, die.val] then r.acks else r.acks ++ [die.val]
        setRun s (some { r with acks := acks, phase := if 6 ≤ acks.length then .copy else .mark })
    | none => s

/-- A move ends without switching: the entry keeps its backing, the destination holds undefined contents, a record is placed (R296). -/
def abandonMove (s : State) (cause : Nat) : State :=
  match s.xlt.run with
  | none => s
  | some r =>
    if r.phase = .wipe then s
    else
      let e := mapEntry s r.req.slab
      let s := setMap s r.req.slab (setBits (setBit e 1 false) 55 32 0)
      let (n, s) := draw s
      let s := setRun s none
      let s := { s with xlt := { s.xlt with abandoned := s.xlt.abandoned + 1, undef := ⟨r.req.dest, n, []⟩ :: s.xlt.undef } }
      place (raise s Reg.tltStatus 9) { cls := 0x31, action := 3, cause := cause, die := 4
                                        addr := BitVec.ofNat 64 (poolBase + r.req.slab * 2 ^ 28), d0 := BitVec.ofNat 64 r.tile }

/-- The controller of a move's destination is online (R296). -/
def destUp (s : State) (r : MoveRun) : Bool := ((directCtrl (r.req.dest * 2 ^ 28)).map (ctrlUp s)).getD false
/-- A controller that goes offline ends a move to it (R296). -/
def destLost (s : State) : State :=
  match s.xlt.run with
  | some r => if destUp s r || decide (r.phase = .wipe) then s else abandonMove s 4
  | none => s
/-- Copies the lines of a tile coherently, from a pooled line number to a direct address, a whole group of a deep-tier destination at a time (R245): the cause for which the move ends, 0 where every line has been copied, none where Seam holds one. -/
def copyLines : Nat → State → Nat → Nat → State × Option Nat
  | 0, s, _, _ => (s, some 0)
  | n + 1, s, line, pa =>
    match peekLine s 85 .p2 line with
    | (s, .inl b) => (s, if b.held then none else some 1)
    | (s, .inr v) => match putThrough s .migrate true pa v with
      | (s, true) => copyLines n s (line + 1) (pa + 64)
      | (s, false) => (s, some 2)
/-- Tilth's transfers to a slab's controller pass over Seam (R18). -/
def slabJoined (s : State) (slab : Nat) : Bool :=
  diesJoined s (4 :: ((directCtrl (slab * 2 ^ 28)).map ctrlDie).toList)

/-- Tilth's transfers have all been served, in the share that P2 gives them (R248, R292, R410): a tile is moved whole, and the next waits until then. -/
def tilthServed (s : State) : Bool := s.ctrls.all fun c => c.2.reqs.all fun r => decide (r.kind ≠ .migrate)
/-- Tilth copies one tile to the destination (R293); an unreadable source or an offline destination ends the move (R296). -/
def execMoveCopyTile (s : State) : Res :=
  clocked s fun s => match s.xlt.run with
    | some r =>
      if r.phase ≠ .copy ∨ 4096 ≤ r.tile then s
      else if r.badWrite then abandonMove s 2
      else if !destUp s r then abandonMove s 4
      else if !slabJoined s r.req.dest ∨ !tilthServed s then s
      else
        match copyLines 1024 s ((poolBase + r.req.slab * 2 ^ 28) / 64 + 1024 * r.tile) (r.req.dest * 2 ^ 28 + 65536 * r.tile) with
        | (s, some 0) => modRun s fun r => { r with tile := r.tile + 1 }
        | (s, some cause) => abandonMove s cause
        | (s, none) => s
    | none => s

/-- The switch-over: issued accesses complete, the source home recalls the slab, dirty lines landing in both copies, and from here on new accesses to the slab are held (`paused`, R294). It begins once no access to the slab is held on its way; a quarantined line or an uncorrectable write ends the move (R296, R319). -/
def execMoveSwitch (s : State) : Res :=
  clocked s fun s => match s.xlt.run with
    | some r =>
      if r.phase ≠ .copy ∨ r.tile < 4096 ∨ !diesJoined s (List.range 6) ∨ !tilthServed s then s
      else if r.badWrite then abandonMove s 2
      else if !destUp s r then abandonMove s 4
      else
        let s := recallSlab (drainSlab s r.req.slab) r.req.slab
        if (slabLines s r.req.slab).any (fun l => decide (quarAgents s l ≠ [])) then abandonMove s 1
        else if ((s.xlt.run).map (·.badWrite)).getD false then abandonMove s 2
        else if !slabDone s r.req.slab then s
        else modRun s fun r => { r with phase := .switch, boundaries := 0, pausedAt := s.now }
    | none => s

/-- Every replica takes the destination as backing (R293). -/
def execMoveDone (s : State) : Res :=
  clocked s fun s => match s.xlt.run with
    | some r =>
      if r.phase ≠ .switch ∨ !diesJoined s (List.range 6) then s
      else if !destUp s r then abandonMove s 4
      else
        let e := mapEntry s r.req.slab
        let s := setMap s r.req.slab (withDeep (setBits (setBits (setBit e 1 false) 31 8 r.req.dest) 55 32 0))
        let s := { s with xlt := { s.xlt with completed := s.xlt.completed + 1 } }
        setRun s (if r.req.wipe then some { r with phase := .wipe, recalled := true } else none)
    | none => s

/-- A switch-over has paused its slab to the first stitch boundary after it began (R7, R294). -/
def execMoveSwitchOverdue (s : State) : Res :=
  clocked s fun s => match s.xlt.run with
    | some r =>
      if r.phase ≠ .switch ∨ r.overdue ∨ r.boundaries = 0 then s
      else
        let s := setRun (raise s Reg.tltStatus 10) (some { r with overdue := true })
        place s { cls := 0x31, action := 3, cause := 0x05, die := 4
                  addr := BitVec.ofNat 64 (poolBase + r.req.slab * 2 ^ 28), d0 := BitVec.ofNat 64 r.tile }
    | none => s

/-- A run of lines is written with zeros in P2, device and system cache, whole groups at a time (R245, R292, R293); a line under quarantine is left (R267). -/
def zeroRange : Nat → State → Nat → State
  | 0, s, _ => s
  | n + 1, s, pa => zeroRange n (putThrough s .migrate true pa 0).1 (pa + 64)

/-- Tilth writes zeros to the old backing (R293). -/
def execMoveWipeSource (s : State) : Res :=
  clocked s fun s => match s.xlt.run with
    | some r => if r.phase ≠ .wipe ∨ !slabJoined s r.source then s else setRun (zeroRange 4194304 s (r.source * 2 ^ 28)) none
    | none => s

/-- A move ends without switching, for a cause of Table 17-2 (R296). -/
def execMoveAbandon (cause : Byte) (s : State) : Res :=
  clocked s fun s => if cause.toNat = 0 ∨ 4 < cause.toNat then s else abandonMove s cause.toNat

end Sys2Proof.Machine
end

