-- ==== Sys2Proof/Machine/Resets.lean ====
section
/-! DEFINITION. Commanded stops, the compute reset, the capture slots' release, and the resets of the package (R320, R441, R452 to R462, R489 to R491, R498, R519). -/

namespace Sys2Proof.Machine

/-! ### Queues and stops (R441, R453, R454, R465) -/

/-- The consumer reports what it has consumed; a count outside PROD − 1,024 to PROD is refused (R441, R465). -/
def errConsWrite (s : State) (h : HDie) (v : W64) : State :=
  let cons : W32 := v.truncate 32
  if ((errQueue s h).prod - cons).toNat ≤ 1024 then setR s (Reg.errQCons h) (cons.setWidth 64)
  else raise s (Reg.errQStatus h) 18
/-- ERR_Q_CONS_WRITE (R441). -/
def execErrQConsWrite (h : HDie) (v : W64) (s : State) : Res := clocked s fun s => errConsWrite s h v

/-- ERR_STOP with SCOPE context: an empty slot, or a context that has stopped, leaves nothing to do (R453, R456). -/
def errStopContext (s : State) (v : W64) : State :=
  let c := ctxAt (BitVec.ofNat 8 (bits v 9 2)).toFin (bits v 11 10)
  if s.err.phase ≠ 0 then s
  else match getCtx s c with
    | some x => if x.stop.isSome then s else stopRec s c { cls := 0x13, cause := 1, d0 := 1 }
    | none => s
/-- ERR_STOP_CONTEXT (R453). -/
def execErrStopContext (v : W64) (s : State) : Res := clocked s fun s => errStopContext s v

/-- ERR_STOP with SCOPE partition: a capture, the abort actions on this package alone, and one record (R454, R456, R459). -/
def errStopPartition (s : State) (v : W64) : State :=
  if s.err.phase ≠ 0 then s
  else
    let job : W16 := v.extractLsb' 16 16
    let s := capture s 0x4
    let s := match slotOfJob s job with
      | some k => setKey s k { getKey s k with aborted := true }
      | none => s
    let (s, n) := abortActions s job ⟨0x13, 2, 0, 0, 0⟩
    place s { cls := 0x13, action := 1, cause := 2, job := job, d0 := BitVec.ofNat 64 n }
/-- ERR_STOP_PARTITION (R454). -/
def execErrStopPartition (v : W64) (s : State) : Res := clocked s fun s => errStopPartition s v

/-! ### Caches that a reset covers (R320) -/

/-- The agents that a compute reset covers: the die caches, the ports of the C-dies, and with HOSTS the host cores (Table 17-7). -/
def coveredAgent (hosts : Bool) (a : Nat) : Bool := decide (80 ≤ a ∧ a ≤ 83) || decide (88 ≤ a) || (hosts && decide (a < 80))

/-- A request on its way that a reset discards: a cache's of the coherent set (R320), or another agent's that writes nothing; a write that has drained is performed (R338). -/
def reqLost (cov : Nat → Bool) (r : HomeReq) : Bool :=
  cov r.agent.val && (decide (r.agent.val < 84) || decide (r.ask = .peek))
/-- A home's transaction and waiting requests for a line lose a reset's agents: their snoops count as answered with MISS, their requests are discarded (R320). -/
def dropAtHome (cov : Nat → Bool) (s : State) (line : Nat) : State :=
  let h := getHome s line
  let s := setHome s line { h with waiting := h.waiting.filter fun r => !reqLost cov r }
  match h.txn with
  | none => s
  | some t =>
    if t.recallFor.isNone && reqLost cov t.req then dirRelease (t.acks.foldl (fun s k => settleAck s line k) (setTxn s line none)) line
    else setTxn s line (some { t with probes := t.probes.filter fun p => !cov p.agent })

/-- A directory entry drops a reset's agents, with no write-back, and RESET_DROP is set; a line that only they held pinned is free again (R320, R270). -/
def dropHolders (cov : Nat → Bool) (s : State) (line : Nat) : State :=
  let gone := (agentsOf (getDir s line).holders).filter cov
  if gone = [] then s
  else
    let s := raise s (Reg.dieCohStatus (dieAt (lineHome s line))) 1
    let s := setDir s line { getDir s line with pinned := false }
    gone.foldl (fun s a => dirDrop s line a) s

/-- The homes drop every agent that a reset covers (R320). -/
def forgetAgents (s : State) (cov : Nat → Bool) : State :=
  let s := { s with coh := { s.coh with
    copies := s.coh.copies.filter fun e => !cov (e.1 % 128)
    evicts := s.coh.evicts.filter fun e => !cov (e.1 % 128)
    dones := s.coh.dones.filter fun d => !cov d.agent
    ways := s.coh.ways.filter fun e => decide (4 ≤ e.1 / 2097152)
    qslots := s.coh.qslots.filter fun e => decide (4 ≤ e.1 / 256)
    streams := []
    unclean := []
    invalEnd := [] } }
  let lines := s.coh.home.map (·.1)
  let s := lines.foldl (dropAtHome cov) s
  let s := (s.coh.dir.map (·.1)).foldl (dropHolders cov) s
  let s := s.coh.dirErr.foldl (fun s e =>
    let left := e.2.filter fun a => !cov a
    let s := { s with coh := { s.coh with dirErr := smSet [] s.coh.dirErr e.1 left } }
    if left = [] then rebuildSet s e.1 else s) s
  lines.foldl goOn s

/-! ### The compute reset (R455 to R458) -/

/-- A write that begins a compute reset (R456). -/
def errResetOk (s : State) (v : W64) : Bool :=
  decide (s.err.phase = 0) && bitAt v 0 && decide (bits v 15 8 = 0xA5) && decide (bits v 7 2 = 0) && decide (bits v 63 16 = 0)

/-- The compute reset begins: phase CAPTURE (R456, R458, R459); a running move ends (R296), and with HOSTS an open presence window closes without effect (R482). -/
def errReset (s : State) (v : W64) : State :=
  if !errResetOk s v then raise s (Reg.errResetStatus 0) 3
  else
    let hosts := bitAt v 1
    let s := capture s (if hosts then 0x2 else 0x1)
    let s := noteHeld (setFieldR s Reg.teCtrl 0 0 0)
    let s := abandonMove s 3
    let s := if hosts then { s with sec := { s.sec with cmd := none } } else s
    { s with err := { s.err with phase := 1, hosts := hosts, phaseAt := s.now, capBusy := true } }
/-- ERR_RESET (R456). -/
def execErrReset (v : W64) (s : State) : Res := clocked s fun s => errReset s v

/-- A phase of the compute reset begins. -/
def enterPhase (s : State) (n : Nat) : State := { s with err := { s.err with phase := n, phaseAt := s.now } }

/-- The context of a slot completes RESET. -/
def resetContext (s : State) (c : CtxId) : State :=
  match getCtx s c with
  | some x =>
    let v := getSlot s c
    finishLaunch (setSlot s c { v with occ := .empty, ctx := none, queue := [], progress := [], stalled := [], wipeEnd := 0 })
      x.launch 0x06 0 c.te.val c.slot.val
  | none => s
/-- The queued launches of an engine complete RESET. -/
def resetQueue (s : State) (k : Nat) : State :=
  let t := smGet {} s.eng.te k
  let s := { s with eng := { s.eng with te := smSet {} s.eng.te k { t with queue := [] } } }
  t.queue.foldl (fun s l => finishLaunch s l 0x06 0 0 0) s
/-- Every resident context and every queued launch completes RESET (R458, Table 17-8). -/
def completeReset (s : State) : State :=
  let s := (allResident s).foldl resetContext s
  (s.eng.te.map (·.1)).foldl resetQueue s

/-- A tensor engine as a reset leaves it: only what the TE_ block and the patrol hold of it stays; a draining engine is out (R236, R237, R448). -/
def resetTe (t : Te) : Te :=
  { svc := if t.svc = .draining then .out else t.svc
    failed := t.failed, slotcfg := t.slotcfg, stolenFrom := t.stolenFrom, stolenBy := t.stolenBy
    wipeEnd := t.wipeEnd, outNext := t.outNext, patrolFail := t.patrolFail, lastGood := t.lastGood
    patrolUsed := t.patrolUsed, patrolAt := t.patrolAt, exercised := t.exercised, lastTaken := t.lastTaken }
/-- Every engine is as a reset leaves it. -/
def resetTes (s : State) : State :=
  let m : SMap Te := s.eng.te.map fun e : Nat × Te => (e.1, resetTe e.2)
  { s with eng := { s.eng with te := m.filter fun e => decide (e.2 ≠ {}) } }

/-- QUIESCE: covered agents stop sending and what they have on its way is discarded, but the writes that have left their movers and that a Seam link holds (R338), and the register writes that their routers have accepted (R335); packets at the ports stay, with no operation that waits for them any more; copies of commits that have not left are still sent (Table 17-7); launches complete RESET; every pending invalidation is acknowledged by the dies that have no access held at a Seam link (R320, R340, R455, R458). -/
def quiesce (s : State) : State :=
  let hosts := s.err.hosts
  let s := { s with fab := { s.fab with writes := s.fab.writes ++ ((List.finRange 64).map fun cl => (writeBuf s cl).filter (·.sent)).flatten } }
  let s := resetTes (completeReset s)
  let s := { s with
    eng := { s.eng with groups := [] }
    cl := { s.cl with writes := [], readAhead := [] }
    mir := { s.mir with commits := (s.mir.commits.filter fun w => !w.sent).map fun w : CommitWait => { w with failed := true } }
    dsp := {}
    fab := { s.fab with
      links := s.fab.links.map fun l : Nat × Link => (l.1, { l.2 with sendQ := l.2.sendQ.map fun q : Queued => { q with owner := none } })
      seam := s.fab.seam.map fun m : SeamMsg => { m with queued := m.queued.map fun p : Nat × Queued => (p.1, { p.2 with owner := none }) } } }
  let s := forgetAgents s (coveredAgent hosts)
  let s := if !hosts then s
    else { s with harts := (List.range 80).foldl (fun m h => smMod {} m h fun c => { gated := c.gated, inReset := true, regWrites := c.regWrites }) s.harts }
  (List.range 80).foldl (fun s h => (List.finRange 4).foldl (fun s d => match getPend s h with
    | some q => if s.fab.writes.any (fun w => decide (dieOf w.ctx.te = d)) then s else xltAcked s h q d
    | none => s) s) s

/-- The slots of register space whose registers a compute reset covers: DIE_, DC_ and DSP_ of the C-dies (Table 17-7). -/
def coveredReg (addr : Nat) : Bool :=
  let off := addr - 0x000F000000000000
  decide (off / 4294967296 < 4) && decide (off / 16777216 % 256 = 1 ∨ off / 16777216 % 256 = 3 ∨ off / 16777216 % 256 = 5)

/-- The coherence registers of the homes, which lie outside the compute reset with them (R320). -/
def cohReg (addr : Nat) : Bool := decide (2048 ≤ addr % 16777216 ∧ addr % 16777216 < 2072) && decide (addr / 16777216 % 256 = 1)
/-- WIPE: every store and register of the covered blocks holds zero, or its reset value (R332, R457, R485). -/
def wipeCovered (s : State) : State :=
  { s with
    rf := s.rf.filter fun e => !coveredReg e.1 || cohReg e.1
    eng := { s.eng with
      groups := [], sregs := [], vregs := [], masks := [], tiles := [], tileErr := [], acc := [] }
    cl := {}
    tallies := []
    dsp := {}
    partWipe := [] }

/-- The capture phase of a compute reset ends (R458). -/
def execResetCaptureEnd (s : State) : Res :=
  clocked s fun s => if s.err.phase ≠ 1 then s else
    enterPhase (quiesce { s with err := { s.err with capBusy := false } }) 2
/-- The quiesce phase ends (R458). -/
def execResetQuiesceEnd (s : State) : Res :=
  clocked s fun s => if s.err.phase ≠ 2 then s else enterPhase (wipeCovered s) 3
/-- The wipe phase ends: the die caches take 16,384 cycles (R458). -/
def execResetWipeEnd (s : State) : Res :=
  clocked s fun s => if s.err.phase ≠ 3 then s else enterPhase (advanceTo s (s.err.phaseAt + cycT 16384)) 4
/-- An engine that was returning to service starts at WIPING again (R236). -/
def startAgain (cycle : Nat) (t : Te) : Te :=
  match t.svc with
  | .wiping => { t with wipeEnd := cycle + 2048 }
  | .patrol => { t with svc := .wiping, wipeEnd := cycle + 2048 }
  | .joining => { t with svc := .wiping, wipeEnd := cycle + 2048 }
  | _ => t
/-- What the end of a compute reset restarts: returning engines and host cores; COUNT rises (R236, R458). -/
def releaseCovered (s : State) : State :=
  let te : SMap Te := s.eng.te.map fun e : Nat × Te => (e.1, startAgain (cycleNow s) e.2)
  let harts : SMap HartState := s.harts.map fun e : Nat × HartState => (e.1, { e.2 with inReset := false })
  { s with
    eng := { s.eng with te := te }
    harts := harts.filter fun e => decide (e.2 ≠ {})
    err := { s.err with resets := min 0xFFFF (s.err.resets + 1), hosts := false, heldAdds := [] } }
/-- The release phase ends: returning engines start at WIPING again, host cores restart, COUNT rises, and the additions to tallies that the reset held are performed (R236, R458, R506). -/
def execResetReleaseEnd (s : State) : Res :=
  clocked s fun s => if s.err.phase ≠ 4 then s else
    s.err.heldAdds.foldl (fun s a => tallyAdd s a.1 a.2) (enterPhase (releaseCovered s) 0)

/-- A capture slot is released (R459). -/
def capRelease (s : State) (h : HDie) (k : Nat) : State := setCap s h k { getCap s h k with valid := false }
/-- CAP_RELEASE_A (R459). -/
def execCapReleaseA (h : HDie) (s : State) : Res := clocked s fun s => capRelease s h 0
/-- CAP_RELEASE_B (R459). -/
def execCapReleaseB (h : HDie) (s : State) : Res := clocked s fun s => capRelease s h 1

/-! ### RESET_N and power (R461, R462, R489 to R493, R498, R519) -/

/-- The registers of the error queues and of the capture slots, which a RESET_N spares (R462), and the period of the stitch blocks (R24). -/
def sparedReg (addr : Nat) : Bool :=
  [Reg.errQCtrl 0, Reg.errQCtrl 1, Reg.errQCons 0, Reg.errQCons 1, Reg.errQStatus 0, Reg.errQStatus 1
   , Reg.errQDrop 0, Reg.errQDrop 1, Reg.capStatus 0, Reg.capStatus 1, Reg.stcPeriod].any fun r => decide (r.addr = addr)

/-- What a controller keeps through a reset: its repairs, of which the soft ones end with power (Table 9-4). -/
def resetCtrl (power : Bool) (c : Ctrl) : Ctrl := { pprUsed := c.pprUsed, lanes := c.lanes, softUsed := if power then [] else c.softUsed }

/-- Thimble after a reset: the fuses as they are burned, an armed rollback, and what only the removal of power ends (R470, R481, R484). -/
def resetSec (power : Bool) (t : Thimble) : Thimble :=
  { Thimble.atReset with
    lc := t.lc, ownerSlot := t.ownerSlot, ownersUsed := t.ownersUsed, ownerHash := t.ownerHash, ownerRevoked := t.ownerRevoked
    svcUsed := t.svcUsed, svnMin := t.svnMin, seedKilled := t.seedKilled, rootHash := t.rootHash, armedSvn := t.armedSvn, aliasGen := t.aliasGen
    sealBroken := t.sealBroken && !power, debugUnlocked := t.debugUnlocked && !power }

/-- What the stitch blocks keep through every reset but a power cycle: their reception and their count (R24). -/
def keptStitch (c : Stitch) : Stitch :=
  { count := c.count, last := c.last, edge := c.edge, holdover := c.holdover, armed := c.armed, period := c.period, tol := c.tol
    nextPeriod := c.nextPeriod, nextLoad := c.nextLoad, offset := c.offset, dieCounts := c.dieCounts }
/-- A reset takes hold: everything is at its reset value but for what the spec keeps. `keep` spares the capture slots and error queues (R462), `power` tells that power was removed (R407, R491, R519). Storage is empty from here on; nothing reaches it before the wipe of the start that follows (R485). -/
def resetHold (s : State) (keep power : Bool) : State :=
  let ctrls : SMap Ctrl := s.ctrls.map fun e : Nat × Ctrl => (e.1, resetCtrl power e.2)
  { State.reset with
    pending := s.pending, now := s.now, draws := s.draws
    rf := if keep then s.rf.filter fun e => sparedReg e.1 else []
    ctrls := ctrls.filter fun e => decide (e.2 ≠ {})
    err := if keep then { queues := s.err.queues, slots := s.err.slots, captures := s.err.captures, resets := s.err.resets }
           else { resets := if power then 0 else s.err.resets }
    stc := if power then { last := s.now } else keptStitch s.stc
    sec := resetSec power s.sec
    boot := { releasedAt := s.now, phaseAt := s.now }
    brd := { s.brd with inReset := true, resetCapture := false, clockLost := 0, stitchUp := s.brd.stitchUp && !power
                        trained := s.brd.trained && !power, trainedStacks := if power then 0 else s.brd.trainedStacks
                        gated := s.brd.gated && !power, latched := s.brd.latched && !power
                        thermtripN := s.brd.thermtripN || power } }

/-- RESET_N falls: a capture is taken before the reset takes hold; an open presence window ends without effect, and the coolant stop is disarmed (R431, R461, R482). With every clock stopped there is none. -/
def execResetNFall (s : State) : Res :=
  if !s.brd.resetN then .next s
  else
    let s := setR { s with brd := { s.brd with resetN := false } } Reg.thmCtrl 0
    if !running s then .next s
    else
      let s := capture s 0x5
      .next { s with
        sec := { s.sec with cmd := none }
        err := { s.err with capBusy := true }
        brd := { s.brd with resetCapture := true } }
/-- The capture is complete and the reset takes hold (R461). -/
def execResetNCaptureDone (s : State) : Res :=
  .next (if s.brd.resetCapture && s.brd.pwrGood then resetHold s true false else s)

/-- A start begins, warm where TRAIN has completed since power-on (R492, R493). -/
def beginStart (s : State) : State :=
  { s with
    brd := { s.brd with inReset := false }
    boot := { warm := s.brd.trained, releasedAt := s.now, phaseAt := s.now } }
/-- RESET_N is released: no effect while PWR_GOOD is low, or after a rail has failed (R489, R490); a latched trip stays (R519). -/
def execResetNRelease (s : State) : Res :=
  if s.brd.resetN ∨ !s.brd.pwrGood ∨ s.brd.railFail then .next s
  else
    let s := if s.brd.inReset then s else resetHold s true false
    .next (beginStart { s with brd := { s.brd with resetN := true } })

/-- PWR_GOOD rises after power has been removed: the rails come up and the package waits in reset, with RESET_N held low (R488, R489). -/
def execPwrGoodRise (s : State) : Res :=
  if s.brd.pwrGood then .next s
  else
    let s := resetHold s false true
    .next { s with brd := { s.brd with pwrGood := true, resetN := false, railFail := false } }
/-- A rail fails to reach regulation within 5 ms of PWR_GOOD: the package stays in reset (R489). -/
def execRailFail (s : State) : Res :=
  .next (if s.brd.pwrGood && s.brd.inReset && !s.brd.resetN then advanceTo { s with brd := { s.brd with railFail := true } } (s.now + usT 5000) else s)
/-- PWR_GOOD falls: every clock is gated and the package held in reset, without a capture (R491, R519). -/
def execPwrGoodFall (s : State) : Res :=
  if !s.brd.pwrGood then .next s
  else .next { s with
    brd := { s.brd with pwrGood := false, gated := true, inReset := true, resetCapture := false, railFail := false, stitchUp := false }
    sec := { s.sec with cmd := none } }

end Sys2Proof.Machine
end

