-- ==== Sys2Proof/Machine/LifeCycle.lean ====
section
/-! DEFINITION. Thimble: image checks, measurements, commands, presence, the life cycle and SPDM (R466 to R473, R479 to R484). -/

namespace Sys2Proof.Machine

/-! ### Fuses and flags (R466, R472) -/

/-- Life-cycle states by their values (Table 18-4). -/
def LifeCycle.code : LifeCycle → Nat
  | .manufacture => 1
  | .provisioned => 2
  | .field => 3
  | .service => 4
  | .retired => 5

/-- OWNER_HASH of a slot, as burned. -/
def ownerHashOf (t : Thimble) (k : Nat) : BitVec 512 := smGet (Config.fusedOwnerHash k) t.ownerHash k
/-- The digest of every fuse field but SEED (Table 18-3). -/
def fuseDigest (t : Thimble) : BitVec 512 :=
  Config.shake256 (bytes512 t.rootHash ++ ((List.range 4).map fun k => bytes512 (ownerHashOf t k)).flatten
    ++ bytesOf 1 t.ownerRevoked.toNat ++ bytesOf 1 t.svnMin ++ bytesOf 1 t.lc.code ++ bytesOf 1 t.svcUsed ++ bytesOf 1 t.seedKilled.toNat)
/-- What M5 is extended by: the state and the two flags (Table 18-3). -/
def flagDigest (t : Thimble) : BitVec 512 := BitVec.ofNat 512 (t.lc.code + 256 * t.sealBroken.toNat + 65536 * t.debugUnlocked.toNat)
/-- M5 is extended after a change of a flag, and the alias key is to be derived again (R468). -/
def extendFlags (t : Thimble) : Thimble := { extendM t 5 (flagDigest t) with aliasReady := false }

/-- The new alias key and its certificate replace the old ones, and key exchange that has waited goes on, in order (R468). How soon this happens within the 100 ms that R468 allows is the command's time. -/
def execAliasRederived (s : State) : Res :=
  clocked s fun s =>
    if s.sec.aliasReady || !s.boot.bootDone then s
    else
      let waiting := s.sec.kexWaiting
      let s := modSec s fun t => { t with aliasReady := true, aliasGen := t.aliasGen + 1, kexWaiting := [] }
      waiting.foldl (fun s e => kexDo s e.1 e.2) (pkeyHello (pkeyHello (sendHello s) 0) 1)

/-- SEC_MEAS_GO extends M8 to M15 with the staged digest (R472, Table 18-8). -/
def secMeasGo (s : State) (v : W64) : State :=
  let i := bits v 3 0
  if i < 8 then secRefuse s
  else modSec s fun t => extendM t i (BitVec.ofNat 512 (((List.range 8).map fun w => (smGet 0 t.measExt w).toNat * 2 ^ (64 * w)).sum))
/-- SEC_MEAS_GO (R472). -/
def execSecMeasGo (v : W64) (s : State) : Res := clocked s fun s => secMeasGo s v

/-! ### Images (R469 to R471) -/

/-- MAGIC (Table 18-2). -/
def imgMagic (m : Image) : Nat := bits m.signed 31 0
/-- KIND. -/
def imgKind (m : Image) : Nat := bits m.signed 39 32
/-- SVN. -/
def imgSvn (m : Image) : Nat := bits m.signed 102 96
/-- LENGTH. -/
def imgLen (m : Image) : Nat := bits m.signed 159 128
/-- BODY_HASH. -/
def imgHash (m : Image) : BitVec 512 := m.signed.extractLsb' 192 512
/-- The reserved bits of the header. -/
def imgReserved (m : Image) : List Nat := [bits m.signed 63 40, bits m.signed 127 103, bits m.signed 191 160, bits m.signed 1023 704]

/-- The checks of one image at a position of its slot (R469, R470). A body shorter or longer than LENGTH, a LENGTH above 8 MiB less 8 KiB and an SVN above 64 fail the first of them (DEDUCED, log entry 146). -/
def imageOk (t : Thimble) (kind : Nat) (m : Image) : Bool :=
  let k := t.ownerSlot
  let owned := decide (0 < t.ownersUsed) && decide (ownerHashOf t k ≠ 0) && !(t.ownerRevoked.getLsbD k)
  decide (imgMagic m = 0x544D4248) && decide (imgKind m = kind) && (imgReserved m).all (fun r => decide (r = 0))
    && decide (imgSvn m ≤ 64) && decide (imgLen m ≤ 8388608 - 8192) && decide (m.body.length = imgLen m)
    && decide (Config.shake256 m.advKey = t.rootHash) && m.advSigOk
    && (!owned || (decide (Config.shake256 m.ownKey = ownerHashOf t k) && m.ownSigOk))
    && (decide (t.svnMin ≤ imgSvn m) || (match t.armedSvn with | some a => decide (a ≤ imgSvn m) | none => false))
    && decide (imgHash m = Config.shake256 m.body)
/-- A slot boots when all four of its images pass, and none does in RETIRED (R470, R479). -/
def slotOk (t : Thimble) (l : List Image) : Bool :=
  decide (t.lc ≠ .retired) && decide (l.length = 4) && l.zipIdx.all fun p => imageOk t (p.2 + 1) p.1
/-- Measurements of a boot from a slot's images; none of an image where no slot boots (R471, R472). -/
def measureBoot (t : Thimble) (images : List Image) (slot : Nat) : Thimble :=
  let t := extendM (extendM t 0 Config.romDigest) 0 (fuseDigest t)
  let t := images.zipIdx.foldl (fun t p => extendM (extendM t (p.2 + 1) (imgHash p.1)) (p.2 + 1) (BitVec.ofNat 512 slot)) t
  let t := extendM t 5 (flagDigest t)
  extendM t 6 (Config.shake256 (bytesOf 1 t.ownerSlot ++ bytes512 (ownerHashOf t t.ownerSlot) ++ bytesOf 1 t.svnMin))
/-- Thimble after a boot from a slot's images, or after a failed one. -/
def bootFrom (s : State) (images : List Image) (second ok : Bool) : State :=
  let u := measureBoot s.sec images (if second then 1 else 0)
  modSec s fun t => { u with
    bootFail := !ok, bootSlot := second, runningSvn := (images.head?.map imgSvn).getD 0, armedSvn := none
    aliasReady := true, aliasGen := t.aliasGen + 1 }
/-- BOOT: slot A, then slot B; the measurements and the alias key (R468, R470, R471). True where a slot boots. -/
def bootImages (s : State) (a b : List Image) : State × Bool :=
  if slotOk s.sec a then (bootFrom s a false true, true)
  else if slotOk s.sec b then (bootFrom s b true true, true)
  else (bootFrom s [] false false, false)

/-! ### Commands (R471, R480 to R484) -/

/-- SERVICE entries left: an entry and an exit each burn one of 62 bits (Table 18-1, R479). -/
def svcLeft (t : Thimble) : Nat := (62 - t.svcUsed) / 2

/-- A transition that Table 18-4 lists, and that fuses are left for (R479). -/
def transitionOk (t : Thimble) (target : Nat) : Bool :=
  match t.lc, target with
  | .retired, _ => false
  | _, 5 => true
  | .manufacture, 2 => true
  | .provisioned, 3 => decide (t.ownersUsed < 4)
  | .field, 4 => decide (0 < svcLeft t)
  | .service, 3 => true
  | _, _ => false

/-- What a command of Table 18-5 meets, as RESULT has it: 0 accepted, 1 refused, 2 busy (R479 to R482, R494). -/
def cmdVerdict (s : State) (op target : Nat) : Nat :=
  let t := s.sec
  let owned := decide (t.lc = .field ∨ t.lc = .service)
  let fresh := !t.sealBroken
  if s.boot.phase ≠ 8 ∨ t.lc = .retired then 1
  else if op = 5 then (if t.cmd.isSome then 0 else 1)
  else if t.cmd.isSome then 2
  else
    let ok : Bool := match op with
      | 1 => transitionOk t target && (fresh || decide (target = 5))
      | 2 => decide (t.lc = .service) && fresh
      | 3 => owned && fresh
      | 4 => owned && fresh
      | 6 => decide (t.lc ≠ .manufacture)
      | _ => false
    if ok then 0 else 1

/-- A command of Table 18-5 is written: it opens a presence window, acts, or is refused (R471, R480, R482, R487). -/
def secCommand (s : State) (op target allow : Nat) : State :=
  match cmdVerdict s op target with
  | 0 => modSec s fun t => match op with
    | 5 => { t with cmd := none, result := 0 }
    | 6 => { t with svnMin := max t.svnMin t.runningSvn, result := 0 }
    | _ => { t with cmd := some ⟨op, target, allow, s.now⟩, result := 0 }
  | r => secRefuse (modSec s fun t => { t with result := r })

/-- TRANSITION (R479). -/
def execTransition (v : W64) (s : State) : Res := clocked s fun s => secCommand s 1 (bits v 7 4) 0
/-- DEBUG_UNLOCK (R484). -/
def execDebugUnlock (s : State) : Res := clocked s fun s => secCommand s 2 0 0
/-- ROLLBACK (Table 18-5). -/
def execRollback (v : W64) (s : State) : Res := clocked s fun s => secCommand s 3 0 (bits v 14 8)
/-- KEY_RESET (R479). -/
def execKeyReset (s : State) : Res := clocked s fun s => secCommand s 4 0 0
/-- CANCEL (R480). -/
def execCancel (s : State) : Res := clocked s fun s => secCommand s 5 0 0
/-- SVN_COMMIT (R471). -/
def execSvnCommit (s : State) : Res := clocked s fun s => secCommand s 6 0 0

/-- The fuses of Table 18-4 are burned, and the state is the new one. -/
def burnFuses (s : State) (c : ThimbleCmd) : Thimble :=
  let t : Thimble := { s.sec with debugUnlocked := s.sec.debugUnlocked && decide (s.sec.lc ≠ LifeCycle.service) }
  if c.op = 4 then { t with lc := .provisioned, ownerRevoked := t.ownerRevoked ||| (1#4 <<< t.ownerSlot) }
  else match t.lc, c.target with
    | _, 5 => { t with lc := .retired, seedKilled := true }
    | .manufacture, _ => { t with lc := .provisioned }
    | .provisioned, _ =>
      let k := t.ownersUsed
      let staged : Nat := ((List.range 8).map fun w => (getR s (Reg.secOwner w)).toNat * 2 ^ (64 * w)).sum
      { t with lc := .field, ownerSlot := k, ownersUsed := k + 1, ownerHash := smInsert (smErase t.ownerHash k) k (BitVec.ofNat 512 staged) }
    | .field, _ => { t with lc := .service, svcUsed := t.svcUsed + 1 }
    | .service, _ => { t with lc := .field, svcUsed := t.svcUsed + 1 }
    | .retired, _ => t

/-- A transition or key reset executes: fuses, an internal reset without capture, and a new start that wipes everything (R483). -/
def restartUnder (s : State) (c : ThimbleCmd) : State :=
  let t := burnFuses s c
  beginStart (resetHold { s with sec := { t with cmd := none } } false false)

/-- A proven command executes (R470, R483, R484). -/
def executeCmd (s : State) (c : ThimbleCmd) (burnOk : Bool) : State :=
  match c.op with
  | 2 => modSec s fun t =>
      let t := { t with cmd := none, result := 0 }
      if t.debugUnlocked then t else extendFlags { t with debugUnlocked := true }
  | 3 => modSec s fun t => { t with cmd := none, result := 0, armedSvn := some c.allowSvn }
  | _ => if burnOk then restartUnder s c else modSec s fun t => { t with cmd := none, result := 5 }

/-- PRESENCE_N falls so long after the acceptance and stays low for 100 ms, all within the window of 30 s: the command executes (R480). -/
def execPresenceProven (fallNs : BitVec 36) (burnOk : Bool) (s : State) : Res :=
  clocked s fun s => match s.sec.cmd with
    | none => s
    | some c =>
      if fallNs = 0 ∨ 30000000000 < fallNs.toNat + 100000000 then s
      else
        let s := advanceTo s (c.since + nsT (fallNs.toNat + 100000000))
        executeCmd { s with brd := { s.brd with presenceN := false } } c burnOk
/-- The window of 30 s ends without presence (R482). -/
def execPresenceExpire (s : State) : Res :=
  clocked s fun s => match s.sec.cmd with
    | none => s
    | some c => modSec (advanceTo s (c.since + usT 30000000)) fun t => { t with cmd := none, result := 3 }

/-- SEAL_OK is low for a time: from 1 µs on SEAL_BROKEN is latched, M5 is extended, and an open window ends, but that of a TRANSITION to RETIRED (R481, R518). -/
def execSealBreak (lowNs : W32) (s : State) : Res :=
  if !s.brd.pwrGood ∨ lowNs.toNat < 1000 ∨ s.sec.sealBroken then .next s
  else
    let s := { s with brd := { s.brd with sealOk := false } }
    .next (modSec s fun t =>
      let t := { t with sealBroken := true }
      let t := match t.cmd with
        | some c => if c.op = 1 ∧ c.target = 5 then t else { t with cmd := none, result := 4 }
        | none => t
      if s.boot.bootDone then extendFlags t else t)

/-! ### SPDM (R473) -/

/-- An answer leaves on I3C. -/
def spdmSend (s : State) (code : Nat) (body : List Byte) : State := modSec s fun t => { t with spdm := t.spdm ++ [(code, body)] }
/-- ERROR, with its error code. -/
def spdmError (s : State) (e : Nat) : State := spdmSend s 0x7F [BitVec.ofNat 8 e]
/-- An answer signed with the alias key (R468). -/
def spdmSigned (s : State) (code : Nat) (body : List Byte) : State := spdmSend s code (signedMsg s.sec body)

/-- A request reaches Thimble from the end of BOOT on: unanswered while it must be, ResponseNotReady while the alias key is derived, and out of turn before the algorithms are agreed (R468, R473, R479). -/
def spdmAsk (s : State) (early : Bool) (agreed : Bool) (f : State → State) : Res :=
  clocked s fun s =>
    if !s.boot.bootDone then s
    else if s.sec.lc = .retired then (if early then f s else s)
    else if !s.sec.aliasReady then spdmError s 0x42
    else if !agreed then spdmError s 0x04
    else f s

/-- GET_VERSION: SPDM 1.3 (R473). -/
def execGetVersion (s : State) : Res :=
  spdmAsk s true true fun s =>
    let s := modSec s fun t => { t with spdmVersion := true, spdmCaps := false, spdmAlgs := false }
    spdmSigned s 0x04 [0, 1, 0, 0x13]
/-- GET_CAPABILITIES (R473). -/
def execGetCapabilities (s : State) : Res :=
  spdmAsk s true s.sec.spdmVersion fun s => spdmSigned (modSec s fun t => { t with spdmCaps := true }) 0x61 Config.spdmCapabilities
/-- NEGOTIATE_ALGORITHMS (R473). -/
def execNegotiateAlgorithms (s : State) : Res :=
  spdmAsk s false s.sec.spdmCaps fun s => spdmSigned (modSec s fun t => { t with spdmAlgs := true }) 0x63 Config.spdmAlgorithms
/-- GET_DIGESTS: the digest of slot 0's chain (R473). -/
def execGetDigests (s : State) : Res :=
  spdmAsk s false s.sec.spdmAlgs fun s => spdmSigned s 0x01 (bytes512 (Config.sha3 (certChain s.sec)))
/-- GET_CERTIFICATE: a part of slot 0's chain, its length and what remains (R473). -/
def execGetCertificate (offset length : W16) (s : State) : Res :=
  spdmAsk s false s.sec.spdmAlgs fun s =>
    let chain := certChain s.sec
    let part := (chain.drop offset.toNat).take length.toNat
    if chain.length ≤ offset.toNat then spdmError s 0x01
    else spdmSigned s 0x02 (bytesOf 2 part.length ++ bytesOf 2 (chain.length - offset.toNat - part.length) ++ part)
/-- CHALLENGE: the chain's digest, a nonce and the signature of the alias key (R473). -/
def execChallenge (nonce : BitVec 256) (s : State) : Res :=
  spdmAsk s false s.sec.spdmAlgs fun s =>
    let (n, s) := draw s
    spdmSigned s 0x03 (bytes512 (Config.sha3 (certChain s.sec)) ++ bytesOf 32 (Config.draw256 n).toNat ++ bytesOf 32 nonce.toNat)
/-- GET_MEASUREMENTS: index 0 asks for their number, i + 1 for Mi, 0xFF for all (R473). -/
def execGetMeasurements (index : Byte) (s : State) : Res :=
  spdmAsk s false s.sec.spdmAlgs fun s =>
    let one (i : Nat) : List Byte := bytesOf 1 (i + 1) ++ bytes512 (measOf s.sec i)
    let i := index.toNat
    if i = 0 then spdmSigned s 0x60 [16]
    else if i = 0xFF then spdmSigned s 0x60 ((List.range 16).map one).flatten
    else if i ≤ 16 then spdmSigned s 0x60 (one (i - 1))
    else spdmError s 0x01
/-- KEY_EXCHANGE, PSK_EXCHANGE and secured messages: ERROR with UnsupportedRequest (R473). -/
def execSpdmUnsupported (_ : Byte) (s : State) : Res := spdmAsk s false true fun s => spdmError s 0x07

end Sys2Proof.Machine
end

