-- ==== Sys2Proof/Machine/Startup.lean ====
section
/-! DEFINITION. Start-up: its phases, failures, the full wipe and READY (R430, R478, R485, R486, R492 to R496). -/

namespace Sys2Proof.Machine

/-- The start-up record is changed. -/
def modBoot (s : State) (f : StartUp → StartUp) : State := { s with boot := f s.boot }
/-- A phase begins (R492). -/
def toPhase (s : State) (n : Nat) : State := modBoot s fun b => { b with phase := n, phaseAt := s.now }
/-- The least time of a phase in microseconds (Table 19-2); a wipe's time is that of R486. -/
def phaseMin : Nat → Nat
  | 1 => 500
  | 2 => 400000
  | 3 => 20000
  | 4 => 3500000
  | 6 => 800000
  | 7 => 800000
  | _ => 0
/-- The longest time of a phase in microseconds (Table 19-2). -/
def phaseMax : Nat → Nat
  | 1 => 2000
  | 2 => 1600000
  | 3 => 100000
  | 4 => 6000000
  | 5 => 1400000
  | 8 => 1000
  | _ => 3000000
/-- Milliseconds since RESET_N was released. -/
def elapsedMs (s : State) : W32 := BitVec.ofNat 32 ((s.now - s.boot.releasedAt) / 3000000)
/-- Start-up stops with a cause (R495). -/
def failStart (s : State) (cause : Nat) : State :=
  modBoot s fun b => { b with phase := 15, failPhase := b.phase, failCause := cause, elapsed := elapsedMs s }
/-- Start-up is still under way. -/
def starting (s : State) : Bool := decide (1 ≤ s.boot.phase ∧ s.boot.phase ≤ 8) && !(flagR s Reg.orfStatus 0)

/-- The end of RESET: the deep-tier key is drawn and the stitch blocks run; a warm start begins its wipe (R478, R493, R494). -/
def endReset (s : State) (pllOk : Bool) : State :=
  if !pllOk then failStart s 2
  else
    let (n, s) := draw s
    let s := modSec s fun t => { t with deepKey := Config.draw512 n }
    let s := if s.brd.stitchUp then s else { s with stc := { s.stc with last := s.now }, brd := { s.brd with stitchUp := true } }
    toPhase (if s.boot.warm then modBoot s fun b => { b with wipeAt := s.now } else s) 2

/-- The end of BOOT: images are checked and measured; I3C answers from here on (R470, R471, Table 19-2). -/
def endBoot (s : State) (w : PhaseWork) : State :=
  let (s, ok) := bootImages s w.slotA w.slotB
  let s := modBoot s fun b => { b with bootDone := true }
  if ok then toPhase s 3 else failStart s 3

/-- The end of SEAM: all seven links are up, queues place records (Table 19-2), and the delegate on H1 boots from the image that BOOT verified and H0–H1 carries (R11, R470); a warm start trains once its wipe has ended too (R493). -/
def endSeam (s : State) (ok : Bool) : State :=
  if !ok then failStart s 4
  else
    let s := (List.range 7).foldl (fun s l => setLink s l { getLink s l with
      phase := .up, versionSent := true, versionOk := true, readySent := true, readyGot := true
      sparesUsed := (Config.sparesTrained l).toNat, spareInUse := decide (Config.sparesTrained l ≠ 0) }) s
    let s := modBoot s fun b => { b with seamDone := true, delegate := true }
    toPhase s (if s.boot.warm && !s.boot.wipeDone then 5 else 4)

/-- The end of TRAIN: a stack that fails stays offline, a package that fails ends the start (R493, Table 19-3). -/
def endTrain (s : State) (stackMask : BitVec 12) (packages : BitVec 18) : State :=
  let s := modBoot s fun b => { b with stackOk := stackMask, lpdOk := packages, degraded := b.degraded || decide (stackMask ≠ BitVec.allOnes 12) }
  if packages ≠ BitVec.allOnes 18 then failStart s 5
  else
    let s := { s with brd := { s.brd with trained := true, trainedStacks := stackMask } }
    let s := (List.finRange 12).foldl (fun s (st : StackId) => if stackMask.getLsbD st.val then s else lower s (Reg.stkCtrl st) 0) s
    if s.boot.warm then toPhase s 6 else toPhase (modBoot s fun b => { b with wipeAt := s.now }) 5

/-- The links that are up at the end of LINKS; Orfin's READY is still to come (Table 19-5, R371). -/
def linksUp (s : State) : BitVec 19 :=
  (List.range 19).foldl (fun v i =>
    if (if i = 16 then (getLink s 23).versionOk else linkUp s (7 + i)) then v ||| (1#19 <<< i) else v) 0
/-- The end of LINKS (R495). -/
def endLinks (s : State) : State :=
  let up := linksUp s
  toPhase (modBoot s fun b => { b with linkUp := up, degraded := b.degraded || decide (up ≠ BitVec.allOnes 19) }) 7

/-- READY: the firmware starts the budget loop, arms the coolant stop, enables Tilth and Orfin, and signals readiness (R371, R431, R496). -/
def becomeReady (s : State) : State :=
  let s := { s with pwr := { s.pwr with loopSeen := true, sinceLoop := 0, loopStitch := s.stc.count } }
  let s := if !testState s || s.brd.coolantOk then thmCtrlWrite s 1 else s
  let s := raise (raise s Reg.tltCtrl 0) Reg.orfCtrl 0
  let s := raise s Reg.orfStatus 0
  let s := if (getLink s 23).versionOk then linkUpCheck (sendReady (setLink s 23 { getLink s 23 with readySent := true }) 23) 23 else s
  modBoot s fun b => { b with i3cNotice := true, elapsed := elapsedMs s }

/-- When the phase in progress began: a warm start's wipe at the end of RESET (R493). -/
def phaseStart (s : State) : Nat := if s.boot.phase = 5 then s.boot.wipeAt else s.boot.phaseAt
/-- When the phase in progress must have ended (Table 19-2). -/
def phaseLimit (s : State) : Nat := phaseStart s + usT (phaseMax s.boot.phase)
/-- A phase of start-up ends, not before its least time, and the next begins; one that has passed its longest time stops the start (R492, R493, R495). -/
def execStartPhaseEnd (work : PhaseWork) (s : State) : Res :=
  clocked s fun s =>
    if !starting s then s
    else
      let t := advanceTo s (s.boot.phaseAt + usT (phaseMin s.boot.phase))
      if phaseLimit s < t.now then failStart t 6
      else match s.boot.phase with
      | 1 => endReset t work.pllOk
      | 2 => endBoot t work
      | 3 => endSeam t work.seamOk
      | 4 => endTrain t work.stackMask work.packageMask
      | 5 => if s.boot.wipeDone then toPhase t (if s.boot.warm then 4 else 6) else s
      | 6 => endLinks t
      | 7 => if work.hartsOk then toPhase t 8 else failStart t 7
      | _ => becomeReady t

/-- A phase exceeds its longest time (R492, R495). -/
def execStartPhaseTimeout (s : State) : Res :=
  clocked s fun s =>
    if starting s then failStart (advanceTo s (phaseLimit s)) 6 else s

/-! ### The full wipe (R485, R486) -/

/-- The wipe runs: in its phase of a cold start, from the end of RESET in a warm one (R493). -/
def wipeRuns (s : State) : Bool :=
  s.sec.wipeBusy && (decide (s.boot.phase = 5) || (s.boot.warm && decide (s.boot.phase = 2 ∨ s.boot.phase = 3)))
/-- The stacks that a wipe covers: those that training has brought up. -/
def wipedStacks (s : State) : BitVec 12 := if s.boot.warm then s.brd.trainedStacks else s.boot.stackOk
/-- A part's wipe is noted. -/
def partWiped (s : State) (part : Fin 16) : State := modBoot s fun b => { b with wipedParts := b.wipedParts ||| (1#16 <<< part.val) }
/-- A part is wiped: a stack goes online, a C-die's cache is enabled (Table 19-2). Parts 0 to 11 are the stacks, 12 to 15 the C-dies. -/
def execWipePartEnd (part : Fin 16) (s : State) : Res :=
  clocked s fun s =>
    if !wipeRuns s then s
    else
      if h : part.val < 12 then
        (if (wipedStacks s).getLsbD part.val then partWiped (raise s (Reg.stkCtrl ⟨part.val, h⟩) 0) part else s)
      else partWiped (raise s (Reg.dcCtrl (Fin.ofNat 4 (part.val - 12))) 0) part
/-- Every part of the wipe has finished, the deep tier last: WIPE_BUSY clears (R486). -/
def execFullWipeDone (s : State) : Res :=
  clocked s fun s =>
    let due : BitVec 16 := (wipedStacks s).setWidth 16 ||| 0xF000
    if !wipeRuns s || decide (s.boot.wipedParts &&& due ≠ due) then s
    else
      let s := advanceTo s (s.boot.wipeAt + usT 1342000)
      modBoot (modSec s fun t => { t with wipeBusy := false }) fun b => { b with wipeDone := true }

/-! ### ALERT_N (R430, R489, R495, R519) -/

/-- The level of ALERT_N. -/
def alertN (s : State) : Bool :=
  if s.brd.railFail then false
  else if !s.brd.resetN then true
  else
    decide (s.boot.phase ≠ 15)
      && decide (getR s Reg.thmStatus &&& ~~~(getR s Reg.thmAlertMask) &&& 0xFFFF = 0)
      && !(flagR s Reg.pwrStatus 3) && !(flagR s Reg.pwrStatus 1) && !(flagR s Reg.pwrStatus 2)

end Sys2Proof.Machine
end

