-- ==== Sys2Proof/Machine/RegMap.lean ====
section
/-! DEFINITION. What every offset of register space reads as: the register tables of the chapters, by block (R499 to R501, R503, R508 to R511). -/

namespace Sys2Proof.Machine

/-- A register as it is read: its stored bits, and the bits that hardware supplies. -/
structure RegView where
  reg : Reg
  mask : W64 := 0
  live : W64 := 0
deriving DecidableEq, Repr

/-- A register of stored bits alone. -/
def held (r : Reg) : Option RegView := some ⟨r, 0, 0⟩
/-- A register some of whose bits hardware supplies. -/
def mixed (r : Reg) (mask : W64) (v : Nat) : Option RegView := some ⟨r, mask, BitVec.ofNat 64 v⟩
/-- A register that hardware supplies whole; a write-only one is supplied as zero. -/
def given (addr : Nat) (v : Nat) : Option RegView := some ⟨⟨addr, 0, 0, 0, 0⟩, BitVec.allOnes 64, BitVec.ofNat 64 v⟩
/-- Whether a bit is set, as a number with the bit in its place. -/
def flagAt (b : Bool) (i : Nat) : Nat := if b then 2 ^ i else 0
/-- The index of an offset in an array of registers of a stride. -/
def nth (o base stride n : Nat) : Option Nat :=
  if base ≤ o ∧ o < base + stride * n ∧ (o - base) % stride = 0 then some ((o - base) / stride) else none
/-- A C-die by its number. -/
def cDie (d : Nat) : CDie := Fin.ofNat 4 d
/-- An H-die by its die number. -/
def hDie (d : Nat) : HDie := if d = 4 then 0 else 1

/-! ### ID_ (R508 to R511, Tables 20-1 to 20-4) -/

/-- Dies and instances of a slot (Table 20-1). -/
def blockDies (slot : Nat) : Nat × Nat :=
  if slot = 1 ∨ slot = 2 then (0x3F, 1)
  else if slot = 4 then (0xF, 3)
  else if slot = 6 then (0xF, 16)
  else if slot = 7 then (0xF, 4)
  else if slot = 3 ∨ slot = 5 then (0xF, 1)
  else if 8 ≤ slot ∧ slot ≤ 11 then (0x30, 1)
  else if slot = 12 then (0x20, 1)
  else if slot = 0 ∨ (13 ≤ slot ∧ slot ≤ 22) then (0x10, 1)
  else (0, 0)
/-- A region: slot, dies, first and last offset, and whether early acknowledgement is allowed (Table 20-3). -/
structure Region where
  slot : Nat
  dies : Nat
  lo : Nat
  hi : Nat
  early : Bool
deriving DecidableEq, Repr
/-- The regions of this part (Table 20-3). -/
def regions : List Region :=
  [⟨0x00, 0x10, 0, 0xFFFFFF, false⟩, ⟨0x01, 0x3F, 0, 0x1FFFF, true⟩, ⟨0x01, 0x3F, 0x20000, 0xFFFFFF, false⟩
    , ⟨0x02, 0x3F, 0, 0xFFFFFF, true⟩, ⟨0x03, 0x0F, 0, 0xFFFFFF, true⟩, ⟨0x04, 0x0F, 0, 0xFFFFFF, true⟩
    , ⟨0x05, 0x0F, 0, 0xFFFFFF, true⟩, ⟨0x06, 0x0F, 0, 0xFFFFFF, true⟩, ⟨0x07, 0x0F, 0, 0xFFFFFF, true⟩
    , ⟨0x08, 0x30, 0, 0xFFFFFF, true⟩, ⟨0x09, 0x30, 0, 0xFFFFFF, false⟩, ⟨0x0A, 0x30, 0, 0xFFFFFF, false⟩] ++
  [⟨0x0B, 0x30, 0, 0xFFFFFF, true⟩, ⟨0x0C, 0x20, 0, 0xFFFFFF, true⟩, ⟨0x0D, 0x10, 0, 0xFFFFFF, true⟩
    , ⟨0x0E, 0x10, 0, 0xFFFFFF, false⟩, ⟨0x0F, 0x10, 0, 0xFFFFFF, false⟩, ⟨0x10, 0x10, 0, 0xFFFF, true⟩
    , ⟨0x10, 0x10, 0x10000, 0xFFFFFF, false⟩, ⟨0x11, 0x10, 0, 0xFFFFFF, true⟩, ⟨0x12, 0x10, 0, 0xFFFFFF, true⟩
    , ⟨0x13, 0x10, 0, 0xFFFFFF, true⟩, ⟨0x14, 0x10, 0, 0xFFFFFF, true⟩, ⟨0x15, 0x10, 0, 0xFFFFFF, false⟩
    , ⟨0x16, 0x10, 0, 0xFFFFFF, true⟩]
/-- The low word of ID_RAT_i; STRICT can be written where EARLY_ACK is 1 (Table 20-2). -/
def Reg.idRat (i : Nat) : Reg :=
  ⟨regBase 4 0 + 0x2000 + 16 * i, 0, if ((regions[i]?).map (·.early)).getD false then 4 else 0, 0, 0⟩
/-- The region of an address (R508). -/
def regionAt (addr : Nat) : Option Nat :=
  let off := addr - regBase 0 0
  let die := off / 4294967296
  let slot := off / 16777216 % 256
  let o := off % 16777216
  regions.findIdx? fun r => decide (r.slot = slot) && r.dies.testBit die && decide (r.lo ≤ o) && decide (o ≤ r.hi)
/-- A write at an address is performed only once its register has taken it (R335, R508). -/
def strictAt (s : State) (addr : Nat) : Bool :=
  match regionAt addr with
  | some i => !((regions[i]?).map (·.early)).getD false || flagR s (Reg.idRat i) 2
  | none => true

/-- ID_ (Table 20-4). -/
def viewId (o : Nat) : Option RegView :=
  match o with
  | 0x00 => mixed Reg.idVendor 0xFF00000000 (Config.stepping.toNat * 2 ^ 32)
  | 0x08 => held Reg.idVersion
  | 0x10 => given Reg.idSerial.addr Config.serial.toNat
  | 0x18 => held Reg.idStatus
  | 0x20 => held Reg.idLastAddr
  | 0x100 => held Reg.idCap0
  | 0x108 => held Reg.idCap1
  | 0x110 => held Reg.idCap2
  | 0x118 => held Reg.idCap3
  | 0x120 => held Reg.idCap4
  | 0x128 => held Reg.idCap5
  | _ =>
    match nth o 0x1000 8 256 with
    | some k =>
      let b := blockDies k
      given (regBase 4 0 + o) (b.1 + b.2 * 2 ^ 16 + flagAt (decide (b.1 ≠ 0)) 24)
    | none =>
      match nth o 0x2000 8 128 with
      | some k =>
        match regions[k / 2]? with
        | some r =>
          if k % 2 = 0 then mixed (Reg.idRat (k / 2)) 0xFFFFFFFFFFFFFFFB (1 + flagAt r.early 1 + r.slot * 2 ^ 8 + r.dies * 2 ^ 16 + r.lo * 2 ^ 32)
          else given (regBase 4 0 + o) r.hi
        | none => given (regBase 4 0 + o) 0
      | none => none

/-! ### Blocks of the C-dies and of every die -/

/-- The tally that an offset of DIE_ names, and whether it is the adding register (Table 12-6). -/
def tallyAt (o : Nat) : Option (TallyLevel × Nat × Bool) :=
  let pick (l : TallyLevel) (base : Nat) : Option (TallyLevel × Nat × Bool) := (nth o base 8 8192).map fun k => (l, k / 2, decide (k % 2 = 1))
  (pick .die 0x20000).orElse fun _ => (pick .region 0x30000).orElse fun _ => (nth o 0x40000 8 8192).map fun k => (.cluster, k / 2, decide (k % 2 = 1))
/-- DIE_ (Tables 11-9, 12-6). -/
def viewDie (s : State) (d o : Nat) : Option RegView :=
  match o with
  | 0x800 => held (Reg.dieCohCtrl (dieAt d))
  | 0x808 => held (Reg.dieCohStatus (dieAt d))
  | 0x810 => held (Reg.dieCohEvt (dieAt d))
  | 0x818 => given (regBase d 1 + o) (dirUse s d)
  | _ =>
    if 4 ≤ d then none
    else match tallyAt o with
      | some (_, _, true) => given (regBase d 1 + o) 0
      | some (l, i, false) => given (regBase d 1 + o) (tally s (windowTally (cDie d) l i)).toNat
      | none => none

/-- STATE of a link (Table 14-12). -/
def LinkPhase.code : LinkPhase → Nat
  | .down => 0
  | .training => 1
  | .up => 2
  | .retraining => 3
/-- SEAM_ (Table 14-12): three ends on H0 and H1, two on a C-die, as Table 1-4 has them. -/
def viewSeam (s : State) (d o : Nat) : Option RegView :=
  let l := o / 64
  match seamAt d l with
  | none => none
  | some k =>
    let v := getLink s k
    match o % 64 with
    | 0 => given (regBase d 2 + o) 0
    | 8 => mixed (Reg.seamStatus (dieAt d) l) 0xFF03 (v.phase.code + (v.sparesUsed % 256) * 256)
    | 16 => held (Reg.seamEvt (dieAt d) l)
    | _ => none

/-- QSLOTs of a cache (Table 9-6). -/
def viewQslot (s : State) (d slot o slices : Nat) : Option RegView :=
  (nth o 0x1000 8 (16 * slices)).bind fun k => given (regBase d slot + o) (smGet (0 : W64) s.coh.qslots (16 * (16 * d + k / 16) + k % 16)).toNat
/-- DC_ (Tables 9-6, 9-7). -/
def viewDc (s : State) (d o : Nat) : Option RegView :=
  match o with
  | 0x00 => held (Reg.dcCtrl (cDie d))
  | 0x08 => given (regBase d 3 + o) 0
  | 0x10 => held (Reg.dcStatus (cDie d))
  | 0x18 => held (Reg.dcEcc (cDie d))
  | 0x40 => given (regBase d 3 + o) 0
  | 0x48 => given (regBase d 3 + o) 0
  | _ => viewQslot s d 3 o 16
/-- The stack of an instance of STK_. -/
def stackAt (d i : Nat) : StackId := Fin.ofNat 12 (3 * d + i)
/-- STK_ (Table 9-7); the test window reads zero outside the test states (R254). -/
def viewStk (s : State) (d i o : Nat) : Option RegView :=
  let st := stackAt d i
  let c := getCtrl s (stackCtrl st)
  let at_ := regBase d 4 + 1048576 * i + o
  match o with
  | 0x00 => held (Reg.stkCtrl st)
  | 0x08 => held (Reg.stkPrio st)
  | 0x10 => mixed (Reg.stkStatus st) 0xFF03 (refreshRate s st + c.temp * 256)
  | 0x18 => held (Reg.stkEcc st)
  | 0x20 => given at_ (c.p2Last % 2 ^ 32 + (c.p0p1Last % 2 ^ 32) * 2 ^ 32)
  | 0x28 => given at_ 0
  | 0x30 => given at_ (if testState s then flagAt c.busy 0 + c.result * 2 + pprLeft s st (bits c.testCmd 8 3) * 256 else 0)
  | _ => none
/-- LPD_ (Tables 9-6, 9-7). -/
def viewLpd (s : State) (d o : Nat) : Option RegView :=
  let h := hDie d
  let c := getCtrl s (deepCtrl h)
  match o with
  | 0x08 => held (Reg.lpdPrio h)
  | 0x10 => held (Reg.lpdStatus h)
  | 0x18 => held (Reg.lpdEcc h)
  | 0x20 => given (regBase d 8 + o) (c.p2Last % 2 ^ 32 + (c.p0p1Last % 2 ^ 32) * 2 ^ 32)
  | 0x40 => given (regBase d 8 + o) 0
  | 0x48 => given (regBase d 8 + o) 0
  | _ => viewQslot s d 8 o 8
/-- DSP_ (Table 7-11). -/
def viewDsp (s : State) (d o : Nat) : Option RegView :=
  let c := cDie d
  match o with
  | 0x00 => held (Reg.dspCtrl c)
  | 0x08 => held (Reg.dspInboxBase c)
  | 0x10 => mixed (Reg.dspStatus c) 0x7FF (openCount s c)
  | 0x18 => held (Reg.dspEvt0 c)
  | 0x20 => held (Reg.dspEvt1 c)
  | _ => (nth o 0x100 8 32).bind fun n => held (Reg.dspAbsent c n)

/-! ### Blocks of the H-dies -/

/-- SES_ (Table 7-12). -/
def viewSes (s : State) (d o : Nat) : Option RegView :=
  let h := hDie d
  let count (st : Nat) : Nat := (s.ses.filter fun e => decide (sesDie e.1 = h) && decide (sesState e.2 = st)).length
  match o with
  | 0x00 => held (Reg.sesStatus h)
  | 0x08 => given (regBase d 9 + o) (count 1 + count 2 * 2 ^ 16 + count 3 * 2 ^ 32)
  | 0x10 => held (Reg.sesRefused h)
  | _ => (nth o 0x800000 8 1048576).bind fun k => given (regBase d 9 + o) (sesWord (getSes s (32768 * h.val + k / 32)) (k % 32)).toNat
/-- ERR_ (Table 17-12); what lies from 0x0100 to 0x01FF is H0's alone (R465). -/
def viewErr (s : State) (d o : Nat) : Option RegView :=
  let h := hDie d
  match o with
  | 0x00 => held (Reg.errQCtrl h)
  | 0x08 => given (regBase d 10 + o) (errQueue s h).prod.toNat
  | 0x10 => held (Reg.errQCons h)
  | 0x18 => mixed (Reg.errQStatus h) 0x207FF (errPending s h % 2048 + flagAt (decide (960 ≤ errPending s h)) 17)
  | 0x20 => held (Reg.errQDrop h)
  | _ =>
    match nth o 0x10000 8 8192 with
    | some k => given (regBase d 10 + o) ((smGet (0 : BitVec 512) (errQueue s h).records (k / 8)).extractLsb' (64 * (k % 8)) 64).toNat
    | none =>
      if d ≠ 4 then none
      else match o with
        | 0x100 => held (Reg.errWdog 0)
        | 0x108 => given (regBase d 10 + o) 0
        | 0x110 => given (regBase d 10 + o) 0
        | 0x118 => mixed (Reg.errResetStatus 0) 0xFFFF0007 (s.err.phase + s.err.resets * 2 ^ 16)
        | 0x120 => held (Reg.errAutoAbort 0)
        | _ => (nth o 0x140 8 4).bind fun w =>
            given (regBase d 10 + o) ((s.eng.te.map fun e => if e.1 / 64 = w ∧ e.2.patrolFail then 2 ^ (e.1 % 64) else 0).sum)
/-- CAP_ (Table 17-12). -/
def viewCap (s : State) (d o : Nat) : Option RegView :=
  let h := hDie d
  let word (k i : Nat) : Option RegView := given (regBase d 11 + o) (leNat (smGetRange 0 (getCap s h k).bytes (8 * i) 8))
  match o with
  | 0x00 => mixed (Reg.capStatus h) 7 (flagAt (getCap s h 0).valid 0 + flagAt (getCap s h 1).valid 1 + flagAt s.err.capBusy 2)
  | 0x08 => given (regBase d 11 + o) 0
  | _ => match nth o 0x80000 8 65536 with
    | some i => word 0 i
    | none => (nth o 0x100000 8 65536).bind (word 1)
/-- MIR_ (Table 14-12). -/
def viewMir (s : State) (o : Nat) : Option RegView :=
  let port (n : Nat) : Option RegView :=
    let v := getLink s (24 + n)
    mixed (Reg.mirPort n) 0x70000 (v.phase.code * 2 ^ 16 + flagAt v.keyValid 18)
  match o with
  | 0x00 => held Reg.mirCtrl
  | 0x08 => port 0
  | 0x10 => port 1
  | 0x18 => given (regBase 5 12 + o) 0
  | 0x20 => mixed Reg.mirStatus 0xF1 (flagAt (!s.mir.takeover.isEmpty) 0 + s.mir.takeover.length * 16)
  | 0x28 => held Reg.mirEvt
  | _ => none

/-! ### Blocks of H0 -/

/-- Valid partitions that a test picks (R228). -/
def partCount (s : State) (f : BitVec 512 → Bool) : Nat := (s.parts.filter fun e => ptValid e.2 && f e.2).length
/-- The registers of one engine (Table 8-6). -/
def viewTeOf (s : State) (g : TeId) (at_ o : Nat) : Option RegView :=
  let t := getTe s g
  match o with
  | 0x00 => given at_ (t.svc.code + flagAt t.failed 5)
  | 0x08 => given at_ t.slotcfg.toNat
  | 0x50 => given at_ (t.queue.length + t.stolenFrom * 2 ^ 8 + t.stolenBy * 2 ^ 24)
  | _ =>
    match nth o 0x10 8 4 with
    | some k =>
      let v := getSlot s (ctxAt g k)
      given at_ (v.occ.code + ((v.ctx.map fun x => x.launch.cid.toNat * 2 ^ 16 + x.launch.job.toNat * 2 ^ 32).getD 0) + v.lastJob.toNat * 2 ^ 48)
    | none => (nth o 0x30 8 4).bind fun k =>
        let v := getSlot s (ctxAt g k)
        given at_ (min 0xFFFFFF v.slowBusy + min 0xFFFFFF v.slowStalled * 2 ^ 24 + v.slowRatio * 2 ^ 48)
/-- TE_ (Tables 8-1, 8-6). -/
def viewTe (s : State) (o : Nat) : Option RegView :=
  let at_ := regBase 4 13 + o
  match o with
  | 0x00 => held Reg.teCtrl
  | 0x08 => given at_ (partCount s fun _ => true)
  | 0x10 => held Reg.teStatus
  | _ =>
    match nth o 0x1000 8 512 with
    | some k => given at_ ((smGet (0 : BitVec 512) s.parts (k / 8)).extractLsb' (64 * (k % 8)) 64).toNat
    | none =>
      match nth o 0x10000 8 8192 with
      | some k => given at_ (((List.range 8).map fun i => partCount s (fun e => decide (ptClient e = 8 * k + i)) * 2 ^ (8 * i)).sum)
      | none => if h : 0x40000 ≤ o ∧ (o - 0x40000) / 256 < 256 then viewTeOf s ⟨(o - 0x40000) / 256, h.2⟩ at_ ((o - 0x40000) % 256) else none
/-- XLT_ (Table 10-10). -/
def viewXlt (s : State) (o : Nat) : Option RegView :=
  (nth o 0x1000 8 160).bind fun k =>
    if k % 2 = 0 then given (regBase 4 14 + o) 0 else mixed (Reg.xltStatus (k / 2)) 1 (flagAt (getPend s (k / 2)).isSome 0)
/-- TLT_ (Tables 10-6, 10-10). -/
def viewTlt (s : State) (o : Nat) : Option RegView :=
  let at_ := regBase 4 15 + o
  match o with
  | 0x00 => held Reg.tltCtrl
  | 0x08 => given at_ 0
  | 0x10 => mixed Reg.tltStatus 0xFF (s.xlt.moves.length + flagAt s.xlt.run.isSome 7)
  | 0x18 => given at_ (match s.xlt.run with
      | some r => r.req.slab + (r.tile % 4096) * 2 ^ 16 + (match r.phase with | .mark => 1 | .copy => 2 | .switch => 3 | .wipe => 4) * 2 ^ 28
      | none => 0)
  | 0x20 => given at_ (min 0xFFFFFFFF s.xlt.completed + min 0xFFFFFFFF s.xlt.abandoned * 2 ^ 32)
  | _ => (nth o 0x20000 8 16384).bind fun k => given at_ (mapEntry s k).toNat

/-- The state of a ring in its doorbell's layout (R353, Table 13-13). -/
def dbState (s : State) (r : Nat) : Nat :=
  let v := getRing s r
  let size := ringSize s r
  let lap (n : Nat) : Nat := if ringOn s r then lapStamp size n else 0
  v.consumed % size + lap v.consumed * 2 ^ 16 + (v.written % size) * 2 ^ 32 + lap v.written * 2 ^ 48
/-- ORF_ (Tables 13-9, 13-11, 13-13). -/
def viewOrf (s : State) (o : Nat) : Option RegView :=
  let at_ := regBase 4 16 + o
  match o with
  | 0x10000 => held Reg.orfCtrl
  | 0x10008 => held Reg.orfStatus
  | 0x10010 => held Reg.orfEvt0
  | 0x10018 => held Reg.orfEvt1
  | 0x10020 => held Reg.orfLastEvt
  | _ =>
    if o < 0x10000 then
      (if o % 64 = 0 then given at_ (dbState s (o / 64)) else if o % 64 = 8 then given at_ (bulkSyncValue s).toNat else none)
    else if 0x20000 ≤ o ∧ o < 0x30000 then
      let r := (o - 0x20000) / 64
      let v := getRing s r
      match o % 64 with
      | 0x00 => held (Reg.orfSqBase r)
      | 0x08 => held (Reg.orfCqBase r)
      | 0x10 => held (Reg.orfRingCfg r)
      | 0x18 => held (Reg.orfWin r)
      | 0x20 => given at_ (flagAt (ringActive v) 0 + flagAt (decide (v.cause ≠ 0)) 1 + v.cause * 256 + (ringOut v % 2 ^ 17) * 2 ^ 16)
      | 0x28 => given at_ (v.consumed % 2 ^ 32 + (v.written % 2 ^ 32) * 2 ^ 32)
      | _ => none
    else none
/-- XF_ (Table 14-12). -/
def viewXf (s : State) (o : Nat) : Option RegView :=
  let at_ := regBase 4 17 + o
  match o with
  | 0x00 => held Reg.xfCtrl
  | 0x08 => held Reg.xfNode
  | 0x10 => held Reg.xfE2e
  | 0x18 => held Reg.xfStatus
  | 0x20 => held Reg.xfEvt
  | 0x28 => given at_ 0
  | 0x30 => given at_ 0
  | _ =>
    match nth o 0x40 8 16 with
    | some p =>
      let v := getLink s (7 + p)
      mixed (Reg.xfPort p) 0xFFFFFFFFFFFF0007 (v.phase.code + flagAt v.spareInUse 2 + v.peer.toNat * 2 ^ 16 + v.syncOffset.toNat * 2 ^ 32)
    | none =>
      match nth o 0x10000 8 2048 with
      | some n => mixed (Reg.xfRoute n) 0x20 (flagAt (unreachable s n) 5)
      | none =>
        match nth o 0x20000 8 2048 with
        | some n => given at_ (creditOf s n)
        | none =>
          match nth o 0x30000 16 255 with
          | some k =>
            let v := getKey s k
            given at_ (v.job.toNat + flagAt v.valid 16 + flagAt v.epoch 17 + flagAt v.aborted 18)
          | none => (nth o 0x40000 8 (32 * 255)).bind fun k => given at_ ((smGet (0 : BitVec 2048) s.fab.peers (k / 32)).extractLsb' (64 * (k % 32)) 64).toNat
/-- STC_ (Table 15-4). -/
def viewStc (s : State) (o : Nat) : Option RegView :=
  let at_ := regBase 4 18 + o
  match o with
  | 0x00 => given at_ 0
  | 0x08 => held Reg.stcPeriod
  | 0x10 => given at_ s.stc.count.toNat
  | 0x18 => given at_ 0
  | 0x20 => mixed Reg.stcStatus 5 (flagAt s.stc.holdover 0 + flagAt (!s.stc.nextLoad.isEmpty || !s.stc.nextPeriod.isEmpty) 2)
  | 0x28 => given at_ s.stc.offset.toNat
  | 0x30 => held Reg.stcEvt
  | 0x38 => held Reg.stcP2share
  | 0x40 => mixed Reg.stcPatrol 0xFFFFFF00000000 (patrolMin s.stc.period * 2 ^ 32)
  | 0x48 => held Reg.stcMgt
  | 0x50 => held Reg.stcOvl
  | 0x58 => given at_ (s.stc.held % 2 ^ 23 + s.stc.maxRatio * 2 ^ 32)
  | _ => (nth o 0x100 8 32).bind fun k => held (Reg.stcTick (k / 8) (k % 8))
/-- PWR_ (Table 16-3). -/
def viewPwr (s : State) (o : Nat) : Option RegView :=
  let at_ := regBase 4 19 + o
  match o with
  | 0x00 => held Reg.pwrMbox
  | 0x08 => given at_ (s.pwr.ackSeq.toNat + s.pwr.ackStitch.toNat * 2 ^ 16)
  | 0x10 => held Reg.pwrStatus
  | 0x18 => given at_ (s.pwr.now % 8192 + (s.pwr.avg % 8192) * 2 ^ 16 + (min s.pwr.run 2047) * 2 ^ 32)
  | 0x20 => given at_ 0
  | 0x28 => given at_ 0
  | 0x30 => held Reg.pwrMarginCfg
  | 0x38 => held Reg.pwrMargin
  | 0x40 => held Reg.pwrDroop
  | 0x48 => given at_ s.pwr.unattr.toNat
  | _ =>
    match nth o 0x100 8 6 with
    | some d =>
      let v := getDie s d
      given at_ (v.dealt % 4096 + (v.drawn % 4096) * 2 ^ 12 + pointOf s d * 2 ^ 24 + flagAt v.limited 28)
    | none =>
      match nth o 0x140 8 24 with
      | some i =>
        let v := getRegion s i
        mixed (Reg.pwrRgn i) 0xFFFFFFF (v.dealt % 4096 + (v.drawn % 4096) * 2 ^ 12 + v.stretch * 2 ^ 24)
      | none =>
        match nth o 0x400 8 96 with
        | some k => given at_ (vfFreqOf (k / 16) (k % 16) + vfVoltOf (k / 16) (k % 16) * 2 ^ 16 + flagAt (decide ((Config.bootPoint (k / 16)).val = k % 16)) 32)
        | none => (nth o 0x1000 8 64).bind fun p => given at_ (smGet (0 : W64) s.pwr.energy p).toNat
/-- THM_ (Table 16-3). -/
def viewThm (s : State) (o : Nat) : Option RegView :=
  match o with
  | 0x00 => held Reg.thmCtrl
  | 0x08 => mixed Reg.thmStatus 0x10000 (flagAt s.brd.coolantOk 16)
  | 0x40 => held Reg.thmAlertMask
  | _ => (nth o 0x10 8 6).bind fun d => mixed (Reg.thmDie d) 0xFF (getDie s d).temp
/-- SEC_ (Table 18-8). -/
def viewSec (s : State) (o : Nat) : Option RegView :=
  let at_ := regBase 4 21 + o
  let t := s.sec
  match o with
  | 0x00 => given at_ (t.lc.code + (t.ownerSlot % 4) * 16 + (svcLeft t % 32) * 64 + (t.svnMin % 128) * 2048)
  | 0x08 => mixed Reg.secStatus 0x3F (flagAt t.sealBroken 0 + flagAt t.debugUnlocked 1 + flagAt t.cmd.isSome 2 + flagAt t.bootFail 3
      + flagAt t.bootSlot 4 + flagAt t.wipeBusy 5)
  | 0x10 => given at_ 0
  | 0x18 => given at_ (flagAt t.cmd.isSome 0 + t.result * 2)
  | 0x100 => given at_ 0
  | 0x108 => given at_ 0
  | 0x110 => given at_ (flagAt s.fab.agree.isSome 0 + t.keyResult * 2 + (t.keyNode % 65536) * 2 ^ 16)
  | _ =>
    match nth o 0x40 8 24 with
    | some k => if k < 8 then held (Reg.secOwner k) else if k < 16 then held (Reg.secPolicy (k - 8)) else given at_ 0
    | none => (nth o 0x1000 8 128).bind fun k => given at_ ((measOf t (k / 8)).extractLsb' (64 * (k % 8)) 64).toNat
/-- MGT_ (Table 19-5); a stack counts while it is online. -/
def viewMgt (s : State) (o : Nat) : Option RegView :=
  let at_ := regBase 4 22 + o
  let b := s.boot
  match o with
  | 0x00 => given at_ (b.phase + flagAt b.warm 4 + flagAt b.degraded 5 + b.failPhase * 256 + b.failCause * 2 ^ 16)
  | 0x08 => given at_ (((List.finRange 12).map fun st : StackId => flagAt (b.stackOk.getLsbD st.val && flagR s (Reg.stkCtrl st) 0) st.val).sum + b.lpdOk.toNat * 2 ^ 16)
  | 0x10 => given at_ b.linkUp.toNat
  | 0x18 => given at_ b.elapsed.toNat
  | _ => none

/-! ### The whole of register space (R500, R501) -/

/-- Where an address lies in register space: die, slot and offset within the slot (R500). -/
structure Place where
  die : Nat
  slot : Nat
  off : Nat
deriving DecidableEq, Repr
/-- The place of an address; none outside register space (R500, Table 10-1). -/
def placeOf (addr : Nat) : Option Place :=
  if 0x000F000000000000 ≤ addr ∧ addr < 0x000F001000000000 then
    let a := addr - 0x000F000000000000
    some ⟨a / 4294967296, a / 16777216 % 256, a % 16777216⟩
  else none
/-- The register at a place; none where no register is (R501, R503). -/
def viewAt (s : State) (p : Place) : Option RegView :=
  let d := p.die
  let o := p.off
  if !(blockDies p.slot).1.testBit d then none
  else match p.slot with
    | 0x00 => viewId o
    | 0x01 => viewDie s d o
    | 0x02 => viewSeam s d o
    | 0x03 => viewDc s d o
    | 0x04 => if o / 1048576 < 3 then viewStk s d (o / 1048576) (o % 1048576) else none
    | 0x05 => viewDsp s d o
    | 0x08 => viewLpd s d o
    | 0x09 => viewSes s d o
    | 0x0A => viewErr s d o
    | 0x0B => viewCap s d o
    | 0x0C => viewMir s o
    | 0x0D => viewTe s o
    | 0x0E => viewXlt s o
    | 0x0F => viewTlt s o
    | 0x10 => viewOrf s o
    | 0x11 => viewXf s o
    | 0x12 => viewStc s o
    | 0x13 => viewPwr s o
    | 0x14 => viewThm s o
    | 0x15 => viewSec s o
    | 0x16 => viewMgt s o
    | _ => none
/-- What a register reads as. -/
def viewValue (s : State) (v : RegView) : W64 := (getR s v.reg &&& ~~~v.mask) ||| (v.live &&& v.mask)

end Sys2Proof.Machine
end

