-- ==== Sys2Proof/Machine/RegAccess.lean ====
section
/-! DEFINITION. Reads and writes of register space by host cores and by the companion (R8, R9, R348, R497, R502 to R507). -/

namespace Sys2Proof.Machine

/-- The state that a command's meaning leaves. -/
def after (s : State) (f : State → Res) : State :=
  match f s with
  | .next t => t
  | _ => s
/-- A register's RW bits take a value and its W1C bits are cleared where it is 1 (Table 0-3); fields given a reserved value keep theirs and set RSV_WRITE (R504). -/
def plainWrite (s : State) (addr : Nat) (r : Reg) (v : W64) (bad : List (Nat × Nat)) : State :=
  let old := getR s r
  let v := bad.foldl (fun v f => setBits v f.1 f.2 (bits old f.1 f.2)) v
  let s := if r.rw ||| r.w1c = 0 then s else setR s r (((old &&& ~~~r.rw) ||| (v &&& r.rw)) &&& ~~~(v &&& r.w1c))
  if bad = [] then s else idEvent s 1 addr
/-- The fields of a written value that are reserved values of their registers, or beyond the extent that a capability register reports (R504, R511). -/
def reservedFields (p : Place) (v : W64) : List (Nat × Nat) :=
  let test (c : Prop) [Decidable c] (hi lo : Nat) : List (Nat × Nat) := if c then [(hi, lo)] else []
  match p.slot, p.off with
  | 0x0A, 0x00 => test (bits v 18 8 = 0 ∨ 1024 < bits v 18 8) 18 8
  | 0x0C, 0x08 => test (2048 ≤ bits v 15 0) 15 0
  | 0x0C, 0x10 => test (2048 ≤ bits v 15 0) 15 0
  | 0x11, 0x08 => test (2048 ≤ bits v 15 0) 15 0
  | 0x11, 0x10 => test (bits v 12 0 < 130 ∨ 4096 < bits v 12 0) 12 0
  | 0x12, 0x38 => test (1024 < bits v 10 0) 10 0 ++ test (1024 < bits v 26 16) 26 16 ++ test (1024 < bits v 42 32) 42 32
  | 0x04, o => if o % 1048576 = 0 then test (bits v 2 1 = 3) 2 1 else []
  | 0x00, o => match nth o 0x2000 16 64 with
    | some i => test (bitAt v 2 = true ∧ ((regions[i]?).map (·.early)).getD false = false) 2 2
    | none => []
  | _, _ => []

/-! ### Writes that have an effect of their own -/

/-- P2_FLOOR above P2_CAP changes neither field and is refused (R249). -/
def prioWrite (s : State) (r status : Reg) (bit : Nat) (v : W64) : State :=
  if bits v 25 16 < bits v 9 0 then raise (setFieldR s r 39 32 (bits v 39 32)) status bit else setR s r (v &&& r.rw)
/-- QCMD, and the word beside it (Table 9-6). -/
def qcmdWrite (s : State) (die off : Nat) (v : W64) : State :=
  if off = 0x48 then setR s (qcmdLow die) (v &&& 0x1F)
  else if bits v 1 0 = 1 then qcmd s die false v
  else if bits v 1 0 = 2 then qcmd s die true v
  else s
/-- DC_CTRL: ENABLE has its own meaning, the other fields are stored (R264, R266). -/
def dcCtrlWrite (s : State) (d : CDie) (v : W64) : State :=
  let s := setFieldR (setFieldR s (Reg.dcCtrl d) 15 8 (bits v 15 8)) (Reg.dcCtrl d) 1 1 (bits v 1 1)
  if bitAt v 0 then dcOn s d else dcOff s d
/-- ERR_ (R441, R453, R454, R456, R465). -/
def errWrite (s : State) (p : Place) (addr : Nat) (r : Reg) (v : W64) : State :=
  match p.off with
  | 0x00 => if 79 < bits v 6 0 then raise s (Reg.errQStatus (hDie p.die)) 18 else plainWrite s addr r v (reservedFields p v)
  | 0x10 => errConsWrite s (hDie p.die) v
  | 0x108 => if bits v 1 0 = 1 then errStopContext s v else if bits v 1 0 = 2 then errStopPartition s v else s
  | 0x110 => errReset s v
  | _ => plainWrite s addr r v []
/-- CAP_RELEASE (R459). -/
def capWrite (s : State) (d o : Nat) (v : W64) : State :=
  if o ≠ 8 then s
  else
    let s := if bitAt v 0 then capRelease s (hDie d) 0 else s
    if bitAt v 1 then capRelease s (hDie d) 1 else s
/-- TE_ (R216, R223 to R226, R236). -/
def teWrite (s : State) (o addr : Nat) (r : Reg) (v : W64) : State :=
  match nth o 0x1000 8 512 with
  | some k => after s (execTePartWrite (Fin.ofNat 64 (k / 8)) (Fin.ofNat 8 k) v)
  | none =>
    if 0x40000 ≤ o then
      let te : TeId := Fin.ofNat 256 ((o - 0x40000) / 256)
      match o % 256, bits v 4 3 with
      | 0, 1 => after s (execTeSvcOut te)
      | 0, 2 => after s (execTeSvcOutNow te)
      | 0, 3 => after s (execTeSvcIn te)
      | 8, _ => after s (execTeSlotcfgWrite te v)
      | _, _ => s
    else noteHeld (plainWrite s addr r v [])
/-- ORF_: doorbells, ring set-up, and the block's own registers (R350, R353); a write of BULK_SYNC is ignored. -/
def orfWrite (s : State) (o addr : Nat) (r : Reg) (v : W64) : State :=
  if o < 0x10000 then (if o % 64 = 0 then after s (execDoorbellWrite (Fin.ofNat 1024 (o / 64)) v) else s)
  else if 0x20000 ≤ o ∧ o < 0x30000 then
    let n := (o - 0x20000) / 64
    if o % 64 = 0x10 then after s (execOrfRingCfgWrite (Fin.ofNat 1024 n) v)
    else if o % 64 < 0x20 ∧ ringOn s n then orfFlag s 5 n
    else plainWrite s addr r v []
  else plainWrite s addr r v []
/-- XF_ (R388, R392, R393). -/
def xfWrite (s : State) (p : Place) (addr : Nat) (r : Reg) (v : W64) : State :=
  match p.off with
  | 0x28 => after s (execXfAbort v)
  | 0x30 => if 2048 ≤ bits v 15 0 then idEvent s 1 addr else e2eReset s (bits v 15 0)
  | o => match nth o 0x40000 8 (32 * 255) with
    | some k =>
      let old := smGet (0 : BitVec 2048) s.fab.peers (k / 32)
      let new := setBits old (64 * (k % 32) + 63) (64 * (k % 32)) v.toNat
      { s with fab := { s.fab with peers := smSet 0 s.fab.peers (k / 32) new } }
    | none => plainWrite s addr r v (reservedFields p v)
/-- STC_ (R404, R405, R408). -/
def stcWrite (s : State) (p : Place) (addr : Nat) (r : Reg) (v : W64) : State :=
  match p.off with
  | 0x00 => if bitAt v 0 then stcRelock s else s
  | 0x08 => stcPeriodWrite s v
  | 0x18 => after s (execStcLoad v)
  | o => match nth o 0x100 8 32 with
    | some k =>
      let s := plainWrite s addr r v []
      { s with stc := { s.stc with tickTold := smSet false s.stc.tickTold k false } }
    | none => plainWrite s addr r v (reservedFields p v)
/-- PWR_ (R419, R420, R426). -/
def pwrWrite (s : State) (o addr : Nat) (r : Reg) (v : W64) : State :=
  match o with
  | 0x00 => after s (execPwrMboxWrite v)
  | 0x20 => after s (execPwrLoopWrite v)
  | 0x28 => match bits v 3 0 with
    | 1 => regionOff s (bits v 11 4)
    | 2 => regionOn s (bits v 11 4)
    | 3 => hostCoreOff s (bits v 11 4)
    | 4 => hostCoreOn s (bits v 11 4)
    | _ => raise s Reg.pwrStatus 0
  | _ => plainWrite s addr r v []
/-- SEC_ (R472, R475, R482). -/
def secWrite (s : State) (o addr : Nat) (r : Reg) (v : W64) : State :=
  match o with
  | 0x10 => secCommand s (bits v 3 0) (bits v 7 4) (bits v 14 8)
  | 0x100 => secMeasGo s v
  | 0x108 => match bits v 9 8 with
    | 1 => after s (execBind v)
    | 2 => after s (execRotate v)
    | 3 => after s (execClear v)
    | _ => s
  | _ => match nth o 0xC0 8 8 with
    | some w => { s with sec := { s.sec with measExt := smSet 0 s.sec.measExt w v } }
    | none => plainWrite s addr r v []

/-- What a write of the register at a place does. -/
def placeWrite (s : State) (p : Place) (addr : Nat) (r : Reg) (v : W64) : State :=
  let d := p.die
  let o := p.off
  match p.slot with
  | 0x01 => match tallyAt o with
    | some (l, i, true) => after s (execDieTallyAdd (cDie d) l (Fin.ofNat 4096 i) (v.truncate 32))
    | _ => plainWrite s addr r v []
  | 0x02 => if o % 64 = 0 then (if bitAt v 0 then seamRetrain s ((seamAt d (o / 64)).getD 0) else s) else plainWrite s addr r v []
  | 0x03 =>
    if o = 0 then dcCtrlWrite s (cDie d) v
    else if o = 8 then dcInvalidate s (cDie d) (bitAt v 0)
    else if o = 0x40 ∨ o = 0x48 then qcmdWrite s d o v
    else plainWrite s addr r v []
  | 0x04 =>
    let st := stackAt d (o / 1048576)
    match o % 1048576 with
    | 0x00 => destLost (plainWrite s addr r v (reservedFields p v))
    | 0x08 => prioWrite s (Reg.stkPrio st) (Reg.stkStatus st) 19 v
    | 0x28 => testCommand s st v
    | _ => plainWrite s addr r v (reservedFields p v)
  | 0x05 =>
    let s := plainWrite s addr r v (reservedFields p v)
    if o = 8 then { s with dsp := { s.dsp with inboxTold := smSet false s.dsp.inboxTold d false } } else s
  | 0x08 =>
    if o = 8 then prioWrite s (Reg.lpdPrio (hDie d)) (Reg.lpdStatus (hDie d)) 0 v
    else if o = 0x40 ∨ o = 0x48 then qcmdWrite s d o v
    else plainWrite s addr r v []
  | 0x09 => match nth o 0x800000 8 1048576 with
    | some k => sesStore s (32768 * (hDie d).val + k / 32) (k % 32) v
    | none => plainWrite s addr r v []
  | 0x0A => errWrite s p addr r v
  | 0x0B => capWrite s d o v
  | 0x0C => if o = 0x18 then after s (execMirTakeover v) else plainWrite s addr r v (reservedFields p v)
  | 0x0D => teWrite s o addr r v
  | 0x0E => match nth o 0x1000 16 80 with
    | some h => after s (execXltInval (Fin.ofNat 80 h) v)
    | none => plainWrite s addr r v []
  | 0x0F => match nth o 0x20000 8 16384 with
    | some k => writeMap s k v
    | none => if o = 8 then after s (execTltMove v) else plainWrite s addr r v []
  | 0x10 => orfWrite s o addr r v
  | 0x11 => xfWrite s p addr r v
  | 0x12 => stcWrite s p addr r v
  | 0x13 => pwrWrite s o addr r v
  | 0x14 => if o = 0 then thmCtrlWrite s v else plainWrite s addr r v []
  | 0x15 => secWrite s o addr r v
  | _ => plainWrite s addr r v (reservedFields p v)

/-! ### Accesses of host cores (R502 to R507) -/

/-- A write of register space as its register takes it. -/
def regPut (s : State) (p : Place) (addr : Nat) (v : W64) : State :=
  match viewAt s p with
  | some w => placeWrite s p addr w.reg v
  | none => idEvent s 0 addr
/-- What a read leaves: RC fields are back at their reset value (Table 0-3), and a read of BULK_SYNC waits for its flush (R366). -/
def readEffect (s : State) (h : Option Nat) (p : Place) (r : Reg) : State :=
  if p.slot = 0x10 ∧ p.off < 0x10000 ∧ p.off % 64 = 8 then syncRead s h none
  else if p.slot = 0x0D ∧ 0x40000 ≤ p.off ∧ p.off % 256 = 0x50 then
    let te : TeId := Fin.ofNat 256 ((p.off - 0x40000) / 256)
    setTe s te { getTe s te with stolenFrom := 0, stolenBy := 0 }
  else if r.rc = 0 then s
  else setR s r ((getR s r &&& ~~~r.rc) ||| (r.reset &&& r.rc))
/-- A read of register space: its value and what it leaves. -/
def regGet (s : State) (h : Option Nat) (p : Place) (addr : Nat) : State × W64 :=
  match viewAt s p with
  | some w => (readEffect s h p w.reg, viewValue s w)
  | none => (idEvent s 0 addr, 0)

/-- A host core. -/
def getHart (s : State) (h : Nat) : HartState := smGet {} s.harts h
/-- A host core takes a value. -/
def setHart (s : State) (h : Nat) (v : HartState) : State := { s with harts := smSet {} s.harts h v }
/-- A register access of a hart waits. -/
def holdAccess (s : State) (h addr : Nat) (write : Bool) (v : W64) : State := { s with err := { s.err with held := s.err.held ++ [(h, addr, write, v)] } }
/-- A register access of a hart is performed. A load of BULK_SYNC returns later (R366), a write of XLT_INVAL has been performed once its drain has ended (R283, R335), and one that clears VALID of a tier-map entry waits until its drain has ended (R290, R335). -/
def regPerform (s : State) (h : Nat) (p : Place) (addr : Nat) (write : Bool) (v : W64) : State :=
  if write then
    let clears := decide (p.slot = 0x0F) && ((nth p.off 0x20000 8 16384).map fun k => clearsValid s k v).getD false
    let s := regPut s p addr v
    if clears && ((nth p.off 0x20000 8 16384).map fun k => bitAt (mapEntry s k) 0).getD false then holdAccess s h addr true v
    else if p.slot = 0x0E ∧ 0x1000 ≤ p.off then setHart s h { getHart s h with inval := some ((p.off - 0x1000) / 16) } else s
  else
    let (s, x) := regGet s (some h) p addr
    if (getHart s h).waiting then s else setHart s h { getHart s h with result := x }
/-- A die whose clock monitor has stopped it (R446, R507). -/
def deadDie (s : State) (p : Place) : Bool := decide (p.die < 6) && bitAt s.brd.clockLost p.die
/-- A hart takes a synchronous access fault and an ADDRESS record is placed (R502, R507). -/
def regFault (s : State) (h addr cause : Nat) : State :=
  agentFault s h { cls := 0x0E, cause := cause, addr := BitVec.ofNat 64 addr }

/-- Two addresses lie in one region. -/
def sameRegion (a b : Nat) : Bool := decide (regionAt a = regionAt b)
/-- An access cannot be performed now: a compute reset covers the block (R506), or a Seam link on the way is not up (R18, R373). -/
def regStuck (s : State) (h : Nat) (p : Place) (addr : Nat) : Bool :=
  (decide (2 ≤ s.err.phase) && coveredReg addr) || (decide (p.die < 6) && !diesJoined s [agentDie h, p.die])
/-- An access waits behind one of the same hart to the same region that waits (R336, R505). -/
def regBehind (s : State) (h addr : Nat) : Bool := s.err.held.any fun e => decide (e.1 = h) && sameRegion e.2.1 addr
/-- The router of an address's die can be reached by a hart's accesses (R18, R335). -/
def routerReached (s : State) (h addr : Nat) : Bool :=
  ((placeOf addr).map fun p => decide (6 ≤ p.die) || diesJoined s [agentDie h, p.die]).getD true
/-- A hart performs nothing more before an access of its own has been performed: a read that waits, a write that waits and that its router has not accepted or its region does not acknowledge early (R335), a load of BULK_SYNC (R366), or an invalidation that drains (R283). -/
def hartWaits (s : State) (h : Nat) : Bool :=
  s.err.held.any (fun e => decide (e.1 = h) && (!e.2.2.1 || strictAt s e.2.1 || !routerReached s h e.2.1))
    || (getHart s h).waiting
    || match (getHart s h).inval with
      | some k => (getPend s k).isSome
      | none => false
/-- A register access of a hart reaches the router of its die: misaligned it faults (R502); on a stopped die it waits for its time-out (R507); where it cannot be performed it is held. -/
def regDeliver (s : State) (h addr width : Nat) (write : Bool) (v : W64) : State :=
  match placeOf addr with
  | none => s
  | some p =>
    if width ≠ 8 ∨ addr % 8 ≠ 0 then regFault s h addr 0
    else if deadDie s p then s
    else if regStuck s h p addr || regBehind s h addr then holdAccess s h addr write v
    else regPerform s h p addr write v
/-- A hart with its clock and out of reset sends a register access. -/
def regSend (s : State) (h addr width : Nat) (write : Bool) (v : W64) : State :=
  if (getHart s h).gated || (getHart s h).inReset then s else regDeliver s h addr width write v
/-- An acknowledged register write is taken by its register, whatever has become of its hart (R335); on a stopped die it ends with the fault of R507 after 100 µs. -/
def takeWrite (s : State) (h : Nat) (w : Nat × W64) : State :=
  match placeOf w.1 with
  | some p => if deadDie s p then regFault (advanceTo s (s.now + usT 100)) h w.1 1 else regDeliver s h w.1 8 true w.2
  | none => s
/-- Acknowledged register writes of a hart that a test picks are taken by their registers, in program order (R335, R336). -/
def takeWrites (s : State) (h : Nat) (f : Nat → Bool) : State :=
  let c := getHart s h
  let s := setHart s h { c with regWrites := c.regWrites.filter fun w => !f w.1 }
  (c.regWrites.filter fun w => f w.1).foldl (fun s w => takeWrite s h w) s
/-- A register access of a hart that waits for none: its earlier writes to the region go first (R336). One that must wait is not performed yet. -/
def regAccess (s : State) (h addr width : Nat) (write : Bool) (v : W64) : State :=
  if hartWaits s h then s else regSend (takeWrites s h (sameRegion addr)) h addr width write v

/-- REGISTER_WRITE (R8, R504). -/
def execRegisterWrite (hart : Hart) (addr : BitVec 52) (v : W64) (s : State) : Res :=
  clocked s fun s => regAccess s hart.val addr.toNat 8 true v
/-- REGISTER_READ_CLEAR: the value goes to the hart, RC fields are cleared (R8, R9). -/
def execRegisterReadClear (hart : Hart) (addr : BitVec 52) (s : State) : Res :=
  clocked s fun s => regAccess s hart.val addr.toNat 8 false 0
/-- An access that names no register (R503). -/
def execUnmappedAccess (hart : Hart) (addr : BitVec 52) (write : Bool) (s : State) : Res :=
  clocked s fun s => match placeOf addr.toNat with
    | some p => if (viewAt s p).isNone then regAccess s hart.val addr.toNat 8 write 0 else s
    | none => s
/-- An access of another width or alignment (R502). -/
def execRegisterMisaligned (hart : Hart) (addr : BitVec 52) (width : Byte) (s : State) : Res :=
  clocked s fun s => if width = 8 ∧ addr.toNat % 8 = 0 then s else regAccess s hart.val addr.toNat width.toNat false 0
/-- An access to a stopped die returns with a fault after 100 µs (R507). -/
def execRegisterDeadDieTimeout (hart : Hart) (addr : BitVec 52) (s : State) : Res :=
  clocked s fun s => match placeOf addr.toNat with
    | some p =>
      if deadDie s p && decide (addr.toNat % 8 = 0) && !(getHart s hart.val).gated && !(getHart s hart.val).inReset && !hartWaits s hart.val then
        regFault (advanceTo s (s.now + usT 100)) hart.val addr.toNat 1
      else s
    | none => s
/-- A held access is performed once the reset has ended and the way is free, the accesses of one hart in order (R18, R505, R506). -/
def execRegisterAccessHeld (hart : Hart) (addr : BitVec 52) (write : Bool) (v : W64) (s : State) : Res :=
  clocked s fun s =>
    let entry := (hart.val, addr.toNat, write, v)
    if s.err.held.find? (fun e => decide (e.1 = hart.val)) ≠ some entry then s
    else match placeOf addr.toNat with
      | some p =>
        if (coveredReg addr.toNat && decide (s.err.phase ≠ 0)) || regStuck s hart.val p addr.toNat then s
        else regPerform { s with err := { s.err with held := s.err.held.erase entry } } hart.val p addr.toNat write v
      | none => s

/-! ### Accesses of the companion (R348, R353, R366, R497) -/

/-- The place of an offset of the companion's window. -/
def ioPlace (off : Nat) : Place := ⟨4, 0x10, off⟩
/-- An access of the companion: an error before READY (R497), an error with IO_ERR outside what it reaches (R348). -/
def ioAccess (s : State) (off width : Nat) (f : State → Reg → W64 → State) : State :=
  fromOrfin s fun s =>
  if !flagR s Reg.orfStatus 0 then orfSend s (.ioAck off 0 true)
  else if width ≠ 8 ∨ off % 8 ≠ 0 then orfFlag (orfSend s (.ioAck off 0 true)) 6 0
  else match viewAt s (ioPlace off) with
    | some w => f s w.reg (viewValue s w)
    | none => if off < 0x10000 then orfSend s (.ioAck off 0 false) else orfFlag (orfSend s (.ioAck off 0 true)) 6 0
/-- IoRead (R348); of BULK_SYNC it answers after its flush (R366). -/
def execIoRead (off : BitVec 20) (width : Byte) (s : State) : Res :=
  clocked s fun s => ioAccess s off.toNat width.toNat fun s _ x =>
    if off.toNat < 0x10000 ∧ off.toNat % 64 = 8 then syncRead s none (some off.toNat) else orfSend s (.ioAck off.toNat x false)
/-- IoWrite (R348). -/
def execIoWrite (off : BitVec 20) (width : Byte) (v : W64) (s : State) : Res :=
  clocked s fun s => ioAccess s off.toNat width.toNat fun s r _ =>
    orfSend (orfWrite s off.toNat r.addr r v) (.ioAck off.toNat 0 false)

end Sys2Proof.Machine
end

