-- ==== Sys2Proof/Machine/HostCore.lean ====
section
/-! DEFINITION. Host cores: loads, stores, atomics, reservations and fences on package memory and register space (R243, R300, R314, R324, R325, R333, R335 to R339). -/

namespace Sys2Proof.Machine

/-- A host core that runs: started (R495), with its clock, out of reset. -/
def hartRuns (s : State) (h : Nat) : Bool :=
  decide (s.boot.phase = 7 ∨ s.boot.phase = 8) && !(getHart s h).gated && !(getHart s h).inReset && !(bitAt s.brd.clockLost (agentDie h))
/-- An address of register space. -/
def inRegSpace (addr : Nat) : Bool := (placeOf addr).isSome
/-- The agent of a host core (Table 11-1). -/
def hostAgent (h : Hart) : Agent := ⟨h.val, by have := h.isLt; omega⟩

/-! ### Lines -/

/-- What a host core's access to memory comes to where a line could not be had: a line that is held leaves the state that the access found (R18, R294), any other is an access fault (R243, R259). -/
def hostFail (s0 s : State) (h : Hart) (b : Bad) : State := if b.held then s0 else agentFault s h.val b
/-- A host core obtains a line: any copy for a read, M for a write (R311, R314). -/
def hostLine (s : State) (h : Hart) (line : Nat) (own : Bool) : State × (Bad ⊕ Line) :=
  if !lineOk s line then (s, .inl (addrBad (64 * line)))
  else
    let c := getCopy s h.val line
    let ask (k : Ask) : State × (Bad ⊕ W64) := access s line { ask := k, agent := hostAgent h }
    let r := if c.st = .m ∨ (c.st ≠ .i ∧ own = false) then (s, .inr 0)
      else if c.st = .i then ask (if own then .fetchX else .fetchS)
      else if c.st = .e then (setCopy s h.val line { c with st := .m }, .inr 0)
      else ask .claim
    match r with
    | (s, .inl b) => (s, .inl b)
    | (s, .inr _) => (s, .inr (getCopy s h.val line).data)
/-- A host core obtains several lines. -/
def hostLines (s : State) (h : Hart) (own : Bool) : List Nat → State × (Bad ⊕ List Line)
  | [] => (s, .inr [])
  | l :: ls =>
    match hostLine s h l own with
    | (s, .inl b) => (s, .inl b)
    | (s, .inr v) =>
      match hostLines s h own ls with
      | (s, .inl b) => (s, .inl b)
      | (s, .inr vs) => (s, .inr (v :: vs))
/-- The lines of some bytes. -/
def linesAt (a n : Nat) : List Nat := (linePieces a n).map fun p => p.1 / 64
/-- A line in M takes bytes; the write that it was asked for is performed (R317). -/
def hostPut (s : State) (h : Hart) (a : Nat) (bs : List Byte) : State :=
  let c := getCopy s h.val (a / 64)
  setCopy s h.val (a / 64) { c with st := .m, data := patchLine c.data (a % 64) bs, written := true }

/-! ### The store buffer (R338, R339) -/

/-- The stores of a hart that it has not drained, over the bytes of an address range: a load returns them (R323). -/
def forwarded (l : List BufStore) (a : Nat) (bs : List Byte) : List Byte :=
  l.foldl (fun bs w => (List.range bs.length).map fun i =>
    if w.addr ≤ a + i ∧ a + i < w.addr + w.data.length then (w.data[a + i - w.addr]?).getD 0 else (bs[i]?).getD 0) bs
/-- A buffered store writes some byte of a range. -/
def BufStore.meets (w : BufStore) (a n : Nat) : Bool := decide (w.addr < a + n ∧ a < w.addr + w.data.length)
/-- The stores of a hart that has taken a fault are discarded, and no probe waits for them any more (R318, R339). -/
def discardStores (s : State) (h : Hart) : State :=
  let s := (((getHart s h.val).stores.map fun w => linesAt w.addr w.data.length).flatten).foldl (fun s line =>
    let c := getCopy s h.val line
    if c.st = .m then setCopy s h.val line { c with written := true } else s) s
  setHart s h.val { getHart s h.val with stores := [] }
/-- The oldest buffered store leaves for the L1 with all its lines in M; one whose lines cannot be had is discarded with every later store of the hart (R338, R339). The last part tells whether it has left. -/
def drainOldest (s : State) (h : Hart) : State × Bool :=
  match (getHart s h.val).stores with
  | [] => (s, true)
  | w :: rest =>
    match hostLines s h true (linesAt w.addr w.data.length) with
    | (t, .inl b) => (if b.held then s else agentFault (discardStores t h) h.val b, false)
    | (s, .inr _) =>
      let s := (writePieces w.addr w.data).foldl (fun s p => hostPut s h p.1 p.2) s
      (setHart s h.val { getHart s h.val with stores := rest }, true)
/-- Buffered stores leave in program order until none that a test picks is left; false where one could not. -/
def drainUntil : Nat → State → Hart → (BufStore → Bool) → State × Bool
  | 0, s, _, _ => (s, true)
  | n + 1, s, h, f =>
    if (getHart s h.val).stores.any f then
      match drainOldest s h with
      | (s, true) => drainUntil n s h f
      | r => r
    else (s, true)
/-- The stores of a hart that a test picks have drained. -/
def drainHart (s : State) (h : Hart) (f : BufStore → Bool) : State × Bool := drainUntil (getHart s h.val).stores.length s h f

/-! ### Loads (R323 to R325) -/

/-- The bytes of memory that a load returns: its lines', under the hart's own buffered stores. -/
def hostBytes (s : State) (h : Hart) (a n : Nat) : State × (Bad ⊕ List Byte) :=
  match hostLines s h false (linesAt a n) with
  | (s, .inl b) => (s, .inl b)
  | (s, .inr vs) => (s, .inr (forwarded (getHart s h.val).stores a ((((vs.map lineBytes).flatten).drop (a % 64)).take n)))
/-- A load in flight reads; false where its line could not be had: a faulting load leaves with the later ones of its hart, which are not performed (R324, R339). -/
def readLoad (s : State) (h : Hart) (i : Nat) : State × Bool :=
  match (getHart s h.val).loads[i]? with
  | none => (s, true)
  | some l =>
    if l.value.isSome then (s, true)
    else match hostBytes s h l.addr l.bytes with
      | (t, .inl b) =>
        let u := hostFail s t h b
        (if b.held then u else setHart u h.val { getHart u h.val with loads := (getHart u h.val).loads.take i }, false)
      | (s, .inr bs) =>
        let c := getHart s h.val
        (setHart s h.val { c with loads := c.loads.set i { l with value := some (BitVec.ofNat 64 (leNat bs)) } }, true)
/-- Loads in flight that a test picks read, in program order; false where one could not. -/
def readLoads (s : State) (h : Hart) (f : LoadOut → Bool) : State × Bool :=
  ((List.range (getHart s h.val).loads.length).filter fun i => (((getHart s h.val).loads[i]?).map f).getD false).foldl (fun r i =>
    if r.2 then readLoad r.1 h i else r) (s, true)
/-- What an access to memory must come after: the loads in flight and the buffered stores of the same bytes (R323), and with a release every one of them (R324). -/
def settleHart (s : State) (h : Hart) (a n : Nat) (all : Bool) : State × Bool :=
  match readLoads s h fun l => all || decide (l.addr < a + n ∧ a < l.addr + l.bytes) with
  | (s, true) => drainHart s h fun w => all || w.meets a n
  | r => r

/-- A load (R324, R336): from register space once the hart's earlier writes to that region are taken; from memory with the hart's own buffered stores. -/
def hostLoad (s : State) (h : Hart) (a n : Nat) : State :=
  if inRegSpace a then regAccess s h.val a n false 0
  else match readLoads s h fun l => decide (l.addr < a + n ∧ a < l.addr + l.bytes) with
    | (s, false) => s
    | (s, true) => match hostBytes s h a n with
      | (t, .inl b) => hostFail s t h b
      | (s, .inr bs) => setHart s h.val { getHart s h.val with result := BitVec.ofNat 64 (leNat bs) }
/-- A load is issued and stays in flight; at most 128 accesses of an agent are (Table 12-1). -/
def loadBegin (s : State) (h : Hart) (a n : Nat) : State :=
  let c := getHart s h.val
  if inRegSpace a then regAccess s h.val a n false 0
  else if 128 ≤ c.loads.length then s
  else setHart s h.val { c with loads := c.loads ++ [{ addr := a, bytes := n }] }
/-- The oldest load in flight retires with its value (R325). -/
def retireLoad (s : State) (h : Hart) : State :=
  match readLoad s h 0 with
  | (s, false) => s
  | (s, true) =>
    let c := getHart s h.val
    match c.loads with
    | l :: rest => setHart s h.val { c with loads := rest, result := l.value.getD c.result }
    | [] => s

/-! ### Stores, atomics and fences (R324, R333, R335, R336) -/

/-- A store (R335, R338): to memory into the store buffer, behind the loads of the same bytes; to register space acknowledged early where the region allows it, otherwise performed before the hart's next access. -/
def storeTo (s : State) (h : Hart) (a n : Nat) (v : W64) : State :=
  if inRegSpace a then
    if n = 8 ∧ a % 8 = 0 ∧ strictAt s a = false ∧ routerReached s h.val a = true then setHart s h.val { getHart s h.val with regWrites := (getHart s h.val).regWrites ++ [(a, v)] }
    else regAccess s h.val a n true v
  else match (linePieces a n).find? fun p => !lineOk s (p.1 / 64) with
    | some p => agentFault s h.val (addrBad p.1)
    | none => match readLoads s h fun l => decide (l.addr < a + n ∧ a < l.addr + l.bytes) with
      | (s, false) => s
      | (s, true) =>
        let c := getHart s h.val
        setHart s h.val { c with stores := c.stores ++ [⟨a, bytesOf n v.toNat⟩] }
/-- A word of memory that an atomic, LR or SC may name: aligned, in one line, outside register space (R333). What it must come after goes first; a release comes after every earlier access. A later access is given later, so that an acquire needs no more. -/
def atomicAt (s : State) (h : Hart) (a : Nat) (wide rl : Bool) (f : State → Line → State) : State :=
  let n := if wide then 8 else 4
  if inRegSpace a then regFault s h.val a 0
  else if a % n ≠ 0 then setHart s h.val { getHart s h.val with accessFault := true }
  else match settleHart s h a n rl with
    | (s, false) => s
    | (s, true) => match hostLine s h (a / 64) true with
      | (t, .inl b) => hostFail s t h b
      | (s, .inr v) => f s v
/-- A word as a hart's register receives it: a 32-bit one sign-extended. -/
def hostWord (wide : Bool) (w : W64) : W64 := if wide then w else (w.truncate 32).signExtend 64
/-- AMO. -/
def hostAmo (s : State) (h : Hart) (a : Nat) (wide : Bool) (op : AtomOp) (x : W64) (rl : Bool) : State :=
  atomicAt s h a wide rl fun s v =>
    let old := lineWord v (a % 64) wide
    let s := hostPut s h a (bytesOf (if wide then 8 else 4) (atomResult op wide old x 0).toNat)
    setHart s h.val { getHart s h.val with result := hostWord wide old }
/-- LR. It waits for no write of its own, so that no probe of the line is held for it (R317). -/
def hostReserve (s : State) (h : Hart) (a : Nat) (wide rl : Bool) : State :=
  atomicAt s h a wide rl fun s v =>
    let s := setCopy s h.val (a / 64) { getCopy s h.val (a / 64) with written := true }
    setHart s h.val { getHart s h.val with result := hostWord wide (lineWord v (a % 64) wide), reservation := some (a / 64) }
/-- SC: the reservation ends; the word is written where it is still held once the line is owned (R333). -/
def hostConditional (s : State) (h : Hart) (a : Nat) (wide : Bool) (v : W64) (rl : Bool) : State :=
  if (getHart s h.val).reservation = some (a / 64) then
    atomicAt s h a wide rl fun s _ =>
      if (getHart s h.val).reservation = some (a / 64) then
        let s := hostPut s h a (bytesOf (if wide then 8 else 4) v.toNat)
        setHart s h.val { getHart s h.val with result := 0, reservation := none }
      else
        let s := setCopy s h.val (a / 64) { getCopy s h.val (a / 64) with written := true }
        setHart s h.val { getHart s h.val with reservation := none, result := 1 }
  else setHart s h.val { getHart s h.val with reservation := none, result := 1 }
/-- The cache-block zero: the line in M, all zeros (Table 11-5). -/
def hostZero (s : State) (h : Hart) (a : Nat) : State :=
  let line := a / 64
  if inRegSpace a then regFault s h.val a 0
  else if !lineOk s line then agentFault s h.val (addrBad (64 * line))
  else match settleHart s h (64 * line) 64 false with
    | (s, false) => s
    | (s, true) => match access s line { ask := .claimZero, agent := hostAgent h } with
      | (t, .inl b) => hostFail s t h b
      | (s, .inr _) => s
/-- FENCE: what its predecessor set names has been performed before what its successor set names is given. One with O in its predecessor set retires only when every earlier register write has been taken (R336). -/
def hostFence (s : State) (h : Hart) (preO preR preW any : Bool) : State :=
  let s := if preO then takeWrites s h.val fun _ => true else s
  if preO && s.err.held.any fun e => decide (e.1 = h.val) && e.2.2.1 then s
  else match (if preR && any then readLoads s h fun _ => true else (s, true)) with
  | (s, true) => if preW && any then (drainHart s h fun _ => true).1 else s
  | (s, false) => s
/-- An instruction fetch reads its line coherently (R300). What the hart has fetched before it may go on running until FENCE.I. -/
def hostFetch (s : State) (h : Hart) (a : Nat) : State :=
  if inRegSpace a then regFault s h.val a 0
  else match hostLine s h (a / 64) false with
    | (t, .inl b) => hostFail s t h b
    | (s, .inr v) =>
      let c := getHart s h.val
      setHart s h.val { c with fetched := c.fetched.filter (fun e => decide (e.1 ≠ a / 64)) ++ [(a / 64, v)] }
/-- FENCE.I: the hart's own stores are visible to its fetches, and it runs nothing fetched before (R300, R324). -/
def hostFenceI (s : State) (h : Hart) : State :=
  match drainHart s h fun _ => true with
  | (s, true) => setHart s h.val { getHart s h.val with fetched := [] }
  | (s, false) => s

/-- What a host core does, once it runs. -/
def hostDo (s : State) (h : Hart) : HostOp → State
  | .load a w => hostLoad s h a.toNat (2 ^ w.val)
  | .store a w v => storeTo s h a.toNat (2 ^ w.val) v
  | .drain => (drainOldest s h).1
  | .taken => match (getHart s h.val).regWrites with
    | [] => s
    | w :: rest => takeWrite (setHart s h.val { getHart s h.val with regWrites := rest }) h.val w
  | .loadBegin a w => loadBegin s h a.toNat (2 ^ w.val)
  | .loadRead i => (readLoad s h i.val).1
  | .loadRetire => retireLoad s h
  | .amo a wide op x _ rl => hostAmo s h a.toNat wide op x rl
  | .loadReserved a wide _ rl => hostReserve s h a.toNat wide rl
  | .storeConditional a wide v _ rl => hostConditional s h a.toNat wide v rl
  | .zeroBlock a => hostZero s h a.toNat
  | .fence _ preO preR preW sucI sucO sucR sucW => hostFence s h preO preR preW (sucI || sucO || sucR || sucW)
  | .fenceI => hostFenceI s h
  | .fetch a => hostFetch s h a.toNat

/-- HOST_CORE_LOAD_STORE: a host core that runs and waits for no access of its own does one thing with memory (R324, R335, R339). Stores that have retired drain whatever it waits for, and register writes that their router has accepted are taken whatever has become of the hart. -/
def execHostCoreLoadStore (hart : Hart) (op : HostOp) (s : State) : Res :=
  clocked s fun s =>
    if op = .taken then hostDo s hart op
    else if !hartRuns s hart.val || (hartWaits s hart.val && decide (op ≠ .drain)) then s
    else hostDo (setHart s hart.val { getHart s hart.val with accessFault := false }) hart op

end Sys2Proof.Machine
end

