-- ==== Sys2Proof/Machine/Sequencer.lean ====
section
/-! DEFINITION. The sequencer's scalar instructions (R125 to R128, Table 5-4). -/

namespace Sys2Proof.Machine

/-- NOP does nothing (Table 5-4). -/
def execNop (c : CtxId) (w x : W64) (s : State) : Res :=
  clocked s fun s => issue s c w x 0x01 false { access := false } (fun _ => [rsv w 63 9]) fun s _ => .done s

/-- Every earlier instruction of a context has completed (R127). -/
def allDone (s : State) (c : CtxId) : Bool :=
  match getCtx s c with
  | none => true
  | some x => x.ops.isEmpty && x.hold.isEmpty && (pendingMmas s c).isEmpty && (pendingDrains s c).isEmpty && drainsSeen s c
      && (getTe s c.te).flights.all (fun f => decide (f.slot ≠ c.slot))
      && (writeBuf s (clusterOf c.te)).all (fun b => decide (b.ctx ≠ c))

/-- END ends the context once all earlier work has completed, and discards its groups (R127). -/
def execEndKernel (c : CtxId) (w x : W64) (s : State) : Res :=
  clocked s fun s => issue s c w x 0x02 false { access := false } (fun _ => [rsv w 63 9]) fun s _ =>
    if !allDone s c then .wait s 6
    else
      let s := (shareGroups s c).foldl (fun s g => setGroup s c.te g {}) s
      .done (emptySlot s c 0x00 0)

/-- STOPK stops the context with a software error record (R128). -/
def execStopk (c : CtxId) (w x : W64) (s : State) : Res :=
  clocked s fun s => issue s c w x 0x03 false { access := false } (fun _ => [rsv w 63 25]) fun s _ =>
    .stop s 0x0A 0 (BitVec.ofNat 64 (bits w 24 9)) 0

/-- SRD reads a value of Table 5-5. -/
def execSrd (c : CtxId) (w x : W64) (s : State) : Res :=
  clocked s fun s => issue s c w x 0x04 false { access := false }
    (fun ctx => [rsv w 63 22, (0x04, (srdValue s c ctx (bits w 21 14)).isNone)]) fun s ctx =>
    .done (setSreg s c (bits w 13 9) ((srdValue s c ctx (bits w 21 14)).getD 0))

/-- SALU: RD := RA fn RB (R125). -/
def execSalu (c : CtxId) (w x : W64) (s : State) : Res :=
  clocked s fun s => issue s c w x 0x08 false { access := false }
    (fun _ => [rsv w 63 30, (0x04, (alu (bits w 29 24) 0 0).isNone)]) fun s _ =>
    .done (setSreg s c (bits w 13 9) ((alu (bits w 29 24) (sreg s c (bits w 18 14)) (sreg s c (bits w 23 19))).getD 0))

/-- SALUI: RD := RA fn IMM (R125). -/
def execSalui (c : CtxId) (w x : W64) (s : State) : Res :=
  clocked s fun s => issue s c w x 0x09 false { access := false }
    (fun _ => [rsv w 31 25, (0x04, (alu (bits w 24 19) 0 0).isNone)]) fun s _ =>
    .done (setSreg s c (bits w 13 9) ((alu (bits w 24 19) (sreg s c (bits w 18 14)) (immOf w)).getD 0))

/-- LI: RD := extension word (Table 5-4). -/
def execLi (c : CtxId) (w x : W64) (s : State) : Res :=
  clocked s fun s => issue s c w x 0x0A true { access := false } (fun _ => [rsv w 63 14]) fun s _ =>
    .done (setSreg s c (bits w 13 9) x)

/-- BR branches by OFF from its own address when its condition holds (R126). -/
def execBr (c : CtxId) (w x : W64) (s : State) : Res :=
  clocked s fun s => issue s c w x 0x0C false { access := false }
    (fun _ => [rsv w 31 22, (0x03, decide (bits w 11 9 = 0 ∧ bits w 21 12 ≠ 0)), (0x04, decide (bits w 11 9 = 7)),
               (0x05, decide (bits w 34 32 ≠ 0))]) fun s ctx =>
    if (branchHolds (bits w 11 9) (sreg s c (bits w 16 12)) (sreg s c (bits w 21 17))).getD false
    then .jump s (ctx.pc + immOf w) else .done s

/-- BDNZ decrements a register and branches by OFF where it is not zero (Table 5-4). The value tested is the decremented one, for s0 too, whose write is discarded (DEDUCED, log entry 29). -/
def execBdnz (c : CtxId) (w x : W64) (s : State) : Res :=
  clocked s fun s => issue s c w x 0x0D false { access := false }
    (fun _ => [rsv w 31 14, (0x05, decide (bits w 34 32 ≠ 0))]) fun s ctx =>
    let v := sreg s c (bits w 13 9) - 1
    let s := setSreg s c (bits w 13 9) v
    if v ≠ 0 then .jump s (ctx.pc + immOf w) else .done s

/-- SLD loads 1 to 8 tile-store bytes, sign- or zero-extended (R126). -/
def execSld (c : CtxId) (w x : W64) (s : State) : Res :=
  clocked s fun s => issue s c w x 0x10 false {} (fun _ => [rsv w 31 22]) fun s _ =>
    let n := 2 ^ bits w 20 19
    let a := (sreg s c (bits w 18 14) + immOf w).toNat
    if !inShare s c a n then tsBounds s a
    else if a % n ≠ 0 then misaligned s a
    else if mustWait s c [(a, a + n)] [] then .wait s 2
    else match tsLoad s c.te a n with
      | (s, .inl b) => .fail s b
      | (s, .inr bs) =>
        let v : BitVec (8 * n) := BitVec.ofNat _ (leNat bs)
        .done (setSreg s c (bits w 13 9) (if bitAt w 21 then v.signExtend 64 else v.setWidth 64))

/-- SST stores the low bytes of a register in the tile store (R126). -/
def execSst (c : CtxId) (w x : W64) (s : State) : Res :=
  clocked s fun s => issue s c w x 0x11 false { writes := true } (fun _ => [rsv w 31 21]) fun s _ =>
    let n := 2 ^ bits w 20 19
    let a := (sreg s c (bits w 18 14) + immOf w).toNat
    if !inShare s c a n then tsBounds s a
    else if a % n ≠ 0 then misaligned s a
    else if mustWait s c [] [(a, a + n)] then .wait s 2
    else .done (tsWrite s c.te a (bytesOf n (sreg s c (bits w 13 9)).toNat))

end Sys2Proof.Machine
end

