-- ==== Sys2Proof/Machine/Sync.lean ====
section
/-! DEFINITION. The synchronisation instructions (R150 to R153, R326, R327, R332, Table 5-18). -/

namespace Sys2Proof.Machine

/-- A tally has reached a value: their difference reads as not negative (R151). -/
def tallyReached (s : State) (h : W32) (v : W32) : Bool :=
  match handleKey h with
  | some k => geZero32 (tally s k - v)
  | none => false

/-- TWAIT holds issue until a tally reaches a value (R151). -/
def execTwait (c : CtxId) (w x : W64) (s : State) : Res :=
  clocked s fun s => issue s c w x 0x60 false { writes := true } (fun _ => [rsv w 63 19]) fun s _ =>
    let h := sreg s c (bits w 13 9)
    let v : W32 := (sreg s c (bits w 18 14)).truncate 32
    if badHandle h then badTally s h
    else if tallyUp s (dieOf c.te).val (h.truncate 32) && tallyReached s (h.truncate 32) v then .done s
    else .done (modCtx s c fun x => { x with hold := x.hold ++ [.twait (h.truncate 32) v] })

/-- A held TWAIT finds its condition met, and issue resumes (R151). -/
def execTwaitSatisfied (c : CtxId) (s : State) : Res :=
  onDie s (dieOf c.te).val fun s => modCtx s c fun x => { x with hold := x.hold.filter fun h =>
    match h with
    | .twait t v => !(tallyUp s (dieOf c.te).val t && tallyReached s t v)
    | _ => true }

/-- TSIG adds to a tally, in its turn among the context's additions (R151, R331). -/
def execTsig (c : CtxId) (w x : W64) (s : State) : Res :=
  clocked s fun s => issue s c w x 0x61 false { writes := true } (fun _ => [rsv w 63 19]) fun s _ =>
    let h := sreg s c (bits w 13 9)
    if badHandle h then badTally s h
    else
      let o : Op := ⟨.signal, some (h.truncate 32), bits (sreg s c (bits w 18 14)) 31 0, [], [], 0, nextOp s c, s.now, false, true⟩
      .done (settleOps (addOp s c o) c)

/-- The scope of BAR, ACQ and REL; none for a reserved one (Table 5-18). -/
def scopeOf (w : W64) : Option Scope :=
  match bits w 11 9 with
  | 0 => some .te
  | 1 => some .cluster
  | 4 => some .package
  | _ => none
/-- The causes of BAR, ACQ and REL. -/
def scopeCauses (w : W64) : List (Nat × Bool) := [rsv w 63 12, (0x04, (scopeOf w).isNone)]

/-- BAR holds every later instruction until earlier accesses are performed, then acts as ACQ (R327). -/
def execBar (c : CtxId) (w x : W64) (s : State) : Res :=
  clocked s fun s => issue s c w x 0x62 false {} (fun _ => scopeCauses w) fun s _ =>
    .done (takeHold s c (.bar ((scopeOf w).getD .te)))

/-- ACQ holds later accesses until earlier reads and tally operations have completed, and discards stale copies (R327). -/
def execAcq (c : CtxId) (w x : W64) (s : State) : Res :=
  clocked s fun s => issue s c w x 0x63 false {} (fun _ => scopeCauses w) fun s _ =>
    .done (takeHold s c (.acq ((scopeOf w).getD .te)))

/-- REL holds later writes and tally operations until earlier accesses are performed (R327). -/
def execRel (c : CtxId) (w x : W64) (s : State) : Res :=
  clocked s fun s => issue s c w x 0x64 false { access := false } (fun _ => scopeCauses w) fun s _ =>
    .done (takeHold s c (.rel ((scopeOf w).getD .te) (cycleNow s)))

/-- The operations of ATOM by code; none for the reserved one (R152). -/
def atomOp : Nat → Option AtomOp
  | 0 => some .add
  | 1 => some .min
  | 2 => some .max
  | 3 => some .swap
  | 4 => some .cas
  | 5 => some .minu
  | 6 => some .maxu
  | _ => none

/-- The wait code of an instruction behind writes that have not drained: its context stops where one of its own has failed, else it issues again (R18, Table 17-11). -/
def drainCode (c : CtxId) (l : List (CtxId × Nat × Bad)) : Nat := if l.any fun p => decide (p.1 = c) && !p.2.2.held then 7 else 0

/-- ATOM: one read-modify-write at a tally or at the home of an address (R152, R314, R332). -/
def execAtom (c : CtxId) (w x : W64) (s : State) : Res :=
  clocked s fun s => issue s c w x 0x65 false { writes := true }
    (fun _ => [rsv w 63 34, (0x04, (atomOp (bits w 31 29)).isNone), (0x03, decide (bits w 31 29 ≠ 4 ∧ bits w 28 24 ≠ 0)),
               (0x05, bitAt w 33 && bitAt w 32)]) fun s ctx =>
    let op := (atomOp (bits w 31 29)).getD .add
    let wide := bitAt w 32
    let a := sreg s c (bits w 18 14)
    let b := sreg s c (bits w 23 19)
    let cmp := sreg s c (bits w 28 24)
    let rd := bits w 13 9
    if bitAt w 33 then
      if badHandle a then badTally s a
      else if ctx.ops.any (fun o => o.tally.isSome) then .wait s 2
      else if !tallyUp s (dieOf c.te).val (a.truncate 32) then .wait s 0
      else
        let k := (handleKey (a.truncate 32)).getD 0
        let old := tally s k
        let new : W32 := (atomResult op false (old.setWidth 64) b cmp).truncate 32
        let s := if op = .add then tallyAdd s k (b.truncate 32) else { s with tallies := smSet 0 s.tallies k new }
        .done (setSreg s c rd (old.setWidth 64))
    else if a.toNat % (if wide then 8 else 4) ≠ 0 then misaligned s a.toNat
    else match translate s c.te ctx.launch.seg a.toNat with
      | (s, .inl bad) => .fail s bad
      | (s, .inr sa) =>
        match drainTo s c ctx.opCount [sa / 64] with
        | (s, bad :: l) => .wait (failDrained s (bad :: l)) (drainCode c (bad :: l))
        | (s, []) =>
          match dieAtomic s (dieOf c.te) sa op wide b cmp with
          | (s, .inl bad) => .fail s bad
          | (s, .inr old) =>
            let v := atomResult op wide old b cmp
            .done (setSreg (patchAhead s c (sa / 64) (sa % 64) (bytesOf (if wide then 8 else 4) v.toNat)) c rd old)

/-- Translates every line of a run, and checks its address. -/
def placeLines (s : State) (c : CtxId) (table : Nat) : Nat → Nat → State × (Bad ⊕ List Nat)
  | _, 0 => (s, .inr [])
  | va, n + 1 =>
    match translate s c.te table va with
    | (s, .inl b) => (s, .inl b)
    | (s, .inr sa) =>
      if !lineOk s (sa / 64) then (s, .inl (addrBad sa))
      else match placeLines s c table (va + 64) n with
        | (s, .inr l) => (s, .inr (sa / 64 :: l))
        | r => r
/-- Lines become zero in the die cache, the context's read-ahead entries with them (R153, R328); the first failure is answered. -/
def zeroLines (s : State) (c : CtxId) : List Nat → State × Option Bad
  | [] => (s, none)
  | l :: rest =>
    let cl := clusterOf c.te
    let s := setReadAhead s cl ((readAhead s cl).map fun e => if e.1 = c ∧ e.2.1 = l then (e.1, e.2.1, 0) else e)
    match dieZero s (dieOf c.te) (ctxKey c) l with
    | (s, none) => zeroLines s c rest
    | r => r

/-- DC.ZERO makes lines zero by allocating them in the die cache (R153). -/
def execDcZero (c : CtxId) (w x : W64) (s : State) : Res :=
  clocked s fun s => issue s c w x 0x66 false { writes := true } (fun _ => [rsv w 63 22]) fun s ctx =>
    let a := (sreg s c (bits w 13 9)).toNat
    let n := bits w 21 14
    if n = 0 then shapeStop s 0x03 w 0
    else if a % 64 ≠ 0 then misaligned s a
    else match placeLines s c ctx.launch.seg a n with
      | (s, .inl b) => .fail s b
      | (s, .inr ls) =>
        match drainTo s c ctx.opCount ls with
        | (s, b :: l) => .wait (failDrained s (b :: l)) (drainCode c (b :: l))
        | (s, []) =>
          match zeroLines s c ls with
          | (s, some b) => .fail s b
          | (s, none) => .done s

end Sys2Proof.Machine
end

