-- ==== Sys2Proof/Machine/Lanes.lean ====
section
/-! DEFINITION. What the vector unit computes on its 256 lanes, apart from registers and stores (R81, R82, R143 to R148, R177). -/

namespace Sys2Proof.Machine

/-- Only canonical NaNs are written (R32). -/
def canon (w : W32) : W32 := if (dec32 w).isNan then nan32 else w
/-- A list of 256 lanes. -/
def lanes256 (f : Nat → W32) : List W32 := (List.range 256).map f
/-- A lane of a list. -/
def laneOf (l : List W32) (i : Nat) : W32 := l.getD i 0
/-- A lane whose mask bit is 0 keeps its old value (R143). -/
def maskLanes (old new : List W32) (m : BitVec 256) : List W32 :=
  lanes256 fun i => if m.getLsbD i then laneOf new i else laneOf old i
/-- A mask from its bits. -/
def maskOf (f : Nat → Bool) : BitVec 256 :=
  (List.range 256).foldl (fun a i => if f i then a ||| (1#256 <<< i) else a) 0

/-- Absolute value, exact (Table 5-15). -/
def fabs (w : W32) : W32 := canon (w &&& 0x7FFFFFFF)
/-- Negation, exact (Table 5-15). -/
def fneg (w : W32) : W32 := canon (w ^^^ 0x80000000)

/-- The elementwise functions 0x00 to 0x07 (Table 5-15). -/
def laneFn (fn : Nat) (a b c : W32) : W32 :=
  match fn with
  | 0 => fadd a b
  | 1 => fsub a b
  | 2 => fmul a b
  | 3 => ffma a b c
  | 4 => fmin a b
  | 5 => fmax a b
  | 6 => fabs a
  | _ => fneg a

/-- The comparisons 0x08 to 0x0B (Table 5-15); CMPUN tells whether either is a NaN. -/
def laneCmp (fn : Nat) (a b : W32) : Bool :=
  let x := dec32 a; let y := dec32 b
  match fn with
  | 0x08 => x.eq y
  | 0x09 => x.lt y
  | 0x0A => x.lt y || x.eq y
  | _ => x.isNan || y.isNan

/-- The mask operations 0x10 to 0x13 (Table 5-15). -/
def maskFn (fn : Nat) (a b : BitVec 256) : BitVec 256 :=
  match fn with
  | 0x10 => a &&& b
  | 0x11 => a ||| b
  | 0x12 => a &&& ~~~b
  | _ => ~~~a

/-- CVT: each lane converted to a format and read back; a masked lane counts as +0 in its MX block (Table 5-15). -/
def cvtLanes (f : Fmt) (sr : Option Nat) (a : List W32) (m : BitVec 256) : List W32 :=
  let vs := (List.range 256).map fun i => if m.getLsbD i then dec32 (laneOf a i) else FV.zero
  let r := f.encodeRow sr vs
  (f.decodeRow r.1 r.2).map rne32

/-- The lane of the largest or smallest value among those unmasked; a NaN prevails, ties go low; 256 where all are masked (R145). -/
def argLane (a : List W32) (m : BitVec 256) (largest : Bool) : Nat :=
  let on := (List.range 256).filter fun i => m.getLsbD i
  match on.find? fun i => (dec32 (laneOf a i)).isNan with
  | some i => i
  | none =>
    (on.foldl (fun best i => match best with
      | none => some i
      | some b =>
        let x := dec32 (laneOf a i); let y := dec32 (laneOf a b)
        if (if largest then y.lt x else x.lt y) then some i else some b) (none : Option Nat)).getD 256

/-- VRED (R145); none for a reserved function. -/
def reduceLanes (fn : Nat) (a : List W32) (m : BitVec 256) : Option W32 :=
  let fill (v : W32) : List W32 := lanes256 fun i => if m.getLsbD i then laneOf a i else v
  match fn with
  | 0 => some (treeSum 8 (fill 0))
  | 1 => some ((fill (inf32 true)).foldl fmax (inf32 true))
  | 2 => some ((fill (inf32 false)).foldl fmin (inf32 false))
  | 3 => some (BitVec.ofNat 32 (argLane a m true))
  | 4 => some (BitVec.ofNat 32 (argLane a m false))
  | _ => none

/-- In descending order a value may stand before another: NaN above everything, −0 equal to +0 (R146). -/
def sortsBefore (a b : W32) : Bool :=
  let x := dec32 a; let y := dec32 b
  x.isNan || (!y.isNan && !(x.lt y))
/-- Puts a lane after every one that may stand before it. -/
def insertLane (l : List (W32 × Nat)) (p : W32 × Nat) : List (W32 × Nat) :=
  match l with
  | [] => [p]
  | q :: t => if sortsBefore q.1 p.1 then q :: insertLane t p else p :: q :: t
/-- VSORT: values with their source lanes, unmasked lanes in descending order, then the masked ones (R146). -/
def sortLanes (a : List W32) (m : BitVec 256) : List (W32 × Nat) :=
  let all := (List.range 256).map fun i => (canon (laneOf a i), i)
  ((all.filter fun p => m.getLsbD p.2).foldl insertLane []) ++ all.filter fun p => !m.getLsbD p.2

/-- VSCAN: the rounded exact sum of lanes 0 to i (R147). -/
def scanLanes (a : List W32) (m : BitVec 256) : List W32 :=
  let v (i : Nat) : FV := if m.getLsbD i then dec32 (laneOf a i) else FV.zero
  let step (acc : Option FV × List W32) (i : Nat) : Option FV × List W32 :=
    let sum := match acc.1 with | none => v i | some t => t.add (v i)
    (some sum, rne32 sum :: acc.2)
  ((List.range 256).foldl step (none, [])).2.reverse

/-- One round of Philox 4×32 (R177). -/
def philoxRound (w : W32 × W32 × W32 × W32) (y : W32 × W32) : W32 × W32 × W32 × W32 :=
  let p0 := 0xD2511F53 * w.1.toNat
  let p1 := 0xCD9E8D57 * w.2.2.1.toNat
  (BitVec.ofNat 32 (p1 / 2 ^ 32) ^^^ w.2.1 ^^^ y.1, BitVec.ofNat 32 p1,
   BitVec.ofNat 32 (p0 / 2 ^ 32) ^^^ w.2.2.2 ^^^ y.2, BitVec.ofNat 32 p0)
/-- Rounds of the generator (R177). -/
def philoxRounds : Nat → W32 × W32 × W32 × W32 → W32 × W32 → W32 × W32 × W32 × W32
  | 0, w, _ => w
  | n + 1, w, y => philoxRounds n (philoxRound w y) (y.1 + 0x9E3779B9, y.2 + 0xBB67AE85)
/-- The generator: key low and high word, and counter (R177). -/
def philox (lo hi c : W64) : W32 :=
  (philoxRounds 10 (c.truncate 32, (c >>> 32).truncate 32, hi.truncate 32, (hi >>> 32).truncate 32)
    (lo.truncate 32, (lo >>> 32).truncate 32)).1
/-- What VRNG writes to a lane (R148). -/
def rngLane (lo hi c : W64) (uni : Bool) (i : Nat) : W32 :=
  let x := philox lo hi (c + BitVec.ofNat 64 i)
  if uni then rne32 (.fin false (x.toNat / 256) (-24)) else x

/-- SFN (Table 5-14). -/
def specialFn (fn : Nat) : W32 → W32 :=
  match fn with
  | 0 => fexp
  | 1 => frcp
  | _ => frsqrt
/-- VACT (Table 5-14). -/
def activationFn (fn : Nat) : W32 → W32 := if fn = 0 then fsilu else fgelu

end Sys2Proof.Machine
end

