-- ==== Sys2Proof/Machine/Vector.lean ====
section
/-! DEFINITION. The vector and special-function instructions (R143 to R148, Table 5-14). -/

namespace Sys2Proof.Machine

/-- The fields that a VALU function uses: VD, VA, VB, VC, VM, MD, FMT with ROUND (Table 5-15). -/
def valuUses (fn : Nat) : List Bool :=
  let cmp := decide (8 ≤ fn ∧ fn ≤ 0x0B)
  let msk := decide (0x10 ≤ fn ∧ fn ≤ 0x13)
  [!cmp && !msk, decide (fn ≠ 0x0E ∧ fn ≠ 0x0F),
   decide (fn ≤ 5) || cmp || decide (fn = 0x0C ∨ fn = 0x0F ∨ fn = 0x10 ∨ fn = 0x11 ∨ fn = 0x12),
   decide (fn = 3), !msk, cmp || msk, decide (fn = 0x0D)]

/-- A conversion's format and rounding: a reserved code, a coded format, and SR into FP32 or an integer (R43, R45, Table 2-1). -/
def fmtCauses (code : Nat) (sr : Bool) : List (Nat × Bool) :=
  match Fmt.ofCode code with
  | none => [(0x04, true)]
  | some f => [(0x05, f.isCw), (0x05, sr && (f.isInt || decide (f = .fp32)))]

/-- The causes of VALU (R143, Table 5-15). A CVT whose FMT is INT8 or INT4 stops with cause 0x05: Table 5-15 does not limit FMT, and R144 makes VST the only path to integers (DEDUCED, log entry 28). -/
def valuCauses (w : W64) : List (Nat × Bool) :=
  let fn := bits w 37 32
  let u := valuUses fn
  let unused (i hi lo : Nat) : Nat × Bool := (0x03, !(u.getD i true) && decide (bits w hi lo ≠ 0))
  let msk := decide (0x10 ≤ fn ∧ fn ≤ 0x13)
  if 0x13 < fn then [rsv w 63 48, (0x04, true)]
  else [rsv w 63 48, unused 0 13 9, unused 1 18 14, unused 2 23 19, unused 3 28 24, unused 4 31 29, unused 5 41 39,
        unused 6 46 42, unused 6 47 47, (0x03, msk && decide (bits w 18 17 ≠ 0 ∨ bits w 23 22 ≠ 0)),
        (0x05, bitAt w 38 && !(decide (fn ≤ 5 ∨ (8 ≤ fn ∧ fn ≤ 0x0C)))),
        (0x05, u.getD 5 false && decide (bits w 41 39 = 0))]
    ++ (if fn = 0x0D then
          match Fmt.ofCode (bits w 46 42) with
          | some f => (0x05, f.isInt) :: fmtCauses (bits w 46 42) (bitAt w 47)
          | none => [(0x04, true)]
        else [])

/-- VALU: elementwise functions, comparisons, conversion and mask operations (R143). -/
def execValu (c : CtxId) (w x : W64) (s : State) : Res :=
  clocked s fun s => issue s c w x 0x40 false { access := false } (fun _ => valuCauses w) fun s _ =>
    let fn := bits w 37 32
    let vd := bits w 13 9
    let md := bits w 41 39
    let m := vmask s c (bits w 31 29)
    let a := vreg s c (bits w 18 14)
    let scalar : W32 := canon ((sreg s c (bits w 23 19)).truncate 32)
    let b := if bitAt w 38 then lanes256 fun _ => scalar else vreg s c (bits w 23 19)
    if fn ≤ 7 then
      let v := vreg s c (bits w 28 24)
      .done (setVreg s c vd (maskLanes (vreg s c vd) (lanes256 fun i => laneFn fn (laneOf a i) (laneOf b i) (laneOf v i)) m))
    else if fn ≤ 0x0B then
      .done (setVmask s c md (maskOf fun i => m.getLsbD i && laneCmp fn (laneOf a i) (laneOf b i)))
    else if fn = 0x0C then
      .done (setVreg s c vd (lanes256 fun i => canon (if m.getLsbD i then laneOf a i else laneOf b i)))
    else if fn = 0x0D then
      let (sr, s) := drawsFor s (bitAt w 47) 256
      let f := (Fmt.ofCode (bits w 46 42)).getD .fp32
      .done (setVreg s c vd (maskLanes (vreg s c vd) (cvtLanes f sr a m) m))
    else if fn = 0x0E then
      .done (setVreg s c vd (maskLanes (vreg s c vd) (lanes256 fun i => rne32 (.fin false i 0)) m))
    else if fn = 0x0F then
      .done (setVreg s c vd (maskLanes (vreg s c vd) (lanes256 fun _ => scalar) m))
    else .done (setVmask s c md (maskFn fn (vmask s c (bits w 16 14)) (vmask s c (bits w 21 19))))

/-- VRED: a reduction of the unmasked lanes into a scalar register (R145). -/
def execVred (c : CtxId) (w x : W64) (s : State) : Res :=
  clocked s fun s => issue s c w x 0x41 false { access := false }
    (fun _ => [rsv w 28 19, rsv w 63 36, (0x04, (reduceLanes (bits w 35 32) [] 0).isNone)]) fun s _ =>
    let r := (reduceLanes (bits w 35 32) (vreg s c (bits w 18 14)) (vmask s c (bits w 31 29))).getD 0
    .done (setSreg s c (bits w 13 9) (r.setWidth 64))

/-- VSORT: values in descending order to VD, their source lanes to VD + 1 (R146). -/
def execVsort (c : CtxId) (w x : W64) (s : State) : Res :=
  clocked s fun s => issue s c w x 0x44 false { access := false }
    (fun _ => [rsv w 28 19, rsv w 63 32, (0x04, bitAt w 9)]) fun s _ =>
    let l := sortLanes (vreg s c (bits w 18 14)) (vmask s c (bits w 31 29))
    let vd := bits w 13 9
    .done (setVreg (setVreg s c vd (l.map (·.1))) c (vd + 1) (l.map fun p => rne32 (.fin false p.2 0)))

/-- VSCAN: inclusive running sums (R147). -/
def execVscan (c : CtxId) (w x : W64) (s : State) : Res :=
  clocked s fun s => issue s c w x 0x45 false { access := false } (fun _ => [rsv w 28 19, rsv w 63 32]) fun s _ =>
    let m := vmask s c (bits w 31 29)
    let vd := bits w 13 9
    .done (setVreg s c vd (maskLanes (vreg s c vd) (scanLanes (vreg s c (bits w 18 14)) m) m))

/-- VRNG: the counter-based generator (R148, R177). -/
def execVrng (c : CtxId) (w x : W64) (s : State) : Res :=
  clocked s fun s => issue s c w x 0x46 false { access := false }
    (fun _ => [rsv w 28 25, rsv w 63 32, (0x04, bitAt w 14)]) fun s _ =>
    let rk := bits w 18 14
    let vd := bits w 13 9
    let new := lanes256 (rngLane (sreg s c rk) (sreg s c (rk + 1)) (sreg s c (bits w 23 19)) (bitAt w 24))
    .done (setVreg s c vd (maskLanes (vreg s c vd) new (vmask s c (bits w 31 29))))

/-- SFN: exp, reciprocal or rsqrt of the lanes (R81, R83). -/
def execSfn (c : CtxId) (w x : W64) (s : State) : Res :=
  clocked s fun s => issue s c w x 0x48 false { access := false }
    (fun _ => [rsv w 28 19, rsv w 63 34, (0x04, decide (bits w 33 32 = 3))]) fun s _ =>
    let vd := bits w 13 9
    .done (setVreg s c vd (maskLanes (vreg s c vd) ((vreg s c (bits w 18 14)).map (specialFn (bits w 33 32))) (vmask s c (bits w 31 29))))

/-- VACT: SiLU or GELU of the lanes (R81, R83). -/
def execVact (c : CtxId) (w x : W64) (s : State) : Res :=
  clocked s fun s => issue s c w x 0x49 false { access := false }
    (fun _ => [rsv w 28 19, rsv w 63 34, (0x04, decide (2 ≤ bits w 33 32))]) fun s _ =>
    let vd := bits w 13 9
    .done (setVreg s c vd (maskLanes (vreg s c vd) ((vreg s c (bits w 18 14)).map (activationFn (bits w 33 32))) (vmask s c (bits w 31 29))))

/-! ### VLD and VST (R144) -/

/-- The causes that VLD and VST share: the format, a scale register that no stream needs, LANES of an MX format (R144, Table 5-14). -/
def vmemCauses (w : W64) : List (Nat × Bool) :=
  match Fmt.ofCode (bits w 36 32) with
  | none => [(0x04, true)]
  | some f => [(0x05, f.isCw), (0x03, !f.isMx && decide (bits w 23 19 ≠ 0)), (0x05, f.isMx && decide (bits w 45 37 % 32 ≠ 0))]
/-- The alignment that the element address needs: the element, a byte for 4-bit elements, or an MX block's elements (R144). R37 speaks of 64 B for the elements of an MX block; the rule of VLD and VST itself is followed (DEDUCED, log entry 153). -/
def vmemAlign (f : Fmt) : Nat := if f.isMx then f.bytes 32 else max 1 (f.width / 8)
/-- The bytes that a lane's element lies in. -/
def laneSpan (f : Fmt) (a i : Nat) : Nat × Nat := (a + f.width * i / 8, a + (f.width * (i + 1) + 7) / 8)
/-- The ranges of the loaded or stored lanes; a masked lane is neither loaded nor stored. -/
def lanesSpan (f : Fmt) (a : Nat) (on : List Nat) : List (Nat × Nat) := on.map (laneSpan f a)
/-- The scales of the MX blocks that a loaded or stored lane lies in. -/
def scalesSpan (f : Fmt) (sa : Nat) (on : List Nat) : List (Nat × Nat) :=
  if f.isMx then (on.map fun i => (sa + i / 32, sa + i / 32 + 1)).dedup else []
/-- Ranges of a tile store are read under the hem code; the first failure is answered (R258, R259). -/
def tsLoadAll (s : State) (te : TeId) : List (Nat × Nat) → State × Option Bad
  | [] => (s, none)
  | r :: rest =>
    match tsLoad s te r.1 (r.2 - r.1) with
    | (s, .inl b) => (s, some b)
    | (s, .inr _) => tsLoadAll s te rest

/-- VLD: elements converted exactly to FP32 (R144). -/
def execVld (c : CtxId) (w x : W64) (s : State) : Res :=
  clocked s fun s => issue s c w x 0x42 false {} (fun _ => [rsv w 28 24, rsv w 63 46] ++ vmemCauses w) fun s _ =>
    let n := bits w 45 37
    let f := (Fmt.ofCode (bits w 36 32)).getD .fp32
    let a := (sreg s c (bits w 18 14)).toNat
    let sa := (sreg s c (bits w 23 19)).toNat
    let m := vmask s c (bits w 31 29)
    let on := (List.range n).filter fun i => m.getLsbD i
    let spans := lanesSpan f a on ++ scalesSpan f sa on
    if n = 0 ∨ 256 < n then shapeStop s 0x03 w 0
    else match outOfShare s c spans with
    | some bad => tsBounds s bad
    | none =>
      if a % vmemAlign f ≠ 0 then misaligned s a
      else if mustWait s c spans [] then .wait s 2
      else match tsLoadAll s c.te spans with
        | (s, some b) => .fail s b
        | (s, none) =>
          let code (i : Nat) : Nat :=
            leNat (tsRead s c.te (a + f.width * i / 8) 5) / 2 ^ (f.width * i % 8) % 2 ^ f.width
          let scale (i : Nat) : Nat := if f.isMx then leNat (tsRead s c.te (sa + i / 32) 1) else 0
          let vd := bits w 13 9
          let new := lanes256 fun i => rne32 (f.value (code i) (scale i))
          .done (setVreg s c vd (lanes256 fun i => if i < n ∧ m.getLsbD i then laneOf new i else vlane s c vd i))

/-- Stores one element code of 4, 8, 16 or 32 bits; a nibble's neighbour is kept (R144). -/
def storeCode (s : State) (te : TeId) (f : Fmt) (a i code : Nat) : State :=
  if f.width = 4 then
    let at_ := a + i / 2
    let old := leNat (tsRead s te at_ 1)
    let new := if i % 2 = 0 then old / 16 * 16 + code else old % 16 + 16 * code
    tsWrite s te at_ (bytesOf 1 new)
  else tsWrite s te (a + f.width / 8 * i) (bytesOf (f.width / 8) code)

/-- VST: lanes converted and stored (R144). -/
def execVst (c : CtxId) (w x : W64) (s : State) : Res :=
  clocked s fun s => issue s c w x 0x43 false { writes := true }
    (fun _ => [rsv w 28 24, rsv w 63 47] ++ vmemCauses w ++ fmtCauses (bits w 36 32) (bitAt w 46)
      ++ [(0x05, ((Fmt.ofCode (bits w 36 32)).map Fmt.isMx).getD false && decide (bits w 31 29 ≠ 0))]) fun s _ =>
    let n := bits w 45 37
    let f := (Fmt.ofCode (bits w 36 32)).getD .fp32
    let a := (sreg s c (bits w 18 14)).toNat
    let sa := (sreg s c (bits w 23 19)).toNat
    let m := vmask s c (bits w 31 29)
    let on := (List.range n).filter fun i => m.getLsbD i
    let spans := lanesSpan f a on ++ scalesSpan f sa on
    if n = 0 ∨ 256 < n then shapeStop s 0x03 w 0
    else match outOfShare s c spans with
    | some bad => tsBounds s bad
    | none =>
      if a % vmemAlign f ≠ 0 then misaligned s a
      else if mustWait s c [] spans then .wait s 2
      else
        let (sr, s) := drawsFor s (bitAt w 46) 256
        let vs := (List.range n).map fun i => dec32 (vlane s c (bits w 13 9) i)
        let r := f.encodeRow sr vs
        if f.isMx then
          let s := tsWrite s c.te a (packCodes f.width r.1)
          .done (tsWrite s c.te sa (r.2.map (BitVec.ofNat 8)))
        else .done (on.foldl (fun s i => storeCode s c.te f a i (r.1.getD i 0)) s)

end Sys2Proof.Machine
end

