-- ==== Sys2Proof/Machine/Dispatch.lean ====
section
/-! DEFINITION. The meaning of every command, one arm for each constructor. -/

namespace Sys2Proof.Machine

def exec (i : Instr) (s : State) : Host.Outcome State Fault Refusal :=
  match i with
  | .nop c w x => Sys2Proof.Machine.execNop c w x s
  | .endKernel c w x => Sys2Proof.Machine.execEndKernel c w x s
  | .stopk c w x => Sys2Proof.Machine.execStopk c w x s
  | .srd c w x => Sys2Proof.Machine.execSrd c w x s
  | .salu c w x => Sys2Proof.Machine.execSalu c w x s
  | .salui c w x => Sys2Proof.Machine.execSalui c w x s
  | .li c w x => Sys2Proof.Machine.execLi c w x s
  | .br c w x => Sys2Proof.Machine.execBr c w x s
  | .bdnz c w x => Sys2Proof.Machine.execBdnz c w x s
  | .sld c w x => Sys2Proof.Machine.execSld c w x s
  | .sst c w x => Sys2Proof.Machine.execSst c w x s
  | .tmov c w x => Sys2Proof.Machine.execTmov c w x s
  | .tmovComplete c => Sys2Proof.Machine.execTmovComplete c s
  | .mma c w x => Sys2Proof.Machine.execMma c w x s
  | .arrayTakeMma te => Sys2Proof.Machine.execArrayTakeMma te s
  | .arrayReform te => Sys2Proof.Machine.execArrayReform te s
  | .ringReady te => Sys2Proof.Machine.execRingReady te s
  | .weightLoadDone te => Sys2Proof.Machine.execWeightLoadDone te s
  | .passRowsEnter te => Sys2Proof.Machine.execPassRowsEnter te s
  | .groupLanding te g => Sys2Proof.Machine.execGroupLanding te g s
  | .openGroup c w x => Sys2Proof.Machine.execOpenGroup c w x s
  | .close c w x => Sys2Proof.Machine.execClose c w x s
  | .swap c w x => Sys2Proof.Machine.execSwap c w x s
  | .scaleRows c w x => Sys2Proof.Machine.execScaleRows c w x s
  | .scaleRowsBegin te g => Sys2Proof.Machine.execScaleRowsBegin te g s
  | .discard c w x => Sys2Proof.Machine.execDiscard c w x s
  | .drainStart te g => Sys2Proof.Machine.execDrainStart te g s
  | .drainEnd te => Sys2Proof.Machine.execDrainEnd te s
  | .valu c w x => Sys2Proof.Machine.execValu c w x s
  | .vred c w x => Sys2Proof.Machine.execVred c w x s
  | .vld c w x => Sys2Proof.Machine.execVld c w x s
  | .vst c w x => Sys2Proof.Machine.execVst c w x s
  | .vsort c w x => Sys2Proof.Machine.execVsort c w x s
  | .vscan c w x => Sys2Proof.Machine.execVscan c w x s
  | .vrng c w x => Sys2Proof.Machine.execVrng c w x s
  | .sfn c w x => Sys2Proof.Machine.execSfn c w x s
  | .vact c w x => Sys2Proof.Machine.execVact c w x s
  | .twait c w x => Sys2Proof.Machine.execTwait c w x s
  | .twaitSatisfied c => Sys2Proof.Machine.execTwaitSatisfied c s
  | .tsig c w x => Sys2Proof.Machine.execTsig c w x s
  | .bar c w x => Sys2Proof.Machine.execBar c w x s
  | .acq c w x => Sys2Proof.Machine.execAcq c w x s
  | .rel c w x => Sys2Proof.Machine.execRel c w x s
  | .atom c w x => Sys2Proof.Machine.execAtom c w x s
  | .dcZero c w x => Sys2Proof.Machine.execDcZero c w x s
  | .gather c w x => Sys2Proof.Machine.execGather c w x s
  | .scatter c w x => Sys2Proof.Machine.execScatter c w x s
  | .kvgather c w x => Sys2Proof.Machine.execKvgather c w x s
  | .kvappend c w x => Sys2Proof.Machine.execKvappend c w x s
  | .dispatchInstrComplete c => Sys2Proof.Machine.execDispatchInstrComplete c s
  | .dispatch c w x => Sys2Proof.Machine.execDispatch c w x s
  | .routeTagAssign d => Sys2Proof.Machine.execRouteTagAssign d s
  | .tokenSend d tag => Sys2Proof.Machine.execTokenSend d tag s
  | .returnRoute c w x => Sys2Proof.Machine.execReturnRoute c w x s
  | .verify c w x => Sys2Proof.Machine.execVerify c w x s
  | .commit c w x => Sys2Proof.Machine.execCommit c w x s
  | .mirrorAckTimeout session => Sys2Proof.Machine.execMirrorAckTimeout session s
  | .tokenArrive d port p => Sys2Proof.Machine.execTokenArrive d port p s
  | .resultArrive d port p => Sys2Proof.Machine.execResultArrive d port p s
  | .dispatchDeadline d => Sys2Proof.Machine.execDispatchDeadline d s
  | .combineDone d tag => Sys2Proof.Machine.execCombineDone d tag s
  | .sesTableWrite hart session word v => Sys2Proof.Machine.execSesTableWrite hart session word v s
  | .sessionLive session => Sys2Proof.Machine.execSessionLive session s
  | .sessionHeld session => Sys2Proof.Machine.execSessionHeld session s
  | .sessionFree session => Sys2Proof.Machine.execSessionFree session s
  | .teSlotcfgWrite te v => Sys2Proof.Machine.execTeSlotcfgWrite te v s
  | .tePartWrite p word v => Sys2Proof.Machine.execTePartWrite p word v s
  | .partitionWipeEnd p => Sys2Proof.Machine.execPartitionWipeEnd p s
  | .launchPlace te => Sys2Proof.Machine.execLaunchPlace te s
  | .slotWipeEnd c => Sys2Proof.Machine.execSlotWipeEnd c s
  | .contextStopComplete c => Sys2Proof.Machine.execContextStopComplete c s
  | .teSvcOut te => Sys2Proof.Machine.execTeSvcOut te s
  | .teSvcOutNow te => Sys2Proof.Machine.execTeSvcOutNow te s
  | .teSvcIn te => Sys2Proof.Machine.execTeSvcIn te s
  | .teWipeEnd te => Sys2Proof.Machine.execTeWipeEnd te s
  | .returnPatrolEnd te failing => Sys2Proof.Machine.execReturnPatrolEnd te failing s
  | .patrolSlice te observed => Sys2Proof.Machine.execPatrolSlice te observed s
  | .stackSensorRead st temp => Sys2Proof.Machine.execStackSensorRead st temp s
  | .stackSensorFail st => Sys2Proof.Machine.execStackSensorFail st s
  | .refresh st => Sys2Proof.Machine.execRefresh st s
  | .lpddrRefreshIndication pkg code => Sys2Proof.Machine.execLpddrRefreshIndication pkg code s
  | .controllerServe ctrl => Sys2Proof.Machine.execControllerServe ctrl s
  | .p1Promote ctrl => Sys2Proof.Machine.execP1Promote ctrl s
  | .laneRepair st v => Sys2Proof.Machine.execLaneRepair st v s
  | .softPpr st v => Sys2Proof.Machine.execSoftPpr st v s
  | .hardPpr st v => Sys2Proof.Machine.execHardPpr st v s
  | .repairDone st result => Sys2Proof.Machine.execRepairDone st result s
  | .dcDisable d => Sys2Proof.Machine.execDcDisable d s
  | .dcDisableDone d => Sys2Proof.Machine.execDcDisableDone d s
  | .dcEnable d => Sys2Proof.Machine.execDcEnable d s
  | .dcInval d => Sys2Proof.Machine.execDcInval d s
  | .dcInvalDone d => Sys2Proof.Machine.execDcInvalDone d s
  | .qcmdDiscard die v => Sys2Proof.Machine.execQcmdDiscard die v s
  | .qcmdRetire die v => Sys2Proof.Machine.execQcmdRetire die v s
  | .xltInval hart v => Sys2Proof.Machine.execXltInval hart v s
  | .xltAck d hart => Sys2Proof.Machine.execXltAck d hart s
  | .xltOverdue hart => Sys2Proof.Machine.execXltOverdue hart s
  | .tltMapWrite slab v => Sys2Proof.Machine.execTltMapWrite slab v s
  | .tltMapInvalidate slab => Sys2Proof.Machine.execTltMapInvalidate slab s
  | .tltMove v => Sys2Proof.Machine.execTltMove v s
  | .moveMark => Sys2Proof.Machine.execMoveMark s
  | .moveMarkAck die => Sys2Proof.Machine.execMoveMarkAck die s
  | .moveCopyTile => Sys2Proof.Machine.execMoveCopyTile s
  | .moveSwitch => Sys2Proof.Machine.execMoveSwitch s
  | .moveDone => Sys2Proof.Machine.execMoveDone s
  | .moveSwitchOverdue => Sys2Proof.Machine.execMoveSwitchOverdue s
  | .moveWipeSource => Sys2Proof.Machine.execMoveWipeSource s
  | .moveAbandon cause => Sys2Proof.Machine.execMoveAbandon cause s
  | .fetchS a line => Sys2Proof.Machine.execFetchS a line s
  | .fetchX a line => Sys2Proof.Machine.execFetchX a line s
  | .claim a line => Sys2Proof.Machine.execClaim a line s
  | .claimZero a line => Sys2Proof.Machine.execClaimZero a line s
  | .peek a line => Sys2Proof.Machine.execPeek a line s
  | .putLine a line data => Sys2Proof.Machine.execPutLine a line data s
  | .putBytes a line data mask => Sys2Proof.Machine.execPutBytes a line data mask s
  | .homeAtomic a line offset op wide operand compare => Sys2Proof.Machine.execHomeAtomic a line offset op wide operand compare s
  | .evictDirty a line => Sys2Proof.Machine.execEvictDirty a line s
  | .evictClean a line => Sys2Proof.Machine.execEvictClean a line s
  | .probeShare a line => Sys2Proof.Machine.execProbeShare a line s
  | .probeTake a line => Sys2Proof.Machine.execProbeTake a line s
  | .probeKill a line => Sys2Proof.Machine.execProbeKill a line s
  | .probePeek a line => Sys2Proof.Machine.execProbePeek a line s
  | .probeRecall a line => Sys2Proof.Machine.execProbeRecall a line s
  | .setRecall a die slice set => Sys2Proof.Machine.execSetRecall a die slice set s
  | .probeAck a line => Sys2Proof.Machine.execProbeAck a line s
  | .done a line => Sys2Proof.Machine.execDone a line s
  | .doneAck a line => Sys2Proof.Machine.execDoneAck a line s
  | .evictAck a line => Sys2Proof.Machine.execEvictAck a line s
  | .fail a line => Sys2Proof.Machine.execFail a line s
  | .lineData a line => Sys2Proof.Machine.execLineData a line s
  | .snoopHoldExpire a line => Sys2Proof.Machine.execSnoopHoldExpire a line s
  | .dieTallyAdd d level index v => Sys2Proof.Machine.execDieTallyAdd d level index v s
  | .orfRingCfgWrite r v => Sys2Proof.Machine.execOrfRingCfgWrite r v s
  | .doorbellWrite r v => Sys2Proof.Machine.execDoorbellWrite r v s
  | .bulkSyncRead => Sys2Proof.Machine.execBulkSyncRead s
  | .descriptorFetch r line => Sys2Proof.Machine.execDescriptorFetch r line s
  | .descriptorReread r line => Sys2Proof.Machine.execDescriptorReread r line s
  | .launch r => Sys2Proof.Machine.execLaunch r s
  | .copyIn r lines => Sys2Proof.Machine.execCopyIn r lines s
  | .copyOut r => Sys2Proof.Machine.execCopyOut r s
  | .descriptorNop r => Sys2Proof.Machine.execDescriptorNop r s
  | .completionWrite r ok => Sys2Proof.Machine.execCompletionWrite r ok s
  | .bulkFlushResp => Sys2Proof.Machine.execBulkFlushResp s
  | .ioRead off width => Sys2Proof.Machine.execIoRead off width s
  | .ioWrite off width v => Sys2Proof.Machine.execIoWrite off width v s
  | .seamFlitError l => Sys2Proof.Machine.execSeamFlitError l s
  | .serdesFlitError l => Sys2Proof.Machine.execSerdesFlitError l s
  | .nakReplay l => Sys2Proof.Machine.execNakReplay l s
  | .linkTrainDone l ok spares => Sys2Proof.Machine.execLinkTrainDone l ok spares s
  | .seamCtrlRetrain l => Sys2Proof.Machine.execSeamCtrlRetrain l s
  | .versionReceive l v => Sys2Proof.Machine.execVersionReceive l v s
  | .readyReceive l => Sys2Proof.Machine.execReadyReceive l s
  | .retrainReceive l => Sys2Proof.Machine.execRetrainReceive l s
  | .syncReceive l count ns => Sys2Proof.Machine.execSyncReceive l count ns s
  | .pkeyReceive n m => Sys2Proof.Machine.execPkeyReceive n m s
  | .linkTimeout l => Sys2Proof.Machine.execLinkTimeout l s
  | .xfPacketSend l => Sys2Proof.Machine.execXfPacketSend l s
  | .credSend node => Sys2Proof.Machine.execCredSend node s
  | .credReceive l p => Sys2Proof.Machine.execCredReceive l p s
  | .xfE2eReset v => Sys2Proof.Machine.execXfE2eReset v s
  | .xfAbort v => Sys2Proof.Machine.execXfAbort v s
  | .abortReceive port p => Sys2Proof.Machine.execAbortReceive port p s
  | .mkvSend => Sys2Proof.Machine.execMkvSend s
  | .mkvReceive n p => Sys2Proof.Machine.execMkvReceive n p s
  | .mentReceive n p => Sys2Proof.Machine.execMentReceive n p s
  | .mackReceive n p => Sys2Proof.Machine.execMackReceive n p s
  | .mirTakeover v => Sys2Proof.Machine.execMirTakeover v s
  | .helloReceive m => Sys2Proof.Machine.execHelloReceive m s
  | .wrapReceive m => Sys2Proof.Machine.execWrapReceive m s
  | .kexAckReceive m => Sys2Proof.Machine.execKexAckReceive m s
  | .switchReceive m => Sys2Proof.Machine.execSwitchReceive m s
  | .stitchEdge ns => Sys2Proof.Machine.execStitchEdge ns s
  | .stitchEdgeAccept => Sys2Proof.Machine.execStitchEdgeAccept s
  | .substituteBoundary => Sys2Proof.Machine.execSubstituteBoundary s
  | .holdoverBoundary => Sys2Proof.Machine.execHoldoverBoundary s
  | .stcRelock => Sys2Proof.Machine.execStcRelock s
  | .relockTimeout => Sys2Proof.Machine.execRelockTimeout s
  | .stcPeriodWrite v => Sys2Proof.Machine.execStcPeriodWrite v s
  | .stcLoad v => Sys2Proof.Machine.execStcLoad v s
  | .pwrMboxWrite v => Sys2Proof.Machine.execPwrMboxWrite v s
  | .pwrLoopWrite v => Sys2Proof.Machine.execPwrLoopWrite v s
  | .powerSample watts => Sys2Proof.Machine.execPowerSample watts s
  | .excursionLimit => Sys2Proof.Machine.execExcursionLimit s
  | .dieLimiterTick die watts => Sys2Proof.Machine.execDieLimiterTick die watts s
  | .vfStepDone die => Sys2Proof.Machine.execVfStepDone die s
  | .regionLimiterTick rgn watts => Sys2Proof.Machine.execRegionLimiterTick rgn watts s
  | .droopTrip rgn => Sys2Proof.Machine.execDroopTrip rgn s
  | .droopRecover rgn => Sys2Proof.Machine.execDroopRecover rgn s
  | .regionOff target => Sys2Proof.Machine.execRegionOff target s
  | .regionOn target => Sys2Proof.Machine.execRegionOn target s
  | .hostCoreOff target => Sys2Proof.Machine.execHostCoreOff target s
  | .hostCoreOn target => Sys2Proof.Machine.execHostCoreOn target s
  | .junctionSensorRead die temp => Sys2Proof.Machine.execJunctionSensorRead die temp s
  | .dieSensorFail die => Sys2Proof.Machine.execDieSensorFail die s
  | .coolantStop lowNs => Sys2Proof.Machine.execCoolantStop lowNs s
  | .thmCtrlWrite v => Sys2Proof.Machine.execThmCtrlWrite v s
  | .thermalTrip die => Sys2Proof.Machine.execThermalTrip die s
  | .clockLoss die pll => Sys2Proof.Machine.execClockLoss die pll s
  | .errQConsWrite h v => Sys2Proof.Machine.execErrQConsWrite h v s
  | .errStopContext v => Sys2Proof.Machine.execErrStopContext v s
  | .errStopPartition v => Sys2Proof.Machine.execErrStopPartition v s
  | .errReset v => Sys2Proof.Machine.execErrReset v s
  | .resetCaptureEnd => Sys2Proof.Machine.execResetCaptureEnd s
  | .resetQuiesceEnd => Sys2Proof.Machine.execResetQuiesceEnd s
  | .resetWipeEnd => Sys2Proof.Machine.execResetWipeEnd s
  | .resetReleaseEnd => Sys2Proof.Machine.execResetReleaseEnd s
  | .capReleaseA h => Sys2Proof.Machine.execCapReleaseA h s
  | .capReleaseB h => Sys2Proof.Machine.execCapReleaseB h s
  | .resetNFall => Sys2Proof.Machine.execResetNFall s
  | .resetNCaptureDone => Sys2Proof.Machine.execResetNCaptureDone s
  | .resetNRelease => Sys2Proof.Machine.execResetNRelease s
  | .pwrGoodRise => Sys2Proof.Machine.execPwrGoodRise s
  | .railFail => Sys2Proof.Machine.execRailFail s
  | .pwrGoodFall => Sys2Proof.Machine.execPwrGoodFall s
  | .startPhaseEnd work => Sys2Proof.Machine.execStartPhaseEnd work s
  | .startPhaseTimeout => Sys2Proof.Machine.execStartPhaseTimeout s
  | .fullWipeDone => Sys2Proof.Machine.execFullWipeDone s
  | .transition v => Sys2Proof.Machine.execTransition v s
  | .debugUnlock => Sys2Proof.Machine.execDebugUnlock s
  | .rollback v => Sys2Proof.Machine.execRollback v s
  | .keyReset => Sys2Proof.Machine.execKeyReset s
  | .cancel => Sys2Proof.Machine.execCancel s
  | .svnCommit => Sys2Proof.Machine.execSvnCommit s
  | .presenceProven fallNs burnOk => Sys2Proof.Machine.execPresenceProven fallNs burnOk s
  | .presenceExpire => Sys2Proof.Machine.execPresenceExpire s
  | .sealBreak lowNs => Sys2Proof.Machine.execSealBreak lowNs s
  | .aliasRederived => Sys2Proof.Machine.execAliasRederived s
  | .secMeasGo v => Sys2Proof.Machine.execSecMeasGo v s
  | .bind v => Sys2Proof.Machine.execBind v s
  | .rotate v => Sys2Proof.Machine.execRotate v s
  | .clear v => Sys2Proof.Machine.execClear v s
  | .bindTimeout => Sys2Proof.Machine.execBindTimeout s
  | .getVersion => Sys2Proof.Machine.execGetVersion s
  | .getCapabilities => Sys2Proof.Machine.execGetCapabilities s
  | .negotiateAlgorithms => Sys2Proof.Machine.execNegotiateAlgorithms s
  | .getDigests => Sys2Proof.Machine.execGetDigests s
  | .getCertificate offset length => Sys2Proof.Machine.execGetCertificate offset length s
  | .challenge nonce => Sys2Proof.Machine.execChallenge nonce s
  | .getMeasurements index => Sys2Proof.Machine.execGetMeasurements index s
  | .spdmUnsupported code => Sys2Proof.Machine.execSpdmUnsupported code s
  | .registerAccessHeld hart addr write v => Sys2Proof.Machine.execRegisterAccessHeld hart addr write v s
  | .registerDeadDieTimeout hart addr => Sys2Proof.Machine.execRegisterDeadDieTimeout hart addr s
  | .registerMisaligned hart addr width => Sys2Proof.Machine.execRegisterMisaligned hart addr width s
  | .unmappedAccess hart addr write => Sys2Proof.Machine.execUnmappedAccess hart addr write s
  | .registerReadClear hart addr => Sys2Proof.Machine.execRegisterReadClear hart addr s
  | .registerWrite hart addr v => Sys2Proof.Machine.execRegisterWrite hart addr v s
  | .hostCoreLoadStore hart op => Sys2Proof.Machine.execHostCoreLoadStore hart op s
  | .wipePartEnd part => Sys2Proof.Machine.execWipePartEnd part s
  | .patrolInterval => Sys2Proof.Machine.execPatrolInterval s

end Sys2Proof.Machine
end

