-- ==== Sys2Proof/Safety.lean ====
section
/-! DEFINITION. The words in which statements about the machine are put: well-formed memory, an answered command, a context that may issue, and the bookkeeping of an instruction that issues. -/

namespace Sys2Proof.Machine

/-- Package memory is in canonical form: addresses strictly rising, no byte listed that reads as an unlisted one does. -/
abbrev Memory.wf (m : List Host.Cell) : Prop := smWf 0 m

/-- A command answers a next state, of which `P` holds. -/
def Answers (i : Instr) (s : State) (P : State → Prop) : Prop := ∃ t, exec i s = .next t ∧ P t

/-- A context whose next instruction may issue in the present cycle: clocks run, no compute reset is in progress, the engine has power and clock, the context is resident and going, nothing holds it, and no instruction of its engine has issued in this cycle (R63, R118, R443, Table 17-8). -/
structure Ready (s : State) (c : CtxId) (ctx : Ctx) : Prop where
  clocks : running s = true
  noReset : s.err.phase = 0
  powered : tePowered s c.te = true
  resident : getCtx s c = some ctx
  occupied : (getSlot s c).occ = .running
  notStopped : ctx.stop = none
  notEnded : ctx.ended = false
  noHold : ctx.hold = []
  registers : ctx.upset = 0
  cycle : (getTe s c.te).issuedYet = false ∨ (getTe s c.te).lastIssue < cycleNow s

/-- No cause of Table 5-3 applies to an instruction: neither the common ones nor the ones its own description gives. -/
def Legal (ctx : Ctx) (w : W64) (op : Nat) (needX : Bool) (own : List (Nat × Bool)) : Prop :=
  firstCause (commonCauses ctx w op needX ++ own) = none

/-- A slot after an instruction of its context has issued in the present cycle of `s`: `v` and `ctx` are what the instruction's own effect made of it, `pc` is where issue goes on; the cycles in which it stood behind others' instructions are booked (R233). -/
def issuedSlot (s : State) (c : CtxId) (v : Slot) (ctx : Ctx) (pc : W64) : Slot :=
  { v with
    progress := v.progress ++ [(cycleNow s, cycleNow s + 1)]
    stalled := v.stalled ++ lostCycles s c, readyFrom := cycleNow s + 1
    ctx := some { ctx with
      pc := pc, lastPc := ctx.pc, wait := 0, idle := 0, hangReported := false
      firstIssue := some (ctx.firstIssue.getD (cycleNow s)) } }

/-- What issue itself changes from `s` to `t`: the engine has issued in the present cycle, and the slot of the context is `v`. Every other engine and every other slot is as before (R63, R233). -/
structure Advances (s t : State) (c : CtxId) (v : Slot) : Prop where
  te : ∀ e, getTe t e = if e = c.te then { getTe s e with lastIssue := cycleNow s, issuedYet := true, issues := (getTe s e).issues ++ [(c.slot, cycleNow s)] } else getTe s e
  slot : ∀ d, getSlot t d = if d = c then v else getSlot s d

/-- Issue with no change to the slot but its bookkeeping. -/
def Proceeds (s t : State) (c : CtxId) (ctx : Ctx) (pc : W64) : Prop :=
  Advances s t c (issuedSlot s c (getSlot s c) ctx pc)

/-- Only the engines' tables of tensor engines and slots differ. -/
def OnlyIssue (s t : State) : Prop :=
  t = { s with eng := { s.eng with te := t.eng.te, slots := t.eng.slots } }

/-- Only those and the scalar registers differ. -/
def OnlySregs (s t : State) : Prop :=
  t = { s with eng := { s.eng with te := t.eng.te, slots := t.eng.slots, sregs := t.eng.sregs } }

/-- Scalar register `r` of a context holds `v` after a write, every other register of every context what it held; a write to s0 is discarded (R120). -/
def SregIs (s t : State) (c : CtxId) (r : Nat) (v : W64) : Prop :=
  ∀ d q, q < 32 → sreg t d q = if d = c ∧ q = r ∧ r ≠ 0 then v else sreg s d q

/-- Vector register `r` of a context holds `f` in its lanes, every other register of every context what it held (R120). -/
def LanesAre (s t : State) (c : CtxId) (r : Nat) (f : Nat → W32) : Prop :=
  ∀ d q i, q < 32 → i < 256 → vlane t d q i = if d = c ∧ q = r then f i else vlane s d q i

/-- Mask `r` of a context holds `f` in its bits, every other mask of every context what it held (R120). -/
def MaskIs (s t : State) (c : CtxId) (r : Nat) (f : Nat → Bool) : Prop :=
  ∀ d q i, q < 8 → i < 256 → (vmask t d q).getLsbD i = if d = c ∧ q = r then f i else (vmask s d q).getLsbD i

/-- Only the engines' tables of tensor engines and slots and the vector registers differ. -/
def OnlyVregs (s t : State) : Prop :=
  t = { s with eng := { s.eng with te := t.eng.te, slots := t.eng.slots, vregs := t.eng.vregs } }

/-- Only those tables and the masks differ. -/
def OnlyMasks (s t : State) : Prop :=
  t = { s with eng := { s.eng with te := t.eng.te, slots := t.eng.slots, masks := t.eng.masks } }

/-- The elementwise functions of VALU as Table 5-15 lists them. -/
def laneTable : List (Nat × (W32 → W32 → W32 → W32)) :=
  [(0x00, fun a b _ => fadd a b), (0x01, fun a b _ => fsub a b), (0x02, fun a b _ => fmul a b), (0x03, fun a b c => ffma a b c),
   (0x04, fun a b _ => fmin a b), (0x05, fun a b _ => fmax a b), (0x06, fun a _ _ => fabs a), (0x07, fun a _ _ => fneg a)]

/-- The comparisons of VALU as Table 5-15 lists them. -/
def compareTable : List (Nat × (W32 → W32 → Bool)) :=
  [(0x08, fun a b => (dec32 a).eq (dec32 b)), (0x09, fun a b => (dec32 a).lt (dec32 b)),
   (0x0A, fun a b => (dec32 a).lt (dec32 b) || (dec32 a).eq (dec32 b)), (0x0B, fun a b => (dec32 a).isNan || (dec32 b).isNan)]

/-- The mask operations of VALU as Table 5-15 lists them, bit by bit. -/
def maskTable : List (Nat × (Bool → Bool → Bool)) :=
  [(0x10, fun a b => a && b), (0x11, fun a b => a || b), (0x12, fun a b => a && !b), (0x13, fun a _ => !a)]

/-- The functions of SALU and SALUI as Table 5-4 lists them: function code and result. -/
def scalarTable (a b : W64) : List (Nat × W64) :=
  [(0x00, a + b), (0x01, a - b), (0x02, a &&& b), (0x03, a ||| b), (0x04, a ^^^ b),
   (0x05, a <<< (bits b 5 0)), (0x06, a >>> (bits b 5 0)), (0x07, a.sshiftRight (bits b 5 0)),
   (0x08, BitVec.ofNat 64 (a.toNat * b.toNat)), (0x09, BitVec.ofNat 64 (a.toNat * b.toNat / 2 ^ 64)),
   (0x0A, if a.toInt < b.toInt then 1 else 0), (0x0B, if a.toNat < b.toNat then 1 else 0),
   (0x0C, if a.toInt ≤ b.toInt then a else b), (0x0D, if a.toInt ≤ b.toInt then b else a),
   (0x0E, if a.toNat ≤ b.toNat then a else b), (0x0F, if a.toNat ≤ b.toNat then b else a)]

/-- The conditions of BR as R126 lists them: condition code and whether it holds. -/
def branchTable (a b : W64) : List (Nat × Bool) :=
  [(0, true), (1, decide (a = b)), (2, decide (a ≠ b)), (3, decide (a.toInt < b.toInt)), (4, decide (b.toInt ≤ a.toInt)),
   (5, decide (a.toNat < b.toNat)), (6, decide (b.toNat ≤ a.toNat))]

/-- A ROUTE that comes to the handling of its descriptor: the word is legal, the descriptor's line lies aligned in the share and is read without a failure, leaving `u`; its ranges lie in the share, its window and handle are good, R196 accepts it, the dispatch engine is enabled, and nothing outstanding touches its ranges (R156, R196). -/
structure RouteReady (s : State) (c : CtxId) (ctx : Ctx) (w : W64) (u : State) (desc : RDesc) (tally : Option W32) : Prop where
  ready : Ready s c ctx
  legal : Legal ctx w 0x74 false [rsv w 63 19]
  share : outOfShare s c [((sreg s c (bits w 13 9)).toNat, (sreg s c (bits w 13 9)).toNat + 64)] = none
  aligned : (sreg s c (bits w 13 9)).toNat % 64 = 0
  free : mustWait s c [((sreg s c (bits w 13 9)).toNat, (sreg s c (bits w 13 9)).toNat + 64)] [] = false
  line : ∃ bs, tsLoad s c.te (sreg s c (bits w 13 9)).toNat 64 = (u, .inr bs) ∧ desc = BitVec.ofNat 512 (leNat bs)
  ranges : outOfShare u c (descReads desc ++ descWrites desc) = none
  window : rdKind desc = 1 → inWindow u ctx.launch.job (rdStage desc) (rdRows desc * rdK desc * rdRl desc * 64) = true
  handle : bits w 18 14 ≠ 0 → badHandle (sreg s c (bits w 18 14)) = false
  accepted : descOk desc = true
  enabled : flagR u (Reg.dspCtrl (dieOf c.te)) 0 = true
  clear : mustWait u c (descReads desc) (descWrites desc) = false
  asks : tally = if bits w 18 14 ≠ 0 then some ((sreg s c (bits w 18 14)).truncate 32) else none

/-- A package stopped by its coolant or by heat: every clock is gated, the state is latched, THERMTRIP_N is asserted (R431, R432). -/
structure Tripped (s : State) : Prop where
  gated : s.brd.gated = true
  latched : s.brd.latched = true
  asserted : s.brd.thermtripN = false

end Sys2Proof.Machine
end

