-- ==== Sys2Proof/Certificates/Slice0/Obligations.lean ====
section
/-! DEFINITION. The statements for the provers: what the commands of the package do, what they leave alone, and what every step keeps. -/

open Sys2Proof Sys2Proof.Machine

/-! ### The machine as a whole -/

/-- A step takes the command at the front of the queue and runs it on the state with the queue's rest; on an empty queue the block idles for one cycle (the model's choice, log entry 2). -/
def Obligations.StepRunsFront : Prop :=
  (∀ s c rest, s.pending = c :: rest → step s = exec c { s with pending := rest })
  ∧ (∀ s, s.pending = [] → step s = .next { s with now := s.now + 2 })

/-- Every command is answered with a next state, in every state: none ends in a fault or a refusal. -/
def Obligations.EveryCommandAnswers : Prop := ∀ (i : Instr) (s : State), Answers i s fun _ => True

/-- With the package's clocks stopped (a latched trip, RESET_N held, PWR_GOOD low) a command that is none of the tray's signals changes nothing; the stitch alone goes on under RESET_N where power has held (R24), and where it does not, its commands change nothing either. -/
def Obligations.StoppedClocksFreeze : Prop :=
  ∀ (i : Instr) (s : State), running s = false →
    (stitchRuns s = true → (∀ ns, i ≠ .stitchEdge ns) ∧ i ≠ .stitchEdgeAccept ∧ i ≠ .substituteBoundary ∧ i ≠ .holdoverBoundary ∧ i ≠ .relockTimeout) →
    (∀ ns, i ≠ .coolantStop ns) → (∀ ns, i ≠ .sealBreak ns) → i ≠ .resetNFall → i ≠ .resetNCaptureDone → i ≠ .resetNRelease →
    i ≠ .pwrGoodRise → i ≠ .pwrGoodFall → i ≠ .railFail → exec i s = .next s

/-- A package that has been stopped by its coolant or by heat: clocks gated, THERMTRIP_N asserted, the state latched. It stays so whatever command comes next, COOLANT_OK or RESET_N among them, until power is removed: that is PWR_GOOD rising after it was low (R431, R432). -/
def Obligations.TripStaysLatched : Prop :=
  ∀ s t : State, Tripped s → step s = .next t →
    (∀ rest, s.pending = .pwrGoodRise :: rest → s.brd.pwrGood = true) → Tripped t

/-- COOLANT_OK low for 2 µs while COOLANT_ARM is 1, and a die comparator's trip, stop the package: the state is the tripped one, and nothing but the tray's signals and clocks changes (R431, R432). -/
def Obligations.CoolantAndHeatTrip : Prop :=
  (∀ (s : State) (ns : W32), s.brd.latched = false → flagR s Reg.thmCtrl 0 = true → 2000 ≤ ns.toNat →
    Answers (.coolantStop ns) s fun t => Tripped t ∧ t.brd.coolantOk = false ∧ t = { s with brd := t.brd })
  ∧ (∀ (s : State) (d : Fin 6), running s = true →
    Answers (.thermalTrip d) s fun t => Tripped t ∧ t = { s with brd := t.brd })

/-! ### The sequencer's scalar instructions -/

/-- SALU: RD takes RA fn RB by Table 5-4; SALUI takes the word's upper half, sign-extended, in RB's place. A write to s0 is discarded, issue goes on at the next word; nothing else changes but the bookkeeping of issue (R125). -/
def Obligations.ScalarArithmetic : Prop :=
  (∀ (s : State) (c : CtxId) (ctx : Ctx) (w x v : W64), Ready s c ctx → Legal ctx w 0x08 false [rsv w 63 30] →
    (bits w 29 24, v) ∈ scalarTable (sreg s c (bits w 18 14)) (sreg s c (bits w 23 19)) →
    Answers (.salu c w x) s fun t =>
      SregIs s t c (bits w 13 9) v ∧ Proceeds s t c ctx (ctx.pc + 8) ∧ OnlySregs s t)
  ∧ (∀ (s : State) (c : CtxId) (ctx : Ctx) (w x v : W64), Ready s c ctx → Legal ctx w 0x09 false [rsv w 31 25] →
    (bits w 24 19, v) ∈ scalarTable (sreg s c (bits w 18 14)) ((w.extractLsb' 32 32).signExtend 64) →
    Answers (.salui c w x) s fun t =>
      SregIs s t c (bits w 13 9) v ∧ Proceeds s t c ctx (ctx.pc + 8) ∧ OnlySregs s t)

/-- LI: RD takes the extension word. SRD: RD takes the value that Table 5-5 gives the selector. A write to s0 is discarded; nothing else changes but the bookkeeping of issue (R120, Table 5-5). -/
def Obligations.ScalarConstants : Prop :=
  (∀ (s : State) (c : CtxId) (ctx : Ctx) (w x : W64), Ready s c ctx → Legal ctx w 0x0A true [rsv w 63 14] →
    Answers (.li c w x) s fun t =>
      SregIs s t c (bits w 13 9) x ∧ Proceeds s t c ctx (ctx.pc + 16) ∧ OnlySregs s t)
  ∧ (∀ (s : State) (c : CtxId) (ctx : Ctx) (w x v : W64), Ready s c ctx → Legal ctx w 0x04 false [rsv w 63 22] →
    (bits w 21 14, v) ∈ [(0x00, BitVec.ofNat 64 c.te.val), (0x01, ctx.launch.cid.setWidth 64), (0x02, BitVec.ofNat 64 (tsShare s c).1),
      (0x03, BitVec.ofNat 64 (tsShare s c).2), (0x04, BitVec.ofNat 64 (grpShare s c).1), (0x05, BitVec.ofNat 64 (grpShare s c).2),
      (0x06, s.stc.count.setWidth 64), (0x07, BitVec.ofNat 64 (cycleNow s - ctx.firstIssue.getD (cycleNow s))), (0x08, 0x100),
      (0x09, BitVec.ofNat 64 (getTe s c.te).current.code)] →
    Answers (.srd c w x) s fun t =>
      SregIs s t c (bits w 13 9) v ∧ Proceeds s t c ctx (ctx.pc + 8) ∧ OnlySregs s t)

/-- NOP does nothing. BR goes on at its own address plus OFF where its condition holds of RA and RB, else at the next word, and writes no register. BDNZ decrements its register and branches where the result is not zero (R126, Table 5-4). -/
def Obligations.Branches : Prop :=
  (∀ (s : State) (c : CtxId) (ctx : Ctx) (w x : W64), Ready s c ctx → Legal ctx w 0x01 false [rsv w 63 9] →
    Answers (.nop c w x) s fun t => Proceeds s t c ctx (ctx.pc + 8) ∧ OnlyIssue s t)
  ∧ (∀ (s : State) (c : CtxId) (ctx : Ctx) (w x : W64) (taken : Bool), Ready s c ctx →
    Legal ctx w 0x0C false [rsv w 31 22, (0x03, decide (bits w 11 9 = 0 ∧ bits w 21 12 ≠ 0)), (0x05, decide (bits w 34 32 ≠ 0))] →
    (bits w 11 9, taken) ∈ branchTable (sreg s c (bits w 16 12)) (sreg s c (bits w 21 17)) →
    Answers (.br c w x) s fun t =>
      Proceeds s t c ctx (if taken then ctx.pc + (w.extractLsb' 32 32).signExtend 64 else ctx.pc + 8) ∧ OnlyIssue s t)
  ∧ (∀ (s : State) (c : CtxId) (ctx : Ctx) (w x : W64), Ready s c ctx →
    Legal ctx w 0x0D false [rsv w 31 14, (0x05, decide (bits w 34 32 ≠ 0))] →
    Answers (.bdnz c w x) s fun t =>
      SregIs s t c (bits w 13 9) (sreg s c (bits w 13 9) - 1)
        ∧ Proceeds s t c ctx (if sreg s c (bits w 13 9) = 1 then ctx.pc + 8 else ctx.pc + (w.extractLsb' 32 32).signExtend 64)
        ∧ OnlySregs s t)

/-- SLD: RD takes 1 to 8 bytes of the tile store at RA plus OFF, least significant first, sign-extended where SX is 1 and zero-extended otherwise. SST stores the low bytes of a register there; every other byte of the tile stores reads as before. Both need an address within the context's share, naturally aligned, that no outstanding operation of the context writes, and SST none that one reads; SLD a range without an uncorrectable line, whose wrong symbols are corrected (R64, R121, R124, R126, R258, R259). -/
def Obligations.ScalarLoadsAndStores : Prop :=
  (∀ (s : State) (c : CtxId) (ctx : Ctx) (w x : W64) (n a : Nat) (u : State) (bs : List Byte), Ready s c ctx → Legal ctx w 0x10 false [rsv w 31 22] →
    n = 2 ^ bits w 20 19 → a = (sreg s c (bits w 18 14) + (w.extractLsb' 32 32).signExtend 64).toNat →
    inShare s c a n = true → a % n = 0 → mustWait s c [(a, a + n)] [] = false → tsLoad s c.te a n = (u, .inr bs) →
    Answers (.sld c w x) s fun t =>
      SregIs s t c (bits w 13 9) (if bitAt w 21 then (BitVec.ofNat (8 * n) (leNat bs)).signExtend 64 else BitVec.ofNat 64 (leNat bs))
        ∧ Proceeds s t c ctx (ctx.pc + 8)
        ∧ (s.eng.tileErr = [] → u = s ∧ bs = tsRead s c.te a n)
        ∧ t = { s with eng := { s.eng with
            te := t.eng.te, slots := t.eng.slots, sregs := t.eng.sregs, tiles := u.eng.tiles, tileErr := u.eng.tileErr } })
  ∧ (∀ (s : State) (c : CtxId) (ctx : Ctx) (w x : W64) (n a : Nat), Ready s c ctx → Legal ctx w 0x11 false [rsv w 31 21] →
    n = 2 ^ bits w 20 19 → a = (sreg s c (bits w 18 14) + (w.extractLsb' 32 32).signExtend 64).toNat →
    inShare s c a n = true → a + n ≤ 2097152 → a % n = 0 → mustWait s c [] [(a, a + n)] = false →
    Answers (.sst c w x) s fun t =>
      (∀ te b, b < 2097152 → tsRead t te b 1 =
        if te = c.te ∧ a ≤ b ∧ b < a + n then [(sreg s c (bits w 13 9)).extractLsb' (8 * (b - a)) 8] else tsRead s te b 1)
        ∧ Proceeds s t c ctx (ctx.pc + 8)
        ∧ t = { s with eng := { s.eng with te := t.eng.te, slots := t.eng.slots, tiles := t.eng.tiles, tileErr := t.eng.tileErr } })

/-- STOPK stops its context with a record of class 0x0A that carries CODE; where the job has no key slot, so that no abort follows, the slot is ending, nothing issues in the context again, and only the engines, the error queue and its registers change (R128, R442, R443, R463). END, once everything the context has begun is complete, empties the slot, frees its groups and completes its launch; other slots and groups are as before, its read-ahead lines are dropped, and a draining engine whose last context this was is out (R127, R237, R328). -/
def Obligations.ContextEnds : Prop :=
  (∀ (s : State) (c : CtxId) (ctx : Ctx) (w x : W64), Ready s c ctx → Legal ctx w 0x03 false [rsv w 63 25] →
    Answers (.stopk c w x) s fun t =>
      t = stopRec s c { cls := 0x0A, addr := ctx.pc, d0 := BitVec.ofNat 64 (bits w 24 9) }
      ∧ (slotOfJob s ctx.launch.job = none →
        (getSlot t c).occ = .ending
        ∧ getCtx t c = some { ctx with stop := some ⟨0x0A, 0, ctx.pc, BitVec.ofNat 64 (bits w 24 9), 0⟩, wait := 7 }
        ∧ t = { s with eng := t.eng, err := t.err, rf := t.rf }))
  ∧ (∀ (s : State) (c : CtxId) (ctx : Ctx) (w x : W64), Ready s c ctx → Legal ctx w 0x02 false [rsv w 63 9] → allDone s c = true →
    Answers (.endKernel c w x) s fun t =>
      (getSlot t c).occ = .empty ∧ getCtx t c = none
        ∧ (∀ g, getGroup t c.te g = if g ∈ shareGroups s c then {} else getGroup s c.te g)
        ∧ (∀ d, d ≠ c → getSlot t d = getSlot s d)
        ∧ (getTe t c.te).svc = (if (getTe s c.te).svc = .draining ∧ (∀ k, k ≠ c.slot → (getSlot s ⟨c.te, k⟩).occ = .empty) then .out else (getTe s c.te).svc)
        ∧ t.orf = (finishLaunch s ctx.launch 0 0 c.te.val c.slot.val).orf
        ∧ t.fab = (finishLaunch s ctx.launch 0 0 c.te.val c.slot.val).fab
        ∧ (∀ cl, readAhead t cl = if cl = clusterOf c.te then (readAhead s cl).filter (fun e => decide (e.1 ≠ c)) else readAhead s cl)
        ∧ t = { s with eng := t.eng, orf := t.orf, fab := t.fab, cl := { s.cl with readAhead := t.cl.readAhead, lastLine := t.cl.lastLine } })

/-! ### Tile moves and dispatch instructions -/

/-- TMOV with a legal word and shape, ranges its context may reach, aligned bases, no dependence to wait for and a valid handle: the source rows are read, converted, and written to the destination, and an operation of the move, the mover's unless both spaces are tile stores, is outstanding with its tally, its count and its tile-store ranges; issue goes on 16 bytes further. Where the destination is the tile store, every byte outside the runs that are written reads as it did once the source was read (R129 to R135). -/
def Obligations.TileMove : Prop :=
  ∀ (s : State) (c : CtxId) (ctx : Ctx) (w x : W64) (m : Move) (u v z : State) (src : List (List Nat × List Nat)) (sr : Option Nat),
    Ready s c ctx → Legal ctx w 0x20 true (tmovCauses w x) → m = moveOf s c w x → moveShapeBad m = false →
    spaceBounds s c ctx.launch.job m.ssp (moveElems m ++ moveScales m) = none → spaceBounds s c ctx.launch.job m.dsp (moveDst m) = none →
    m.sa % 64 = 0 → m.da % 64 = 0 → (m.fs.isCw = true → m.ssa % 64 = 0) → mustWait s c (moveReads m) (moveWrites m) = false →
    (bitAt w 28 = true → badHandle (sreg s c (bits x 24 20)) = false) →
    moveSource s c ctx.launch m = (u, .inr src) → drawsFor u (bitAt w 27) (roundUp m.cols 32 * m.rows) = (sr, v) →
    writeRuns v c ctx.launch.seg ctx.opCount m.dsp (moveOut m sr src) = (z, none) →
    Answers (.tmov c w x) s fun t =>
      t = hasIssued (addOp (moveAhead z c ctx.launch m) c ⟨.tmov (!(decide (m.ssp = .tile) && decide (m.dsp = .tile))), if bitAt w 28 then some ((sreg s c (bits x 24 20)).truncate 32) else none,
        moveCount m, moveReads m, moveWrites m, ctx.launch.seg, ctx.opCount, (moveAhead z c ctx.launch m).now, decide (m.ssp ≠ .tile), false⟩) c (ctx.pc + 16)
      ∧ (m.dsp = .tile → ∀ b, (∀ r ∈ moveOut m sr src, ¬ (r.1 ≤ b ∧ b < r.1 + r.2.length)) →
          smGet 0 z.eng.tiles (2097152 * c.te.val + b) = smGet 0 v.eng.tiles (2097152 * c.te.val + b))

/-- TMOV_COMPLETE, on a die that has its clock, takes the oldest outstanding move of its context: its writes reach their homes and it is performed; where it was the context's only operation, it leaves, and its count is added to its tally modulo 2^32, where the route to the tally's die is up (R18, R135, R331, R332). The dispatch instructions complete in the same way, with a count of 1; a KVAPPEND of a mirrored session first queues its rows for the mirror (R157, R395). -/
def Obligations.OperationsComplete : Prop :=
  (∀ (s : State) (c : CtxId) (o : Op) (u : State), running s = true → bitAt s.brd.clockLost (dieOf c.te).val = false → oldestOp s c (fun k => decide (k = .tmov true) || decide (k = .tmov false)) = some o →
    drainWrites (moverMoved s c o.kind) c o.number = (u, []) →
    Answers (.tmovComplete c) s fun t => t = performOp u c o.number
      ∧ (∀ x h k, getCtx u c = some x → x.ops = [o] → o.tally = some h → handleKey h = some k → tallyUp u (dieOf c.te).val h = true →
        tally t k = tally u k + BitVec.ofNat 32 o.count ∧ (∀ j, j ≠ k → tally t j = tally u j)
          ∧ getCtx t c = some { x with ops := [] }))
  ∧ (∀ (s : State) (c : CtxId) (o : Op) (u : State), running s = true → bitAt s.brd.clockLost (dieOf c.te).val = false →
    oldestOp s c dispatchKind = some o →
    drainWrites (moverMoved s c o.kind) c o.number = (u, []) →
    Answers (.dispatchInstrComplete c) s fun t => t = performOp (queueMirror u o.kind) c o.number
      ∧ ((∀ a b d e f, o.kind ≠ .append a b d e f) → t = performOp u c o.number))

/-- GATHER reads N memory rows of 64·ROW bytes, at RB plus the row's index times its size, and writes them one behind another in the tile store from RT on; where its reads are sequential the mover reads ahead. SCATTER hands the rows of the tile store to memory at such addresses. Each leaves one operation outstanding; issue goes on at the next word (R154, R328). -/
def Obligations.GatherAndScatter : Prop :=
  ∀ (s : State) (c : CtxId) (ctx : Ctx) (w x : W64) (rt rb ri n row iw : Nat) (u : State) (ix : List Byte),
    Ready s c ctx → rt = (sreg s c (bits w 13 9)).toNat → rb = (sreg s c (bits w 18 14)).toNat → ri = (sreg s c (bits w 23 19)).toNat →
    n = bits w 40 29 → row = 64 * bits w 56 41 → iw = (if bitAt w 57 then 8 else 4) → n ≠ 0 → row ≠ 0 →
    outOfShare s c [(rt, rt + n * row), (ri, ri + n * iw)] = none → rt % 64 = 0 → rb % 64 = 0 → ri % iw = 0 →
    (bits w 28 24 ≠ 0 → badHandle (sreg s c (bits w 28 24)) = false) → tsLoad s c.te ri (n * iw) = (u, .inr ix) →
    (Legal ctx w 0x70 false [rsv w 63 58] → mustWait s c [(ri, ri + n * iw)] [(rt, rt + n * row)] = false →
      ∀ v rows, readRuns u c ctx.launch.seg (launchClass ctx.launch) .memory
        ((List.range n).map fun r => ((rb + leNat ((ix.drop (iw * r)).take iw) * row) % 2 ^ 64, row)) = (v, .inr rows) →
      ∀ z, z = (if sequential v c then prefetch v c ctx.launch.seg (launchClass ctx.launch)
        ((rb + leNat ((ix.drop (iw * (n - 1))).take iw) * row) % 2 ^ 64 + row + 63) else v) →
      exec (.gather c w x) s = .next (hasIssued (addOp (tsWrite z c.te rt rows.flatten) c
        ⟨.copy 1, if bits w 28 24 ≠ 0 then some ((sreg s c (bits w 28 24)).truncate 32) else none, 1, [(ri, ri + n * iw)], [(rt, rt + n * row)],
          ctx.launch.seg, ctx.opCount, u.now, true, false⟩) c (ctx.pc + 8)))
    ∧ (Legal ctx w 0x71 false [rsv w 63 58] → mustWait s c [(rt, rt + n * row), (ri, ri + n * iw)] [] = false →
      ∀ v bs z, tsLoad u c.te rt (n * row) = (v, .inr bs) →
      ctxWrite v c ctx.launch.seg ctx.opCount ((List.range n).map fun r =>
        ((rb + leNat ((ix.drop (iw * r)).take iw) * row) % 2 ^ 64, (bs.drop (row * r)).take row)) = (z, none) →
      exec (.scatter c w x) s = .next (hasIssued (addOp z c
        ⟨.copy 2, if bits w 28 24 ≠ 0 then some ((sreg s c (bits w 28 24)).truncate 32) else none, 1,
          [(rt, rt + n * row), (ri, ri + n * iw)], [], ctx.launch.seg, ctx.opCount, u.now, false, false⟩) c (ctx.pc + 8)))

/-- KVGATHER of the tree bias writes, for a session of the context's job whose tree is valid, one byte for each pair of nodes in the array order of a form (R172); of keys or values it writes the rows of the session's blocks, transposed where PART asks (R165 to R167). KVAPPEND hands K and V rows of NTOK tokens, each row a unit of the write buffer, to the session's KV blocks, refusing positions below LEN (R168). Each leaves one operation outstanding. -/
def Obligations.KeyValueInstructions : Prop :=
  (∀ (s : State) (c : CtxId) (ctx : Ctx) (w x : W64) (part nblk rt n : Nat) (rs rp : W64) (el : Nat),
    Ready s c ctx → part = bits w 40 37 → nblk = bits w 36 29 → rs = sreg s c (bits w 13 9) → rt = (sreg s c (bits w 18 14)).toNat →
    rp = sreg s c (bits w 23 19) → nblk ≠ 0 → (8 ≤ part ∨ part < 4 ∨ 64 * nblk ≤ (FoldForm.ofCode (part % 4)).np) →
    Legal ctx w 0x72 false [rsv w 63 41, (0x04, decide (part = 3 ∨ 0xC ≤ part)), (0x05, decide (8 ≤ part) && (decide (bits w 23 19 ≠ 0) || decide (nblk ≠ 1)))] →
    kvCause s rs rp ctx.launch.job (!decide (8 ≤ part)) = none → sesElem (getSes s (bits rs 15 0)) = some el →
    (8 ≤ part → treeValid (getSes s (bits rs 15 0)) = true) →
    n = gatherBytes part nblk el (treeNodes (getSes s (bits rs 15 0))) → outOfShare s c [(rt, rt + n)] = none →
    (part < 8 → bits rp 31 0 % 64 = 0) → (bits w 28 24 ≠ 0 → badHandle (sreg s c (bits w 28 24)) = false) →
    mustWait s c [] [(rt, rt + n)] = false →
    let op : Op := ⟨.copy 3, if bits w 28 24 ≠ 0 then some ((sreg s c (bits w 28 24)).truncate 32) else none, 1, [], [(rt, rt + n)], 0,
      ctx.opCount, s.now, true, false⟩
    let e := getSes s (bits rs 15 0)
    let f := FoldForm.ofCode (part % 4)
    (8 ≤ part → exec (.kvgather c w x) s = .next (hasIssued (addOp (tsWrite s c.te rt (treeBias f e)) c op) c (ctx.pc + 8)))
    ∧ (part < 8 → ∀ u v z ws ks vs,
      blockEntries s (dieOf c.te) .p0 e (gatherBlocks (bits rp 31 0) nblk (sesLen e)) = (u, .inr ws) → blockCause e el ws = none →
      gatherHalf u c e el (bits rp 39 32) (bits rp 47 40) (bits rp 31 0 / 64) nblk false ws (decide (part ≠ 1)) = (v, .inr ks) →
      gatherHalf v c e el (bits rp 39 32) (bits rp 47 40) (bits rp 31 0 / 64) nblk true ws (decide (part = 1 ∨ part = 2)) = (z, .inr vs) →
      exec (.kvgather c w x) s = .next (hasIssued (addOp (tsWrite z c.te rt (if 4 ≤ part then transposeK f el ks else ks ++ vs)) c op) c (ctx.pc + 8))))
  ∧ (∀ (s : State) (c : CtxId) (ctx : Ctx) (w x : W64) (ra ntok pos n el : Nat) (rs rp : W64) (u v : State) (ws : List W64) (bs : List Byte),
    Ready s c ctx → Legal ctx w 0x73 false [rsv w 63 36] → ntok = bits w 35 29 → rs = sreg s c (bits w 13 9) →
    ra = (sreg s c (bits w 18 14)).toNat → rp = sreg s c (bits w 23 19) → pos = bits rp 31 0 → 1 ≤ ntok → ntok ≤ 64 →
    kvCause s rs rp ctx.launch.job true = none → sesElem (getSes s (bits rs 15 0)) = some el → n = 2 * ntok * 128 * el →
    outOfShare s c [(ra, ra + n)] = none → (bits w 28 24 ≠ 0 → badHandle (sreg s c (bits w 28 24)) = false) →
    mustWait s c [(ra, ra + n)] [] = false →
    blockEntries s (dieOf c.te) .p1 (getSes s (bits rs 15 0)) (if pos / 64 = (pos + ntok - 1) / 64 then [pos / 64] else [pos / 64, pos / 64 + 1]) = (u, .inr ws) →
    blockCause (getSes s (bits rs 15 0)) el ws = none → sesLen (getSes s (bits rs 15 0)) ≤ pos → tsLoad u c.te ra n = (v, .inr bs) →
    let rows := appendRuns (getSes s (bits rs 15 0)) el (bits rp 39 32) (bits rp 47 40) pos ntok ws bs
    (∀ r ∈ rows, ∀ p ∈ writePieces r.1 r.2, lineOk v (p.1 / 64) = true) →
    exec (.kvappend c w x) s = .next (hasIssued (addOp
      (setWriteBuf v (clusterOf c.te) (writeBuf v (clusterOf c.te) ++ rows.map fun p => { ctx := c, number := ctx.opCount, addr := p.1, data := p.2, index := 16 })) c
      ⟨.append (bits rs 15 0) (bits rp 39 32) (bits rp 47 40) pos ntok,
        if bits w 28 24 ≠ 0 then some ((sreg s c (bits w 28 24)).truncate 32) else none, 1, [(ra, ra + n)], [], 0, ctx.opCount, v.now, false, false⟩) c (ctx.pc + 8)))

/-! ### The matrix array -/

/-- MMA, with a legal word and shape, operands within the share and no dependence to wait for, and an open group its context may name, joins the MMAs of its context's slot, behind those for which the array queue has no place yet; nothing else changes but the bookkeeping of issue (R63, R136 to R139). -/
def Obligations.MatrixIssue : Prop :=
  ∀ (s : State) (c : CtxId) (ctx : Ctx) (w x : W64) (g : GroupId) (op : Mma), Ready s c ctx → Legal ctx w 0x30 true (mmaCauses w x ctx) →
    op = ⟨c.slot, ctx.pc, w, x, g, bits w 15 13, bits w 20 16, bits w 25 21, bits w 33 26, bits w 44 34, bits w 61 45, bits x 15 0,
      bits x 25 16, bits x 41 26, bits x 52 42, (sreg s c (bits x 57 53)).toNat, bits x 59 58, sreg s c (2 * bits x 63 60),
      (sreg s c (2 * bits x 63 60 + 1)).truncate 32, cycleNow s, false, none, ctx.opCount⟩ →
    1 ≤ op.m → op.m ≤ 128 → 1 ≤ op.n → op.n ≤ 1024 → 1 ≤ op.k → op.k ≤ 65536 →
    (if ctx.shadow then bankOf s c ctx.liveBank else groupOf s c (bits w 12 9)) = some g →
    outOfShare s c (aRanges op) = none → (getGroup s c.te g).st = .opened → heldByPair s c.te g = false →
    (op.ring ≠ 0 → (handleKey (op.ready.truncate 32)).isSome = true ∧ badHandle (sreg s c (2 * bits x 63 60 + 1)) = false) →
    mustWait s c (aRanges op ++ bSpans s c.te op) [] = false →
    Answers (.mma c w x) s fun t =>
      Advances s t c (issuedSlot s c { getSlot s c with queue := (getSlot s c).queue ++ [op] } ctx (ctx.pc + 16)) ∧ OnlyIssue s t

/-- ARRAY_TAKE_MMA: an idle array takes the next ready MMA in turn among the slots (R80), resolves its form (R68) and binds its group to it; the load of the first pass begins at once, or in the ninth cycle after the landing that a re-form waited for, where the array has that form already and no ring holds it (R73, R79, R139). Where the form does not resolve, the context stops with a shape record (R68). -/
def Obligations.ArrayTakes : Prop :=
  (∀ (s : State) (te : TeId) (k : SlotId) (m : Mma) (rest : List Mma) (f : FoldForm), running s = true →
    (getTe s te).running = none → tePowered s te = true → nextSlot s te = some k → (getSlot s ⟨te, k⟩).queue = m :: rest →
    m.dropped = false → resolveForm (boundForm s te m) m.hint (getTe s te).current m.m m.n = some f →
    outOfShare s ⟨te, k⟩ (bRanges m f) = none →
    Answers (.arrayTakeMma te) s fun t =>
      (getTe t te).running = some ⟨m, f, passCount f (rateOf (mmaFmts m).1 (mmaFmts m).2) m.k, 0,
          (if f = (getTe s te).form ∧ 0 < passCount f (rateOf (mmaFmts m).1 (mmaFmts m).2) m.k ∧ m.ring = 0 then some (max (cycleNow s) (if (getTe s te).reformEnd = 0 then 0 else (getTe s te).reformEnd + 1)) else none), none, 0, none⟩
        ∧ (getTe t te).lastTaken = k ∧ (getSlot t ⟨te, k⟩).queue = rest ∧ (getGroup t te m.g).form = some f
        ∧ (∀ u g, (u ≠ te ∨ g ≠ m.g) → getGroup t u g = getGroup s u g)
        ∧ t = { s with eng := { s.eng with te := t.eng.te, slots := t.eng.slots, groups := t.eng.groups } })
  ∧ (∀ (s : State) (te : TeId) (k : SlotId) (m : Mma) (rest : List Mma), running s = true →
    (getTe s te).running = none → tePowered s te = true → nextSlot s te = some k → (getSlot s ⟨te, k⟩).queue = m :: rest →
    resolveForm (boundForm s te m) m.hint (getTe s te).current m.m m.n = none →
    exec (.arrayTakeMma te) s = .next (stopRec s ⟨te, k⟩ { cls := 0x03, cause := 0x02, addr := m.addr, d0 := m.word, d1 := m.ext }))

/-- ARRAY_REFORM: an empty array takes eight cycles to assume the form of the MMA it has taken; the load of the first pass begins in the next one unless a ring holds it; the context stands for these cycles, a form that no patrol slice has exercised for 8 ms must be exercised first, and nothing else changes but stall counts (R79, R139, R233, R447). RING_READY: once the ready tally of a ring has reached what the next pass needs, the weight load of that pass begins, in the first cycle after a re-form at the earliest (R79, R139). -/
def Obligations.ArrayReformsAndRings : Prop :=
  (∀ (s : State) (te : TeId) (r : Running), running s = true → bitAt s.brd.clockLost (dieOf te).val = false → (getTe s te).running = some r → r.form ≠ (getTe s te).form →
    (getTe s te).flights = [] →
    Answers (.arrayReform te) s fun t =>
      (getTe t te).form = r.form ∧ cycleNow t = cycleNow s + 8 ∧ (getTe t te).reformEnd = cycleNow s + 8
        ∧ (getTe t te).running = some (beginLoad r (cycleNow s + 9))
        ∧ (getTe t te).mustExercise = (decide (s.boot.phase = 8) && decide ((getTe s te).exercised.getD r.form.code 0 + 12000000 < cycleNow s + 8))
        ∧ (cycleNow s, cycleNow s + 8) ∈ (getSlot t ⟨te, r.mma.slot⟩).stalled
        ∧ (∀ c, ∃ l, getSlot t c = { getSlot s c with stalled := l }) ∧ (∀ u, u ≠ te → getTe t u = getTe s u)
        ∧ t = { s with now := t.now, eng := { s.eng with te := t.eng.te, slots := t.eng.slots } })
  ∧ (∀ (s : State) (te : TeId) (r : Running) (key : Nat), running s = true → bitAt s.brd.clockLost (dieOf te).val = false → (getTe s te).running = some r → r.form = (getTe s te).form →
    r.loadStart = none → r.enterNext = r.loadNext → r.loadNext < r.passes → r.mma.ring ≠ 0 →
    rateOf (mmaFmts r.mma).1 (mmaFmts r.mma).2 ≠ .fp32 → handleKey (r.mma.ready.truncate 32) = some key →
    (tally s key - (BitVec.ofNat 32 (bits r.mma.ready 63 32) + BitVec.ofNat 32 (r.loadNext + 1))).toNat < 2 ^ 31 →
    Answers (.ringReady te) s fun t =>
      getTe t te = { getTe s te with running := some { r with
        loadStart := some (max (cycleNow s) (if (getTe s te).reformEnd = 0 then 0 else (getTe s te).reformEnd + 1)) } }
        ∧ (∀ u, u ≠ te → getTe t u = getTe s u) ∧ t = { s with eng := { s.eng with te := t.eng.te } })

/-- WEIGHT_LOAD_DONE: λ cycles after it began, in a form that no patrol slice must exercise first (R447), the load of a pass is complete: the shadow registers hold the pass tile. For the last pass of a ring's tile the freed tally then rises by 1 in its turn among the context's additions: at once where the context has no operation outstanding and the route to the tally's die is up (R18, R73, R74, R139, R331). -/
def Obligations.WeightLoads : Prop :=
  ∀ (s : State) (te : TeId) (r : Running) (c0 lam : Nat) (rt : Rate) (u : State) (bs : List Byte), running s = true → bitAt s.brd.clockLost (dieOf te).val = false →
    (getTe s te).mustExercise = false → (getTe s te).running = some r → r.loadStart = some c0 → r.loaded = none → rt = rateOf (mmaFmts r.mma).1 (mmaFmts r.mma).2 →
    lam = loadCycles r.form rt (mmaFmts r.mma).2 →
    tsLoad (progressed (advanceCycle s (c0 + lam)) ⟨te, r.mma.slot⟩ c0 (c0 + lam)) te (tileAt r.mma (passSeg rt r.loadNext))
      (tileElems r.form rt (mmaFmts r.mma).2 + tileScales r.form rt (mmaFmts r.mma).2) = (u, .inr bs) →
    Answers (.weightLoadDone te) s fun t =>
      (getTe t te).shadowW = bs ∧ (getTe t te).running = some { r with loaded := some (c0 + lam - 1) } ∧ cycleNow t = max (cycleNow s) (c0 + lam)
        ∧ (∃ z, (∀ k, tally z k = tally s k) ∧ z = { s with now := z.now, eng := z.eng }
          ∧ t = if r.mma.ring ≠ 0 ∧ (rt ≠ .fp32 ∨ r.loadNext % 3 = 2) then ringFreed z r.mma ⟨te, r.mma.slot⟩ else z)
        ∧ ((∀ x, getCtx s ⟨te, r.mma.slot⟩ = some x → x.ops = [] ∧ tallyUp s (dieOf te).val r.mma.freed = true) → (getCtx s ⟨te, r.mma.slot⟩).isSome →
          (∀ k, tally t k = if r.mma.ring ≠ 0 ∧ (rt ≠ .fp32 ∨ r.loadNext % 3 = 2) ∧ handleKey r.mma.freed = some k then tally s k + 1 else tally s k)
          ∧ t = { s with now := t.now, eng := t.eng, tallies := t.tallies, stc := t.stc })

/-- PASS_ROWS_ENTER: the rows of A enter the array once the load of the pass, the pass before it and R77 allow; the pass's results will land M − 1 row intervals and the form's latency after the first row, the weights become the live ones, and the group's extent grows to cover the tile (R66, R73, R75 to R77, R87). -/
def Obligations.PassEnters : Prop :=
  ∀ (s : State) (te : TeId) (r : Running) (ld t0 : Nat) (rt : Rate) (u : State) (rows : List (Array Nat × Array Byte)), running s = true → bitAt s.brd.clockLost (dieOf te).val = false →
    (getTe s te).running = some r → r.loaded = some ld → r.heldFrom = none → r.mma.dropped = false → scalingFirst s te r.mma = false →
    (inProgress s te r.mma.g = true ∨ (othersInProgress s te r.mma.g).length < 2) →
    rt = rateOf (mmaFmts r.mma).1 (mmaFmts r.mma).2 →
    t0 = cycleNow (advanceCycle s (max (max (max (ld + 1) (getTe s te).rowsFree) (scalingBound s te r.mma r.form)) (turnoverBound s te r.mma.g))) →
    passRows (advanceCycle s (max (max (max (ld + 1) (getTe s te).rowsFree) (scalingBound s te r.mma r.form)) (turnoverBound s te r.mma.g))) te r.mma (mmaFmts r.mma).1
      (passSeg rt r.enterNext * passK r.form rt) (min ((passSeg rt r.enterNext + 1) * passK r.form rt) r.mma.k) (List.range r.mma.m) = (u, .inr rows) →
    u.eng.groups = s.eng.groups → u.eng.te = s.eng.te →
    Answers (.passRowsEnter te) s fun t =>
      (∃ fl : Flight, (getTe t te).flights = (getTe s te).flights ++ [fl] ∧ fl.g = r.mma.g ∧ fl.slot = r.mma.slot
          ∧ fl.landing = t0 + (r.mma.m - 1) * rt.r + r.form.latency ∧ fl.m = r.mma.m ∧ fl.n = r.mma.n)
        ∧ (getTe t te).liveW = (getTe s te).shadowW ∧ (getTe t te).current = r.form ∧ (getTe t te).rowsFree = t0 + r.mma.m * rt.r
        ∧ ((getTe t te).running = none ↔ r.passes ≤ r.enterNext + 1)
        ∧ (getGroup t te r.mma.g).m = max (getGroup s te r.mma.g).m r.mma.m ∧ (getGroup t te r.mma.g).n = max (getGroup s te r.mma.g).n r.mma.n

/-- GROUP_LANDING: when the last result of a group has landed, every block value of its passes is added into its element, in order, each sum rounded to FP32; other groups' accumulators are as before (R76, R90, R92). -/
def Obligations.ResultsLand : Prop :=
  ∀ (s : State) (te : TeId) (g : GroupId) (mine : List Flight), running s = true → bitAt s.brd.clockLost (dieOf te).val = false → mine = (getTe s te).flights.filter (fun f => decide (f.g = g)) →
    mine ≠ [] → (∀ r, (getTe s te).running = some r → r.mma.g ≠ g ∨ r.enterNext = 0) → (getGroup s te g).comp = false →
    (∀ f ∈ mine, ∀ a ∈ f.adds, a.1 < 16384) →
    Answers (.groupLanding te g) s fun t =>
      (∀ i, i < 16384 → accAt t te g.val i =
        (((mine.map (·.adds)).flatten.filter fun a => decide (a.1 = i)).map (·.2)).flatten.foldl fadd (accAt s te g.val i))
        ∧ (∀ u h i, i < 16384 → h < 8 → (u ≠ te ∨ h ≠ g.val) → accAt t u h i = accAt s u h i)
        ∧ (getTe t te).flights = (getTe s te).flights.filter (fun f => decide (f.g ≠ g))
        ∧ cycleNow t = max (cycleNow s) ((mine.map (·.landing)).foldl max 0)
        ∧ t = { s with now := t.now, eng := { s.eng with te := t.eng.te, slots := t.eng.slots, groups := t.eng.groups, acc := t.eng.acc } }

/-! ### Accumulation groups and the drain path -/

/-- OPEN makes a free group, or with CMP a compensated pair of an even group and its successor, open and unbound, its elements +0; no other group or element changes (R85, R96). DISCARD of a free group does nothing; of an open one, or of a closed one with nothing in flight, it frees the group, and of a closed one with results in flight it marks it so that they leave it without effect; the MMAs of its context on that group are marked dropped and what is in flight adds nothing (R85, Table 4-2). -/
def Obligations.GroupsOpen : Prop :=
  (∀ (s : State) (c : CtxId) (ctx : Ctx) (w x : W64) (g g' : GroupId), Ready s c ctx →
    Legal ctx w 0x38 false [rsv w 63 14, (0x06, ctx.shadow)] → groupOf s c (bits w 12 9) = some g →
    (if bitAt w 13 then bits w 12 9 % 2 = 0 ∧ groupOf s c (bits w 12 9 + 1) = some g' else g' = g) →
    (∀ k ∈ [g, g'], heldByPair s c.te k = false ∧ (getGroup s c.te k).st = .free) →
    Answers (.openGroup c w x) s fun t =>
      (∀ u h i, h < 8 → i < 16384 → accAt t u h i = if u = c.te ∧ (h = g.val ∨ h = g'.val) then 0 else accAt s u h i)
        ∧ (∀ u h, getGroup t u h = if u = c.te ∧ h = g then { st := .opened, comp := bitAt w 13 } else getGroup s u h)
        ∧ Proceeds s t c ctx (ctx.pc + 8)
        ∧ t = { s with eng := { s.eng with te := t.eng.te, slots := t.eng.slots, groups := t.eng.groups, acc := t.eng.acc } })
  ∧ (∀ (s : State) (c : CtxId) (ctx : Ctx) (w x : W64) (g : GroupId), Ready s c ctx →
    Legal ctx w 0x3C false [rsv w 63 13, (0x06, ctx.shadow)] → groupOf s c (bits w 12 9) = some g → heldByPair s c.te g = false →
    ((getGroup s c.te g).st = .free → Answers (.discard c w x) s fun t => Proceeds s t c ctx (ctx.pc + 8) ∧ OnlyIssue s t)
    ∧ ((getGroup s c.te g).st = .opened ∨ (getGroup s c.te g).st = .closed →
      Answers (.discard c w x) s fun t =>
        (∀ u h, getGroup t u h = if u = c.te ∧ h = g then
            (if (getGroup s c.te g).st = .closed ∧ (∃ f ∈ (getTe s c.te).flights, f.g = g) then { getGroup s c.te g with discard := true, reqs := [] } else {})
          else getGroup s u h)
          ∧ (∀ m ∈ (getSlot t c).queue, m.g = g → m.dropped = true) ∧ (getSlot t c).queue.length = (getSlot s c).queue.length
          ∧ (∀ f ∈ (getTe t c.te).flights, f.g = g → f.adds = [])
          ∧ (∀ r, (getTe t c.te).running = some r → r.mma.slot = c.slot → r.mma.g = g → r.mma.dropped = true)
          ∧ (∀ d, d ≠ c → getSlot t d = getSlot s d) ∧ (∀ u, u ≠ c.te → getTe t u = getTe s u)
          ∧ (∀ y, getCtx t c = some y → y.pc = ctx.pc + 8)
          ∧ t = { s with eng := { s.eng with te := t.eng.te, slots := t.eng.slots, groups := t.eng.groups } }))

/-- CLOSE ends accumulation into an open group, or follows a retained drain, and adds its drain to the group's requests; SCALE_ROWS adds a scaling to the requests of an open group whose extent is not empty, and does nothing where it is. SWAP closes the live bank with its drain and opens the other, its elements +0, as the live one. No other group changes (R85, R86, R99, R108, R109). -/
def Obligations.GroupsClose : Prop :=
  (∀ (s : State) (c : CtxId) (ctx : Ctx) (w x : W64) (g : GroupId) (e : Nat × Nat), Ready s c ctx →
    Legal ctx w 0x39 (closeExt w) (closeCauses w x false ctx) → groupOf s c (bits w 12 9) = some g → e = extentOf s c g →
    outOfShare s c (drainReadsFrom (drainOf s c w x) e.1 e.2 ++ drainWritesTo (drainOf s c w x) e.1 e.2) = none →
    (getGroup s c.te g).discard = false → closeAccepted s c.te g = true → heldByPair s c.te g = false →
    closeMustWait s c (drainOf s c w x) e.1 e.2 = false →
    Answers (.close c w x) s fun t =>
      (∀ u h, getGroup t u h = if u = c.te ∧ h = g then { getGroup s c.te g with
          st := if (getGroup s c.te g).st = .opened then .closed else (getGroup s c.te g).st
          retain := bitAt w 27
          reqs := (getGroup s c.te g).reqs ++ [drainOf s c w x] } else getGroup s u h)
        ∧ Proceeds s t c ctx (ctx.pc + (if closeExt w then 16 else 8))
        ∧ t = { s with eng := { s.eng with te := t.eng.te, slots := t.eng.slots, groups := t.eng.groups } })
  ∧ (∀ (s : State) (c : CtxId) (ctx : Ctx) (w x : W64) (g : GroupId) (d : Drain) (e : Nat × Nat), Ready s c ctx →
    Legal ctx w 0x3B false [rsv w 63 29, (0x06, ctx.shadow)] → groupOf s c (bits w 12 9) = some g → e = extentOf s c g →
    d = ⟨c.slot, true, w, 0, 0, 64 * bits w 28 13, cycleNow s⟩ → outOfShare s c (drainReadsFrom d e.1 e.2) = none →
    (getGroup s c.te g).discard = false → (getGroup s c.te g).st = .opened → heldByPair s c.te g = false →
    (e.1 = 0 → Answers (.scaleRows c w x) s fun t => Proceeds s t c ctx (ctx.pc + 8) ∧ OnlyIssue s t)
    ∧ (e.1 ≠ 0 → mustWait s c (drainReadsFrom d e.1 e.2) [] = false →
      Answers (.scaleRows c w x) s fun t =>
        (∀ u h, getGroup t u h = if u = c.te ∧ h = g then { getGroup s c.te g with reqs := (getGroup s c.te g).reqs ++ [d] } else getGroup s u h)
          ∧ Proceeds s t c ctx (ctx.pc + 8)
          ∧ t = { s with eng := { s.eng with te := t.eng.te, slots := t.eng.slots, groups := t.eng.groups } }))
  ∧ (∀ (s : State) (c : CtxId) (ctx : Ctx) (w x : W64) (g g' : GroupId) (e : Nat × Nat), Ready s c ctx →
    Legal ctx w 0x3A (closeExt w) (closeCauses w x true ctx) → bankOf s c ctx.liveBank = some g → bankOf s c (1 - ctx.liveBank) = some g' →
    g ≠ g' → e = extentOf s c g →
    outOfShare s c (drainReadsFrom (drainOf s c w x) e.1 e.2 ++ drainWritesTo (drainOf s c w x) e.1 e.2) = none →
    (getGroup s c.te g').st = .free → closeMustWait s c (drainOf s c w x) e.1 e.2 = false →
    Answers (.swap c w x) s fun t =>
      (∀ u h, getGroup t u h =
          if u = c.te ∧ h = g then { getGroup s c.te g with st := .closed, retain := false, reqs := (getGroup s c.te g).reqs ++ [drainOf s c w x] }
          else if u = c.te ∧ h = g' then { st := .opened } else getGroup s u h)
        ∧ (∀ u h i, h < 8 → i < 16384 → accAt t u h i = if u = c.te ∧ h = g'.val then 0 else accAt s u h i)
        ∧ Proceeds s t c { ctx with liveBank := 1 - ctx.liveBank } (ctx.pc + (if closeExt w then 16 else 8))
        ∧ t = { s with eng := { s.eng with te := t.eng.te, slots := t.eng.slots, groups := t.eng.groups, acc := t.eng.acc } })

/-- SCALE_ROWS_BEGIN: the request of a group that has waited longest, with every earlier MMA landed, takes the idle drain path; each element in the extent is multiplied by its row's factor, in both groups of a compensated pair, and no other element changes (R78, R99). DRAIN_START: likewise for a drain; its rows are written in increasing order and the group is draining (R78, R101 to R106). DRAIN_END: the path is free; a group with nothing retained and nothing further requested is free, otherwise it stays closed, the check bytes of the lines it wrote are those of the new lines, what it wrote, row state included, can be read after the latency of R107, and the ready drains of other contexts have stood behind it (R86, R87, R98, R107, R233, R256). -/
def Obligations.DrainPath : Prop :=
  (∀ (s : State) (te : TeId) (g : GroupId) (d : Drain) (gr : Group) (np : Nat) (u : State) (bs : List Byte), running s = true →
    canDrain s te g = some d → d.scaleRows = true → (getTe s te).drain = none → firstReady s te g d = true → tePowered s te = true →
    gr = getGroup s te g → np = (gr.form.getD .f128).np → gr.n ≤ np → gr.m * np ≤ 16384 → (gr.comp = true → g.val % 2 = 0) →
    tsLoad (takePath s te g d) te d.factors (4 * gr.m) = (u, .inr bs) →
    Answers (.scaleRowsBegin te g) s fun t =>
      (∀ v h i, h < 8 → i < 16384 → accAt t v h i =
        if v = te ∧ (h = g.val ∨ (gr.comp = true ∧ h = g.val + 1)) ∧ i / np < gr.m ∧ i % np < gr.n
        then fmul (accAt s te h i) (BitVec.ofNat 32 (leNat ((bs.drop (4 * (i / np))).take 4))) else accAt s v h i)
        ∧ (∀ v h, getGroup t v h = if v = te ∧ h = g then { gr with reqs := gr.reqs.drop 1 } else getGroup s v h)
        ∧ cycleNow t = max (cycleNow s) (max (readyAt gr d + 1) (getTe s te).drainFree)
        ∧ (getTe t te).drain = some ⟨g, d, cycleNow t, gr.m * ceilDiv' gr.n 128, ceilDiv' gr.n 128, []⟩ ∧ (getTe t te).drainOwner = some d.slot
        ∧ t = { s with now := t.now, eng := t.eng })
  ∧ (∀ (s : State) (te : TeId) (g : GroupId) (d : Drain) (gr : Group) (u v z : State) (sr : Option Nat) (undo : List (List (Nat × Byte))),
    running s = true → canDrain s te g = some d → d.scaleRows = false → (getTe s te).drain = none → firstReady s te g d = true → tePowered s te = true →
    gr = getGroup s te g → drainLoads (takePath s te g d) te (drainReadsFrom d gr.m gr.n) = (u, none) → getGroup u te g = gr →
    drawsFor u (drSr d) (roundUp gr.n 32 * gr.m) = (sr, v) →
    drainRows te g gr d (if drScale d = 2 then words32 (tsRead u te (drVec d) (4 * gr.n)) else [])
      (if drScale d = 3 then words32 (tsRead u te (drVec d) (4 * gr.m)) else [])
      (if drBias d = 1 then words32 (tsRead u te (drBiasVec d) (4 * gr.n)) else []) sr (List.range gr.m) v [] = (z, undo) →
    Answers (.drainStart te g) s fun t =>
      t.eng.tiles = z.eng.tiles ∧ getGroup t te g = { gr with st := .draining, reqs := gr.reqs.drop 1 }
        ∧ (getTe t te).drain = some ⟨g, d, cycleNow v, if gr.m = 0 then 1 else gr.m * ceilDiv' gr.n 128, ceilDiv' gr.n 128, undo⟩
        ∧ (getTe t te).drainOwner = some d.slot)
  ∧ (∀ (s : State) (te : TeId) (r : DrainRun), running s = true → bitAt s.brd.clockLost (dieOf te).val = false → (getTe s te).drain = some r →
    Answers (.drainEnd te) s fun t =>
      (getTe t te).drain = none ∧ (getTe t te).drainFree = r.start + r.cycles ∧ cycleNow t = max (cycleNow s) (r.start + r.cycles)
        ∧ (r.drain.scaleRows = true → ∀ v h, getGroup t v h = getGroup s v h)
        ∧ (r.drain.scaleRows = false →
          (∀ v h, getGroup t v h = if v = te ∧ h = r.g then
            (if bitAt r.drain.base 27 = true ∨ (getGroup s te r.g).reqs ≠ [] then { getGroup s te r.g with st := .closed } else {}) else getGroup s v h)
          ∧ (∀ o ∈ drainWritesTo r.drain (getGroup s te r.g).m (getGroup s te r.g).n,
            (o.1, o.2, r.start + r.cycles - 1 + (if (getGroup s te r.g).comp = true ∧ (getGroup s te r.g).m ≠ 0 then 6 else 4)) ∈ (getTe t te).fresh)
          ∧ (∀ o ∈ drRowRange r.drain (getGroup s te r.g).m,
            (o.1, o.2, r.start + r.cycles - 1 + (if (getGroup s te r.g).comp = true ∧ (getGroup s te r.g).m ≠ 0 then 6 else 4)) ∈ (getTe t te).freshRows)
          ∧ t.eng.tileErr = r.undo.foldl healRow s.eng.tileErr)
        ∧ (∀ u, u ≠ te → getTe t u = getTe s u) ∧ (∀ c, ∃ l, getSlot t c = { getSlot s c with stalled := (getSlot s c).stalled ++ l })
        ∧ t = { s with now := t.now, eng := { s.eng with te := t.eng.te, slots := t.eng.slots, groups := t.eng.groups, tileErr := t.eng.tileErr } })

/-! ### Vector instructions -/

/-- VALU: each unmasked lane of VD takes the function of Table 5-15 of the lanes of VA, VB or the scalar of RB, and VC, a masked lane keeps its value; a comparison writes the mask MD, false in masked lanes; select, conversion, lane number, broadcast and the mask operations are as the table says. No other lane or mask changes (R143). -/
def Obligations.VectorArithmetic : Prop :=
  ∀ (s : State) (c : CtxId) (ctx : Ctx) (w x : W64) (fn vd md : Nat) (m : BitVec 256) (a b v : Nat → W32) (k : W32),
    Ready s c ctx → Legal ctx w 0x40 false (valuCauses w) → fn = bits w 37 32 → vd = bits w 13 9 → md = bits w 41 39 →
    m = vmask s c (bits w 31 29) → k = canon ((sreg s c (bits w 23 19)).truncate 32) → a = vlane s c (bits w 18 14) →
    b = (if bitAt w 38 then fun _ => k else vlane s c (bits w 23 19)) → v = vlane s c (bits w 28 24) →
    (∀ f, (fn, f) ∈ laneTable → Answers (.valu c w x) s fun t =>
      LanesAre s t c vd (fun i => if m.getLsbD i then f (a i) (b i) (v i) else vlane s c vd i) ∧ Proceeds s t c ctx (ctx.pc + 8) ∧ OnlyVregs s t)
    ∧ (∀ p, (fn, p) ∈ compareTable → Answers (.valu c w x) s fun t =>
      MaskIs s t c md (fun i => m.getLsbD i && p (a i) (b i)) ∧ Proceeds s t c ctx (ctx.pc + 8) ∧ OnlyMasks s t)
    ∧ (fn = 0x0C → Answers (.valu c w x) s fun t =>
      LanesAre s t c vd (fun i => canon (if m.getLsbD i then a i else b i)) ∧ Proceeds s t c ctx (ctx.pc + 8) ∧ OnlyVregs s t)
    ∧ (∀ f, fn = 0x0D → Fmt.ofCode (bits w 46 42) = some f → Answers (.valu c w x) s fun t =>
      LanesAre s t c vd (fun i => if m.getLsbD i then laneOf (cvtLanes f (if bitAt w 47 then some s.draws else none) (vreg s c (bits w 18 14)) m) i else vlane s c vd i)
        ∧ Proceeds s t c ctx (ctx.pc + 8)
        ∧ t = { s with draws := if bitAt w 47 then s.draws + 256 else s.draws, eng := { s.eng with te := t.eng.te, slots := t.eng.slots, vregs := t.eng.vregs } })
    ∧ (fn = 0x0E → Answers (.valu c w x) s fun t =>
      LanesAre s t c vd (fun i => if m.getLsbD i then rne32 (.fin false i 0) else vlane s c vd i) ∧ Proceeds s t c ctx (ctx.pc + 8) ∧ OnlyVregs s t)
    ∧ (fn = 0x0F → Answers (.valu c w x) s fun t =>
      LanesAre s t c vd (fun i => if m.getLsbD i then k else vlane s c vd i) ∧ Proceeds s t c ctx (ctx.pc + 8) ∧ OnlyVregs s t)
    ∧ (∀ p, (fn, p) ∈ maskTable → Answers (.valu c w x) s fun t =>
      MaskIs s t c md (fun i => p ((vmask s c (bits w 16 14)).getLsbD i) ((vmask s c (bits w 21 19)).getLsbD i)) ∧ Proceeds s t c ctx (ctx.pc + 8) ∧ OnlyMasks s t)

/-- VRED writes the reduction of the unmasked lanes to a scalar register. VSORT writes the values in descending order to VD and their source lanes to VD + 1; each source lane appears once. VSCAN writes running sums, VRNG the generator's words at the counter plus the lane, SFN and VACT their functions, each to the unmasked lanes. No other register changes (R145 to R148, R177, R81, R83). -/
def Obligations.VectorReductions : Prop :=
  ∀ (s : State) (c : CtxId) (ctx : Ctx) (w x : W64) (vd : Nat) (m : BitVec 256) (a : List W32),
    Ready s c ctx → vd = bits w 13 9 → m = vmask s c (bits w 31 29) → a = vreg s c (bits w 18 14) →
    (∀ r, Legal ctx w 0x41 false [rsv w 28 19, rsv w 63 36] → reduceLanes (bits w 35 32) a m = some r → bits w 35 32 < 5 →
      Answers (.vred c w x) s fun t => SregIs s t c vd (r.setWidth 64) ∧ Proceeds s t c ctx (ctx.pc + 8) ∧ OnlySregs s t)
    ∧ (Legal ctx w 0x44 false [rsv w 28 19, rsv w 63 32, (0x04, bitAt w 9)] →
      ((sortLanes a m).map (·.2)).Perm (List.range 256)
      ∧ Answers (.vsort c w x) s fun t =>
        (∀ d q i, q < 32 → i < 256 → vlane t d q i =
          if d = c ∧ q = vd then ((sortLanes a m).getD i (0, 0)).1
          else if d = c ∧ q = vd + 1 then rne32 (.fin false ((sortLanes a m).getD i (0, 0)).2 0) else vlane s d q i)
        ∧ Proceeds s t c ctx (ctx.pc + 8) ∧ OnlyVregs s t)
    ∧ (Legal ctx w 0x45 false [rsv w 28 19, rsv w 63 32] → Answers (.vscan c w x) s fun t =>
      LanesAre s t c vd (fun i => if m.getLsbD i then laneOf (scanLanes a m) i else vlane s c vd i) ∧ Proceeds s t c ctx (ctx.pc + 8) ∧ OnlyVregs s t)
    ∧ (Legal ctx w 0x46 false [rsv w 28 25, rsv w 63 32, (0x04, bitAt w 14)] → Answers (.vrng c w x) s fun t =>
      LanesAre s t c vd (fun i => if m.getLsbD i then
          (if bitAt w 24 then rne32 (.fin false ((philox (sreg s c (bits w 18 14)) (sreg s c (bits w 18 14 + 1)) (sreg s c (bits w 23 19) + BitVec.ofNat 64 i)).toNat / 256) (-24))
            else philox (sreg s c (bits w 18 14)) (sreg s c (bits w 18 14 + 1)) (sreg s c (bits w 23 19) + BitVec.ofNat 64 i))
        else vlane s c vd i) ∧ Proceeds s t c ctx (ctx.pc + 8) ∧ OnlyVregs s t)
    ∧ (∀ f, Legal ctx w 0x48 false [rsv w 28 19, rsv w 63 34, (0x04, decide (bits w 33 32 = 3))] → (bits w 33 32, f) ∈ [(0, fexp), (1, frcp), (2, frsqrt)] →
      Answers (.sfn c w x) s fun t =>
        LanesAre s t c vd (fun i => if m.getLsbD i then f (vlane s c (bits w 18 14) i) else vlane s c vd i) ∧ Proceeds s t c ctx (ctx.pc + 8) ∧ OnlyVregs s t)
    ∧ (∀ f, Legal ctx w 0x49 false [rsv w 28 19, rsv w 63 34, (0x04, decide (2 ≤ bits w 33 32))] → (bits w 33 32, f) ∈ [(0, fsilu), (1, fgelu)] →
      Answers (.vact c w x) s fun t =>
        LanesAre s t c vd (fun i => if m.getLsbD i then f (vlane s c (bits w 18 14) i) else vlane s c vd i) ∧ Proceeds s t c ctx (ctx.pc + 8) ∧ OnlyVregs s t)

/-- VLD reads the elements of the unmasked lanes below LANES, and in an MX format their scales, correcting wrong symbols, writes to each of these lanes the value of its element, converted exactly, and leaves the others; VST converts the lanes and stores the elements of the unmasked ones, and of an MX format the scales. Outside the lanes stored, and outside the elements and scales of an MX format, every byte of every tile store reads as before (R144, R258). -/
def Obligations.VectorLoadsAndStores : Prop :=
  ∀ (s : State) (c : CtxId) (ctx : Ctx) (w x : W64) (n a sa : Nat) (f : Fmt) (m : BitVec 256) (on : List Nat) (spans : List (Nat × Nat)),
    Ready s c ctx → n = bits w 45 37 → 1 ≤ n → n ≤ 256 → Fmt.ofCode (bits w 36 32) = some f → a = (sreg s c (bits w 18 14)).toNat →
    sa = (sreg s c (bits w 23 19)).toNat → m = vmask s c (bits w 31 29) → on = (List.range n).filter (fun i => m.getLsbD i) →
    spans = lanesSpan f a on ++ scalesSpan f sa on →
    outOfShare s c spans = none → a % vmemAlign f = 0 →
    (∀ u, Legal ctx w 0x42 false ([rsv w 28 24, rsv w 63 46] ++ vmemCauses w) → mustWait s c spans [] = false → tsLoadAll s c.te spans = (u, none) →
      Answers (.vld c w x) s fun t =>
        LanesAre s t c (bits w 13 9) (fun i => if i < n ∧ m.getLsbD i then
          rne32 (f.value (leNat (tsRead u c.te (a + f.width * i / 8) 5) / 2 ^ (f.width * i % 8) % 2 ^ f.width)
            (if f.isMx then leNat (tsRead u c.te (sa + i / 32) 1) else 0)) else vlane s c (bits w 13 9) i)
        ∧ (s.eng.tileErr = [] → u = s) ∧ Proceeds s t c ctx (ctx.pc + 8)
        ∧ t = { s with eng := { s.eng with te := t.eng.te, slots := t.eng.slots, vregs := t.eng.vregs, tiles := u.eng.tiles, tileErr := u.eng.tileErr } })
    ∧ (∀ r : List Nat × List Nat, Legal ctx w 0x43 false ([rsv w 28 24, rsv w 63 47] ++ vmemCauses w ++ fmtCauses (bits w 36 32) (bitAt w 46)
        ++ [(0x05, f.isMx && decide (bits w 31 29 ≠ 0))]) → mustWait s c [] spans = false →
      r = f.encodeRow (if bitAt w 46 then some s.draws else none) ((List.range n).map fun i => dec32 (vlane s c (bits w 13 9) i)) →
      Answers (.vst c w x) s fun t =>
        t.eng.tiles = (if f.isMx then (tsWrite (tsWrite s c.te a (packCodes f.width r.1)) c.te sa (r.2.map (BitVec.ofNat 8))).eng.tiles
          else (on.foldl (fun s i => storeCode s c.te f a i (r.1.getD i 0)) s).eng.tiles)
        ∧ (∀ b, (if f.isMx then (b < 2097152 * c.te.val + a ∨ 2097152 * c.te.val + a + (packCodes f.width r.1).length ≤ b)
              ∧ (b < 2097152 * c.te.val + sa ∨ 2097152 * c.te.val + sa + r.2.length ≤ b)
            else ∀ i ∈ on, b < 2097152 * c.te.val + (laneSpan f a i).1 ∨ 2097152 * c.te.val + (laneSpan f a i).2 ≤ b) →
          smGet 0 t.eng.tiles b = smGet 0 s.eng.tiles b)
        ∧ Proceeds s t c ctx (ctx.pc + 8)
        ∧ t = { s with draws := if bitAt w 46 then s.draws + 256 else s.draws, eng := { s.eng with te := t.eng.te, slots := t.eng.slots, tiles := t.eng.tiles, tileErr := t.eng.tileErr } })

/-! ### Synchronisation -/

/-- TWAIT passes where its tally has reached the value and the route to the tally's die is up, else it leaves a hold that keeps its context back; the hold goes once both hold, and not before (R18, R151). TSIG with nothing outstanding, and that route up, adds its value to its tally modulo 2^32; behind an outstanding operation that will add to a tally it waits its turn (R151, R331, R332). -/
def Obligations.TallyInstructions : Prop :=
  (∀ (s : State) (c : CtxId) (ctx : Ctx) (w x h : W64) (v : W32) (k : Nat), Ready s c ctx → Legal ctx w 0x60 false [rsv w 63 19] →
    h = sreg s c (bits w 13 9) → v = (sreg s c (bits w 18 14)).truncate 32 → bits h 63 32 = 0 → handleKey (h.truncate 32) = some k →
    (tallyUp s (dieOf c.te).val (h.truncate 32) = true ∧ (tally s k - v).toNat < 2 ^ 31 → Answers (.twait c w x) s fun t => Proceeds s t c ctx (ctx.pc + 8) ∧ OnlyIssue s t)
    ∧ (tallyUp s (dieOf c.te).val (h.truncate 32) = false ∨ 2 ^ 31 ≤ (tally s k - v).toNat → Answers (.twait c w x) s fun t =>
      Proceeds s t c { ctx with hold := [.twait (h.truncate 32) v] } (ctx.pc + 8) ∧ OnlyIssue s t))
  ∧ (∀ (s : State) (c : CtxId) (y : Ctx) (h v : W32) (k : Nat), running s = true → bitAt s.brd.clockLost (dieOf c.te).val = false → getCtx s c = some y → y.hold = [.twait h v] → handleKey h = some k →
    Answers (.twaitSatisfied c) s fun t =>
      (∀ d, getSlot t d = if d = c then { getSlot s c with ctx := some { y with hold := if tallyUp s (dieOf c.te).val h = true ∧ (tally s k - v).toNat < 2 ^ 31 then [] else y.hold } } else getSlot s d)
        ∧ t = { s with eng := { s.eng with slots := t.eng.slots } })
  ∧ (∀ (s : State) (c : CtxId) (ctx : Ctx) (w x h : W64) (v : Nat) (k : Nat), Ready s c ctx → Legal ctx w 0x61 false [rsv w 63 19] →
    h = sreg s c (bits w 13 9) → v = bits (sreg s c (bits w 18 14)) 31 0 → bits h 63 32 = 0 → handleKey (h.truncate 32) = some k →
    (ctx.ops = [] → tallyUp s (dieOf c.te).val (h.truncate 32) = true → Answers (.tsig c w x) s fun t =>
      (∀ j, tally t j = if j = k then tally s k + BitVec.ofNat 32 v else tally s j)
        ∧ Proceeds s t c { ctx with opCount := ctx.opCount + 1 } (ctx.pc + 8)
        ∧ t = { s with eng := { s.eng with te := t.eng.te, slots := t.eng.slots }, tallies := t.tallies, stc := { s.stc with marginAt := t.stc.marginAt } })
    ∧ (∀ o, ctx.ops = [o] → o.performed = false → o.tally.isSome = true → Answers (.tsig c w x) s fun t =>
      Proceeds s t c { ctx with ops := [o, ⟨.signal, some (h.truncate 32), v, [], [], 0, ctx.opCount, s.now, false, true⟩], opCount := ctx.opCount + 1 } (ctx.pc + 8)
        ∧ OnlyIssue s t))

/-- BAR, ACQ and REL at scope S, C or L: where the accesses they wait for are performed already they take effect at once (BAR and ACQ discard the context's stale copies beyond scope S), else they leave a hold on the context; registers, tallies and memory are as before (R327, Table 5-18). -/
def Obligations.Barriers : Prop :=
  ∀ (s : State) (c : CtxId) (ctx : Ctx) (w x : W64) (sc : Scope), Ready s c ctx → (bits w 11 9, sc) ∈ [(0, Scope.te), (1, Scope.cluster), (4, Scope.package)] →
    (Legal ctx w 0x62 false [rsv w 63 12] → Answers (.bar c w x) s fun t =>
      (if performedAt s c sc none = true ∧ readsDone s c = true then Proceeds s t c ctx (ctx.pc + 8) ∧
          (∀ e ∈ readAhead t (clusterOf c.te), sc = .te ∨ e.1 ≠ c)
          ∧ ((readAhead s (clusterOf c.te)).length ≤ 256 → ∀ e ∈ readAhead s (clusterOf c.te), (sc = .te ∨ e.1 ≠ c) → e ∈ readAhead t (clusterOf c.te))
        else Proceeds s t c { ctx with hold := [.bar sc] } (ctx.pc + 8) ∧ OnlyIssue s t)
      ∧ t = { s with eng := { s.eng with te := t.eng.te, slots := t.eng.slots }, cl := t.cl })
    ∧ (Legal ctx w 0x63 false [rsv w 63 12] → Answers (.acq c w x) s fun t =>
      (if readsDone s c = true then Proceeds s t c ctx (ctx.pc + 8) ∧
          (∀ e ∈ readAhead t (clusterOf c.te), sc = .te ∨ e.1 ≠ c)
          ∧ ((readAhead s (clusterOf c.te)).length ≤ 256 → ∀ e ∈ readAhead s (clusterOf c.te), (sc = .te ∨ e.1 ≠ c) → e ∈ readAhead t (clusterOf c.te))
        else Proceeds s t c { ctx with hold := [.acq sc] } (ctx.pc + 8) ∧ OnlyIssue s t)
      ∧ t = { s with eng := { s.eng with te := t.eng.te, slots := t.eng.slots }, cl := t.cl })
    ∧ (Legal ctx w 0x64 false [rsv w 63 12] → Answers (.rel c w x) s fun t =>
      Proceeds s t c { ctx with hold := if performedAt s c sc (some (cycleNow s)) = true then [] else [.rel sc (cycleNow s)] } (ctx.pc + 8) ∧ OnlyIssue s t)

/-- ATOM on a tally: RD takes the old value, zero-extended, and the tally the operation's result; no other tally or register changes. ATOM on memory, naturally aligned: the address is translated, the context's earlier writes and its cluster's to that line reach their homes, RD takes what the atomic at the home answers, and a line that the context has read ahead follows it (R152, R314, R323). DC.ZERO with aligned lines makes them zero in the die cache once the context's earlier writes and its cluster's to those lines are at their homes (R153). -/
def Obligations.AtomsAndZeroing : Prop :=
  (∀ (s : State) (c : CtxId) (ctx : Ctx) (w x a b p : W64) (op : AtomOp), Ready s c ctx → atomOp (bits w 31 29) = some op →
    Legal ctx w 0x65 false [rsv w 63 34, (0x03, decide (bits w 31 29 ≠ 4 ∧ bits w 28 24 ≠ 0)), (0x05, bitAt w 33 && bitAt w 32)] →
    a = sreg s c (bits w 18 14) → b = sreg s c (bits w 23 19) → p = sreg s c (bits w 28 24) →
    (∀ k, bitAt w 33 = true → bits a 63 32 = 0 → handleKey (a.truncate 32) = some k → (∀ o ∈ ctx.ops, o.tally = none) → tallyUp s (dieOf c.te).val (a.truncate 32) = true →
      Answers (.atom c w x) s fun t =>
        SregIs s t c (bits w 13 9) ((tally s k).setWidth 64)
          ∧ (∀ j, tally t j = if j = k then (atomResult op false ((tally s k).setWidth 64) b p).truncate 32 else tally s j)
          ∧ Proceeds s t c ctx (ctx.pc + 8)
          ∧ t = { s with eng := { s.eng with te := t.eng.te, slots := t.eng.slots, sregs := t.eng.sregs }, tallies := t.tallies, stc := { s.stc with marginAt := t.stc.marginAt } })
    ∧ (∀ u v z sa old, bitAt w 33 = false → a.toNat % (if bitAt w 32 then 8 else 4) = 0 → translate s c.te ctx.launch.seg a.toNat = (u, .inr sa) →
      drainTo u c ctx.opCount [sa / 64] = (v, []) → dieAtomic v (dieOf c.te) sa op (bitAt w 32) b p = (z, .inr old) →
      Answers (.atom c w x) s fun t => SregIs z t c (bits w 13 9) old
        ∧ t = hasIssued (setSreg (patchAhead z c (sa / 64) (sa % 64)
            (bytesOf (if bitAt w 32 then 8 else 4) (atomResult op (bitAt w 32) old b p).toNat)) c (bits w 13 9) old) c (ctx.pc + 8)))
  ∧ (∀ (s : State) (c : CtxId) (ctx : Ctx) (w x : W64) (a : Nat) (u v z : State) (ls : List Nat), Ready s c ctx → Legal ctx w 0x66 false [rsv w 63 22] →
    a = (sreg s c (bits w 13 9)).toNat → bits w 21 14 ≠ 0 → a % 64 = 0 → placeLines s c ctx.launch.seg a (bits w 21 14) = (u, .inr ls) →
    drainTo u c ctx.opCount ls = (v, []) → zeroLines v c ls = (z, none) →
    ls.length = bits w 21 14 ∧ Answers (.dcZero c w x) s fun t => t = hasIssued z c (ctx.pc + 8))

/-! ### Expert dispatch and sessions -/

/-- ROUTE. DISPATCH opens a route with one unsent pair for each row and rank: queued while 1,024 tags are in use, else with its tag, its experts and, past its deadline, closed (R197, R204). RETURN, where Seam's buffers have room for them, sends a result for each inbox row from FIRST on and is performed once XF has accepted every packet (R207, R212, R373). VERIFY writes the acceptance of the session's tree, or its refusal (R175, R176, R192). Each leaves its operation outstanding or performed; issue goes on at the next word. -/
def Obligations.RouteInstructions : Prop :=
  (∀ (s : State) (c : CtxId) (ctx : Ctx) (w x : W64) (u : State) (desc : RDesc) (tl : Option W32) (d : CDie) (r : Route), RouteReady s c ctx w u desc tl →
    rdKind desc = 1 → d = dieOf c.te →
    r = ⟨c, ctx.launch.job, ctx.launch.cid, ctx.launch.seg, desc, tl, ctx.opCount, u.stc.count.toNat, deadlineOf u d, none, [], [], [],
      List.replicate (rdRows desc * rdK desc) .unsent, none, false, (sreg s c (bits w 13 9)).toNat⟩ →
    (1024 ≤ taggedCount u d → Answers (.dispatch c w x) s fun t =>
      (∀ e, getRoutes t e = if e = d then getRoutes s d ++ [r] else getRoutes s e)
        ∧ Proceeds u t c { ctx with ops := ctx.ops ++ [⟨.route, tl, 1, descReads desc, descWrites desc, ctx.launch.seg, ctx.opCount, u.now, true, false⟩], opCount := ctx.opCount + 1 } (ctx.pc + 8))
    ∧ (∀ v, taggedCount u d < 1024 →
      openRoute (addOp (setRoutes u d (getRoutes u d ++ [r])) c ⟨.route, tl, 1, descReads desc, descWrites desc, ctx.launch.seg, ctx.opCount, u.now, true, false⟩)
        d r = (v, none) →
      Answers (.dispatch c w x) s fun t => t = hasIssued v c (ctx.pc + 8)))
  ∧ (∀ (s : State) (c : CtxId) (ctx : Ctx) (w x : W64) (u v y z : State) (desc : RDesc) (tl : Option W32) (e : BitVec 128) (hs : List (BitVec 512))
      (f : Fmt) (spans : List (Nat × Nat)) (bodies : List (List Byte)) (sent : State), RouteReady s c ctx w u desc tl →
    rdKind desc = 2 → f = (if bits desc 164 160 = 0 then .fp32 else .bf16) → inboxEntry u (dieOf c.te) (bits desc 27 16) = (v, .inr e) →
    bits desc 41 30 + rdRows desc ≤ inboxRows e →
    inboxHeads v (dieOf c.te) e (bits desc 28 28) ((List.range (rdRows desc)).map (bits desc 41 30 + ·)) = (y, .inr hs) →
    spans = hs.zipIdx.map (fun t => (bits desc 148 128 + t.2 * resLines f (bits t.1 222 208) * 64, bits desc 148 128 + (t.2 + 1) * resLines f (bits t.1 222 208) * 64)) →
    outOfShare y c spans = none → mustWait y c spans [] = false → readRuns y c 0 .p1 .tile (spans.map fun r => (r.1, r.2 - r.1)) = (z, .inr bodies) →
    sendResults z (dieOf c.te) (some (c, ctx.opCount)) ((hs.zip bodies).map fun p =>
      (p.1, bytesOf 64 (resultHead z (dieOf c.te) p.1 0 (bits desc 164 160) (resLines f (bits p.1 222 208))).toNat ++ p.2)) = some sent →
    let held := addOp sent c ⟨.route, tl, 1, [], [], 0, ctx.opCount, sent.now, false, false⟩
    Answers (.returnRoute c w x) s fun t => t = hasIssued (if ownsQueued held c ctx.opCount then held else performOp held c ctx.opCount) c (ctx.pc + 8))
  ∧ (∀ (s : State) (c : CtxId) (ctx : Ctx) (w x : W64) (u v : State) (desc : RDesc) (tl : Option W32) (rec : List Byte), RouteReady s c ctx w u desc tl →
    rdKind desc = 3 → tsLoad u c.te (bits desc 148 128) 512 = (v, .inr rec) →
    let held := addOp (noteSession v (bits desc 47 24 % 65536)) c ⟨.route, tl, 1, [], [], 0, ctx.opCount, v.now, false, false⟩
    let e := getSes held (bits desc 47 24 % 65536)
    (sesCause held (bits desc 47 24) ctx.launch.job = none → treeValid e = true → Answers (.verify c w x) s fun t =>
      t = hasIssued (performOp (tsWrite (tsWrite held c.te (bits desc 180 160) (acceptResult (acceptPath e rec 64 0) rec)) c.te (bits desc 212 192) (bytesOf 8 0)) c ctx.opCount) c (ctx.pc + 8))
    ∧ (∀ k, (sesCause held (bits desc 47 24) ctx.launch.job = some k ∨ (sesCause held (bits desc 47 24) ctx.launch.job = none ∧ treeValid e = false ∧ k = 0x09)) →
      Answers (.verify c w x) s fun t =>
        t = hasIssued (refuseSession held c ctx.opCount (sreg s c (bits w 13 9)).toNat (bits desc 212 192) (bits desc 47 24) 0 k) c (ctx.pc + 8)))

/-- COMMIT of a LIVE session of the context's job whose LEN is the one expected. Not mirrored: LEN rises by the accepted tokens, ROOT takes the new root, the tree is cleared, STITCH is the present stitch's number, and no other session changes; the status word is written and the operation performed (R194). Mirrored: the new entry goes to the partner once no copy of the session's tokens waits before it, and the operation waits for the acknowledgement; a partner that had failed the session's first copy refuses it with cause 0x0B, at once (the model's choice, log entry 48), and its copy is still sent (R195, R395). MIR_SEQ rises by 1 with a mirrored commit (R195). A session that breaks a cause of Table 7-4, or whose LEN differs (0x0A), is as it was, and the refusal is written and recorded with that cause (R192). -/
def Obligations.CommitAdvances : Prop :=
  ∀ (s : State) (c : CtxId) (ctx : Ctx) (w x : W64) (u : State) (desc : RDesc) (tl : Option W32) (id stat expect : Nat) (e new : BitVec 2048) (held : State),
    RouteReady s c ctx w u desc tl →
    rdKind desc = 4 → id = bits desc 47 24 → stat = bits desc 212 192 → expect = bits desc 159 128 → e = getSes s (id % 65536) →
    new = committed e (bits desc 70 64) (bits desc 95 72) s.stc.count →
    held = addOp (noteSession u (id % 65536)) c ⟨.route, tl, 1, [], [(stat, stat + 8)], 0, ctx.opCount, u.now, false, false⟩ →
    (sesCause u id ctx.launch.job = none →
    (sesLen e = expect → sesMirror e = false → Answers (.commit c w x) s fun t =>
      t = hasIssued (performOp (tsWrite (setSes held id new) c.te stat (bytesOf 8 0)) c ctx.opCount) c (ctx.pc + 8)
        ∧ sesLen (getSes t id) = (sesLen e + bits desc 70 64) % 2 ^ 32 ∧ bits (getSes t id) 87 64 = bits desc 95 72
        ∧ bits (getSes t id) 1031 1024 = 0 ∧ bits (getSes t id) 495 448 = s.stc.count.toNat
        ∧ (∀ n, n ≠ id → getSes t n = getSes s n))
    ∧ (sesLen e = expect → sesMirror e = true → Answers (.commit c w x) s fun t =>
      let free := held.mir.reqs.all fun q => decide (q.session ≠ id)
      let v := if free then sendMent (setSes held id new) id new else setSes held id new
      let late := smGet false v.mir.failedInit id
      let wait : CommitWait := ⟨id, BitVec.ofNat 32 (bits new 671 640), c, ctx.opCount, stat, 0, new, free, v.now, (sreg s c (bits w 13 9)).toNat, BitVec.ofNat 32 expect, late⟩
      let y := if late && free then v else { v with mir := { v.mir with commits := v.mir.commits ++ [wait] } }
      t = hasIssued (if late then
          refuseSession { y with mir := { y.mir with failedInit := smSet false y.mir.failedInit id false } } c ctx.opCount
            (sreg s c (bits w 13 9)).toNat stat id (BitVec.ofNat 64 expect) 0x0B
        else y) c (ctx.pc + 8))
    ∧ (sesLen e ≠ expect → Answers (.commit c w x) s fun t =>
      t = hasIssued (refuseSession held c ctx.opCount (sreg s c (bits w 13 9)).toNat stat id (BitVec.ofNat 64 expect) 0x0A) c (ctx.pc + 8)
        ∧ (∀ n, getSes t n = getSes s n)))
    ∧ (sesMirror e = true → sesMirror new = true ∧ bits new 671 640 = (bits e 671 640 + 1) % 2 ^ 32)
    ∧ (∀ k, sesCause u id ctx.launch.job = some k → Answers (.commit c w x) s fun t =>
      t = hasIssued (refuseSession held c ctx.opCount (sreg s c (bits w 13 9)).toNat stat id (BitVec.ofNat 64 expect) k) c (ctx.pc + 8)
        ∧ (∀ n, getSes t n = getSes s n))

/-- A queued DISPATCH receives the lowest tag that no route of the engine holds, and is opened with it; one that an abort has closed is combined with every pair zero (R204, R209, R393). The next TOKEN of an open route goes to the home that R202 chooses, with its activation row and header, and its pair is sent, unless Seam has no room for it yet; a pair without a home counts as zero (R202, R203, R210). At the earliest deadline of an engine the unresolved pairs of its route count as zero and the route is closed (R208). The combine of a closed route ends after the cycles of R209; where its rows can be written the route is gone and its operation performed (R209, R212). -/
def Obligations.DispatchEngines : Prop :=
  (∀ (s : State) (d : CDie) (r : Route) (u : State), running s = true → bitAt s.brd.clockLost d.val = false → (getRoutes s d).find? (fun r => r.tag.isNone) = some r → r.closedAt = none →
    taggedCount s d < 1024 → openRoute s d r = (u, none) →
    (∀ q ∈ getRoutes s d, q.tag ≠ some (freeTag s d)) ∧ (∀ n, n < freeTag s d → ∃ q ∈ getRoutes s d, q.tag = some n)
      ∧ exec (.routeTagAssign d) s = .next u)
  ∧ (∀ (s : State) (d : CDie) (r : Route) (u : State) (t0 : Nat), running s = true → bitAt s.brd.clockLost d.val = false → (getRoutes s d).find? (fun r => r.tag.isNone) = some r →
    r.closedAt = some t0 → combineRows { r with pairs := r.pairs.map fun _ => .zero, weights := [] } (List.range (rdRows r.desc)) s = (u, none) →
    exec (.routeTagAssign d) s = .next (performOp (dropRoute u d r) r.ctx r.opNumber))
  ∧ (∀ (s : State) (d : CDie) (tag : Fin 1024) (r : Route) (i : Nat) (h : BitVec 128), running s = true → bitAt s.brd.clockLost d.val = false →
    (getRoutes s d).find? (fun r => decide (r.tag = some tag.val) && r.closedAt.isNone) = some r → s.now < r.deadline →
    r.pairs.findIdx? (fun p => decide (p = .unsent)) = some i → h = r.homes.getD i 0 →
    (chooseHome s d h (i / rdK r.desc) = none → exec (.tokenSend d tag) s = .next (resolvePair (dspCount s d .absent 1) d r i .zero))
    ∧ (∀ node die slot u bs, chooseHome s d h (i / rdK r.desc) = some (node, die, slot, false) →
      tsLoad s r.ctx.te (bits r.desc 180 160 + i / rdK r.desc * rdAl r.desc * 64) (rdAl r.desc * 64) = (u, .inr bs) →
      let used := (rdAfmt r.desc).bytes (rdH r.desc) + (if (rdAfmt r.desc).isMx then ceilDiv' (rdH r.desc) 32 else 0)
      let head := mkPacket 1 (myNode u) d.val node die r.job.toNat r.stitch (rdLayer r.desc) (r.experts.getD i 0) slot 0 tag.val (i / rdK r.desc) (i % rdK r.desc)
        (bits r.desc 284 280) (rdH r.desc) (rdAl r.desc) (r.weights.getD i 0)
      let packet := bytesOf 64 head.toNat ++ (bs.take used ++ List.replicate (rdAl r.desc * 64 - used) 0)
      (dispRoom u d node die r.job packet = true → exec (.tokenSend d tag) s = .next (modRoute (noteProgress (sendDisp u d node die r.job packet none) 4 d.val) d r
        fun q => { q with pairs := q.pairs.set i .sent }))
      ∧ (dispRoom u d node die r.job packet = false → exec (.tokenSend d tag) s = .next u)))
  ∧ (∀ (s : State) (d : CDie) (r : Route), running s = true → bitAt s.brd.clockLost d.val = false → r ∈ getRoutes s d → r.closedAt = none → r.tag.isSome = true →
    (∀ q ∈ getRoutes s d, q.closedAt = none → q ≠ r → r.deadline < q.deadline) →
    Answers (.dispatchDeadline d) s fun t =>
      t.now = max s.now r.deadline
        ∧ getRoutes t d = (getRoutes s d).map (fun q => if q.ctx = r.ctx ∧ q.opNumber = r.opNumber then
            { q with pairs := r.pairs.map (fun p => if p.pending then Pair.zero else p), closedAt := some t.now } else q))
  ∧ (∀ (s : State) (d : CDie) (tag : Fin 1024) (r : Route) (t0 : Nat) (u : State), running s = true → bitAt s.brd.clockLost d.val = false →
    (getRoutes s d).find? (fun r => decide (r.tag = some tag.val)) = some r → r.closedAt = some t0 →
    combineRows r (List.range (rdRows r.desc)) (advanceTo s (t0 + cycT (ceilDiv' (rdRows r.desc * (rdK r.desc + (if rdBaseEn r.desc then 1 else 0)) * rdRl r.desc) 16 + 32))) = (u, none) →
    Answers (.combineDone d tag) s fun t => t = performOp (dropRoute u d r) r.ctx r.opNumber
      ∧ ∀ q ∈ getRoutes t d, ¬ (q.ctx = r.ctx ∧ q.opNumber = r.opNumber))

/-- An arriving TOKEN of the present or the last stitch whose inbox bank has room is placed in the bank's next row, the fill count of the bank rises by 1 and so does the tally that the entry names; one that an entry refuses is answered with its status, and one of another stitch is counted as a stray (R205, R206). An arriving RESULT that fits an open pair lands in STAGE and resolves it; a refusal resolves it as zero; one that fits none is counted (R208, R210). -/
def Obligations.DispatchArrivals : Prop :=
  (∀ (s : State) (d : CDie) (port : Option XfPort) (p : XfPacket) (u : State) (hd : BitVec 512) (now slot bank key : Nat), running s = true → bitAt s.brd.clockLost d.val = false →
    acceptDisp s d port p = (u, true) → hd = innerHead p → now = u.stc.count.toNat → slot = bits hd 163 152 → bank = bits hd 127 80 % 2 →
    key = (4096 * d.val + slot) * 2 + bank →
    (bits hd 127 80 ≠ now → bits hd 127 80 ≠ (now + 2 ^ 48 - 1) % 2 ^ 48 → exec (.tokenArrive d port p) s = .next (dspCount u d .stray 1))
    ∧ (∀ v e, (bits hd 127 80 = now ∨ bits hd 127 80 = (now + 2 ^ 48 - 1) % 2 ^ 48) → inboxEntry u d slot = (v, .inr e) →
      tallyUp v d.val (BitVec.ofNat 32 (bits e 127 96)) = true →
      (∀ k, tokenStatus v d hd e bank key = 0 → handleKey (BitVec.ofNat 32 (bits e 127 96)) = some k → Answers (.tokenArrive d port p) s fun t =>
        smGet 0 t.dsp.fill key = smGet 0 v.dsp.fill key + 1
          ∧ (∀ j, tally t j = if j = k then tally v k + 1 else tally v j)
          ∧ t.cl = (csWrite v (inboxCluster d e) (inboxRow e bank (smGet 0 v.dsp.fill key)) (p.payload.take (64 * (1 + inboxLines e)))).cl
          ∧ t = { v with cl := t.cl, dsp := { v.dsp with fill := t.dsp.fill }, err := { v.err with progress := t.err.progress }, tallies := t.tallies,
                         stc := { v.stc with marginAt := t.stc.marginAt } })
      ∧ (∀ k, tokenStatus v d hd e bank key = k + 1 → exec (.tokenArrive d port p) s = .next (refuseToken v d hd (k + 1)))))
  ∧ (∀ (s : State) (d : CDie) (port : Option XfPort) (p : XfPacket) (u : State) (hd : BitVec 512), running s = true → bitAt s.brd.clockLost d.val = false → acceptDisp s d port p = (u, true) → hd = innerHead p →
    ((getRoutes u d).find? (fun r => decide (r.tag = some (bits hd 183 168))) = none → exec (.resultArrive d port p) s = .next (dspCount u d .stray 1))
    ∧ (∀ r i, (getRoutes u d).find? (fun r => decide (r.tag = some (bits hd 183 168))) = some r → i = bits hd 191 184 * rdK r.desc + bits hd 195 192 →
      (bits hd 127 80 = r.stitch → r.closedAt.isSome = true → exec (.resultArrive d port p) s = .next (dspCount u d .lateDiscard 1))
      ∧ (r.closedAt = none → resultFits r hd = true → bits hd 167 164 = 0 → exec (.resultArrive d port p) s = .next (resolvePair
          (csWrite u (clusterOf r.ctx.te) (rdStage r.desc + i * rdRl r.desc * 64) ((p.payload.drop 64).take (rdRl r.desc * 64))) d r i .result))
      ∧ (r.closedAt = none → resultFits r hd = true → bits hd 167 164 ≠ 0 → exec (.resultArrive d port p) s = .next (resolvePair (dspCount u d .refused 1) d r i .zero))))

/-- The mirror ports. The rows of the oldest request that a port can carry are read back and sent, and with them the commits that waited for them (R395). Mirrored rows of a STANDBY session are written through its own entry; those of another session are dropped and counted (R396 to R398). A mirrored entry is applied as STANDBY and answered, and where the session is LIVE or HELD here it is refused (R396, R398). An acknowledgement completes the commit that waits; with none by the first boundary after the commit it completes with cause 0x0B, its record and its status written, and a first copy so unanswered has failed (R195, R395). A job written to MIR_TAKEOVER joins the takeover set, of at most eight (R399). -/
def Obligations.MirrorPorts : Prop :=
  (∀ (s : State) (q : MirReq) (e : BitVec 2048) (el : Nat) (u v : State) (ws : List W64) (bs : List Byte) (n : Nat), running s = true →
    mirrorServed s = true → s.mir.reqs.find? (fun q => !sesMirror (getSes s q.session) || (mirrorPort s (bits (getSes s q.session) 687 672)).isSome) = some q →
    e = getSes s q.session → sesMirror e = true → sesElem e = some el →
    mirrorBlocks { s with mir := { s.mir with reqs := s.mir.reqs.erase q } } e q.pos q.tokens = (u, .inr ws) →
    collect (fun s (p : Nat × List Byte) => portRead s p.1 p.2.length) (appendRuns e el q.layer q.head q.pos q.tokens ws (List.replicate (2 * q.tokens * 128 * el) 0)) u = (v, .inr bs) →
    mirrorPort v (bits e 687 672) = some n →
    exec .mkvSend s = .next (sendCommits (sendMirror v n 0 (mirrorHead q.session q.layer q.head q.pos q.tokens ++ bs)) q.session))
  ∧ (∀ (s u v : State) (n : Fin 2) (p : XfPacket) (session layer hd pos tokens el : Nat) (e : BitVec 2048) (ws : List W64), running s = true →
    acceptMirror s n.val 0 p = (u, true) → session = leNat (p.payload.take 64) % 2 ^ 32 → layer = leNat (p.payload.take 64) / 2 ^ 32 % 2 ^ 16 →
    hd = leNat (p.payload.take 64) / 2 ^ 48 % 2 ^ 16 → pos = leNat (p.payload.take 64) / 2 ^ 64 % 2 ^ 64 → tokens = leNat (p.payload.take 64) / 2 ^ 128 % 2 ^ 16 →
    e = getSes u session →
    (65536 ≤ session ∨ sesState e ≠ 3 → exec (.mkvReceive n p) s = .next (mirrorStale u session))
    ∧ (session < 65536 → sesState e = 3 → sesElem e = some el → layer < sesLayers e → hd < sesHeads e → 1 ≤ tokens → tokens ≤ 64 →
      (p.payload.drop 64).length = 2 * tokens * 128 * el → mirrorBlocks u e pos tokens = (v, .inr ws) → blockCause e el ws = none →
      let pieces := ((appendRuns e el layer hd pos tokens ws (p.payload.drop 64)).map fun r => writePieces r.1 r.2).flatten
      (∀ q ∈ pieces, lineOk v (q.1 / 64) = true) → (∀ q ∈ pieces, lineHeld v 87 (q.1 / 64) = false) →
      let r := pieces.foldl (fun (a : State × Bool) q => ((portWrite a.1 q.1 q.2).1, a.2 || (portWrite a.1 q.1 q.2).2.isSome)) (v, false)
      exec (.mkvReceive n p) s = .next (if r.2 then mirrorRefused r.1 session else r.1)))
  ∧ (∀ (s u : State) (n : Fin 2) (p : XfPacket) (session : Nat) (e : BitVec 2048), running s = true → acceptMirror s n.val 2 p = (u, true) →
    session = leNat (p.payload.take 4) → e = BitVec.ofNat 2048 (leNat ((p.payload.drop 64).take 256)) → session < 65536 →
    ((sesState (getSes u session) = 0 ∨ sesState (getSes u session) = 3) → Answers (.mentReceive n p) s fun t =>
      sesState (getSes t session) = 3 ∧ (∀ hi lo, 3 < lo → bits (getSes t session) hi lo = bits e hi lo) ∧ (∀ k, k ≠ session → getSes t k = getSes u k)
        ∧ smGet false t.mir.refuseNext session = false)
    ∧ ((sesState (getSes u session) = 1 ∨ sesState (getSes u session) = 2) → Answers (.mentReceive n p) s fun t => ∀ k, getSes t k = getSes u k))
  ∧ (∀ (s u : State) (n : Fin 2) (p : XfPacket) (session : Nat) (w : CommitWait), running s = true → acceptMirror s n.val 3 p = (u, true) →
    session = leNat (p.payload.take 4) → leNat ((p.payload.drop 4).take 4) ≠ 0 →
    u.mir.commits.find? (fun w => decide (w.session = session) && decide (w.seq.toNat = leNat ((p.payload.drop 4).take 4)) && w.sent) = some w →
    exec (.mackReceive n p) s = .next (
      let v := noteSession { u with mir := { u.mir with commits := u.mir.commits.erase w } } session
      if leNat ((p.payload.drop 8).take 1) % 2 = 1 then refuseSession v w.ctx w.opNumber w.at_ w.stat session (w.expect.setWidth 64) 0x0B
      else performOp (tsWrite v w.ctx.te w.stat (bytesOf 8 0)) w.ctx w.opNumber))
  ∧ (∀ (s : State) (session : Session) (w : CommitWait) (x : Ctx), running s = true →
    s.mir.commits.find? (fun w => decide (w.session = session.val) && decide (1 ≤ w.boundaries) && !w.failed) = some w → getCtx s w.ctx = some x →
    let left := if w.sent then s.mir.commits.filter (fun q => decide (q ≠ w)) else s.mir.commits.map (fun q => if q = w then { q with failed := true } else q)
    exec (.mirrorAckTimeout session) s = .next (performOp (tsWrite (place { s with mir := { s.mir with commits := left } }
        (ctxRec w.ctx x.launch { cls := 0x0B, action := if x.stop.isSome then 0 else 3, cause := 0x0B, addr := BitVec.ofNat 64 w.at_, d0 := BitVec.ofNat 64 session.val, d1 := w.expect.setWidth 64 }))
      w.ctx.te w.stat (bytesOf 8 0x0B)) w.ctx w.opNumber))
  ∧ (∀ (s : State) (session : Session) (i : FirstCopy), running s = true →
    s.mir.commits.find? (fun w => decide (w.session = session.val) && decide (1 ≤ w.boundaries) && !w.failed) = none →
    s.mir.initial.find? (fun i => decide (i.session = session.val) && decide (1 ≤ i.boundaries)) = some i →
    Answers (.mirrorAckTimeout session) s fun t => i ∉ t.mir.initial ∧ (∀ q ∈ s.mir.initial, q ≠ i → q ∈ t.mir.initial)
      ∧ (∀ k, smGet false t.mir.failedInit k = if k = session.val then true else smGet false s.mir.failedInit k)
      ∧ t = { s with mir := { s.mir with initial := t.mir.initial, failedInit := t.mir.failedInit } })
  ∧ (∀ (s : State) (v : W64), running s = true → Answers (.mirTakeover v) s fun t =>
    ((∃ j ∈ s.mir.takeover, j.1 = v.extractLsb' 0 16) → t = s)
    ∧ ((∀ j ∈ s.mir.takeover, j.1 ≠ v.extractLsb' 0 16) →
      (s.mir.takeover.length < 8 → t = { s with mir := { s.mir with takeover := s.mir.takeover ++ [(v.extractLsb' 0 16, s.now)] } })
      ∧ (8 ≤ s.mir.takeover.length → t = raise s Reg.mirStatus 3)))

/-! ### The fabric, its links and its keys -/

/-- XF_PACKET_SEND: a message of Thimble that its port may carry goes first (log entry 131); late TOKENs and RESULTs to unreachable nodes leave the port's queue unsent; the packet that goes then is covered by its node's credit, is charged to it, and carries the next sequence number of its key and what is owed to the node; no other queue changes (R207, R208, R382, R386, R389). CRED_SEND returns what is owed to a node in a CRED packet; an accepted CRED restores the sender's counter by RET_LINES, and XF_E2E_RESET restores a node's counter wholly (R386, R388). XF_ABORT starts an abort of a job; an ABORT that has been seen is counted and dropped, a new one is noted and acted on (R392, R393). -/
def Obligations.PacketsAndCredits : Prop :=
  (∀ (s u : State) (l : LinkId) (q : Queued) (k : Nat), running s = true → 7 ≤ l.num → l.num ≤ 22 → u = pruneQueue s l.num →
    u.fab.kexOut.find? (kexMay u l.num) = none → nextPacket u l.num (getLink u l.num).sendQ = some q → slotOfJob u q.job = some k → q.owner = none →
    (∀ p ∈ (getLink u l.num).sendQ, p ∈ (getLink s l.num).sendQ ∧ tokenLate s p = false ∧ resultStray s p = false)
    ∧ Answers (.xfPacketSend l) s fun t =>
      charge q.packet.payload.length ≤ creditOf u q.node ∧ unreachable u q.node = false
      ∧ (∀ m, (getLink t m).sendQ = if m = l.num then (getLink u m).sendQ.erase q else (getLink u m).sendQ)
      ∧ (∀ m, smGet 0 t.fab.used m = smGet 0 u.fab.used m + if m = q.node then charge q.packet.payload.length else 0) ∧ linkUp u l.num = true
      ∧ packetUnits q.packet.payload.length (hdrClass q.packet.hdr) ≤ creditOfLink u l.num (hdrClass q.packet.hdr)
      ∧ (∀ m, smGet 0 t.fab.owed m = smGet 0 u.fab.owed m - if m = q.node then min (smGet 0 u.fab.owed m) 0xFFFF else 0)
      ∧ t.fab.out = u.fab.out ++ [⟨l.num, { q.packet with hdr := mkHdr q.node (myNode u) (hdrClass q.packet.hdr) (getKey u k).epoch k (min (smGet 0 u.fab.owed q.node) 0xFFFF) (smGet 0 (getKey u k).seqOut q.node + 1) (q.packet.payload.length / 64) }⟩]
      ∧ t = { u with fab := { u.fab with links := t.fab.links, used := t.fab.used, slots := t.fab.slots, owed := t.fab.owed, owedSince := t.fab.owedSince, out := t.fab.out, wire := t.fab.wire } })
  ∧ (∀ (s u : State) (l : LinkId) (m : KexOut), running s = true → 7 ≤ l.num → l.num ≤ 22 → u = pruneQueue s l.num → u.fab.kexOut.find? (kexMay u l.num) = some m →
    exec (.xfPacketSend l) s = .next (sendFromH0 { u with fab := { u.fab with kexOut := u.fab.kexOut.erase m } } l.num (kexPacket u m)))
  ∧ (∀ (s : State) (node : BitVec 11) (e : Nat × KeySlot), running s = true → smGet 0 s.fab.owed node.toNat ≠ 0 → unreachable s node.toNat = false →
    node.toNat ≠ myNode s → s.fab.slots.find? (fun e => decide (e.1 < 255) && e.2.valid && bitAt (smGet 0 s.fab.peers e.1) node.toNat) = some e →
    routeUp s 4 (linkDie (routePort s node.toNat)) = true → packetMay s (routePort s node.toNat) ⟨mkHdr node.toNat (myNode s) 1 false e.1 0 0 0, [], true⟩ = true →
    Answers (.credSend node) s fun t =>
      (∀ m, smGet 0 t.fab.owed m = smGet 0 s.fab.owed m - if m = node.toNat then min (smGet 0 s.fab.owed m) 0xFFFF else 0)
      ∧ t.fab.out = s.fab.out ++ [⟨routePort s node.toNat, ⟨mkHdr node.toNat (myNode s) (hdrClass (mkHdr node.toNat (myNode s) 1 false e.1 0 0 0)) (getKey s e.1).epoch e.1 (min (smGet 0 s.fab.owed node.toNat) 0xFFFF) (smGet 0 (getKey s e.1).seqOut node.toNat + 1) 0, [], true⟩⟩]
      ∧ t = { s with fab := { s.fab with links := t.fab.links, slots := t.fab.slots, owed := t.fab.owed, owedSince := t.fab.owedSince, out := t.fab.out, wire := t.fab.wire } })
  ∧ (∀ (s : State) (l : LinkId) (p : XfPacket), running s = true → 7 ≤ l.num → l.num < 23 → linkUp s l.num = true → hdrClass p.hdr = 1 → hdrDst p.hdr = myNode s →
    packetCause (heardPacket s l.num 1 p.payload.length) p none = none →
    Answers (.credReceive l p) s fun t =>
      (∀ m, smGet 0 t.fab.used m = smGet 0 s.fab.used m - if m = hdrSrc p.hdr then hdrRet p.hdr else 0)
      ∧ (∀ m, m ≠ l.num → getLink t m = getLink s m) ∧ t = { s with fab := { s.fab with links := t.fab.links, used := t.fab.used, slots := t.fab.slots } })
  ∧ (∀ (s : State) (v : W64), running s = true → Answers (.xfE2eReset v) s fun t =>
      (∀ m, creditOf t m = if m = bits v 15 0 then fieldR s Reg.xfE2e 12 0 else creditOf s m) ∧ t = { s with fab := { s.fab with used := t.fab.used } })
  ∧ (∀ (s : State) (v : W64), running s = true → exec (.xfAbort v) s = .next (startAbort s (v.extractLsb' 0 16) (bits v 23 16)))
  ∧ (∀ (s u : State) (port : XfPort) (p : XfPacket) (w origin id : Nat), running s = true → hdrClass p.hdr = 2 → acceptXf s port p none true = (u, true) →
    w = leNat p.payload → origin = w / 2 ^ 16 % 2 ^ 16 → id = w / 2 ^ 32 % 2 ^ 32 →
    ((origin, id) ∈ u.fab.seen → exec (.abortReceive port p) s = .next (countR (raise u Reg.xfStatus 2) Reg.xfEvt 47 32 1))
    ∧ (∀ v n, (origin, id) ∉ u.fab.seen → slotOfJob u (BitVec.ofNat 16 w) = none →
      abortActions { raise u Reg.xfStatus 2 with fab := { u.fab with seen := u.fab.seen ++ [(origin, id)] } } (BitVec.ofNat 16 w) ⟨0x11, w / 2 ^ 112 % 256, 0, 0, 0⟩ = (v, n) →
      exec (.abortReceive port p) s = .next (abortRecord v (BitVec.ofNat 16 w) origin id (w / 2 ^ 112 % 256) n)))

/-- Only one link differs from before, and it is a given link but for what its flits have added to its sending side. -/
def SendsAs (s t : State) (l : Nat) (k : Link) : Prop :=
  (∃ a r b, getLink t l = { k with sent := a, replay := r, back := b }) ∧ (∀ m, m ≠ l → getLink t m = getLink s m)
    ∧ t = { s with rf := t.rf, fab := { s.fab with links := t.fab.links, wire := t.fab.wire } }

/-- A link that is up answers a flit whose CRC fails with NAK; of the flit that is next in its sequence it takes the acknowledgement, the credits and the NAK (R343, R344, R372, R375, R381). A NAK with the last SEQ received right makes it send again every flit behind that, and the sixteenth time in a row makes it train again (R344, R375). SEAM_CTRL.RETRAIN and a peer's wish train it (R375, R379). A training that ends well with spares within the limit sends VERSION; one that fails leaves the link trying or down (R375, R378). A peer's VERSION of the link's type is answered with READY, another leaves the link down and its queue discarded (R380, R388). READY of both ends makes it up, and what waited for a Seam link, or for Orfin, goes on (R375, R380). SYNC of the present stitch keeps its offset; another is recorded (R391). Ten microseconds without a good flit take a SerDes link down (R445). Each touches its own link alone. -/
def Obligations.LinkEvents : Prop :=
  ∀ (s : State) (l : LinkId) (k : Link), running s = true → k = getLink s l.num →
    (∀ (c : Instr) (flit : List Byte), k.phase = .up → (∃ j : Fin 7, j.val = l.num ∧ c = .seamFlitError ⟨j, flit⟩) ∨ (7 ≤ l.num ∧ c = .serdesFlitError ⟨l, flit⟩) →
      (readFlit l.num flit = none → exec c s = .next (setLink s l.num { k with nak := true }))
      ∧ (∀ f, readFlit l.num flit = some f → f.seq ≠ k.got + 1 → exec c s = .next (setLink s l.num { k with lastGood := s.now }))
      ∧ (∀ f, readFlit l.num flit = some f → f.seq = k.got + 1 → ∃ u, exec c s = .next (linkPump (if f.nak then replayFrom u l.num else u) l.num)
        ∧ getLink u l.num = takeCredits { takeAck k f.ack with lastGood := s.now, nak := false, got := f.seq } f.credits ∧ (∀ m, m ≠ l.num → getLink u m = getLink s m)
        ∧ u = { s with orf := { s.orf with bulkSeqs := u.orf.bulkSeqs }, fab := { s.fab with links := u.fab.links } }
        ∧ (l.num < 23 → ∀ w, linkPump w l.num = w)))
    ∧ (∀ ack v, k.phase = .up → (l.num < 7 → k.nak = true) → v = takeAck k ack → Answers (.nakReplay ⟨l, ack⟩) s fun t =>
      (v.replays < 15 → getLink t l.num = { v with nak := v.nak && decide (7 ≤ l.num), replays := v.replays + 1 } ∧ t.fab.wire = s.fab.wire ++ v.replay.map fun f => (l.num, f))
      ∧ (15 ≤ v.replays → ∃ a r b, getLink t l.num = { retraining v .retraining with sent := a, replay := r, back := b })
      ∧ v.replay = unacked k ack ∧ (∀ m, m ≠ l.num → getLink t m = getLink s m)
      ∧ t = { s with rf := t.rf, orf := { s.orf with bulkSeqs := t.orf.bulkSeqs }, fab := { s.fab with links := t.fab.links, wire := t.fab.wire } })
    ∧ (∀ ok spares, k.phase ≠ .up → k.versionSent = false → (l.num < 7 → k.phase ≠ .down) →
      (ok = true → spares.toNat ≤ spareLimit l.num → Answers (.linkTrainDone l ok spares) s fun t =>
        SendsAs s t l.num { k with phase := if k.phase = .down then .training else k.phase, failedRetrains := 0, sparesUsed := spares.toNat, spareInUse := decide (0 < spares.toNat), versionSent := true }
          ∧ ∃ f : Flit, t.fab.wire = s.fab.wire ++ [(l.num, f)] ∧ f.kind = 2 ∧ f.body = controlBody 1 (bytesOf 8 (versionWord s l.num).toNat))
      ∧ (ok = false → l.num < 7 → k.failedRetrains < 2 → exec (.linkTrainDone l ok spares) s = .next (seamCount (setLink s l.num { k with failedRetrains := k.failedRetrains + 1 }) l.num 47 32 1))
      ∧ (ok = false → l.num < 7 → 2 ≤ k.failedRetrains → exec (.linkTrainDone l ok spares) s = .next (linkDown s l.num))
      ∧ (ok = false → 7 ≤ l.num → k.phase = .retraining → exec (.linkTrainDone l ok spares) s = .next (if l.num = 23 then loseBulk (linkDown s l.num) else linkDown s l.num))
      ∧ (ok = false → 7 ≤ l.num → k.phase ≠ .retraining → exec (.linkTrainDone l ok spares) s = .next (setLink s l.num { k with phase := .down })))
    ∧ (∀ j : Fin 7, j.val = l.num → Answers (.seamCtrlRetrain j) s fun t => SendsAs s t l.num (retraining k (if k.phase = .up then .retraining else .training)))
    ∧ (k.phase = .up → Answers (.retrainReceive l) s fun t => SendsAs s t l.num (retraining k .retraining))
    ∧ (∀ v : W64, k.versionSent = true → k.phase ≠ .up → k.phase ≠ .down →
      (bits v 19 16 = linkType l.num → bits v 7 0 = 1 → k.readyGot = false → Answers (.versionReceive l v) s fun t =>
        SendsAs s t l.num { k with versionOk := true, readySent := l.num ≠ 23 || flagR s Reg.orfStatus 0, minor := 0, peer := v.extractLsb' 24 16 })
      ∧ (bits v 19 16 ≠ linkType l.num ∨ bits v 7 0 ≠ 1 → l.num ≠ 23 ∨ k.phase ≠ .retraining → Answers (.versionReceive l v) s fun t =>
        (∀ m, getLink t m = if m = l.num then { k with phase := .down, versionSent := false, versionOk := false, readySent := false, readyGot := false, sendQ := [] } else getLink s m)
          ∧ t = { s with rf := t.rf, eng := { s.eng with slots := t.eng.slots }, tallies := t.tallies, stc := t.stc, err := t.err, fab := { s.fab with links := t.fab.links, used := t.fab.used } }))
    ∧ (k.versionOk = true → k.phase ≠ .up → k.readySent = true →
      let v := setLink (setLink s l.num { k with readyGot := true }) l.num
        { k with readyGot := true, phase := .up, lastGood := s.now, nak := false, replays := 0, keyValid := false, keyHello := false, helloSent := false }
      let w := drainSeam v.fab.writes { v with fab := { v.fab with writes := [] } }
      (7 ≤ l.num → l.num < 23 → exec (.readyReceive l) s = .next v) ∧ (l.num = 23 → exec (.readyReceive l) s = .next (orfPump v))
      ∧ (24 ≤ l.num → exec (.readyReceive l) s = .next (pkeyHello v (l.num - 24)))
      ∧ (l.num < 7 → exec (.readyReceive l) s = .next (capResume ((allResident w).foldl settleOps (seamResume w)))))
    ∧ (∀ count ns, 7 ≤ l.num → l.num ≠ 23 → k.phase = .up →
      (count = s.stc.count → Answers (.syncReceive l count ns) s fun t =>
        (∀ m, getLink t m = if m = l.num then { k with lastGood := s.now, nak := false, got := k.got + 1, syncOffset := ns - 250 } else getLink s m)
          ∧ t = { s with fab := { s.fab with links := t.fab.links } })
      ∧ (count ≠ s.stc.count → Answers (.syncReceive l count ns) s fun t => flagR t Reg.xfStatus 0 = true ∧ t = { s with rf := t.rf, err := t.err, fab := { s.fab with links := t.fab.links } }))
    ∧ (7 ≤ l.num → k.phase = .up → exec (.linkTimeout l) s = .next (linkDown (advanceTo s (k.lastGood + usT 10)) l.num))

/-- BIND of a slot that is valid is refused with RESULT 3; of a free one it starts an agreement for the job, whose leader is the lowest node: alone it installs a new key at once, and otherwise the peer sends HELLO. ROTATE is the leader's, asks its peers for HELLOs, and CLEAR erases a slot (R474, R476). A message for another node is discarded and recorded, and one that comes before the alias certificate is ready waits (R390, R468). The leader checks a HELLO and wraps the key to its sender; the peer checks the wrap, installs the key and acknowledges; with the last acknowledgement the leader installs it; a message that fails its check ends the agreement with RESULT 2, and 1 s without an end gives RESULT 1 (R474, R475). A SWITCH is kept for its boundary (R476). A mirror port's key is valid after both PKEY messages (R477). The spelling of the messages is the model's (log entry 144). -/
def Obligations.KeyAgreement : Prop :=
  (∀ (s : State) (v : W64) (k : Nat), running s = true → k = bits v 7 0 → k ≠ 255 → s.fab.agree = none →
    ((getKey s k).valid = true → exec (.bind v) s = .next (raise { s with sec := { s.sec with keyResult := 3, keyNode := 0 } } Reg.secStatus 6))
    ∧ ((getKey s k).valid = false → peersOf s k = [] → Answers (.bind v) s fun t =>
      (∀ j, getKey t j = if j = k then { job := v.extractLsb' 16 16, valid := true, key0 := Config.draw256 s.draws, has0 := true } else getKey s j)
        ∧ t.sec = { s.sec with keyResult := 0, keyNode := 0 } ∧ t = { s with draws := s.draws + 1, sec := t.sec, fab := { s.fab with slots := t.fab.slots } })
    ∧ ((getKey s k).valid = false → leaderOf s (peersOf s k) ≠ myNode s → s.sec.aliasReady = true → Answers (.bind v) s fun t =>
      t.fab.agree = some ⟨k, v.extractLsb' 16 16, false, false, peersOf s k, [], [], Config.draw256 s.draws, s.now, true, Config.draw512 (s.draws + 1)⟩
        ∧ t.fab.kexOut = s.fab.kexOut ++ [⟨1, k, leaderOf s (peersOf s k), kexBytes s 1 k (helloContent s (Config.draw512 (s.draws + 1)))⟩]
        ∧ t = { s with draws := s.draws + 2, fab := { s.fab with agree := t.fab.agree, kexOut := t.fab.kexOut } })
    ∧ ((getKey s k).valid = true → leaderOf s (peersOf s k) = myNode s → s.sec.aliasReady = true → peersOf s k ≠ [] → Answers (.rotate v) s fun t =>
      t.fab.agree = some ⟨k, (getKey s k).job, true, true, peersOf s k, [], [], Config.draw256 s.draws, s.now, true, 0⟩
        ∧ t.fab.kexOut = s.fab.kexOut ++ (peersOf s k).map (fun n => ⟨0, k, n, kexBytes s 0 k []⟩)
        ∧ t = { s with draws := s.draws + 1, fab := { s.fab with agree := t.fab.agree, kexOut := t.fab.kexOut } }))
  ∧ (∀ (s : State) (v : W64), running s = true → bits v 7 0 ≠ 255 → Answers (.clear v) s fun t =>
      (∀ j, getKey t j = if j = bits v 7 0 then {} else getKey s j) ∧ (∀ w ∈ t.fab.switches, w.slot ≠ bits v 7 0)
        ∧ t = { s with fab := { s.fab with slots := t.fab.slots, switches := t.fab.switches } })
  ∧ (∀ (s : State) (a : KeyAgree), running s = true → s.fab.agree = some a → Answers .bindTimeout s fun t =>
      t.now = max s.now (a.since + usT 1000000) ∧ t.fab.agree = none ∧ t.sec.keyResult = 1
        ∧ (a.leader = false → t.sec.keyNode = leaderOf s a.peers)
        ∧ t = { s with now := t.now, sec := { s.sec with keyResult := 1, keyNode := t.sec.keyNode }, fab := { s.fab with agree := none } })
  ∧ (∀ (s u : State) (m : KexMsg) (src : Nat), running s = true → linkUp s (7 + m.port.val) = true → u = heardPacket s (7 + m.port.val) 3 (kexPayload m) → src = m.src.toNat →
    (∀ c kind, (c, kind) ∈ [(Instr.helloReceive m, 1), (Instr.wrapReceive m, 2), (Instr.kexAckReceive m, 3), (Instr.switchReceive m, 4)] →
      (m.dst.toNat ≠ myNode s → exec c s = .next (xfRecord (countR u Reg.xfEvt 63 48 1) m.port 0x07 (mkHdr m.dst.toNat src 3 false m.slot.toNat 0 0 0)))
      ∧ (m.dst.toNat = myNode s → s.sec.aliasReady = false → exec c s = .next { u with sec := { u.sec with kexWaiting := u.sec.kexWaiting ++ [(kind, m)] } }))
    ∧ (∀ a : KeyAgree, m.dst.toNat = myNode s → s.sec.aliasReady = true → s.fab.agree = some a → m.slot.toNat = a.slot →
      (a.leader = true → m.job = a.job → src ∈ a.peers → src ∉ a.hellos →
        let kek := kekOf (Config.kemSecret (m.body.take kemBytes) (Config.draw256 s.draws)) (myNode s) src a.job a.slot
        exec (.helloReceive m) s = .next (if kexGood s m then
          { u with draws := s.draws + 1, fab := { u.fab with agree := some { a with hellos := a.hellos ++ [src] }
                                                             kexOut := u.fab.kexOut ++ [⟨2, a.slot, src, kexBytes s 2 a.slot (Config.kemCipher (m.body.take kemBytes) (Config.draw256 s.draws) ++ Config.sealKey kek a.key)⟩] } }
          else { u with sec := { u.sec with keyResult := 2, keyNode := src }, fab := { u.fab with agree := none } }))
      ∧ (a.leader = false → a.helloSent = true → m.job = a.job → src = leaderOf s a.peers → kexGood s m = true → Answers (.wrapReceive m) s fun t =>
        (∀ j, getKey t j = if j = a.slot then { job := a.job, valid := true, key0 := wrappedKey s m a.kem, has0 := true } else getKey s j)
          ∧ t.fab.kexOut = s.fab.kexOut ++ [⟨3, a.slot, src, kexBytes s 3 a.slot []⟩]
          ∧ t = { u with sec := { u.sec with keyResult := 0, keyNode := 0 }, fab := { u.fab with agree := none, slots := t.fab.slots, kexOut := t.fab.kexOut } })
      ∧ (a.leader = true → src ∈ a.hellos → src ∉ a.acks → kexGood s m = true →
        ((∃ n ∈ a.peers, n ∉ a.acks ++ [src]) → exec (.kexAckReceive m) s = .next { u with fab := { u.fab with agree := some { a with acks := a.acks ++ [src] } } })
        ∧ ((∀ n ∈ a.peers, n ∈ a.acks ++ [src]) → a.rotate = false → Answers (.kexAckReceive m) s fun t =>
          (∀ j, getKey t j = if j = a.slot then { job := a.job, valid := true, key0 := a.key, has0 := true } else getKey s j)
            ∧ t = { u with sec := { u.sec with keyResult := 0, keyNode := 0 }, fab := { u.fab with agree := none, slots := t.fab.slots } })))
    ∧ (∀ k, m.dst.toNat = myNode s → s.sec.aliasReady = true → k = m.slot.toNat → k ≠ 255 → (getKey s k).valid = true →
      (if (getKey s k).epoch then (getKey s k).has0 else (getKey s k).has1) = true → src ∈ peersOf s k → src = leaderOf s (peersOf s k) → kexGood s m = true →
      exec (.switchReceive m) s = .next { u with fab := { u.fab with switches := u.fab.switches ++ [⟨k, m.stitch, false⟩] } }))
  ∧ (∀ (s : State) (n : Fin 2) (m : KexMsg) (l partner : Nat) (v : Link), running s = true → l = 24 + n.val → partner = fieldR s (Reg.mirPort n.val) 15 0 → linkUp s l = true →
    v = getLink s l → v.keyValid = false → v.helloSent = true → s.sec.aliasReady = true → m.src.toNat = partner → kexGood s m = true → Answers (.pkeyReceive n m) s fun t =>
      (getLink t l).keyHello = true ∧ (getLink t l).keyValid = v.keyHello ∧ (∀ j, j ≠ l → getLink t j = getLink s j)
        ∧ (v.keyHello = false → myNode s < partner → (getLink t l).portKey = portKeyOf (Config.kemSecret (m.body.take kemBytes) (Config.draw256 s.draws)) (myNode s) partner)
        ∧ (v.keyHello = true → (getLink t l).portKey = if myNode s < partner then v.portKey else portKeyOf (Config.kemOpen v.kem (m.body.take kemBytes)) (myNode s) partner)
        ∧ t = { s with draws := t.draws, fab := { s.fab with links := t.fab.links, slots := t.fab.slots, wire := t.fab.wire } })

/-! ### The session table, partitions and placement -/

/-- A host write of FREE wipes the entry of any state, of HELD takes a LIVE session to HELD, of LIVE takes a FREE or HELD entry whose fields allow it to LIVE, with MIR_SEQ and COMMIT_STITCH 0 from FREE and a first copy to the partner of a mirrored one; any other transition changes no entry and is noted in SES_STATUS and SES_REFUSED (R187, R188, R189, R395). A store to a word other than the first changes every field but the read-only ones of a FREE or HELD entry, the permitted ones of a LIVE one, and nothing of a STANDBY one; what is not permitted is noted (R185, R186). A store to the first word of a FREE or HELD entry writes the other fields first and then asks for STATE. No other entry changes. -/
def Obligations.SessionTable : Prop :=
  ∀ (s u : State) (n : Session) (e : BitVec 2048), running s = true → e = getSes s n.val → u = noteSession s n.val →
    Answers (.sessionFree n) s (fun t => (∀ m, getSes t m = if m = n.val then 0 else getSes s m) ∧ (∀ i ∈ t.mir.initial, i.session ≠ n.val) ∧ smGet false t.mir.failedInit n.val = false
      ∧ t = { u with ses := t.ses, mir := { u.mir with initial := t.mir.initial, failedInit := t.mir.failedInit } })
    ∧ (sesState e = 1 → Answers (.sessionHeld n) s fun t =>
        (∀ m, getSes t m = if m = n.val then setBits e 3 0 2 else getSes s m) ∧ t = { u with ses := t.ses })
    ∧ (sesState e = 0 ∨ sesState e = 3 → Answers (.sessionHeld n) s fun t =>
        flagR t (Reg.sesStatus (sesDie n.val)) 1 = true ∧ getR t (Reg.sesRefused (sesDie n.val)) = BitVec.ofNat 64 (n.val % 32768) ∧ t = { u with rf := t.rf })
    ∧ (∀ f, sesState e = 0 ∨ sesState e = 2 → canLive e = true →
      f = (if sesState e = 0 then setBits (setBits (setBits e 3 0 1) 671 640 0) 495 448 0 else setBits e 3 0 1) →
      (sesMirror e = false → Answers (.sessionLive n) s fun t =>
        (∀ m, getSes t m = if m = n.val then f else getSes s m)
          ∧ t = { u with ses := t.ses, mir := { u.mir with initial := t.mir.initial, failedInit := t.mir.failedInit } })
      ∧ (sesMirror e = true → ∃ v, (∀ m, getSes v m = if m = n.val then f else getSes s m) ∧ ⟨n.val, 0, s.now⟩ ∈ v.mir.initial
          ∧ v = { u with ses := v.ses, mir := { u.mir with initial := v.mir.initial, failedInit := v.mir.failedInit } }
          ∧ exec (.sessionLive n) s = .next (sendMent v n.val (setBits f 671 640 0))))
    ∧ (sesState e = 3 ∨ sesState e ≠ 1 ∧ canLive e = false → Answers (.sessionLive n) s fun t =>
        flagR t (Reg.sesStatus (sesDie n.val)) 1 = true ∧ getR t (Reg.sesRefused (sesDie n.val)) = BitVec.ofNat 64 (n.val % 32768) ∧ t = { u with rf := t.rf })
    ∧ (∀ (h : Hart) (k : Fin 32) (v old : W64), old = sesWord e k.val → k.val ≠ 0 →
      (sesState e = 0 ∨ sesState e = 2 → Answers (.sesTableWrite h n k v) s fun t =>
        (∀ m, getSes t m = if m = n.val then setSesWord e k.val ((old &&& roMask k.val) ||| (v &&& ~~~(roMask k.val))) else getSes s m) ∧ t = { u with ses := t.ses })
      ∧ (sesState e = 1 → (k.val = 3 → bits old 31 0 ≤ bits v 31 0) → (v ^^^ old) &&& ~~~(liveMask k.val ||| roMask k.val) = 0 → Answers (.sesTableWrite h n k v) s fun t =>
        (∀ m, getSes t m = if m = n.val then setSesWord e k.val ((old &&& ~~~(liveMask k.val)) ||| (v &&& liveMask k.val)) else getSes s m) ∧ t = { u with ses := t.ses })
      ∧ (sesState e = 3 → (v ^^^ old) &&& ~~~(roMask k.val) ≠ 0 → Answers (.sesTableWrite h n k v) s fun t =>
        (∀ m, getSes t m = if m = n.val then setSesWord e k.val old else getSes s m)
          ∧ flagR t (Reg.sesStatus (sesDie n.val)) 0 = true ∧ t = { u with ses := t.ses, rf := t.rf }))
    ∧ (∀ (h : Hart) (v : W64), sesState e = 0 ∨ sesState e = 2 → exec (.sesTableWrite h n 0 v) s
        = .next (sesMove (setSes u n.val (setSesWord e 0 ((sesWord e 0 &&& 0xF#64) ||| (v &&& ~~~0xF#64)))) n.val (bits v 3 0)))

/-- TE_SLOTCFG of an engine whose slots are all empty takes shares that fit, and every slot's next launch is wiped for; otherwise it is refused (R216, R221). A partition entry may be written while VALID is 0, but for a field given a reserved code, which stays (R223, R504); VALID sets only where R224 holds, which starts the wipe of its windows; VALID clears only with no context or launch of its job left; MASK alone may change while VALID is 1, and a new cluster's window is wiped; anything else is refused and noted in TE_STATUS (R223 to R226). The wipe's end makes exactly the windows zero (R225). -/
def Obligations.SharesAndPartitions : Prop :=
  (∀ (s : State) (te : TeId) (v cfg : W64), running s = true → cfg = v &&& 0x03FF03FF03FF03FF →
    (slotsEmpty s te = true → ((List.range 4).map (tsUnits cfg)).sum ≤ 32 → ((List.range 4).map (grpCount cfg)).sum ≤ 8 → Answers (.teSlotcfgWrite te v) s fun t =>
      (∀ u, getTe t u = if u = te then { getTe s te with slotcfg := cfg } else getTe s u)
        ∧ (∀ c, getSlot t c = if c.te = te then { getSlot s c with lastJob := 0xFFFF } else getSlot s c)
        ∧ t = { s with eng := { s.eng with te := t.eng.te, slots := t.eng.slots } })
    ∧ (slotsEmpty s te = false ∨ 32 < ((List.range 4).map (tsUnits cfg)).sum ∨ 8 < ((List.range 4).map (grpCount cfg)).sum →
      exec (.teSlotcfgWrite te v) s = .next (raise s Reg.teStatus 0)))
  ∧ (∀ (s : State) (p : PartId) (k : Fin 8) (v : W64) (old new : BitVec 512), running s = true → old = getPart s p →
    new = setBits old (64 * k.val + 63) (64 * k.val) v.toNat &&& ptMask →
    (ptValid old = false → ptValid new = false → ptReserved new = [] → Answers (.tePartWrite p k v) s fun t => (∀ q, getPart t q = if q = p then new else getPart s q) ∧ t = { s with parts := t.parts })
    ∧ (ptValid old = false → ptValid new = false → ptReserved new ≠ [] →
      exec (.tePartWrite p k v) s = .next (idEvent (setPart s p ((ptReserved new).foldl (fun e f => setBits e f.1 f.2 (bits old f.1 f.2)) new)) 1 (partAddr p k.val)))
    ∧ (ptValid old = false → ptValid new = true → ptMayOpen s p new = true → Answers (.tePartWrite p k v) s fun t =>
      (∀ q, getPart t q = if q = p then new else getPart s q)
        ∧ (0 < ptUnits new → ∀ c < 64, smGet 0 t.partWipe (64 * p.val + c) = if c ∈ ptClusters new then
            (cycleNow s + 64 * ptUnits new) * 65536 + ptBase new * 256 + ptUnits new else smGet 0 s.partWipe (64 * p.val + c))
        ∧ smGet 0 t.pwr.energy p.val = 0 ∧ t = { s with parts := t.parts, partWipe := t.partWipe, pwr := { s.pwr with energy := t.pwr.energy } })
    ∧ (ptValid old = true → ptValid new = false → (∀ te, jobOn s (ptJob old) te = false) → Answers (.tePartWrite p k v) s fun t =>
      (∀ q, getPart t q = if q = p then new else getPart s q) ∧ t = { s with parts := t.parts })
    ∧ (ptValid old = true → ptValid new = true → setBits old 383 128 0 = setBits new 383 128 0 → ptMayMask s p old new = true → Answers (.tePartWrite p k v) s fun t =>
      (∀ q, getPart t q = if q = p then new else getPart s q)
        ∧ (0 < ptUnits new → ∀ c < 64, smGet 0 t.partWipe (64 * p.val + c) = if c ∈ ptClusters new ∧ c ∉ ptClusters old then
            (cycleNow s + 64 * ptUnits new) * 65536 + ptBase new * 256 + ptUnits new else smGet 0 s.partWipe (64 * p.val + c))
        ∧ t = { s with parts := t.parts, partWipe := t.partWipe })
    ∧ (ptValid old = false ∧ ptValid new = true ∧ ptMayOpen s p new = false ∨ ptValid old = true ∧ ptValid new = false ∧ (∃ te, jobOn s (ptJob old) te = true)
        ∨ ptValid old = true ∧ ptValid new = true ∧ (setBits old 383 128 0 ≠ setBits new 383 128 0 ∨ ptMayMask s p old new = false) →
      exec (.tePartWrite p k v) s = .next (raise s Reg.teStatus 0)))
  ∧ (∀ (s : State) (p : PartId), running s = true → Answers (.partitionWipeEnd p) s fun t =>
      (∀ a, smGet 0 t.cl.store a = if ∃ e ∈ s.partWipe, e.1 / 64 = p.val ∧ (wipeRange e).1 ≤ a ∧ a < (wipeRange e).2 then 0 else smGet 0 s.cl.store a)
        ∧ (∀ e ∈ s.partWipe, e.1 / 64 = p.val → cycT (e.2 / 65536) ≤ t.now) ∧ t.partWipe = s.partWipe.filter (fun e => decide (e.1 / 64 ≠ p.val))
        ∧ t = { s with now := t.now, partWipe := t.partWipe, cl := { s.cl with store := t.cl.store, storeErr := t.cl.storeErr } })

/-- LAUNCH_PLACE gives an engine the launch that R230 chooses and the lowest empty slot that fits it: a slot last used by another job is wiped first, otherwise the launch is checked at once (R219 to R221, R230); a queued launch that no slot could ever fit stops instead (R112, R231; the model's choice, log entry 152). The end of the wipe makes the slot's tile store zero and checks the launch. A launch that passes the checks of R112 runs: its registers and masks are zero but for R1, the address of its arguments; issue begins at its code (R111 to R113). -/
def Obligations.LaunchesPlaced : Prop :=
  (∀ (s : State) (te : TeId) (l : Launch) (k : SlotId) (c : CtxId) (w : State), running s = true → takesLaunches s te = true → unfitQueued s te = none → launchFor s te = some l → fittingSlot s te l = some k → c = ⟨te, k⟩ →
    w = (if l.upset = 1 then countFix s (dieOf te).val else s) → ∃ u, (getSlot u c).occ = .wiping ∧ getCtx u c = some (newCtx l)
      ∧ (getSlot u c).wipeEnd = (if (getSlot s c).lastJob = l.job then 0 else cycleNow s + 64 * tsUnits (getTe s te).slotcfg k.val)
      ∧ (∀ d, d ≠ c → getSlot u d = getSlot s d) ∧ (∀ e, (getTe u e).queue = if e = l.home then (getTe s e).queue.erase l else (getTe s e).queue)
      ∧ u = { w with eng := { s.eng with te := u.eng.te, slots := u.eng.slots }, err := { w.err with progress := u.err.progress } }
      ∧ exec (.launchPlace te) s = .next (if (getSlot s c).lastJob = l.job then launchCheck u c else u))
  ∧ (∀ (s : State) (te : TeId) (l : Launch) (cls : Nat), running s = true → takesLaunches s te = true → unfitQueued s te = some (l, cls) →
    exec (.launchPlace te) s = .next (autoAbort (finishLaunch (unfitRecord (setTe s te { getTe s te with queue := (getTe s te).queue.erase l }) te l cls) l 0x05 cls 0 0) l.job cls))
  ∧ (∀ (s : State) (c : CtxId) (x : Ctx), running s = true → getCtx s c = some x → (getSlot s c).wipeEnd ≠ 0 → s.err.phase = 0 → tePowered s c.te = true → headerHeld s c.te x.launch = false →
    ∃ u, (∀ a < 2097152, smGet 0 u.eng.tiles (2097152 * c.te.val + a) = if (tsShare s c).1 ≤ a ∧ a < (tsShare s c).1 + (tsShare s c).2 then 0 else smGet 0 s.eng.tiles (2097152 * c.te.val + a))
      ∧ (∀ d, getSlot u d = if d = c then { getSlot s c with wipeEnd := 0, lastJob := x.launch.job } else getSlot s d) ∧ cycT (getSlot s c).wipeEnd ≤ u.now
      ∧ u = { s with now := u.now, eng := { s.eng with tiles := u.eng.tiles, tileErr := u.eng.tileErr, slots := u.eng.slots } }
      ∧ exec (.slotWipeEnd c) s = .next (launchCheck u c))
  ∧ (∀ (u w : State) (c : CtxId) (x : Ctx) (h : KHead), getCtx u c = some x → x.stop = none → (getSlot u c).occ = .wiping → readHeader u c.te x.launch = (w, .inr h) →
    khBad x.launch.header h = false → khGroups h ≤ grpCount (getTe w c.te).slotcfg c.slot.val → khUnits h ≤ tsUnits (getTe w c.te).slotcfg c.slot.val →
    (getSlot (launchCheck u c) c).occ = .running ∧ (getSlot (launchCheck u c) c).readyFrom = cycleNow w
      ∧ getCtx (launchCheck u c) c = some { x with codeBase := x.launch.header + BitVec.ofNat 64 (bits h 95 64), codeBytes := bits h 127 96, shadow := khShadow h, liveBank := 0
                                                   pc := x.launch.header + BitVec.ofNat 64 (bits h 95 64), lastPc := x.launch.header + BitVec.ofNat 64 (bits h 95 64) }
      ∧ (∀ r < 32, sreg (launchCheck u c) c r = if r = 1 then x.launch.args else 0) ∧ (∀ r < 32, ∀ i < 256, vlane (launchCheck u c) c r i = 0)
      ∧ (∀ d, d ≠ c → getSlot (launchCheck u c) d = getSlot w d)
      ∧ launchCheck u c = { w with eng := { w.eng with sregs := (launchCheck u c).eng.sregs, vregs := (launchCheck u c).eng.vregs, masks := (launchCheck u c).eng.masks
                                                       groups := (launchCheck u c).eng.groups, acc := (launchCheck u c).eng.acc, slots := (launchCheck u c).eng.slots } })

/-! ### Engines out of service and back -/

/-- OUT takes an engine in service out, or lets it drain while a slot holds a context, and refuses its launches under affinity; a patrolled or joining engine goes out at once, a wiping one after its wipe. OUT_NOW does so after a capture (R459), and stops every resident context. IN brings a draining engine back and begins the wipe of one that is out (Table 8-4, R236 to R238). The wipe's end leaves every store and register of the engine zero and begins its patrol pass; the pass leaves it joining, with every form exercised, or out where a slice fails (R238). A patrol slice between MMAs runs within the allowance, in parts where less is left, or the whole slice that a form not exercised waits for (R447), and advances the pass; a wrong signature fails it (R412, R447, R448). At a patrol interval every engine's allowance begins anew. The end of what a stopped context handed off empties its slot (R442). -/
def Obligations.EngineService : Prop :=
  (∀ (s : State) (te : TeId) (v : Te) (i : Instr), running s = true → v = getTe s te → i = .teSvcOut te ∨ i = .teSvcOutNow te →
    (v.svc = .inService → Answers (.teSvcOut te) s fun t =>
      (∀ u, getTe t u = if u = te then { v with svc := if slotsEmpty s te then .out else .draining, queue := v.queue.filter (fun l => !l.affinity) } else getTe s u)
        ∧ t = { s with eng := { s.eng with te := t.eng.te }, orf := t.orf, fab := t.fab })
    ∧ (v.svc = .inService ∨ v.svc = .draining → exec (.teSvcOutNow te) s
        = .next ((resident (leaveService (captureTe s te) te) te).foldl stopNow (leaveService (captureTe s te) te)))
    ∧ (v.svc = .patrol ∨ v.svc = .joining → Answers i s fun t =>
      (∀ u, getTe t u = if u = te then { v with svc := .out, queue := v.queue.filter (fun l => !l.affinity) } else getTe s u)
        ∧ (i = .teSvcOut te → t.rf = s.rf ∧ t.err = s.err ∧ t.stc = s.stc)
        ∧ t = { s with rf := t.rf, err := t.err, stc := t.stc, eng := { s.eng with te := t.eng.te }, orf := t.orf, fab := t.fab })
    ∧ (v.svc = .wiping → exec i s = .next (setTe (if i = .teSvcOutNow te then captureTe s te else s) te { v with outNext := true }))
    ∧ (v.svc = .draining → exec (.teSvcIn te) s = .next (setTe s te { v with svc := .inService }))
    ∧ (v.svc = .out → exec (.teSvcIn te) s = .next (setTe s te { v with svc := .wiping, failed := false, outNext := false, wipeEnd := cycleNow s + 2048 })))
  ∧ (∀ (s : State) (te : TeId) (v : Te), running s = true → v = getTe s te → s.err.phase = 0 → tePowered s te = true →
    (v.svc = .wiping → Answers (.teWipeEnd te) s fun t =>
      (∀ a < 2097152, ∀ u, smGet 0 t.eng.tiles (2097152 * u + a) = if u = te.val then 0 else smGet 0 s.eng.tiles (2097152 * u + a))
        ∧ (∀ h < 8, ∀ i < 16384, accAt t te h i = 0) ∧ (∀ k : SlotId, ∀ r < 32, sreg t ⟨te, k⟩ r = 0)
        ∧ (∀ u, getTe t u = if u = te then (if v.outNext then { v with svc := .out, outNext := false, shadowW := [], liveW := [], queue := v.queue.filter (fun l => !l.affinity) }
            else { v with svc := .patrol, shadowW := [], liveW := [], patrolAt := cycleNow t }) else getTe s u) ∧ cycT v.wipeEnd ≤ t.now
        ∧ t = { s with now := t.now, eng := { s.eng with te := t.eng.te, tiles := t.eng.tiles, tileErr := t.eng.tileErr, acc := t.eng.acc, sregs := t.eng.sregs, vregs := t.eng.vregs, masks := t.eng.masks }, orf := t.orf, fab := t.fab })
    ∧ (∀ f : Option (Fin 192 × W64), v.svc = .patrol →
      ((∀ x, f = some x → x.2 = Config.patrolSignature (192 * te.val + x.1.val)) → Answers (.returnPatrolEnd te f) s fun t =>
        (∀ u, getTe t u = if u = te then { v with svc := .joining, patrolFail := false, lastGood := s.stc.count.toNat, patrolSlice := 0, patrolPart := 0, mustExercise := false, exercised := List.replicate 4 (cycleNow t) } else getTe s u)
          ∧ cycT (v.patrolAt + 49152) ≤ t.now ∧ t = { s with now := t.now, eng := { s.eng with te := t.eng.te } })
      ∧ (∀ x, f = some x → x.2 ≠ Config.patrolSignature (192 * te.val + x.1.val) →
        exec (.returnPatrolEnd te f) s = .next (patrolFails (setTe (advanceCycle s (v.patrolAt + 49152)) te { v with svc := .out, failed := true }) te x.1.val x.2)))
    ∧ (∀ (o : W64) (run part : Nat) (u : State) (n : Te), v.svc = .inService ∨ v.svc = .draining → s.boot.phase = 8 → v.running = none → v.flights = [] →
      run = (if v.mustExercise then 256 else min (256 - v.patrolPart) (patrolMin s.stc.period + fieldR s Reg.stcPatrol 23 0 - v.patrolUsed)) → run ≠ 0 →
      part = (if v.mustExercise then 256 else v.patrolPart + run) → u = advanceCycle (accountArray s te) (cycleNow s + run) →
      n = { v with patrolUsed := v.patrolUsed + run, patrolPart := if part < 256 then part else 0, patrolSums := some s.draws, occupiedFrom := cycleNow s + run } →
      (part < 256 → exec (.patrolSlice te o) s = .next (setTe { u with draws := s.draws + 1 } te n))
      ∧ (256 ≤ part → o = Config.patrolSignature (192 * te.val + v.patrolSlice) → Answers (.patrolSlice te o) s fun t =>
        (∀ w, getTe t w = if w = te then { n with exercised := v.exercised.set v.form.code (cycleNow s + run), mustExercise := false, patrolSlice := if v.patrolSlice = 191 then 0 else v.patrolSlice + 1, lastGood := if v.patrolSlice = 191 then s.stc.count.toNat else v.lastGood } else getTe s w)
          ∧ cycleNow t = cycleNow s + run ∧ t = { s with now := t.now, draws := s.draws + 1, eng := { s.eng with te := t.eng.te, slots := t.eng.slots } })
      ∧ (256 ≤ part → o ≠ Config.patrolSignature (192 * te.val + v.patrolSlice) →
        exec (.patrolSlice te o) s = .next (patrolFails (setTe { u with draws := s.draws + 1 } te
          { n with exercised := v.exercised.set v.form.code (cycleNow s + run), mustExercise := false }) te v.patrolSlice o))))
  ∧ (∀ (s : State), running s = true → s.stc.patrolIntervals + 1 < patrolParts s.stc.period → Answers .patrolInterval s fun t =>
      (∀ u, getTe t u = { getTe s u with patrolUsed := 0 }) ∧ s.stc.last + nsT (10 * s.stc.period) * (s.stc.patrolIntervals + 1) / patrolParts s.stc.period ≤ t.now
        ∧ t = { s with now := t.now, stc := { s.stc with patrolIntervals := s.stc.patrolIntervals + 1 }, eng := { s.eng with te := t.eng.te } })
  ∧ (∀ (s : State) (c : CtxId) (x : Ctx) (i : StopInfo), running s = true → getCtx s c = some x → x.stop = some i → x.ops = [] → (∀ w ∈ writeBuf s (clusterOf c.te), w.ctx ≠ c) →
    Answers (.contextStopComplete c) s fun t =>
      (∀ d, getSlot t d = if d = c then { getSlot s c with occ := .empty, ctx := none, queue := [], progress := [], stalled := [] } else getSlot s d)
        ∧ (∀ u, getTe t u = if u = c.te ∧ (getTe s u).svc = .draining ∧ (∀ k, k ≠ c.slot → (getSlot s ⟨u, k⟩).occ = .empty) then { getTe s u with svc := .out } else getTe s u)
        ∧ t.orf = (finishLaunch s x.launch 0x05 i.cls c.te.val c.slot.val).orf
        ∧ t = { s with eng := { s.eng with te := t.eng.te, slots := t.eng.slots }, cl := { s.cl with lastLine := t.cl.lastLine, readAhead := t.cl.readAhead }, orf := t.orf, fab := t.fab })

/-! ### Controllers and the die caches' control -/

/-- A stack sensor's reading is kept and may raise the refresh rate; at 105 °C or more it sets HOT and STACK_HOT; a sensor that fails forces 4× with a record (R250, R252, R429). A refresh is counted; an indication gives the rate of its package (R251, R253). A controller that runs serves the request or the line of scrub that R248 chooses, which leaves the queue and is counted under its class and activity (R248, R411); an aged P1 request is promoted (R248). A repair command starts where the test window acts and no other runs, is refused where it does not, and ends with RESULT 3 where Table 9-4 lists no such command; it ends with RESULT 1 where no spare is left, with the failure given, or by mapping a lane, or by replacing a row, whose contents are undefined (R254, R255). -/
def Obligations.ControllersServe : Prop :=
  (∀ (s : State) (st : StackId) (v : Ctrl), running s = true → v = getCtrl s (stackCtrl st) →
    (∀ temp : Byte, Answers (.stackSensorRead st temp) s fun t =>
      (∀ c, getCtrl t c = if c = stackCtrl st then { v with temp := temp.toNat, maxTemp := max v.maxTemp temp.toNat, lastValid := t.now, sensorFailed := false, rate := max v.rate (riseRate temp.toNat) } else getCtrl s c)
        ∧ v.lastValid + usT 1 ≤ t.now ∧ (105 ≤ temp.toNat → flagR t (Reg.stkStatus st) 16 = true ∧ flagR t Reg.thmStatus 6 = true)
        ∧ (temp.toNat < 105 → t.rf = s.rf) ∧ t = { s with now := t.now, rf := t.rf, ctrls := t.ctrls })
    ∧ (v.sensorFailed = false → Answers (.stackSensorFail st) s fun t =>
      (∀ c, getCtrl t c = if c = stackCtrl st then { v with rate := 2, sensorFailed := true } else getCtrl s c) ∧ v.lastValid + usT 1000 ≤ t.now
        ∧ flagR t (Reg.stkStatus st) 17 = true ∧ t = { s with now := t.now, rf := t.rf, ctrls := t.ctrls, err := t.err })
    ∧ Answers (.refresh st) s fun t =>
      (∀ c, getCtrl t c = if c = stackCtrl st then { v with refreshes := v.refreshes + 1 } else getCtrl s c) ∧ t = { s with ctrls := t.ctrls })
  ∧ (∀ (s : State) (pkg : DeepId) (code : Byte) (h : HDie), running s = true → (h = 0 ↔ pkg.val < 9) → Answers (.lpddrRefreshIndication pkg code) s fun t =>
      (∀ c, (getCtrl t c).rates = if c = deepCtrl h then smSet 0 (getCtrl s c).rates (pkg.val % 9) code.toNat else (getCtrl s c).rates)
        ∧ (∀ c, { getCtrl t c with rates := [] } = { getCtrl s c with rates := [] }) ∧ t = { s with ctrls := t.ctrls })
  ∧ (∀ (s : State) (c : CtrlId) (v : Ctrl), running s = true → ctrlRuns s c = true → v = getCtrl s c →
    (∀ i r, nextServe s c = .req i → v.reqs[i]? = some r → Answers (.controllerServe c) s fun t =>
      (∀ d, getCtrl t d = if d = c then
          (if r.cls = .p2 then { v with reqs := v.reqs.eraseIdx i, p2Served := v.p2Served + 1, turn := p2Activity r.kind, migServed := v.migServed + (if p2Activity r.kind = 0 then 1 else 0)
                                        mirServed := v.mirServed + (if p2Activity r.kind = 1 then 1 else 0), scrubServed := v.scrubServed + (if p2Activity r.kind = 2 then 1 else 0) }
            else { v with reqs := v.reqs.eraseIdx i, p0p1Served := v.p0p1Served + 1 }) else getCtrl s d)
        ∧ t = { s with ctrls := t.ctrls, err := { s.err with progress := smSet false s.err.progress (24576 + c.val) true } })
    ∧ (∀ w x u y n, nextServe s c = .scrub → w = (if c.val < 12 then s else (needCheck s (c.val - 12) .p2 (rangeAddr c v.scrubNext / 64) .scrub).1) → x = getCtrl w c →
      decodeRaw w (rangeAddr c x.scrubNext) = (u, y) → n = getCtrl u c → Answers (.controllerServe c) s fun t =>
      (∀ d, getCtrl t d = if d = c then { n with scrubNext := if rangeLines c ≤ x.scrubNext + 1 then 0 else n.scrubNext + 1, scrubPasses := n.scrubPasses + (if rangeLines c ≤ x.scrubNext + 1 then 1 else 0)
                                                 scrubServed := n.scrubServed + 1, p2Served := n.p2Served + 1, turn := 2 } else getCtrl u d)
        ∧ ((∃ v, y = .inr v) → t.rf = u.rf ∧ t.err = { u.err with progress := smSet false u.err.progress (24576 + c.val) true })
        ∧ t = { u with rf := t.rf, ctrls := t.ctrls, err := t.err }))
  ∧ (∀ (s : State) (c : CtrlId) (i : Nat) (r : MemReq), running s = true → (getCtrl s c).reqs.findIdx? (fun r => decide (r.cls = .p1) && !r.promoted) = some i → (getCtrl s c).reqs[i]? = some r →
      Answers (.p1Promote c) s fun t =>
        (∀ d, getCtrl t d = if d = c then { getCtrl s c with reqs := (getCtrl s c).reqs.set i { r with promoted := true } } else getCtrl s d)
          ∧ r.since + usT (fieldR s (ctrlPrio c) 39 32) ≤ t.now ∧ t = { s with now := t.now, ctrls := t.ctrls })
  ∧ (∀ (s : State) (st : StackId) (w : W64) (i : Instr) (k : Ctrl), running s = true → k = getCtrl s (stackCtrl st) → i = .laneRepair st w ∨ i = .softPpr st w ∨ i = .hardPpr st w →
    (testOpen s st = true → k.busy = false → repairOk w = true → exec i s = .next (setCtrl s (stackCtrl st) { k with busy := true, testCmd := w }))
    ∧ (testOpen s st = true → k.busy = false → repairOk w = false → exec i s = .next (setCtrl s (stackCtrl st) { k with testCmd := w, result := 3 }))
    ∧ (testOpen s st = false ∨ k.busy = true → exec i s = .next (raise s (Reg.stkStatus st) 18)))
  ∧ (∀ (s : State) (st : StackId) (res : Fin 4) (k : Ctrl) (w : W64), running s = true → k = getCtrl s (stackCtrl st) → k.busy = true → w = k.testCmd →
    (noSpare s st w = true → exec (.repairDone st res) s = .next (setCtrl s (stackCtrl st) { k with busy := false, result := 1 }))
    ∧ (noSpare s st w = false → res ≠ 0 → exec (.repairDone st res) s = .next (setCtrl s (stackCtrl st) { k with busy := false, result := res.val }))
    ∧ (res = 0 → bits w 2 0 = 1 → exec (.repairDone st res) s = .next (setCtrl s (stackCtrl st) { k with busy := false, result := 0, lanes := smSet 0 k.lanes (8 * (bits w 8 3 / 2) + bits w 41 39) (bits w 38 32 + 1) }))
    ∧ (res = 0 → bits w 2 0 = 2 ∨ bits w 2 0 = 3 → noSpare s st w = false → Answers (.repairDone st res) s fun t =>
      (∀ c, getCtrl t c = if c = stackCtrl st then { k with busy := false, result := 0, undef := ⟨w, s.draws, []⟩ :: k.undef, softUsed := if bits w 2 0 = 2 then k.softUsed ++ [64 * bits w 13 9 + bits w 8 3] else k.softUsed, pprUsed := if bits w 2 0 = 3 then smMod 0 k.pprUsed (bits w 8 3) (· + 1) else k.pprUsed } else getCtrl s c)
        ∧ t = { s with draws := s.draws + 1, ctrls := t.ctrls }))

/-- Clearing ENABLE of a die cache starts a disable, which ends when every line has been written back and released in turn (R264). Setting it enables the cache; after a disable without an invalidation the enable is stale: flagged, with a record (R266). An invalidation is refused of a cache that is enabled or being disabled; it takes 8,192 cycles, and its end leaves every way free that is neither quarantined nor retired (R265). DISCARD and RETIRE release the quarantined line that they name, its slot and its copy, RETIRE leaving the way out of use; where they name none they are refused (R269). -/
def Obligations.DieCacheControl : Prop :=
  ∀ (s : State) (d : CDie), running s = true →
    (dcEnabled s d = true → Answers (.dcDisable d) s fun t =>
      flagR t (Reg.dcCtrl d) 0 = false ∧ flagR t (Reg.dcStatus d) 0 = true ∧ (∀ e, smGet false t.coh.unclean e = if e = d.val then true else smGet false s.coh.unclean e)
        ∧ t = { s with rf := t.rf, coh := { s.coh with unclean := t.coh.unclean } })
    ∧ (bitAt s.brd.clockLost d.val = false → dcDisabling s d = true → Answers (.dcDisableDone d) s fun t =>
      ∃ u, u = (waysOf s d.val).foldl (fun s e => releaseWay s d e) s ∧ flagR t (Reg.dcStatus d) 0 = false ∧ t = { u with rf := t.rf })
    ∧ (dcEnabled s d = false → Answers (.dcEnable d) s fun t =>
      flagR t (Reg.dcCtrl d) 0 = true ∧ (smGet false s.coh.unclean d.val = true → flagR t (Reg.dcStatus d) 2 = true)
        ∧ (smGet false s.coh.unclean d.val = false → t.err = s.err) ∧ t = { s with rf := t.rf, err := t.err })
    ∧ (dcEnabled s d = false → dcDisabling s d = false → Answers (.dcInval d) s fun t =>
      flagR t (Reg.dcStatus d) 1 = true ∧ (∀ e, smGet 0 t.coh.invalEnd e = if e = d.val then cycleNow s + 8192 else smGet 0 s.coh.invalEnd e)
        ∧ t = { s with rf := t.rf, coh := { s.coh with invalEnd := t.coh.invalEnd } })
    ∧ (dcEnabled s d = true ∨ dcDisabling s d = true → exec (.dcInval d) s = .next (raise s (Reg.dcStatus d) 4))
    ∧ (bitAt s.brd.clockLost d.val = false → flagR s (Reg.dcStatus d) 1 = true → Answers (.dcInvalDone d) s fun t =>
      ∃ u, u = (waysOf s d.val).foldl (dropWay d) (advanceCycle s (smGet 0 s.coh.invalEnd d.val))
        ∧ flagR t (Reg.dcStatus d) 1 = false ∧ smGet false t.coh.unclean d.val = false
        ∧ t = { u with rf := t.rf, coh := { u.coh with unclean := t.coh.unclean, invalEnd := t.coh.invalEnd } })
    ∧ (∀ (die : Fin 6) (v : W64) (i : Instr) (keep : Bool), i = .qcmdDiscard die v ∧ keep = false ∨ i = .qcmdRetire die v ∧ keep = true →
      (∀ key line, qcmdTarget s die.val v = some (key, line) → Answers i s fun t =>
        (∀ k, smGet {} t.coh.ways k = if k = key then { retired := keep } else smGet {} s.coh.ways k)
          ∧ (∀ e ∈ t.coh.qslots, e ∈ s.coh.qslots ∧ ¬ (e.1 / 16 = 16 * die.val + cacheSlice die.val line ∧ bits e.2 63 6 = line ∧ bits e.2 5 2 = key % 16))
          ∧ (∀ a < 128, ∀ l, getCopy t a l = if die.val < 4 ∧ a = 80 + die.val ∧ l = line then {} else getCopy s a l)
          ∧ t = { s with coh := { s.coh with ways := t.coh.ways, qslots := t.coh.qslots, dir := t.coh.dir, copies := t.coh.copies } })
      ∧ (qcmdTarget s die.val v = none → ∃ r b, (die.val < 4 → r = Reg.dcStatus (Fin.ofNat 4 die.val) ∧ b = 4) ∧ (die.val = 4 → r = Reg.lpdStatus 0 ∧ b = 0) ∧ (die.val = 5 → r = Reg.lpdStatus 1 ∧ b = 0)
          ∧ exec i s = .next (raise s r b)))

/-! ### Translation caches, the tier map and moves -/

/-- XLT_INVAL with a legal SCOPE, from a hart with none pending, removes what it covers from the translation caches of every C-die that Seam reaches, of the others once their links are up, and waits for the C-dies (R18, R283); otherwise it is refused (R282, R283, R285). A C-die acknowledges in order of arrival, once the writes through the removed entries have drained; the fourth acknowledgement ends it (R283, R285). One still pending after a stitch boundary is OVERDUE, with a record of the dies that are missing (R286). A write of a tier-map entry sets its RW fields: a valid one only for a backing that is free and online; clearing VALID recalls the slab, and takes effect once no access to it is left; one that breaks R289 is refused (R289, R290). -/
def Obligations.TranslationControl : Prop :=
  (∀ (s : State) (h : Hart) (v : W64) (p : XltPend), running s = true → p = ⟨bits v 1 0, bits v 7 4, bits v 51 8 * 256, [], s.xlt.era + 1, 0, false, s.now, []⟩ →
    (bits v 1 0 ≠ 3 → getPend s h.val = none → Answers (.xltInval h v) s fun t =>
      (∃ q, getPend t h.val = some q ∧ q = { p with reached := q.reached } ∧ (∀ d : CDie, d.val ∈ q.reached.map (·.1) ↔ diesJoined s [4, d.val] = true)) ∧ (∀ j, j ≠ h.val → getPend t j = getPend s j)
        ∧ (∀ d : CDie, ∀ c, c / 16 = d.val → ∀ g, (∃ l, (c, l) ∈ t.cl.xlt ∧ g ∈ l) ↔ ∃ l, (c, l) ∈ s.cl.xlt ∧ g ∈ l ∧ (diesJoined s [4, d.val] = true → pendCovers p g.table g.index = false))
        ∧ (∀ d : CDie, ∀ g, (∃ l, (d.val, l) ∈ t.cl.dieXlt ∧ g ∈ l) ↔ ∃ l, (d.val, l) ∈ s.cl.dieXlt ∧ g ∈ l ∧ (diesJoined s [4, d.val] = true → pendCovers p g.table g.index = false))
        ∧ t = { s with cl := { s.cl with xlt := t.cl.xlt, dieXlt := t.cl.dieXlt }, xlt := { s.xlt with era := t.xlt.era, pend := t.xlt.pend } })
    ∧ (bits v 1 0 = 3 ∨ getPend s h.val ≠ none → exec (.xltInval h v) s = .next (raise s (Reg.xltStatus h.val) 1)))
  ∧ (∀ (s : State) (d : CDie) (h : Hart) (p : XltPend) (l : List CDie) (u : State), running s = true → u = xltReach s h.val d → getPend u h.val = some p → xltDrained u d p = true → xltFirst u d p = true →
    diesJoined u [4, d.val] = true → d ∉ p.acked → l = p.acked ++ [d] → Answers (.xltAck d h) s fun t =>
      (∀ j, getPend t j = if j = h.val then (if l.length < 4 then some { p with acked := l } else none) else getPend u j) ∧ t = { u with xlt := { u.xlt with pend := t.xlt.pend } })
  ∧ (∀ (s : State) (h : Hart) (p : XltPend), running s = true → getPend s h.val = some p → p.overdue = false → p.boundaries ≠ 0 → Answers (.xltOverdue h) s fun t =>
      (∀ j, getPend t j = if j = h.val then some { p with overdue := true } else getPend s j) ∧ flagR t (Reg.xltStatus h.val) 2 = true
        ∧ t = { s with rf := t.rf, err := t.err, xlt := { s.xlt with pend := t.xlt.pend } })
  ∧ (∀ (s : State) (k : Fin 16384) (v e new : W64) (u : State), running s = true → u = recallSlab (drainSlab s k.val) k.val → e = mapEntry s k.val → new = withDeep ((e &&& ~~~mapRw) ||| (v &&& mapRw)) →
    (bitAt e 0 = false → bitAt v 0 = true → slabFree s k.val (bits v 31 8) = true → bits v 3 3 = 0 → bits v 63 56 = 0 → Answers (.tltMapWrite k v) s fun t =>
      (∀ j, mapEntry t j = if j = k.val then new else mapEntry s j) ∧ t = { s with xlt := { s.xlt with map := t.xlt.map } })
    ∧ (bitAt e 0 = true → bitAt v 0 = true → bits v 31 8 = bits e 31 8 → exec (.tltMapWrite k v) s = .next (setMap s k.val new))
    ∧ (bitAt e 0 = true → bitAt v 0 = false → bits v 31 8 = bits e 31 8 → bitAt e 1 = false →
      (slabDone u k.val = true → diesJoined u (List.range 6) = true → exec (.tltMapWrite k v) s = .next (setMap u k.val new))
      ∧ (slabDone u k.val = false ∨ diesJoined u (List.range 6) = false → exec (.tltMapWrite k v) s = .next u))
    ∧ (bitAt e 0 = true → bitAt e 1 = false → slabDone u k.val = true → diesJoined u (List.range 6) = true → exec (.tltMapInvalidate k) s
        = .next (setMap u k.val (withDeep ((e &&& ~~~mapRw) ||| (e &&& ~~~(1 : W64) &&& mapRw)))))
    ∧ (bitAt e 0 = false ∧ bitAt v 0 = true ∧ (slabFree s k.val (bits v 31 8) = false ∨ bits v 3 3 ≠ 0 ∨ bits v 63 56 ≠ 0) ∨ bitAt e 0 = true ∧ bits v 31 8 ≠ bits e 31 8
        ∨ bitAt e 0 = true ∧ bitAt v 0 = false ∧ bitAt e 1 = true → exec (.tltMapWrite k v) s = .next (raise s Reg.tltStatus 8)))

/-- TLT_MOVE queues a move of a valid slab to a free destination, or is refused (R292). MARK begins the next queued move: the entry is marked with its destination; six acknowledgements begin COPY (R293). A tile is copied when all its lines can be read; an unreadable line or an offline destination abandons the move (R293, R296). After 4,096 tiles the slab is recalled and paused; DONE makes the destination the backing in every replica, and goes on to WIPE where asked; WIPE writes zeros to the old backing and ends the move (R293, R294). A pause over a boundary is OVERDUE, with a record (R294). A move that ends without switching clears the mark, leaves the destination undefined and places a record (R296). -/
def Obligations.SlabMoves : Prop :=
  (∀ (s : State) (v e : W64), running s = true → e = mapEntry s (bits v 13 0) → bitAt e 0 = true → (∀ r, s.xlt.run = some r → r.req.slab ≠ bits v 13 0) →
    (∀ m ∈ s.xlt.moves, m.slab ≠ bits v 13 0) → slabFree s (bits v 13 0) (bits v 39 16) = true → bits v 39 16 ≠ bits e 31 8 → s.xlt.moves.length < 64 →
    exec (.tltMove v) s = .next { s with xlt := { s.xlt with moves := s.xlt.moves ++ [⟨bits v 13 0, bits v 39 16, bitAt v 40⟩] } })
  ∧ (∀ (s : State) (v : W64), running s = true → bitAt (mapEntry s (bits v 13 0)) 0 = false ∨ slabFree s (bits v 13 0) (bits v 39 16) = false ∨ 64 ≤ s.xlt.moves.length →
    exec (.tltMove v) s = .next (raise s Reg.tltStatus 8))
  ∧ (∀ (s : State) (m : MoveReq) (l : List MoveReq) (e : W64), running s = true → s.xlt.run = none → flagR s Reg.tltCtrl 0 = true → s.err.phase = 0 → s.xlt.moves = m :: l →
    e = mapEntry s m.slab → bitAt e 0 = true → Answers .moveMark s fun t =>
      (∀ j, mapEntry t j = if j = m.slab then setBits (setBit e 1 true) 55 32 m.dest else mapEntry s j) ∧ t.xlt.run = some ⟨m, .mark, [], 0, bits e 31 8, 0, false, false, false, 0⟩
        ∧ t.xlt.moves = l ∧ t = { s with xlt := { s.xlt with map := t.xlt.map, run := t.xlt.run, moves := t.xlt.moves } })
  ∧ (∀ (s : State) (r : MoveRun), running s = true → s.xlt.run = some r →
    (∀ die : Fin 6, r.phase = .mark → diesJoined s [4, die.val] = true → die.val ∉ r.acks →
      exec (.moveMarkAck die) s = .next (setRun s (some { r with acks := r.acks ++ [die.val], phase := if r.acks.length < 5 then .mark else .copy })))
    ∧ (r.phase = .copy → r.tile < 4096 → r.badWrite = false → destUp s r = true → slabJoined s r.req.dest = true → tilthServed s = true →
      ∀ u x, copyLines 1024 s ((poolBase + r.req.slab * 2 ^ 28) / 64 + 1024 * r.tile) (r.req.dest * 2 ^ 28 + 65536 * r.tile) = (u, x) →
        (x = some 0 → exec .moveCopyTile s = .next { u with xlt := { u.xlt with run := u.xlt.run.map fun r => { r with tile := r.tile + 1 } } })
        ∧ (∀ cause, x = some (cause + 1) → exec .moveCopyTile s = .next (abandonMove u (cause + 1)))
        ∧ (x = none → exec .moveCopyTile s = .next u))
    ∧ (r.phase = .copy → r.tile < 4096 → r.badWrite = false → destUp s r = false → exec .moveCopyTile s = .next (abandonMove s 4))
    ∧ (r.phase = .copy → r.tile < 4096 → r.badWrite = true → exec .moveCopyTile s = .next (abandonMove s 2))
    ∧ (r.phase = .copy → 4096 ≤ r.tile → diesJoined s (List.range 6) = true → tilthServed s = true →
      (r.badWrite = true → exec .moveSwitch s = .next (abandonMove s 2))
      ∧ (r.badWrite = false → destUp s r = false → exec .moveSwitch s = .next (abandonMove s 4))
      ∧ (∀ u, r.badWrite = false → destUp s r = true → u = recallSlab (drainSlab s r.req.slab) r.req.slab →
        ((∃ l ∈ slabLines u r.req.slab, quarAgents u l ≠ []) → exec .moveSwitch s = .next (abandonMove u 1))
        ∧ (∀ q, (∀ l ∈ slabLines u r.req.slab, quarAgents u l = []) → u.xlt.run = some q → q.badWrite = false → slabDone u r.req.slab = true →
          exec .moveSwitch s = .next (setRun u (some { q with phase := .switch, boundaries := 0, pausedAt := u.now })))))
    ∧ (r.phase = .switch → diesJoined s (List.range 6) = true → destUp s r = true → Answers .moveDone s fun t =>
      (∀ j, mapEntry t j = if j = r.req.slab then withDeep (setBits (setBits (setBit (mapEntry s r.req.slab) 1 false) 31 8 r.req.dest) 55 32 0) else mapEntry s j)
        ∧ t.xlt.run = (if r.req.wipe then some { r with phase := .wipe, recalled := true } else none) ∧ t.xlt.completed = s.xlt.completed + 1
        ∧ t = { s with xlt := { s.xlt with map := t.xlt.map, run := t.xlt.run, completed := t.xlt.completed } })
    ∧ (r.phase = .switch → r.overdue = false → r.boundaries ≠ 0 → Answers .moveSwitchOverdue s fun t =>
      t.xlt.run = some { r with overdue := true } ∧ flagR t Reg.tltStatus 10 = true ∧ t = { s with rf := t.rf, err := t.err, xlt := { s.xlt with run := t.xlt.run } })
    ∧ (r.phase = .wipe → slabJoined s r.source = true → ∃ u, u = zeroRange 4194304 s (r.source * 2 ^ 28) ∧ exec .moveWipeSource s = .next (setRun u none))
    ∧ (∀ cause : Byte, r.phase ≠ .wipe → 1 ≤ cause.toNat → cause.toNat ≤ 4 → Answers (.moveAbandon cause) s fun t =>
      (∀ j, mapEntry t j = if j = r.req.slab then setBits (setBit (mapEntry s r.req.slab) 1 false) 55 32 0 else mapEntry s j) ∧ t.xlt.run = none
        ∧ t.xlt.abandoned = s.xlt.abandoned + 1 ∧ t.xlt.undef = ⟨r.req.dest, s.draws, []⟩ :: s.xlt.undef ∧ flagR t Reg.tltStatus 9 = true
        ∧ t = { s with rf := t.rf, err := t.err, draws := s.draws + 1, xlt := { s.xlt with map := t.xlt.map, run := none, abandoned := t.xlt.abandoned, undef := t.xlt.undef } }))

/-! ### Coherence -/

/-- A request may go to the home of its line: the agent has no write-back and no request of the line on its way and a free tag, the line has backing, and neither Seam nor a switch-over holds it (R18, R243, R294, R304, R310, R322). -/
def AskOk (s : State) (a : Agent) (line : LineAddr) : Prop :=
  running s = true ∧ noBuf s a.val line.toNat = true ∧ ask.askAgent s line.toNat a.val = false ∧ outstanding s a.val < agentTags a.val
    ∧ lineOk s line.toNat = true ∧ joined s line.toNat a.val = true ∧ (a.val ≠ 85 → paused s (64 * line.toNat) = false)

/-- From s to t a message went out on Orfin, or joined those that wait for a credit of their class (R345). -/
def OrfSent (s t : State) (m : OrfMsg) : Prop :=
  if orfMay s m then t.orf.out = s.orf.out ++ [m] ∧ t.orf.wait = s.orf.wait else t.orf.out = s.orf.out ∧ t.orf.wait = s.orf.wait ++ [m]

/-- A caching request of an agent of the coherent set, and a Peek, PutLine, PutBytes or aligned HomeAtomic of any agent but the proxy, reaches the home of its line, where it begins or waits (R304, R311 to R314); one for a line without backing is an address error of its agent (R243). A holder's eviction of the right kind gives up its copy, and EvictAck frees the buffer (R309, R310). The proxy's requests, notices and answers concern companion lines alone (R315, R345). A recall of a directory set takes an agent's lines of it; the last answer rebuilds the set (R307). -/
def Obligations.CoherenceRequests : Prop :=
  (∀ (s : State) (a : Agent) (line : LineAddr), AskOk s a line →
    (a.val < 84 → exec (.fetchS a line) s = .next (submit s line.toNat { ask := .fetchS, agent := a })
      ∧ exec (.fetchX a line) s = .next (submit s line.toNat { ask := .fetchX, agent := a })
      ∧ exec (.claim a line) s = .next (submit s line.toNat { ask := .claim, agent := a })
      ∧ exec (.claimZero a line) s = .next (submit s line.toNat { ask := .claimZero, agent := a }))
    ∧ (a.val ≠ 84 → exec (.peek a line) s = .next (submit s line.toNat { ask := .peek, agent := a, cls := if a.val = 85 ∨ a.val = 87 then .p2 else .p1 })
      ∧ (∀ data, exec (.putLine a line data) s = .next (submit s line.toNat { ask := .putLine, agent := a, data := data }))
      ∧ (∀ data mask, exec (.putBytes a line data mask) s = .next (submit s line.toNat { ask := .putBytes, agent := a, data := data, mask := mask }))
      ∧ (∀ offset op wide operand compare, offset.val % (if wide then 8 else 4) = 0 → exec (.homeAtomic a line offset op wide operand compare) s
          = .next (submit s line.toNat { ask := .homeAtomic, agent := a, op := op, offset := offset.val, wide := wide, operand := operand, compare := compare }))))
  ∧ (∀ (s : State) (a : Agent) (line : LineAddr), running s = true → a.val < 84 → noBuf s a.val line.toNat = true → ask.askAgent s line.toNat a.val = false →
    outstanding s a.val < agentTags a.val → lineOk s line.toNat = false → Answers (.fetchS a line) s fun t =>
      (∀ h, (smGet {} t.harts h).accessFault = (decide (h = a.val ∧ a.val < 80) || (smGet {} s.harts h).accessFault)) ∧ t = { s with rf := t.rf, err := t.err, harts := t.harts })
  ∧ (∀ (s u : State) (a : Agent) (line : LineAddr) (c : Copy) (i : Instr) (ok : Bool), running s = true → a.val < 84 → joined s line.toNat a.val = true → (80 ≤ a.val → isQuar s (a.val - 80) line.toNat = false) →
    checkCopy s a.val line.toNat = (u, ok) → c = getCopy s a.val line.toNat → noBuf s a.val line.toNat = true → (i = .evictDirty a line ∧ (c.st = .m ∨ c.st = .o) ∨ i = .evictClean a line ∧ (c.st = .e ∨ c.st = .f ∨ c.st = .s)) →
    exec i s = .next (if ok then catchUp (evictCopy u a.val line.toNat) line.toNat else u))
  ∧ (∀ (s u : State) (a : Agent) (line : LineAddr) (b : EvictBuf), running s = true → a.val ≠ 84 → joined s line.toNat a.val = true → u = goOn s line.toNat → getBuf u a.val line.toNat = some b → b.taken = true →
    Answers (.evictAck a line) s fun t => (∀ l, ∀ d < 128, getBuf t d l = if d = a.val ∧ l = line.toNat then none else getBuf u d l) ∧ t = { u with coh := { u.coh with evicts := t.coh.evicts } })
  ∧ (∀ (s : State) (a : Agent) (line : LineAddr), running s = true → a.val = 84 → orfinUp s = true → smGet none s.orf.proxyAsk line.toNat = none → proxyBuf s line.toNat = none →
    ((getProxy s line.toNat).st = .i → Answers (.fetchS a line) s fun t =>
      (∀ l, smGet none t.orf.proxyAsk l = if l = line.toNat then some .fetchS else smGet none s.orf.proxyAsk l) ∧ OrfSent s t (.ask .fetchS (64 * line.toNat)) ∧ t = { s with orf := t.orf, fab := { s.fab with links := t.fab.links, wire := t.fab.wire } })
    ∧ ((getProxy s line.toNat).st ≠ .m → Answers (.fetchX a line) s fun t =>
      (∀ l, smGet none t.orf.proxyAsk l = if l = line.toNat then some .fetchX else smGet none s.orf.proxyAsk l) ∧ OrfSent s t (.ask .fetchX (64 * line.toNat)) ∧ t = { s with orf := t.orf, fab := { s.fab with links := t.fab.links, wire := t.fab.wire } })
    ∧ (∀ c : Copy, c = getProxy s line.toNat → c.st ≠ .i → Answers (if c.st = .m ∨ c.st = .o then .evictDirty a line else .evictClean a line) s fun t =>
      (∀ l, getProxy t l = if l = line.toNat then {} else getProxy s l) ∧ proxyBuf t line.toNat = some { dirty := decide (c.st = .m ∨ c.st = .o), data := c.data, superseded := false, taken := false }
        ∧ OrfSent s t (.evict (decide (c.st = .m ∨ c.st = .o)) (64 * line.toNat) c.data) ∧ t = { s with orf := t.orf, fab := { s.fab with links := t.fab.links, wire := t.fab.wire } }))
  ∧ (∀ (s : State) (a : Agent) (die : Fin 6) (slice : Fin 16) (set : Fin 16384) (left : List Nat), running s = true → diesJoined s [agentDie a.val, die.val] = true →
    left = smGet [] s.coh.dirErr (dirSetKey die.val slice.val set.val) → a.val ∈ left →
    ∃ u v l, u = (linesInSet s a.val (dirSetKey die.val slice.val set.val)).foldl (fun s l => recallOne s a.val l) s ∧ l = (smGet [] u.coh.dirErr (dirSetKey die.val slice.val set.val)).erase a.val
      ∧ (∀ k, smGet [] v.coh.dirErr k = if k = dirSetKey die.val slice.val set.val then l else smGet [] u.coh.dirErr k) ∧ v = { u with coh := { u.coh with dirErr := v.coh.dirErr } }
      ∧ exec (.setRecall a die slice set) s = .next (if l = [] then rebuildSet v (dirSetKey die.val slice.val set.val) else v))

/-- The command of a probe. -/
def probeCmd (a : Agent) (line : LineAddr) : Probe → Instr
  | .share => .probeShare a line
  | .take => .probeTake a line
  | .kill => .probeKill a line
  | .peek => .probePeek a line
  | .recall => .probeRecall a line

/-- A probe is answered at once, from the copy by Table 11-5: the holder's state and what it supplies follow from its state; a ProbeTake of a copy in M whose write is pending is held for at most HOLD_MAX cycles, and an expired hold answers and asks again (R311, R316 to R318). The home takes an answer and goes on (R316); Done ends a Claim or ClaimZero with the line in M, zeroed for the latter (R304, R311); LineData gives the requester its copy in the state granted, and its DoneAck ends the transaction (R304, R311); Fail stops the requester (R259, R319). A probe, data or Fail for the proxy concerns companion lines alone (R315). -/
def Obligations.CoherenceAnswers : Prop :=
  (∀ (s v : State) (a : Agent) (line : LineAddr) (p : Probe) (q : ProbeOut) (x : Txn), running s = true → a.val ≠ 84 → joined s line.toNat a.val = true → v = goOn s line.toNat → (getHome v line.toNat).txn = some x →
    probeTo v line.toNat a.val p = some q → (∀ m ∈ v.coh.dones, ¬ (m.line = line.toNat ∧ m.agent = a.val)) →
    (mustHold v line.toNat a.val p = false → ∀ u k d, answerProbe v a.val line.toNat p = (u, k, d) → exec (probeCmd a line p) s
        = .next (setTxn u line.toNat (some { x with probes := x.probes.filter fun q => decide (q.agent ≠ a.val), acks := x.acks ++ [k], line := if d.isSome then d else x.line
                                                    lineDie := if d.isSome then agentDie a.val else x.lineDie, granted := if d.isSome then d.map (·.1) else x.granted })))
    ∧ (mustHold v line.toNat a.val p = false → a.val < 80 → (getCopy v a.val line.toNat).st ≠ .i → p ≠ .recall → Answers (probeCmd a line p) s fun t =>
      (getCopy t a.val line.toNat).st = (probeOutcome (getCopy v a.val line.toNat).st p).1
        ∧ (∃ y, (getHome t line.toNat).txn = some y ∧ y.acks = x.acks ++ [{ agent := a.val, final := (probeOutcome (getCopy v a.val line.toNat).st p).1 }]
          ∧ y.line = if (probeOutcome (getCopy v a.val line.toNat).st p).2.2 then some ((probeOutcome (getCopy v a.val line.toNat).st p).2.1, (getCopy v a.val line.toNat).data) else x.line)
        ∧ t = { v with coh := { v.coh with copies := t.coh.copies, home := t.coh.home }, harts := t.harts })
    ∧ (mustHold v line.toNat a.val p = true → q.heldTo = none → holdMax v a.val ≠ 0 →
      exec (probeCmd a line p) s = .next (holdProbe v line.toNat a.val (v.now + agentCycles v a.val (holdMax v a.val))))
    ∧ (∀ n, p = .take → q.heldTo = some n → mustHold v line.toNat a.val .take = true →
      exec (.snoopHoldExpire a line) s = .next (releaseHold (advanceTo v n) line.toNat a.val .take)))
  ∧ (∀ (s v : State) (a : Agent) (line : LineAddr) (x : Txn), running s = true → a.val ≠ 84 → joined s line.toNat a.val = true → v = goOn s line.toNat → (getHome v line.toNat).txn = some x →
    (∀ k, x.acks.find? (fun k => decide (k.agent = a.val)) = some k → exec (.probeAck a line) s = .next (goOn (settleAck (setTxn v line.toNat (some { x with
      acks := x.acks.filter fun q => decide (q.agent ≠ a.val), refused := x.refused || (k.quar && x.recallFor.isNone) })) line.toNat k) line.toNat))
    ∧ (x.req.agent = a → x.recallFor = none →
      (x.confirm = true → x.probes = [] → x.acks = [] → exec (.doneAck a line) s = .next (goOn (if x.req.ask.caches then
        dirRelease (match x.granted with | some .i => setTxn v line.toNat none | none => setTxn v line.toNat none | some g => dirGrant (setTxn v line.toNat none) line.toNat a.val g) line.toNat
        else setTxn v line.toNat none) line.toNat))
      ∧ (∀ g d, a.val < 80 → (hartLines v a.val).length < 32768 → x.line = some (g, d) → g ≠ .i → routeUp v x.lineDie (agentDie a.val) = true → x.probes = [] → x.refused = false → x.fail = none → (∀ k ∈ x.acks, k.quar = false) →
        Answers (.lineData a line) s fun t =>
          (∀ b < 128, ∀ l, getCopy t b l = if b = a.val ∧ l = line.toNat then { st := g, data := d, errs := 0, written := decide (g ≠ .m) } else getCopy v b l)
            ∧ (∀ l, getHome t l = if l = line.toNat then { getHome v line.toNat with txn := some { x with line := none, confirm := true } } else getHome v l)
            ∧ t = { v with coh := { v.coh with copies := t.coh.copies, home := t.coh.home } })
      ∧ (∀ b, x.fail = some b → ∃ u, u = agentFault v a.val b ∧ exec (.fail a line) s
          = .next (goOn (if x.req.ask.caches then dirRelease (setTxn u line.toNat none) line.toNat else setTxn u line.toNat none) line.toNat))))
  ∧ (∀ (s v : State) (a : Agent) (line : LineAddr) (m : DoneMsg), running s = true → a.val ≠ 84 → joined s line.toNat a.val = true → v = goOn s line.toNat →
    v.coh.dones.find? (fun m => decide (m.line = line.toNat ∧ m.agent = a.val)) = some m → m.ask = .claim ∧ (getCopy v a.val line.toNat).st ≠ .i ∨ m.ask = .claimZero ∧ a.val < 80 ∧ (hartLines v a.val).length < 32768 → Answers (.done a line) s fun t =>
      (∀ b < 128, ∀ l, getCopy t b l = if b = a.val ∧ l = line.toNat then
          (if m.ask = .claim then { getCopy v a.val line.toNat with st := .m, written := false } else { st := .m, data := 0, errs := 0, written := true }) else getCopy v b l)
        ∧ t.coh.dones = v.coh.dones.erase m ∧ t = { v with coh := { v.coh with copies := t.coh.copies, dones := t.coh.dones } })
  ∧ (∀ (s v : State) (a : Agent) (line : LineAddr) (m : DoneMsg), running s = true → a.val ≠ 84 → joined s line.toNat a.val = true → v = goOn s line.toNat →
    v.coh.dones.find? (fun m => decide (m.line = line.toNat ∧ m.agent = a.val)) = some m → m.ask = .claim → (getCopy v a.val line.toNat).st = .i → exec (.done a line) s
      = .next (arriveLast (dirDrop { v with coh := { v.coh with dones := v.coh.dones.erase m } } line.toNat a.val) line.toNat { ask := .fetchX, agent := a }))
  ∧ (∀ (s : State) (a : Agent) (line : LineAddr) (p : Probe), running s = true → a.val = 84 → orfinUp s = true →
      exec (probeCmd a line p) s = .next (proxyProbe (heard s 23) line.toNat p) ∧ exec (.lineData a line) s = .next (proxyLine (heard s 23) line.toNat)
        ∧ exec (.fail a line) s = .next (proxyFail (heard s 23) line.toNat) ∧ exec (.done a line) s = .next (heard s 23))

/-! ### The companion's link: rings, descriptors and bulk order -/

/-- Setting ENABLE of a ring that is off, idle and aligned takes the set-up and makes the ring new; clearing ENABLE alone keeps it; anything else of an enabled ring is refused (R350, R351). A well-formed doorbell of an enabled ring announces descriptors up to SIZE ahead, and reports completions consumed; more than SIZE ahead stops the ring with cause 1, and a malformed one or one of a ring that is off is refused (R353, R354). A read of BULK_SYNC waits for a BulkFlush that is sent behind every BulkWrite (R366); its answer makes what was sent before it visible, frees the ordered completions that waited and answers the reads (R365, R366). -/
def Obligations.RingsAndDoorbells : Prop :=
  (∀ (s : State) (r : RingId) (v w : W64) (g : Ring), running s = true → g = getRing s r.val → w = v &&& 0x0000FFFFFFFF007F →
    (ringOn s r.val = false → bitAt w 0 = true → ringActive g = false → bits w 5 1 ≤ 16 → fieldR s (Reg.orfSqBase r.val) 11 0 = 0 → fieldR s (Reg.orfCqBase r.val) 11 0 = 0 →
      Answers (.orfRingCfgWrite r v) s fun t => (∀ q, getRing t q = if q = r.val then {} else getRing s q) ∧ getR t (Reg.orfRingCfg r.val) = w
        ∧ t = { s with rf := t.rf, orf := { s.orf with rings := t.orf.rings } })
    ∧ (ringOn s r.val = false → bitAt w 0 = false → bits w 5 1 ≤ 16 → exec (.orfRingCfgWrite r v) s = .next (setR s (Reg.orfRingCfg r.val) w))
    ∧ (ringOn s r.val = true → v = getR s (Reg.orfRingCfg r.val) &&& ~~~(1#64) → Answers (.orfRingCfgWrite r v) s fun t =>
      (∀ q, getRing t q = if q = r.val then { g with clearedAt := some s.now } else getRing s q) ∧ getR t (Reg.orfRingCfg r.val) = w
        ∧ t = { s with rf := t.rf, orf := { s.orf with rings := t.orf.rings } })
    ∧ (ringOn s r.val = true ∧ v ≠ getR s (Reg.orfRingCfg r.val) &&& ~~~(1#64) ∨ ringOn s r.val = false ∧ bitAt w 0 = true ∧ (ringActive g = true ∨ 16 < bits w 5 1 ∨ fieldR s (Reg.orfSqBase r.val) 11 0 ≠ 0
        ∨ fieldR s (Reg.orfCqBase r.val) 11 0 ≠ 0) → exec (.orfRingCfgWrite r v) s = .next (orfFlag s 5 r.val))
    ∧ (∀ new, ringOn s r.val = true → bits v 31 25 = 0 → bits v 63 57 = 0 → bitAt v 24 = true → bits v 23 16 ≠ 0 → bitAt v 56 = false → new = ringAhead (ringSize s r.val) (bits v 23 16) (bits v 15 0) g.consumed →
      (new ≤ ringSize s r.val → exec (.doorbellWrite r v) s = .next (setRing (setRing s r.val { g with held := v }) r.val { g with held := v, announced := g.consumed + new, ahead := false }))
      ∧ (ringSize s r.val < new → exec (.doorbellWrite r v) s = .next (ringStop (setRing s r.val { g with held := v }) r.val 1)))
    ∧ (∀ took, ringOn s r.val = true → bits v 31 25 = 0 → bits v 63 57 = 0 → bitAt v 24 = false → bitAt v 56 = true → bits v 55 48 ≠ 0 →
      cqConsumed (ringSize s r.val) (bits v 55 48) (bits v 47 32) g.written = some took → Answers (.doorbellWrite r v) s fun t =>
        (∀ q, getRing t q = if q = r.val then { g with held := v, taken := max g.taken took } else getRing s q) ∧ t = { s with orf := { s.orf with rings := t.orf.rings } })
    ∧ (bits v 31 25 ≠ 0 ∨ bits v 63 57 ≠ 0 ∨ bitAt v 24 = true ∧ bits v 23 16 = 0 ∨ bitAt v 56 = true ∧ bits v 55 48 = 0 → exec (.doorbellWrite r v) s = .next (orfFlag s 2 r.val)))
  ∧ (∀ (s : State), running s = true → Answers .bulkSyncRead s fun t =>
      (∀ n, s.orf.flushSent = some n → t.orf.syncWaits = s.orf.syncWaits ++ [⟨none, none, false⟩] ∧ t.orf.flushSent = some n)
        ∧ (s.orf.flushSent = none → t.orf.flushSent = some s.orf.bulkSent ∧ (t.orf.out = s.orf.out ++ [.bulkFlush] ∨ t.orf.out = s.orf.out ∧ t.orf.wait = s.orf.wait ++ [.bulkFlush]) ∧ ∀ w ∈ t.orf.syncWaits, w.asked = true)
        ∧ t = { s with orf := t.orf, fab := { s.fab with links := t.fab.links, wire := t.fab.wire } })
  ∧ (∀ (s : State) (m : OrfMsg), OrfSent s (orfSend s m) m ∧ ∃ o w b ls wi, orfSend s m = { s with orf := { s.orf with out := o, wait := w, bulkSeqs := b }, fab := { s.fab with links := ls, wire := wi } })
  ∧ (∀ (s u : State) (n : Nat), running s = true → orfinUp s = true → s.orf.flushSent = some n →
    u = { heard s 23 with orf := { s.orf with flushSent := none, bulkVisible := n, rings := s.orf.rings.map fun r : Nat × Ring =>
      (r.1, { r.2 with fetched := r.2.fetched.map fun d : Desc => if d.asked then { d with flushed := true } else d }) } } →
    exec .bulkFlushResp s = .next (sendFlush ((s.orf.syncWaits.filter (·.asked)).foldl (syncAnswer (bulkSyncValue u)) { u with orf := { u.orf with syncWaits := s.orf.syncWaits.filter fun w => !w.asked } })))

/-- The state once a ring engine's read of a line of the companion's memory is answered: the Peek and its DoneAck have been sent (R311, R345). -/
def peeked (s : State) (a : Nat) : State := orfSend (orfSend s (.ask .peek (a / 64 * 64))) (.doneAck (a / 64 * 64))

/-- A ring engine that may fetch reads the next descriptor's slot through the proxy; one with the lap stamp expected and fit to execute is fetched, another is stale and read again; a read that fails stops the ring (R349, R355 to R357). NOP completes at once (R358). A LAUNCH whose job is the ring's and whose partition and engine accept it joins its home engine's queue; its job, partition or placement may refuse it with STATUS 3 or 2 (R227, R229, R359). A copy inside its window that no line fails completes with STATUS 0, outside it with 4, and a failed line ends it with 7 and a record (R361, R362). The completion writer writes the oldest completion that is due into its slot, with Notify where asked (R352, R363, R365). -/
def Obligations.DescriptorsRun : Prop :=
  (∀ (s : State) (r : RingId) (d : BitVec 512) (g : Ring) (a : Nat), running s = true → g = getRing s r.val → mayFetch s r.val = true → orfinUp s = true → a = sqSlot s r.val g.consumed →
    (getProxy s (a / 64)).st = .i → proxyBuf s (a / 64) = none →
    (g.staleAt = none → dsStamp d = lapStamp (ringSize s r.val) g.consumed → (dsType d = 1 → flagR s Reg.teCtrl 0 = true) → dsBad d = false → Answers (.descriptorFetch r (some d)) s fun t =>
      (∀ q, getRing t q = if q = r.val then { g with consumed := g.consumed + 1, rereads := 0, atHead := false, fetched := g.fetched ++ [{ index := g.consumed, raw := d }] } else getRing s q)
        ∧ t = { peeked s a with orf := { (peeked s a).orf with rings := t.orf.rings }, err := { s.err with progress := t.err.progress } })
    ∧ (g.staleAt = none → dsStamp d ≠ lapStamp (ringSize s r.val) g.consumed → Answers (.descriptorFetch r (some d)) s fun t =>
      (∀ q, getRing t q = if q = r.val then { g with staleAt := some s.now, rereads := 0 } else getRing s q) ∧ t = { peeked s a with orf := { (peeked s a).orf with rings := t.orf.rings } })
    ∧ (∀ n u, g.staleAt = some n → u = peeked (advanceTo s (n + nsT (500 * (g.rereads + 1)))) a → dsStamp d ≠ lapStamp (ringSize s r.val) g.consumed → g.rereads < 3 → Answers (.descriptorReread r (some d)) s fun t =>
      (∀ q, getRing t q = if q = r.val then { g with rereads := g.rereads + 1 } else getRing s q) ∧ n + nsT (500 * (g.rereads + 1)) ≤ t.now
        ∧ t = { u with orf := { u.orf with rings := t.orf.rings } })
    ∧ (∀ n u, g.staleAt = some n → u = peeked (advanceTo s (n + nsT (500 * (g.rereads + 1)))) a → dsStamp d = lapStamp (ringSize s r.val) g.consumed → dsType d ≠ 1 → dsBad d = false → Answers (.descriptorReread r (some d)) s fun t =>
      (∀ q, getRing t q = if q = r.val then { g with consumed := g.consumed + 1, staleAt := none, rereads := 0, atHead := false, fetched := g.fetched ++ [{ index := g.consumed, raw := d }] } else getRing s q)
        ∧ n + nsT (500 * (g.rereads + 1)) ≤ t.now ∧ t = { u with orf := { u.orf with rings := t.orf.rings }, err := { s.err with progress := t.err.progress } }))
  ∧ (∀ (s : State) (r : RingId) (d : Desc) (c : BitVec 512), running s = true → c = d.raw →
    (turnOf s r.val 4 = some d → exec (.descriptorNop r) s = .next (finishDesc (startDesc s r.val d.index) r.val d.index 0 0 0 0))
    ∧ (∀ p te l, turnOf s r.val 1 = some d → flagR s Reg.teCtrl 0 = true → bits c 79 64 = fieldR s (Reg.orfRingCfg r.val) 31 16 → partOf s (c.extractLsb' 64 16) = some p → launchHome s p (bits c 111 96) = some te →
      l = launchOf s r d p te → routeUp s 4 (dieOf te).val = true →
      (headerHeld s te l = true ∨ fitsNever s te l = none → (getTe s te).queue.length < 16 →
        exec (.launch r) s = .next (noteHeld (startDesc (setTe s te { getTe s te with queue := (getTe s te).queue ++ [l] }) r.val d.index)))
      ∧ (headerHeld s te l = true ∨ fitsNever s te l = none → 16 ≤ (getTe s te).queue.length → exec (.launch r) s = .next (holdRing s r.val))
      ∧ (∀ cls, headerHeld s te l = false → fitsNever s te l = some cls → exec (.launch r) s = .next (autoAbort (finishAtOnce (unfitRecord s te l cls) r.val d 0x05 cls) (c.extractLsb' 64 16) cls)))
    ∧ (turnOf s r.val 1 = some d → flagR s Reg.teCtrl 0 = true → bits c 79 64 ≠ fieldR s (Reg.orfRingCfg r.val) 31 16 → exec (.launch r) s = .next (finishAtOnce s r.val d 0x03 0))
    ∧ (∀ lines go i, orfinUp s = true → (i = .copyIn r lines ∧ go = copyInFrom (cpLines c) (cpFrom c) (cpTo c) lines ∧ turnOf s r.val 2 = some d
        ∨ i = .copyOut r ∧ go = copyOutFrom (cpLines c) (cpFrom c) (cpTo c) ∧ turnOf s r.val 3 = some d) →
      (copyInWindow (startDesc s r.val d.index) r.val c = false → exec i s = .next (finishDesc (startDesc s r.val d.index) r.val d.index 0x04 0 0 0))
      ∧ (∀ u, copyInWindow (startDesc s r.val d.index) r.val c = true → go (startDesc s r.val d.index) = (u, none) → exec i s = .next (finishDesc u r.val d.index 0x00 0 0 0))
      ∧ (∀ u agent b, copyInWindow (startDesc s r.val d.index) r.val c = true → go (startDesc s r.val d.index) = (u, some (agent, b)) → b.held = false →
        exec i s = .next (finishDesc (copyRecord u r.val agent b) r.val d.index 0x07 b.cls 0 0))))
  ∧ (∀ (s : State) (r : RingId) (d : Desc) (g : Ring), running s = true → g = getRing s r.val → g.fetched.find? (fun d => d.done && (!dsOrder d.raw || d.flushed)) = some d → g.cause ≠ 4 → orfinUp s = true →
    proxyBuf s (cqSlot s r.val g.written / 64) = none → ∃ z,
    (∀ q, getRing z q = if q = r.val then { g with fetched := g.fetched.filter fun e => decide (e.index ≠ d.index), written := g.written + 1 } else getRing s q)
      ∧ OrfSent s z (.completion r.val (cqSlot s r.val g.written) (completionEntry s (ringSize s r.val) g.written d))
      ∧ z = { s with orf := { s.orf with rings := z.orf.rings, out := z.orf.out, wait := z.orf.wait, bulkSeqs := z.orf.bulkSeqs }, fab := { s.fab with links := z.fab.links, wire := z.fab.wire }, err := { s.err with progress := z.err.progress } }
      ∧ ((getProxy s (cqSlot s r.val g.written / 64)).st = .i → exec (.completionWrite r true) s
        = .next (if dsNotify d.raw && flagR s (Reg.orfRingCfg r.val) 6 then orfSend z (.notify r.val (BitVec.ofNat 16 (fieldR s (Reg.orfRingCfg r.val) 47 32))) else z))
      ∧ ((getProxy s (cqSlot s r.val g.written / 64)).st ≠ .i → exec (.completionWrite r true) s = .next (proxyEvict s (cqSlot s r.val g.written / 64))))

/-- An access of the companion to a register of its window, aligned, after READY and where Orfin is up, is performed and answered by an IoAck, a read with the value; a read of BULK_SYNC waits for its flush; before READY, or of another width or alignment, the answer is an error (R348, R366, R497). -/
def Obligations.CompanionAccess : Prop :=
  ∀ (s u : State) (off : BitVec 20), running s = true → orfinUp s = true → u = heard s 23 →
    (∀ w, flagR u Reg.orfStatus 0 = true → off.toNat % 8 = 0 → viewAt u (ioPlace off.toNat) = some w →
      (¬ (off.toNat < 0x10000 ∧ off.toNat % 64 = 8) → exec (.ioRead off 8) s = .next (orfSend u (.ioAck off.toNat (viewValue u w) false)))
      ∧ (off.toNat < 0x10000 → off.toNat % 64 = 8 → exec (.ioRead off 8) s = .next (syncRead u none (some off.toNat)))
      ∧ (∀ v, exec (.ioWrite off 8 v) s = .next (orfSend (orfWrite u off.toNat w.reg.addr w.reg v) (.ioAck off.toNat 0 false))))
    ∧ (∀ width v, flagR u Reg.orfStatus 0 = false → exec (.ioRead off width) s = .next (orfSend u (.ioAck off.toNat 0 true))
      ∧ exec (.ioWrite off width v) s = .next (orfSend u (.ioAck off.toNat 0 true)))
    ∧ (∀ width v, flagR u Reg.orfStatus 0 = true → width.toNat ≠ 8 ∨ off.toNat % 8 ≠ 0 → exec (.ioRead off width) s = .next (orfFlag (orfSend u (.ioAck off.toNat 0 true)) 6 0)
      ∧ exec (.ioWrite off width v) s = .next (orfFlag (orfSend u (.ioAck off.toNat 0 true)) 6 0))

/-! ### The stitch and power -/

/-- STITCH_IN's edge is noted, and accepted once it has stayed high for 20 ns: an early one is counted and refused, one within P ± W is the boundary, with its offset, and a late one comes after the substitute boundary; in holdover an edge only marks STITCH_IN's return unless a re-lock is armed, which takes the edge nearest to P as the boundary and ends the holdover (R401 to R404). No edge by P + W begins holdover with a substitute boundary, a flag and a record; in holdover a boundary comes every P, or ends an armed re-lock at 1.5 P (R402 to R404). RELOCK arms in holdover alone; PERIOD, TOL and COUNT wait for the next boundary; an ill-formed period is refused (R404, R405). While the package is held in reset a boundary counts and takes what waits, and does nothing else (R24, R405). -/
def Obligations.StitchEdges : Prop :=
  (∀ (s : State) (ns high : W32) (t : Nat), stitchRuns s = true → t = s.stc.last + nsT ns.toNat → s.now ≤ t →
    (s.stc.edge = none → exec (.stitchEdge ⟨ns, high⟩) s = .next (if high.toNat < 20 then { s with now := t } else { s with now := t, stc := { s.stc with edge := some t } }))
    ∧ (∀ u, exec .stitchEdgeAccept s = .next u → exec (.stitchEdge ⟨ns, high⟩) s = .next (if high.toNat < 20 then advanceTo u t else { advanceTo u t with stc := { u.stc with edge := some t } })))
  ∧ (∀ (s u : State) (t p w d : Nat), stitchRuns s = true → s.stc.edge = some t → u = { s with stc := { s.stc with edge := none } } → p = periodT s → w = tolT s → d = t - s.stc.last →
    (s.stc.holdover = false → d < p - w → Answers .stitchEdgeAccept s fun v =>
      flagR v Reg.stcStatus 3 = true ∧ v = { s with now := max s.now (t + nsT 20), rf := v.rf, stc := { s.stc with edge := none } })
    ∧ (s.stc.holdover = false → p - w ≤ d → d ≤ p + w → exec .stitchEdgeAccept s = .next (advanceTo (boundary (setOffset u t (s.stc.last + p)) t) (t + nsT 20)))
    ∧ (s.stc.holdover = false → p - w ≤ d → p + w < d → exec .stitchEdgeAccept s = .next (advanceTo (edgeReturned (beginHoldover u) t) (t + nsT 20)))
    ∧ (s.stc.holdover = true → s.stc.armed = none → Answers .stitchEdgeAccept s fun v =>
      flagR v Reg.stcStatus 4 = true ∧ v = { s with now := max s.now (t + nsT 20), rf := v.rf, stc := { s.stc with edge := none, offset := v.stc.offset } })
    ∧ (∀ a, s.stc.holdover = true → s.stc.armed = some a → a ≤ t → p ≤ 2 * d → 2 * d ≤ 3 * p → Answers .stitchEdgeAccept s fun v =>
      ∃ b, b = boundary (setOffset u t (s.stc.last + p)) t ∧ v = { b with now := max b.now (t + nsT 20), stc := { b.stc with holdover := false, armed := none } })
    ∧ (∀ a b, s.stc.holdover = true → s.stc.armed = some a → 3 * p < 2 * d → b = boundary u (s.stc.last + p + p / 2) →
      exec .stitchEdgeAccept s = .next (advanceTo (edgeReturned { b with stc := { b.stc with armed := none } } t) (t + nsT 20)))
    ∧ (∀ a, s.stc.holdover = true → s.stc.armed = some a → t < a ∨ 2 * d < p → 2 * d ≤ 3 * p → exec .stitchEdgeAccept s = .next (advanceTo (edgeReturned u t) (t + nsT 20))))
  ∧ (∀ (s : State), stitchRuns s = true →
    (s.stc.holdover = false → (∀ t, s.stc.edge = some t → s.stc.last + periodT s + tolT s < t) → Answers .substituteBoundary s fun v =>
      ∃ b, b = boundary s (s.stc.last + periodT s + tolT s) ∧ flagR v Reg.stcStatus 1 = true ∧ v = { b with rf := v.rf, err := v.err, stc := { b.stc with holdover := true, edge := s.stc.edge } })
    ∧ (s.stc.holdover = true → s.stc.armed = none → Answers .holdoverBoundary s fun v =>
      ∃ b, b = boundary s (s.stc.last + periodT s) ∧ v = { b with stc := { b.stc with edge := s.stc.edge } })
    ∧ (∀ a, s.stc.armed = some a → (∀ t, s.stc.edge = some t → s.stc.last + periodT s + periodT s / 2 < t) → Answers .relockTimeout s fun v =>
      ∃ b, b = boundary s (s.stc.last + periodT s + periodT s / 2) ∧ v = { b with stc := { b.stc with armed := none, edge := s.stc.edge } }))
  ∧ (∀ (s : State) (t : Nat) (c n : Stitch), stitchAlone s = true → c = s.stc → n = (boundary s t).stc → boundary s t = { s with now := max s.now t, stc := n }
    ∧ n.last = t ∧ n.edge = none ∧ n.mgt = [] ∧ n.count = (match (c.nextLoad.filter fun x => decide (x.2 + usT 1 ≤ t)).getLast? with | some x => x.1 | none => c.count + 1)
    ∧ n.nextLoad = (c.nextLoad.filter fun x => !decide (x.2 + usT 1 ≤ t)) ∧ n.nextPeriod = (c.nextPeriod.filter fun x => !decide (x.2.2 + usT 1 ≤ t))
    ∧ n.period = (match (c.nextPeriod.filter fun x => decide (x.2.2 + usT 1 ≤ t)).getLast? with | some x => x.1 | none => c.period)
    ∧ n.tol = (match (c.nextPeriod.filter fun x => decide (x.2.2 + usT 1 ≤ t)).getLast? with | some x => x.2.1 | none => c.tol)
    ∧ n.holdover = c.holdover ∧ n.armed = c.armed)
  ∧ (∀ (s : State) (v : W64), running s = true →
    (s.stc.holdover = true → s.stc.armed = none → exec .stcRelock s = .next { s with stc := { s.stc with armed := some s.now } })
    ∧ (s.stc.holdover = false → exec .stcRelock s = .next s)
    ∧ (2000 ≤ bits v 19 0 → bits v 19 0 ≤ 1000000 → 1 ≤ bits v 48 32 → 8 * bits v 48 32 ≤ bits v 19 0 → Answers (.stcPeriodWrite v) s fun t =>
      getR t Reg.stcPeriod = v &&& 0x1FFFF000FFFFF ∧ t = { s with rf := t.rf, stc := { s.stc with nextPeriod := s.stc.nextPeriod ++ [(bits v 19 0, bits v 48 32, s.now)] } })
    ∧ (bits v 19 0 < 2000 ∨ 1000000 < bits v 19 0 ∨ bits v 48 32 = 0 ∨ bits v 19 0 < 8 * bits v 48 32 → exec (.stcPeriodWrite v) s = .next (raise s Reg.stcStatus 7))
    ∧ exec (.stcLoad v) s = .next { s with stc := { s.stc with nextLoad := s.stc.nextLoad ++ [(v.extractLsb' 0 48, s.now)] } })

/-- The mailbox takes a well-formed budget, and refuses another; PWR_LOOP is the heartbeat (R419, R420). A sample of package power is averaged; above the ceiling it stretches the clocks and flags PEAK; a millisecond above B makes every die step down (R417). A die's limiter steps down over its budget, at 105 °C or in an excursion, and up after five ticks below 95%; a step takes 2 µs; a region's limiter stretches its clock likewise (R422, R423). A droop trip is counted and stretches the region's clock until it recovers (R425). -/
def Obligations.PowerLimits : Prop :=
  (∀ (s : State) (v : W64), running s = true →
    (1200 ≤ bits v 11 0 → bits v 11 0 ≤ 3600 → bits v 15 12 = 0 → bits v 63 33 = 0 → Answers (.pwrMboxWrite v) s fun t =>
      getR t Reg.pwrMbox = v ∧ t = { s with rf := t.rf, pwr := { s.pwr with writes := s.pwr.writes ++ [(s.now, v)] } })
    ∧ (bits v 11 0 < 1200 ∨ 3600 < bits v 11 0 ∨ bits v 15 12 ≠ 0 ∨ bits v 63 33 ≠ 0 → exec (.pwrMboxWrite v) s = .next (raise s Reg.pwrStatus 0))
    ∧ exec (.pwrLoopWrite v) s = .next { s with pwr := { s.pwr with loopSeen := true, sinceLoop := 0, loopStitch := v.extractLsb' 0 48 } })
  ∧ (∀ (s : State) (watts : BitVec 13) (w : Nat), running s = true → w = watts.toNat → Answers (.powerSample watts) s fun t =>
      s.pwr.sampledAt + usT 1 ≤ t.now ∧ t.pwr.now = w ∧ t.pwr.sampledAt = t.now ∧ t.pwr.sum = s.pwr.sum + w ∧ t.pwr.samples = s.pwr.samples + 1
        ∧ t.pwr.run = (if budgetB s < w then s.pwr.run + 1 else 0) ∧ (ceilingE { s with now := t.now } < w → t.pwr.clockStretch = true ∧ flagR t Reg.pwrStatus 2 = true)
        ∧ (w ≤ ceilingE { s with now := t.now } → t.rf = s.rf) ∧ (w ≤ budgetB s → t.pwr.excursion = false)
        ∧ t = { s with now := t.now, rf := t.rf, pwr := { s.pwr with sampledAt := t.pwr.sampledAt, now := w, sum := t.pwr.sum, samples := t.pwr.samples, run := t.pwr.run
                                                                     barred := t.pwr.barred, clockStretch := t.pwr.clockStretch, excursion := t.pwr.excursion } })
  ∧ (∀ (s : State), running s = true → 1000 ≤ s.pwr.run → s.pwr.excursion = false →
      exec .excursionLimit s = .next ((List.range 6).foldl stepDown (raise { s with pwr := { s.pwr with excursion := true } } Reg.pwrStatus 1)))
  ∧ (∀ (s : State), running s = true → 1000 ≤ s.pwr.run → s.pwr.excursion = true → exec .excursionLimit s = .next (raise s Reg.pwrStatus 1))
  ∧ (∀ (s : State) (d : Fin 6) (v : DiePower), running s = true → v = getDie s d.val →
    (∀ p n, v.stepping = some (p, n) → Answers (.vfStepDone d) s fun t =>
      (∀ e, getDie t e = if e = d.val then { v with point := some p, stepping := none } else getDie s e) ∧ n + usT 2 ≤ t.now ∧ t = { s with now := t.now, pwr := { s.pwr with dies := t.pwr.dies } })
    ∧ (∀ (watts : BitVec 12) (w b p : Nat), w = watts.toNat → p = pointOf s d.val → b = (if s.pwr.dealtYet = true ∧ 100 * w < 95 * v.dealt then v.below + 1 else 0) → v.stepping = none →
      ((s.pwr.dealtYet = true ∧ v.dealt < w ∨ 105 ≤ v.temp ∨ s.pwr.excursion = true) → 0 < p → Answers (.dieLimiterTick d watts) s fun t =>
        (∀ e, getDie t e = if e = d.val then { v with tickAt := t.now, sum := v.sum + w, samples := v.samples + 1, below := 0, stepping := some (p - 1, t.now), limited := true } else getDie s e)
          ∧ v.tickAt + usT 10 ≤ t.now ∧ t = { s with now := t.now, pwr := { s.pwr with dies := t.pwr.dies } })
      ∧ ((s.pwr.dealtYet = true → w ≤ v.dealt) → v.temp < 105 → s.pwr.excursion = false → b < 5 → Answers (.dieLimiterTick d watts) s fun t =>
        (∀ e, getDie t e = if e = d.val then { v with tickAt := t.now, sum := v.sum + w, samples := v.samples + 1, below := b } else getDie s e)
          ∧ v.tickAt + usT 10 ≤ t.now ∧ t = { s with now := t.now, pwr := { s.pwr with dies := t.pwr.dies } })
      ∧ ((s.pwr.dealtYet = true → w ≤ v.dealt) → v.temp < 105 → s.pwr.excursion = false → 5 ≤ b → v.sensorFailed = false → p < 15 → Answers (.dieLimiterTick d watts) s fun t =>
        (∀ e, getDie t e = if e = d.val then { v with tickAt := t.now, sum := v.sum + w, samples := v.samples + 1, below := 0, stepping := some (p + 1, t.now) } else getDie s e)
          ∧ v.tickAt + usT 10 ≤ t.now ∧ t = { s with now := t.now, pwr := { s.pwr with dies := t.pwr.dies } })))
  ∧ (∀ (s : State) (g : Fin 24) (v : RegionPower), running s = true → v = getRegion s g.val →
    (∀ (watts : BitVec 12) (w b : Nat), w = watts.toNat → g.val < 16 → s.pwr.dealtYet = true → v.gated = false → b = (if 100 * w < 95 * v.dealt then v.below + 1 else 0) → Answers (.regionLimiterTick g watts) s fun t =>
      (∀ e, getRegion t e = if e = g.val then (if v.dealt < w then { v with tickAt := t.now, sum := v.sum + w, samples := v.samples + 1, below := 0, stretch := min 8 (v.stretch + 1) }
          else if 5 ≤ b then { v with tickAt := t.now, sum := v.sum + w, samples := v.samples + 1, below := 0, stretch := v.stretch - 1 }
          else { v with tickAt := t.now, sum := v.sum + w, samples := v.samples + 1, below := b }) else getRegion s e)
        ∧ v.tickAt + usT 10 ≤ t.now ∧ t = { s with now := t.now, pwr := { s.pwr with regions := t.pwr.regions } })
    ∧ (v.gated = false → Answers (.droopTrip g) s fun t =>
      (∀ e, getRegion t e = if e = g.val then { v with droop := some s.now } else getRegion s e) ∧ t = { s with rf := t.rf, pwr := { s.pwr with regions := t.pwr.regions } })
    ∧ (∀ n, v.droop = some n → Answers (.droopRecover g) s fun t =>
      (∀ e, getRegion t e = if e = g.val then { v with droop := none } else getRegion s e) ∧ n + (if g.val < 16 then cycT 128 else nsT 40) ≤ t.now
        ∧ t = { s with now := t.now, pwr := { s.pwr with regions := t.pwr.regions } }))

/-- Power leaves a C-die's region whose engines are all out of service, and is refused otherwise; a region that returns has its engines wiped (R426). A host core that loses power writes its caches back and loses its buffered stores and reservation; one that returns is as it was (R341, R426). A die's junction reading is kept, with its peak, and at 105 °C or more flagged; a sensor that fails holds the die at its BOOT point, with a flag (R429). COOLANT_ARM is set at any time and cleared in the test states alone (R431). A clock loss stops its die, which loses what its movers and harts had not drained (R341, R446). -/
def Obligations.GatesAndHeat : Prop :=
  (∀ (s : State) (b : Byte) (v : RegionPower), running s = true → v = getRegion s b.toNat →
    (b.toNat < 16 → (∀ te ∈ regionTes b.toNat, (getTe s te).svc = .out) → Answers (.regionOff b) s fun t =>
      (∀ e, getRegion t e = if e = b.toNat then { v with gated := true, dealt := 0, droop := none, stretch := 0, below := 0 } else getRegion s e) ∧ t = { s with pwr := { s.pwr with regions := t.pwr.regions } })
    ∧ (16 ≤ b.toNat ∨ (∃ te ∈ regionTes b.toNat, (getTe s te).svc ≠ .out) → exec (.regionOff b) s = .next (raise s Reg.pwrStatus 0))
    ∧ (b.toNat < 16 → v.gated = true → exec (.regionOn b) s = .next ((regionTes b.toNat).foldl wipeTe (setRegion s b.toNat { v with gated := false })))
    ∧ (b.toNat < 80 → Answers (.hostCoreOff b) s fun t =>
      ∃ u, u = (linesOf s b.toNat).foldl (giveUp b.toNat) s ∧ (∀ h, smGet {} t.harts h = if h = b.toNat then { smGet {} u.harts h with gated := true, stores := [], reservation := none } else smGet {} u.harts h)
        ∧ t = { u with harts := t.harts })
    ∧ (b.toNat < 80 → Answers (.hostCoreOn b) s fun t => (∀ h, smGet {} t.harts h = if h = b.toNat then { smGet {} s.harts h with gated := false } else smGet {} s.harts h) ∧ t = { s with harts := t.harts })
    ∧ (80 ≤ b.toNat → exec (.hostCoreOff b) s = .next (raise s Reg.pwrStatus 0) ∧ exec (.hostCoreOn b) s = .next (raise s Reg.pwrStatus 0)))
  ∧ (∀ (s : State) (d : Fin 6) (v : DiePower), running s = true → v = getDie s d.val →
    (∀ (temp : Byte) (way : List (Nat × Nat)), way = (if s.boot.delegate then ((mgtWay d.val).reverse.map fun p => (p.2, p.1)) else if d.val = 4 then [] else [(d.val, 4)]) →
      Answers (.junctionSensorRead d temp) s fun t =>
        (∀ e, getDie t e = if e = d.val then { v with temp := temp.toNat, lastValid := t.now, sensorFailed := false } else getDie s e) ∧ v.lastValid + usT 1 ≤ t.now
          ∧ (mgtSend { s with now := t.now, pwr := { s.pwr with dies := t.pwr.dies } } way 1 = none → t.rf = s.rf ∧ t.stc = s.stc)
          ∧ (mgtSend { s with now := t.now, pwr := { s.pwr with dies := t.pwr.dies } } way 1 ≠ none → 105 ≤ temp.toNat → flagR t Reg.thmStatus d.val = true)
          ∧ t = { s with now := t.now, rf := t.rf, pwr := { s.pwr with dies := t.pwr.dies }, stc := { s.stc with mgt := t.stc.mgt } })
    ∧ (v.sensorFailed = false → Answers (.dieSensorFail d) s fun t =>
      (∀ e, getDie t e = if e = d.val then (if (Config.bootPoint d.val).val < pointOf s d.val then { v with sensorFailed := true, stepping := some ((Config.bootPoint d.val).val, t.now), limited := true, below := 0 }
          else { v with sensorFailed := true, stepping := v.stepping.filter fun x => decide (x.1 ≤ (Config.bootPoint d.val).val) }) else getDie s e)
        ∧ v.lastValid + usT 1000 ≤ t.now ∧ flagR t Reg.thmStatus (8 + d.val) = true ∧ t = { s with now := t.now, rf := t.rf, err := t.err, pwr := { s.pwr with dies := t.pwr.dies } })
    ∧ (v.sensorFailed = true → exec (.dieSensorFail d) s = .next s)
    ∧ (∀ pll, bitAt s.brd.clockLost d.val = false → Answers (.clockLoss d pll) s fun t =>
      (∀ e < 6, bitAt t.brd.clockLost e = (bitAt s.brd.clockLost e || decide (e = d.val))) ∧ (∀ e, e ∈ t.cl.writes ↔ e ∈ s.cl.writes ∧ e.1 / 16 ≠ d.val) ∧ t.harts = loseStores d.val s.harts
        ∧ t = { s with rf := t.rf, err := t.err, harts := t.harts, cl := { s.cl with writes := t.cl.writes }, brd := { s.brd with clockLost := t.brd.clockLost }, stc := { s.stc with dieCounts := t.stc.dieCounts }
                       fab := { s.fab with links := t.fab.links, wire := t.fab.wire } })
    ∧ (∀ pll, bitAt s.brd.clockLost d.val = true → Answers (.clockLoss d pll) s fun t => t = { s with rf := t.rf, err := t.err }))
  ∧ (∀ (s : State) (v : W64), running s = true →
    (bitAt v 0 = true → s.brd.coolantOk = true → exec (.thmCtrlWrite v) s = .next (setR s Reg.thmCtrl 1))
      ∧ (bitAt v 0 = true → s.brd.coolantOk = false → exec (.thmCtrlWrite v) s = .next { setR s Reg.thmCtrl 1 with brd := { s.brd with gated := true, latched := true, thermtripN := false } })
      ∧ (bitAt v 0 = false → testState s = true → exec (.thmCtrlWrite v) s = .next (setR s Reg.thmCtrl 0))
      ∧ (bitAt v 0 = false → testState s = false → exec (.thmCtrlWrite v) s = .next s))

/-! ### Stops and resets -/

/-- The consumer of an error queue reports what it has consumed, within 1,024 of what was produced (R441, R465). ERR_STOP stops a resident context with its record, or a partition with a capture, its actions and one record; neither acts during a compute reset (R453, R454, R456). Releasing a capture slot frees it alone (R459). ERR_RESET with its key begins a compute reset with a capture, closes placement and ends a running move; another write is refused (R456, R458, R482). Its phases follow in order: CAPTURE ends with the quiescing of what is covered; QUIESCE with the wipe, which leaves the covered stores zero; WIPE after 16,384 cycles; RELEASE restarts returning engines and host cores, counts the reset and performs the additions that it held (R236, R457, R458, R505, R506). -/
def Obligations.ComputeReset : Prop :=
  (∀ (s : State) (h : HDie) (v : W64), running s = true →
    (((errQueue s h).prod - (v.truncate 32 : W32)).toNat ≤ 1024 → Answers (.errQConsWrite h v) s fun t => getR t (Reg.errQCons h) = (v.truncate 32 : W32).setWidth 64 ∧ t = { s with rf := t.rf })
    ∧ (1024 < ((errQueue s h).prod - (v.truncate 32 : W32)).toNat → exec (.errQConsWrite h v) s = .next (raise s (Reg.errQStatus h) 18))
    ∧ (∀ k (i : Instr), k = 0 ∧ i = .capReleaseA h ∨ k = 1 ∧ i = .capReleaseB h → Answers i s fun t =>
      (∀ g, ∀ j < 2, getCap t g j = if g = h ∧ j = k then { getCap s h k with valid := false } else getCap s g j) ∧ t = { s with err := { s.err with slots := t.err.slots } }))
  ∧ (∀ (s : State) (v : W64) (c : CtxId), running s = true → c = ctxAt (BitVec.ofNat 8 (bits v 9 2)).toFin (bits v 11 10) →
    (∀ x, s.err.phase = 0 → getCtx s c = some x → x.stop = none → exec (.errStopContext v) s
      = .next (autoAbort (haltCtx (place s { ctxRec c x.launch { cls := 0x13, cause := 1, d0 := 1 } with action := 1 }) c ⟨0x13, 1, 0, 1, 0⟩) x.launch.job 0x13))
    ∧ (s.err.phase ≠ 0 ∨ getCtx s c = none → exec (.errStopContext v) s = .next s)
    ∧ (s.err.phase = 0 → slotOfJob (capture s 0x4) (v.extractLsb' 16 16) = none → ∀ u n, abortActions (capture s 0x4) (v.extractLsb' 16 16) ⟨0x13, 2, 0, 0, 0⟩ = (u, n) →
      exec (.errStopPartition v) s = .next (place u { cls := 0x13, action := 1, cause := 2, job := v.extractLsb' 16 16, d0 := BitVec.ofNat 64 n }))
    ∧ (∀ k w, s.err.phase = 0 → slotOfJob (capture s 0x4) (v.extractLsb' 16 16) = some k → w = setKey (capture s 0x4) k { getKey (capture s 0x4) k with aborted := true } →
      ∀ u n, abortActions w (v.extractLsb' 16 16) ⟨0x13, 2, 0, 0, 0⟩ = (u, n) →
        exec (.errStopPartition v) s = .next (place u { cls := 0x13, action := 1, cause := 2, job := v.extractLsb' 16 16, d0 := BitVec.ofNat 64 n }))
    ∧ (errResetOk s v = true → ∃ u, u = abandonMove (noteHeld (setFieldR (capture s (if bitAt v 1 then 0x2 else 0x1)) Reg.teCtrl 0 0 0)) 3
      ∧ exec (.errReset v) s = .next { u with err := { u.err with phase := 1, hosts := bitAt v 1, phaseAt := u.now, capBusy := true }, sec := if bitAt v 1 then { u.sec with cmd := none } else u.sec })
    ∧ (errResetOk s v = false → exec (.errReset v) s = .next (raise s (Reg.errResetStatus 0) 3)))
  ∧ (∀ (s : State), running s = true →
    (s.err.phase = 1 → exec .resetCaptureEnd s = .next (enterPhase (quiesce { s with err := { s.err with capBusy := false } }) 2))
    ∧ (s.err.phase = 2 → Answers .resetQuiesceEnd s fun t =>
      t.err = { s.err with phase := 3, phaseAt := s.now } ∧ t.eng = { s.eng with groups := [], sregs := [], vregs := [], masks := [], tiles := [], tileErr := [], acc := [] } ∧ t.cl = {} ∧ t.tallies = [] ∧ t.dsp = {}
        ∧ (∀ e, e ∈ t.rf ↔ e ∈ s.rf ∧ (coveredReg e.1 = false ∨ cohReg e.1 = true)) ∧ t = { s with rf := t.rf, eng := t.eng, cl := {}, tallies := [], dsp := {}, partWipe := [], err := t.err })
    ∧ (s.err.phase = 3 → Answers .resetWipeEnd s fun t => t.err = { s.err with phase := 4, phaseAt := t.now } ∧ s.err.phaseAt + cycT 16384 ≤ t.now ∧ t = { s with now := t.now, err := t.err })
    ∧ (s.err.phase = 4 → ∃ u, exec .resetReleaseEnd s = .next (s.err.heldAdds.foldl (fun s a => tallyAdd s a.1 a.2) u) ∧ u.err = { s.err with phase := 0, phaseAt := s.now, resets := min 0xFFFF (s.err.resets + 1), hosts := false, heldAdds := [] }
      ∧ (∀ te, getTe u te = startAgain (cycleNow s) (getTe s te)) ∧ (∀ e ∈ u.harts, e.2.inReset = false) ∧ u = { s with eng := { s.eng with te := u.eng.te }, harts := u.harts, err := u.err }))

/-- RESET_N falls with a capture and closes an open presence window; once the capture is complete everything takes its reset value but what the spec keeps: the error queues, capture slots and their registers, the stitch, the fuses and the repairs (R24, R407, R461, R462, R482, R491). Its release, with power good and no rail failed, begins a start, warm where TRAIN has completed since power-on (R489, R490, R492, R493). PWR_GOOD's rise leaves the package in reset with RESET_N low and everything at its value after power-on; a rail that fails keeps it there; PWR_GOOD's fall gates every clock (R488, R489, R491, R519). -/
def Obligations.PackageResets : Prop :=
  (∀ (s : State), s.brd.resetN = true → running s = true → Answers .resetNFall s fun t =>
    ∃ u, u = capture (setR { s with brd := { s.brd with resetN := false } } Reg.thmCtrl 0) 0x5 ∧ t = { u with sec := { u.sec with cmd := none }, err := { u.err with capBusy := true }, brd := { u.brd with resetCapture := true } })
  ∧ (∀ (s : State), s.brd.resetN = true → running s = false → exec .resetNFall s = .next (setR { s with brd := { s.brd with resetN := false } } Reg.thmCtrl 0))
  ∧ (∀ (s : State), s.brd.resetCapture = true → s.brd.pwrGood = true → Answers .resetNCaptureDone s fun t =>
    t.brd.inReset = true ∧ t.stc = keptStitch s.stc ∧ t.sec = resetSec false s.sec ∧ t.err = { queues := s.err.queues, slots := s.err.slots, captures := s.err.captures, resets := s.err.resets } ∧ t.pending = s.pending ∧ t.now = s.now
      ∧ (∀ e, e ∈ t.rf ↔ e ∈ s.rf ∧ sparedReg e.1 = true) ∧ (∀ e ∈ t.ctrls, ∃ c ∈ s.ctrls, e = (c.1, resetCtrl false c.2))
      ∧ t = { State.reset with pending := s.pending, now := s.now, draws := s.draws, rf := t.rf, ctrls := t.ctrls, err := t.err, stc := t.stc, sec := t.sec, boot := { releasedAt := s.now, phaseAt := s.now }, brd := t.brd })
  ∧ (∀ (s : State), s.brd.resetN = false → s.brd.pwrGood = true → s.brd.railFail = false → s.brd.inReset = true →
    exec .resetNRelease s = .next { s with brd := { s.brd with resetN := true, inReset := false }, boot := { warm := s.brd.trained, releasedAt := s.now, phaseAt := s.now } })
  ∧ (∀ (s : State), s.brd.pwrGood = false → Answers .pwrGoodRise s fun t =>
    t.brd.pwrGood = true ∧ t.brd.resetN = false ∧ t.brd.railFail = false ∧ t.brd.inReset = true ∧ t.brd.gated = false ∧ t.brd.latched = false ∧ t.brd.trained = false ∧ t.rf = [] ∧ t.err = {} ∧ t.stc = { last := s.now } ∧ t.sec = resetSec true s.sec
      ∧ (∀ e ∈ t.ctrls, ∃ c ∈ s.ctrls, e = (c.1, resetCtrl true c.2))
      ∧ t = { State.reset with pending := s.pending, now := s.now, draws := s.draws, ctrls := t.ctrls, stc := t.stc, sec := t.sec, boot := { releasedAt := s.now, phaseAt := s.now }, brd := t.brd })
  ∧ (∀ (s : State), s.brd.pwrGood = true → s.brd.inReset = true → s.brd.resetN = false → exec .railFail s = .next { s with now := s.now + usT 5000, brd := { s.brd with railFail := true } })
  ∧ (∀ (s : State), s.brd.pwrGood = true → exec .pwrGoodFall s = .next { s with sec := { s.sec with cmd := none }, brd := { s.brd with pwrGood := false, gated := true, inReset := true, resetCapture := false, railFail := false, stitchUp := false } })

/-! ### Start-up and Thimble -/

/-- A phase of start-up ends no earlier than its least time and begins the next: RESET draws the deep tier's key and starts the stitch, BOOT checks and measures the images, SEAM brings the seven links up and boots the delegate, TRAIN takes what has trained, WIPE waits for the wipe, LINKS notes the links, HARTS starts the host cores, and READY opens the package (R430, R470, R478, R486, R492 to R496). One that fails, or ends past its longest time, stops the start with its cause (R495). A wiped stack goes online and a C-die's cache is enabled; with every part wiped the wipe ends (R485, R486). -/
def Obligations.StartUpPhases : Prop :=
  (∀ (s u : State) (w : PhaseWork), running s = true → starting s = true → u = advanceTo s (s.boot.phaseAt + usT (phaseMin s.boot.phase)) →
    (phaseLimit s < u.now → Answers (.startPhaseEnd w) s fun t => t.boot = { s.boot with phase := 15, failPhase := s.boot.phase, failCause := 6, elapsed := elapsedMs u } ∧ t = { u with boot := t.boot })
    ∧ (u.now ≤ phaseLimit s →
      (s.boot.phase = 1 → w.pllOk = true → Answers (.startPhaseEnd w) s fun t =>
        t.boot.phase = 2 ∧ t.boot.phaseAt = u.now ∧ t.sec = { s.sec with deepKey := Config.draw512 s.draws } ∧ t.brd.stitchUp = true ∧ t = { u with draws := s.draws + 1, sec := t.sec, stc := t.stc, boot := t.boot, brd := { s.brd with stitchUp := true } })
      ∧ (s.boot.phase = 1 → w.pllOk = false → exec (.startPhaseEnd w) s = .next (failStart u 2))
      ∧ (s.boot.phase = 2 → Answers (.startPhaseEnd w) s fun t =>
        t.sec = (bootImages u w.slotA w.slotB).1.sec ∧ t.boot.bootDone = true ∧ t.boot.phase = (if slotOk s.sec w.slotA || slotOk s.sec w.slotB then 3 else 15) ∧ (t.boot.phase = 15 → t.boot.failCause = 3)
          ∧ t = { u with sec := t.sec, boot := t.boot })
      ∧ (s.boot.phase = 3 → w.seamOk = true → Answers (.startPhaseEnd w) s fun t =>
        (∀ l, (getLink t l).phase = if l < 7 then .up else (getLink s l).phase) ∧ t.boot = { s.boot with seamDone := true, delegate := true, phase := if s.boot.warm && !s.boot.wipeDone then 5 else 4, phaseAt := u.now }
          ∧ t = { u with boot := t.boot, fab := { s.fab with links := t.fab.links } })
      ∧ (s.boot.phase = 3 → w.seamOk = false → exec (.startPhaseEnd w) s = .next (failStart u 4))
      ∧ (s.boot.phase = 4 → w.packageMask ≠ BitVec.allOnes 18 → Answers (.startPhaseEnd w) s fun t => t.boot.phase = 15 ∧ t.boot.failCause = 5 ∧ t.boot.failPhase = 4 ∧ t = { u with boot := t.boot })
      ∧ (s.boot.phase = 4 → w.packageMask = BitVec.allOnes 18 → Answers (.startPhaseEnd w) s fun t =>
        t.boot.stackOk = w.stackMask ∧ t.boot.phase = (if s.boot.warm then 6 else 5) ∧ (w.stackMask ≠ BitVec.allOnes 12 → t.boot.degraded = true)
          ∧ t = { u with rf := t.rf, boot := t.boot, brd := { s.brd with trained := true, trainedStacks := w.stackMask } })
      ∧ (s.boot.phase = 5 → s.boot.wipeDone = true → exec (.startPhaseEnd w) s = .next (toPhase u (if s.boot.warm then 4 else 6)))
      ∧ (s.boot.phase = 6 → Answers (.startPhaseEnd w) s fun t => t.boot = { s.boot with phase := 7, phaseAt := u.now, linkUp := linksUp s, degraded := s.boot.degraded || decide (linksUp s ≠ BitVec.allOnes 19) } ∧ t = { u with boot := t.boot })
      ∧ (s.boot.phase = 7 → w.hartsOk = true → exec (.startPhaseEnd w) s = .next (toPhase u 8))
      ∧ (s.boot.phase = 7 → w.hartsOk = false → exec (.startPhaseEnd w) s = .next (failStart u 7))
      ∧ (s.boot.phase = 8 → exec (.startPhaseEnd w) s = .next (becomeReady u))))
  ∧ (∀ (s : State), running s = true → starting s = true → Answers .startPhaseTimeout s fun t =>
      t.now = max s.now (phaseLimit s) ∧ t.boot = { s.boot with phase := 15, failPhase := s.boot.phase, failCause := 6, elapsed := elapsedMs { s with now := t.now } } ∧ t = { s with now := t.now, boot := t.boot })
  ∧ (∀ (s : State) (p : Fin 16), running s = true → wipeRuns s = true →
    (∀ st : StackId, st.val = p.val → (wipedStacks s).getLsbD p.val = true → Answers (.wipePartEnd p) s fun t =>
      flagR t (Reg.stkCtrl st) 0 = true ∧ t.boot = { s.boot with wipedParts := s.boot.wipedParts ||| (1#16 <<< p.val) } ∧ t = { s with rf := t.rf, boot := t.boot })
    ∧ (∀ d : CDie, d.val + 12 = p.val → Answers (.wipePartEnd p) s fun t =>
      flagR t (Reg.dcCtrl d) 0 = true ∧ t.boot = { s.boot with wipedParts := s.boot.wipedParts ||| (1#16 <<< p.val) } ∧ t = { s with rf := t.rf, boot := t.boot })
    ∧ (s.boot.wipedParts &&& ((wipedStacks s).setWidth 16 ||| 0xF000) = (wipedStacks s).setWidth 16 ||| 0xF000 → Answers .fullWipeDone s fun t =>
      t.sec = { s.sec with wipeBusy := false } ∧ t.boot = { s.boot with wipeDone := true } ∧ s.boot.wipeAt + usT 1342000 ≤ t.now ∧ t = { s with now := t.now, sec := t.sec, boot := t.boot }))

/-- A command of Table 18-5 that Thimble accepts opens a presence window, or acts at once: CANCEL closes the window and SVN_COMMIT raises the least version; one that it refuses, or finds busy, leaves its RESULT and the flag (R471, R479, R480, R482). Presence within the window executes the command: debug is unlocked, a rollback armed, or the fuses burned and the package started anew; without presence the window ends with RESULT 3 (R480 to R484). A broken seal is latched and closes the window but that of a retirement (R481). The alias key is derived anew, and SEC_MEAS_GO extends M8 to M15 alone (R468, R472). -/
def Obligations.ThimbleCommands : Prop :=
  (∀ (s : State) (v : W64) (op target allow : Nat) (i : Instr), running s = true →
    i = .transition v ∧ op = 1 ∧ target = bits v 7 4 ∧ allow = 0 ∨ i = .debugUnlock ∧ op = 2 ∧ target = 0 ∧ allow = 0 ∨ i = .rollback v ∧ op = 3 ∧ target = 0 ∧ allow = bits v 14 8
      ∨ i = .keyReset ∧ op = 4 ∧ target = 0 ∧ allow = 0 ∨ i = .cancel ∧ op = 5 ∧ target = 0 ∧ allow = 0 ∨ i = .svnCommit ∧ op = 6 ∧ target = 0 ∧ allow = 0 →
    (cmdVerdict s op target = 0 → exec i s = .next { s with sec := if op = 5 then { s.sec with cmd := none, result := 0 } else if op = 6 then { s.sec with svnMin := max s.sec.svnMin s.sec.runningSvn, result := 0 }
      else { s.sec with cmd := some ⟨op, target, allow, s.now⟩, result := 0 } })
    ∧ (∀ r, cmdVerdict s op target = r → r ≠ 0 → exec i s = .next (secRefuse { s with sec := { s.sec with result := r } }))
    ∧ (s.boot.phase = 8 → s.sec.lc ≠ .retired → s.sec.cmd = none → s.sec.sealBroken = false → s.sec.lc = .service →
      cmdVerdict s op target = if op = 5 ∨ op = 1 ∧ target ≠ 3 ∧ target ≠ 5 then 1 else 0))
  ∧ (∀ (s : State) (c : ThimbleCmd) (fallNs : BitVec 36) (ok : Bool), running s = true → s.sec.cmd = some c →
    (fallNs ≠ 0 → fallNs.toNat + 100000000 ≤ 30000000000 → ∀ u, u = advanceTo { s with brd := { s.brd with presenceN := false } } (c.since + nsT (fallNs.toNat + 100000000)) →
      (c.op = 2 → s.sec.debugUnlocked = false → exec (.presenceProven fallNs ok) s = .next { u with sec := extendFlags { s.sec with cmd := none, result := 0, debugUnlocked := true } })
      ∧ (c.op = 3 → exec (.presenceProven fallNs ok) s = .next { u with sec := { s.sec with cmd := none, result := 0, armedSvn := some c.allowSvn } })
      ∧ (c.op ≠ 2 → c.op ≠ 3 → ok = true → exec (.presenceProven fallNs ok) s = .next (beginStart (resetHold { u with sec := { burnFuses u c with cmd := none } } false false)))
      ∧ (c.op ≠ 2 → c.op ≠ 3 → ok = false → exec (.presenceProven fallNs ok) s = .next { u with sec := { s.sec with cmd := none, result := 5 } }))
    ∧ (fallNs = 0 ∨ 30000000000 < fallNs.toNat + 100000000 → exec (.presenceProven fallNs ok) s = .next s)
    ∧ exec .presenceExpire s = .next { s with now := max s.now (c.since + usT 30000000), sec := { s.sec with cmd := none, result := 3 } })
  ∧ (∀ (s : State) (c : ThimbleCmd), s.sec.cmd = some c → s.sec.lc = .manufacture → c.target ≠ 5 → c.op = 1 → (burnFuses s c).lc = .provisioned)
  ∧ (∀ (s : State) (ns : W32), s.brd.pwrGood = true → 1000 ≤ ns.toNat → s.sec.sealBroken = false → Answers (.sealBreak ns) s fun t =>
      t.sec.sealBroken = true ∧ (∀ c, s.sec.cmd = some c → (c.op = 1 → c.target ≠ 5) → t.sec.cmd = none ∧ t.sec.result = 4) ∧ (∀ c, s.sec.cmd = some c → c.op = 1 → c.target = 5 → t.sec.cmd = some c)
        ∧ (s.boot.bootDone = true → t.sec.aliasReady = false) ∧ t = { s with brd := { s.brd with sealOk := false }, sec := t.sec })
  ∧ (∀ (s : State) (v : W64), running s = true →
    (s.sec.aliasReady = false → s.boot.bootDone = true → exec .aliasRederived s = .next (s.sec.kexWaiting.foldl (fun s e => kexDo s e.1 e.2)
      (pkeyHello (pkeyHello (sendHello { s with sec := { s.sec with aliasReady := true, aliasGen := s.sec.aliasGen + 1, kexWaiting := [] } }) 0) 1)))
    ∧ (s.sec.aliasReady = true ∨ s.boot.bootDone = false → exec .aliasRederived s = .next s)
    ∧ (8 ≤ bits v 3 0 → Answers (.secMeasGo v) s fun t => (∀ i, measOf t.sec i = if i = bits v 3 0 then
        Config.shake256 (bytes512 (measOf s.sec i) ++ bytes512 (BitVec.ofNat 512 (((List.range 8).map fun w => (smGet 0 s.sec.measExt w).toNat * 2 ^ (64 * w)).sum)) ) else measOf s.sec i)
        ∧ t = { s with sec := { s.sec with meas := t.sec.meas } })
    ∧ (bits v 3 0 < 8 → exec (.secMeasGo v) s = .next (secRefuse s)))

/-- Every SPDM request that comes in turn is answered once BOOT is done and while the alias key stands, signed with that key: version 1.3, capabilities, algorithms, the digest and the parts of slot 0's chain, where an offset past its end gets InvalidRequest, a challenge with a fresh nonce, and measurements, one, all or their number; KEY_EXCHANGE and its like get UnsupportedRequest; a request out of turn, or while the key is derived, gets its error, and one before the end of BOOT none (R468, R473). -/
def Obligations.SpdmAnswers : Prop :=
  (∀ (s : State) (i : Instr), running s = true → s.boot.bootDone = false → i = .getVersion ∨ i = .getCapabilities ∨ i = .negotiateAlgorithms ∨ i = .getDigests → exec i s = .next s)
  ∧ ∀ (s : State), running s = true → s.boot.bootDone = true → s.sec.lc ≠ .retired →
    (s.sec.aliasReady = true →
      exec .getVersion s = .next (spdmSigned { s with sec := { s.sec with spdmVersion := true, spdmCaps := false, spdmAlgs := false } } 0x04 [0, 1, 0, 0x13])
      ∧ (s.sec.spdmVersion = true → exec .getCapabilities s = .next (spdmSigned { s with sec := { s.sec with spdmCaps := true } } 0x61 Config.spdmCapabilities))
      ∧ (s.sec.spdmVersion = false → exec .getCapabilities s = .next (spdmError s 0x04))
      ∧ (s.sec.spdmCaps = false → exec .negotiateAlgorithms s = .next (spdmError s 0x04))
      ∧ (s.sec.spdmAlgs = false → ∀ i off len n b, i = .getDigests ∨ i = .getCertificate off len ∨ i = .challenge n ∨ i = .getMeasurements b → exec i s = .next (spdmError s 0x04))
      ∧ (s.sec.spdmCaps = true → exec .negotiateAlgorithms s = .next (spdmSigned { s with sec := { s.sec with spdmAlgs := true } } 0x63 Config.spdmAlgorithms))
      ∧ (∀ code, Answers (.spdmUnsupported code) s fun t => t.sec.spdm = s.sec.spdm ++ [(0x7F, [7])] ∧ t = { s with sec := { s.sec with spdm := t.sec.spdm } })
      ∧ (s.sec.spdmAlgs = true →
        Answers .getDigests s (fun t => ∃ sig, t.sec.spdm = s.sec.spdm ++ [(0x01, bytes512 (Config.sha3 (certChain s.sec)) ++ sig)] ∧ t = { s with sec := { s.sec with spdm := t.sec.spdm } })
        ∧ (∀ off len : W16, ((certChain s.sec).length ≤ off.toNat → exec (.getCertificate off len) s = .next (spdmError s 0x01))
          ∧ (off.toNat < (certChain s.sec).length → Answers (.getCertificate off len) s fun t => ∃ sig part, part = ((certChain s.sec).drop off.toNat).take len.toNat
            ∧ t.sec.spdm = s.sec.spdm ++ [(0x02, (bytesOf 2 part.length ++ bytesOf 2 ((certChain s.sec).length - off.toNat - part.length) ++ part) ++ sig)] ∧ t = { s with sec := { s.sec with spdm := t.sec.spdm } }))
        ∧ (∀ nonce, Answers (.challenge nonce) s fun t => ∃ sig,
          t.sec.spdm = s.sec.spdm ++ [(0x03, (bytes512 (Config.sha3 (certChain s.sec)) ++ bytesOf 32 (Config.draw256 s.draws).toNat ++ bytesOf 32 nonce.toNat) ++ sig)]
            ∧ t = { s with draws := s.draws + 1, sec := { s.sec with spdm := t.sec.spdm } })
        ∧ (∀ index : Byte, index.toNat ≤ 16 ∨ index.toNat = 0xFF → Answers (.getMeasurements index) s fun t => ∃ sig body, (index = 0 → body = [16])
          ∧ (∀ k, k < 16 → index.toNat = k + 1 → body = bytesOf 1 (k + 1) ++ bytes512 (measOf s.sec k))
          ∧ (index.toNat = 0xFF → body = ((List.range 16).map fun k => bytesOf 1 (k + 1) ++ bytes512 (measOf s.sec k)).flatten)
          ∧ t.sec.spdm = s.sec.spdm ++ [(0x60, body ++ sig)] ∧ t = { s with sec := { s.sec with spdm := t.sec.spdm } })))
    ∧ (s.sec.aliasReady = false → ∀ i, i = .getVersion ∨ i = .getCapabilities ∨ i = .negotiateAlgorithms ∨ i = .getDigests → exec i s = .next (spdmError s 0x42))

/-! ### Register space and host cores -/

/-- A hart that runs, and waits for no access of its own, reaches a register that no reset, dead die or broken way holds back: a write is taken as its register takes it, where RW bits store and W1C bits written as 1 clear; a read returns the register's value and its RC fields go back to their reset values; an access that names no register sets UNMAPPED and reads 0; one of another width or alignment is an access fault; one to a stopped die faults after 100 µs; one that waits is performed once the way is free (R8, R9, R336, R502 to R507). A host core's load returns the bytes of a line that it holds, a store is buffered, an atomic works on a line in M, and an SC without its reservation fails (R311, R324, R333, R338). A host write adds to a tally, at once or after a compute reset (R342, R506). -/
def Obligations.RegistersAndHostCores : Prop :=
  (∀ (s : State) (hart : Hart) (addr : BitVec 52) (p : Place) (u : State), running s = true → hartWaits s hart.val = false → (getHart s hart.val).gated = false → (getHart s hart.val).inReset = false →
    placeOf addr.toNat = some p → ((getHart s hart.val).regWrites.all fun w => !sameRegion addr.toNat w.1) = true → u = setHart s hart.val (getHart s hart.val) →
    (∀ width : Byte, width ≠ 8 ∨ addr.toNat % 8 ≠ 0 → exec (.registerMisaligned hart addr width) s = .next (agentFault u hart.val { cls := 0x0E, cause := 0, addr := BitVec.ofNat 64 addr.toNat }))
    ∧ (addr.toNat % 8 = 0 → deadDie s p = true → exec (.registerDeadDieTimeout hart addr) s = .next (agentFault (advanceTo s (s.now + usT 100)) hart.val { cls := 0x0E, cause := 1, addr := BitVec.ofNat 64 addr.toNat }))
    ∧ (addr.toNat % 8 = 0 → deadDie s p = false → regStuck u hart.val p addr.toNat = false → regBehind s hart.val addr.toNat = false →
      (∀ (w : RegView) (v : W64), viewAt u p = some w →
        ((p.slot = 0x0E → p.off < 0x1000) → (∀ k, p.slot = 0x0F → nth p.off 0x20000 8 16384 = some k → clearsValid u k v = false ∨ bitAt (mapEntry (placeWrite u p addr.toNat w.reg v) k) 0 = false) →
          exec (.registerWrite hart addr v) s = .next (placeWrite u p addr.toNat w.reg v))
        ∧ (∀ t, t = placeWrite u p addr.toNat w.reg v →
          (∀ k, p.slot = 0x0F → nth p.off 0x20000 8 16384 = some k → clearsValid u k v = true → bitAt (mapEntry t k) 0 = true → exec (.registerWrite hart addr v) s = .next (holdAccess t hart.val addr.toNat true v))
          ∧ (p.slot = 0x0E → 0x1000 ≤ p.off → exec (.registerWrite hart addr v) s = .next (setHart t hart.val { getHart t hart.val with inval := some ((p.off - 0x1000) / 16) })))
        ∧ (p.slot = 0 ∨ p.slot = 0x16 → reservedFields p v = [] → w.reg.rw ||| w.reg.w1c ≠ 0 → Answers (.registerWrite hart addr v) s fun t =>
          getR t w.reg = ((getR s w.reg &&& ~~~w.reg.rw) ||| (v &&& w.reg.rw)) &&& ~~~(v &&& w.reg.w1c) ∧ t = { u with rf := t.rf })
        ∧ ((p.slot = 0x10 → 0x10000 ≤ p.off ∨ p.off % 64 ≠ 8) → (p.slot = 0x0D → p.off < 0x40000 ∨ p.off % 256 ≠ 0x50) → w.reg.rc = 0 → exec (.registerReadClear hart addr) s = .next (setHart u hart.val { getHart s hart.val with result := viewValue u w }))
        ∧ ((p.slot = 0x10 → 0x10000 ≤ p.off ∨ p.off % 64 ≠ 8) → (p.slot = 0x0D → p.off < 0x40000 ∨ p.off % 256 ≠ 0x50) → w.reg.rc ≠ 0 → Answers (.registerReadClear hart addr) s fun t =>
          (getHart t hart.val).result = viewValue u w ∧ getR t w.reg = (getR s w.reg &&& ~~~w.reg.rc) ||| (w.reg.reset &&& w.reg.rc) ∧ t = { s with rf := t.rf, harts := t.harts }))
      ∧ (viewAt s p = none → viewAt u p = none → (p.slot = 0x0E → p.off < 0x1000) → (p.slot = 0x0F → nth p.off 0x20000 8 16384 = none) →
        exec (.unmappedAccess hart addr true) s = .next (setR (raise u Reg.idStatus 0) Reg.idLastAddr (BitVec.ofNat 64 addr.toNat))
        ∧ exec (.unmappedAccess hart addr false) s = .next (setHart (setR (raise u Reg.idStatus 0) Reg.idLastAddr (BitVec.ofNat 64 addr.toNat)) hart.val { getHart s hart.val with result := 0 }))))
  ∧ (∀ (s : State) (hart : Hart) (addr : BitVec 52) (write : Bool) (v : W64) (p : Place) (rest : List (Nat × Nat × Bool × W64)), running s = true →
    s.err.held = (hart.val, addr.toNat, write, v) :: rest → placeOf addr.toNat = some p → coveredReg addr.toNat = false ∨ s.err.phase = 0 → regStuck s hart.val p addr.toNat = false →
    exec (.registerAccessHeld hart addr write v) s = .next (regPerform { s with err := { s.err with held := rest } } hart.val p addr.toNat write v))
  ∧ (∀ (s : State) (h : Hart) (c : HartState) (u : State), running s = true → hartRuns s h.val = true → hartWaits s h.val = false → c = { getHart s h.val with accessFault := false } → u = setHart s h.val c →
    (∀ op, exec (.hostCoreLoadStore h op) s = .next (hostDo (if op = .taken then s else u) h op))
    ∧ (∀ a w, inRegSpace a.toNat = false → c.loads.length < 128 → exec (.hostCoreLoadStore h (.loadBegin a w)) s = .next (setHart u h.val { c with loads := c.loads ++ [{ addr := a.toNat, bytes := 2 ^ w.val }] }))
    ∧ (∀ a w, inRegSpace a.toNat = false → c.loads = [] → c.stores = [] → a.toNat % 64 + 2 ^ w.val ≤ 64 → lineOk u (a.toNat / 64) = true → (getCopy s h.val (a.toNat / 64)).st ≠ .i →
      exec (.hostCoreLoadStore h (.load a w)) s = .next (setHart u h.val { c with result := BitVec.ofNat 64 (leNat (((lineBytes (getCopy s h.val (a.toNat / 64)).data).drop (a.toNat % 64)).take (2 ^ w.val))) }))
    ∧ (∀ a w v, inRegSpace a.toNat = false → c.loads = [] → (∀ q ∈ linePieces a.toNat (2 ^ w.val), lineOk u (q.1 / 64) = true) →
      exec (.hostCoreLoadStore h (.store a w v)) s = .next (setHart u h.val { c with stores := c.stores ++ [⟨a.toNat, bytesOf (2 ^ w.val) v.toNat⟩] }))
    ∧ (∀ a wide v aq rl, c.reservation ≠ some (a.toNat / 64) → exec (.hostCoreLoadStore h (.storeConditional a wide v aq rl)) s = .next (setHart u h.val { c with reservation := none, result := 1 }))
    ∧ (c.stores = [] → exec (.hostCoreLoadStore h .fenceI) s = .next (setHart u h.val { c with fetched := [] }))
    ∧ (∀ a wide op x aq rl, inRegSpace a.toNat = false → a.toNat % (if wide then 8 else 4) = 0 → c.loads = [] → c.stores = [] → lineOk u (a.toNat / 64) = true → (getCopy s h.val (a.toNat / 64)).st = .m →
      Answers (.hostCoreLoadStore h (.amo a wide op x aq rl)) s fun t => ∃ old, old = lineWord (getCopy s h.val (a.toNat / 64)).data (a.toNat % 64) wide
        ∧ (getHart t h.val).result = hostWord wide old
        ∧ (getCopy t h.val (a.toNat / 64)).data = patchLine (getCopy s h.val (a.toNat / 64)).data (a.toNat % 64) (bytesOf (if wide then 8 else 4) (atomResult op wide old x 0).toNat)
        ∧ t = { s with coh := t.coh, harts := t.harts }))
  ∧ (∀ (s : State) (d : CDie) (level : TallyLevel) (index : Fin 4096) (v : W32), running s = true → bitAt s.brd.clockLost d.val = false →
    (s.err.phase < 2 → Answers (.dieTallyAdd d level index v) s fun t =>
      (∀ k, smGet 0 t.tallies k = if k = windowTally d level index.val then smGet 0 s.tallies k + v else smGet 0 s.tallies k) ∧ t = { s with tallies := t.tallies, stc := t.stc })
    ∧ (2 ≤ s.err.phase → exec (.dieTallyAdd d level index v) s = .next { s with err := { s.err with heldAdds := s.err.heldAdds ++ [(windowTally d level index.val, v)] } }))

/-! ### Reset -/

/-- At the release of RESET_N after power-on no command waits, start-up stands in RESET, the clocks run, no context is resident, no line is cached, no link is up, memory is in its canonical form, and the registers read the reset values of their tables: of the engines, memory, coherence, links, stitch, power, faults, security, start-up and identification (Tables 7-11, 8-6, 9-7, 11-9, 14-12, 15-4, 16-3, 17-12, 18-8, 19-5, 20-4). That the stores are empty and the links down is the model's choice (log entry 21). -/
def Obligations.ResetValues : Prop :=
  State.reset.pending = [] ∧ State.reset.boot.phase = 1 ∧ running State.reset = true ∧ Memory.wf State.reset.mem
  ∧ (∀ c, getCtx State.reset c = none) ∧ (∀ a line, (getCopy State.reset a line).st = .i) ∧ (∀ l, (getLink State.reset l).phase = .down)
  ∧ (∀ d, getR State.reset (Reg.dspCtrl d) = 0xC80000 ∧ getR State.reset (Reg.dcCtrl d) = 0x802)
  ∧ getR State.reset Reg.teCtrl = 0x1801000 ∧ (∀ st, getR State.reset (Reg.stkCtrl st) = 0 ∧ getR State.reset (Reg.stkPrio st) = 0x400800010)
  ∧ (∀ d, getR State.reset (Reg.dieCohCtrl d) = 0x200) ∧ getR State.reset Reg.xfE2e = 0x200 ∧ (∀ n, getR State.reset (Reg.xfRoute n) = 0x20)
  ∧ getR State.reset Reg.stcPeriod = 0x64000030D4 ∧ getR State.reset Reg.stcP2share = 0x40004000400 ∧ getR State.reset Reg.pwrMbox = 0x100000E10
  ∧ (∀ h, getR State.reset (Reg.errQCtrl h) = 0x100 ∧ getR State.reset (Reg.errWdog h) = 0x108) ∧ getR State.reset Reg.thmCtrl = 0
  ∧ State.reset.sec.wipeBusy = true ∧ getR State.reset Reg.mgtBoot = 1 ∧ getR State.reset Reg.idVersion = 0x10001 ∧ getR State.reset Reg.idStatus = 0
end

