-- ==== Sys2Proof/Laws/SMap.lean ====
section
/-! SUPPORT. Laws of sparse maps: a read after a write, and the canonical form under every operation. -/

namespace Sys2Proof.Machine

variable {α : Type} {d : α} {m : SMap α}

theorem smGet_erase_self (k : Nat) : smGet d (smErase m k) k = d := by
  induction m with
  | nil => rfl
  | cons e t ih => obtain ⟨i, v⟩ := e; by_cases h : i = k <;> simp [smErase, smGet, h, ih]

theorem smGet_erase_ne {k j : Nat} (h : j ≠ k) : smGet d (smErase m k) j = smGet d m j := by
  have hk : ¬ k = j := fun h' => h h'.symm
  induction m with
  | nil => rfl
  | cons e t ih =>
    obtain ⟨i, v⟩ := e
    by_cases hi : i = k
    · subst hi; simp [smErase, smGet, ih, hk]
    · simp [smErase, smGet, hi, ih]

theorem smGet_insert_self (k : Nat) (v : α) (h : ∀ e ∈ m, e.1 ≠ k) : smGet d (smInsert m k v) k = v := by
  induction m with
  | nil => simp [smInsert, smGet]
  | cons e t ih =>
    obtain ⟨i, w⟩ := e
    have hi : i ≠ k := h (i, w) (List.mem_cons_self ..)
    simp only [smInsert]
    split
    · simp [smGet]
    · simpa [smGet, hi] using ih fun e he => h e (List.mem_cons_of_mem _ he)

theorem smGet_insert_ne {k j : Nat} (v : α) (h : j ≠ k) : smGet d (smInsert m k v) j = smGet d m j := by
  have hk : ¬ k = j := fun h' => h h'.symm
  induction m with
  | nil => simp only [smInsert, smGet, hk, if_false]
  | cons e t ih =>
    obtain ⟨i, w⟩ := e
    simp only [smInsert]
    split
    · simp only [smGet, hk, if_false]
    · simp only [smGet, ih]

theorem smErase_eq_filter (m : SMap α) (k : Nat) : smErase m k = m.filter fun e => !decide (e.1 = k) := by
  induction m with
  | nil => rfl
  | cons e t ih => obtain ⟨i, v⟩ := e; by_cases hk : i = k <;> simp [smErase, hk, ih]

/-- What was written is read back. -/
@[simp] theorem smGet_set_self [DecidableEq α] (k : Nat) (v : α) : smGet d (smSet d m k v) k = v := by
  unfold smSet
  split
  · rename_i h; rw [smGet_erase_self, h]
  · exact smGet_insert_self k v fun e he => by
      rw [smErase_eq_filter] at he
      simpa using (List.mem_filter.1 he).2

/-- Every other key reads as before, whatever its unlisted value is. -/
theorem smGet_set_ne [DecidableEq α] {e : α} {k j : Nat} (v : α) (h : j ≠ k) : smGet e (smSet d m k v) j = smGet e m j := by
  unfold smSet
  split
  · exact smGet_erase_ne h
  · rw [smGet_insert_ne v h, smGet_erase_ne h]

theorem smGet_set [DecidableEq α] (k j : Nat) (v : α) : smGet d (smSet d m k v) j = if j = k then v else smGet d m j := by
  split
  · rename_i h; subst h; exact smGet_set_self _ v
  · rename_i h; exact smGet_set_ne v h

/-- A run of writes changes the keys it names and no other. -/
theorem smGet_setRange [DecidableEq α] (k j : Nat) (vs : List α) :
    smGet d (smSetRange d m k vs) j = if k ≤ j ∧ j < k + vs.length then vs.getD (j - k) d else smGet d m j := by
  induction vs generalizing k m with
  | nil => simp [smSetRange]
  | cons v t ih =>
    rw [smSetRange, ih, smGet_set]
    by_cases hj : j = k
    · subst hj; simp
    · by_cases hr : k + 1 ≤ j ∧ j < k + 1 + t.length
      · have h1 : k ≤ j ∧ j < k + (v :: t).length := by simp only [List.length_cons]; omega
        have h2 : j - k = (j - (k + 1)) + 1 := by omega
        simp only [hr, h1, hj, and_self, if_true]
        rw [h2]; simp
      · have h1 : ¬ (k ≤ j ∧ j < k + (v :: t).length) := by simp only [List.length_cons]; omega
        simp only [hr, h1, hj, if_false]

theorem smGet_filter_ne {p : Nat × α → Bool} {k : Nat} (h : ∀ v, p (k, v) = true) : smGet d (m.filter p) k = smGet d m k := by
  induction m with
  | nil => rfl
  | cons e t ih =>
    obtain ⟨i, v⟩ := e
    by_cases hi : i = k
    · subst hi; simp [List.filter, h, smGet]
    · by_cases hp : p (i, v) <;> simp [List.filter, hp, smGet, hi, ih]

theorem smGet_filter_none {p : Nat × α → Bool} {k : Nat} (h : ∀ v, p (k, v) = false) : smGet d (m.filter p) k = d := by
  induction m with
  | nil => rfl
  | cons e t ih =>
    obtain ⟨i, v⟩ := e
    by_cases hi : i = k
    · subst hi; simp [List.filter, h, ih]
    · by_cases hp : p (i, v) <;> simp [List.filter, hp, smGet, hi, ih]

theorem smGet_clear (lo hi k : Nat) : smGet d (smClear m lo hi) k = if lo ≤ k ∧ k < hi then d else smGet d m k := by
  unfold smClear
  split
  · rename_i h; exact smGet_filter_none fun v => by simp [h]
  · rename_i h; exact smGet_filter_ne fun v => by simp; omega

/-! ### The canonical form -/

theorem smWf_nil [DecidableEq α] : smWf d ([] : SMap α) := ⟨List.Pairwise.nil, fun _ h => absurd h List.not_mem_nil⟩

theorem smWf_filter [DecidableEq α] (p : Nat × α → Bool) (h : smWf d m) : smWf d (m.filter p) :=
  ⟨h.1.filter p, fun e he => h.2 e (List.mem_of_mem_filter he)⟩

theorem smWf_erase [DecidableEq α] (k : Nat) (h : smWf d m) : smWf d (smErase m k) := by
  rw [smErase_eq_filter]; exact smWf_filter _ h

theorem smWf_clear [DecidableEq α] (lo hi : Nat) (h : smWf d m) : smWf d (smClear m lo hi) := smWf_filter _ h

theorem mem_smInsert {k : Nat} {v : α} {e : Nat × α} {m : SMap α} (h : e ∈ smInsert m k v) : e = (k, v) ∨ e ∈ m := by
  induction m with
  | nil => simpa [smInsert] using h
  | cons a t ih =>
    obtain ⟨i, w⟩ := a
    simp only [smInsert] at h
    split at h
    · simpa using h
    · rcases List.mem_cons.1 h with rfl | h
      · exact Or.inr (List.mem_cons_self ..)
      · rcases ih h with rfl | h
        · exact Or.inl rfl
        · exact Or.inr (List.mem_cons_of_mem _ h)

theorem smWf_insert [DecidableEq α] {k : Nat} {v : α} (hv : v ≠ d) (hk : ∀ e ∈ m, e.1 ≠ k) (h : smWf d m) : smWf d (smInsert m k v) := by
  refine ⟨?_, fun e he => ?_⟩
  · have hp := h.1
    clear h
    induction m with
    | nil => simp [smInsert]
    | cons a t ih =>
      obtain ⟨i, w⟩ := a
      have ht := List.pairwise_cons.1 hp
      simp only [smInsert]
      split
      · rename_i hlt
        refine List.pairwise_cons.2 ⟨fun e he => ?_, hp⟩
        rcases List.mem_cons.1 he with rfl | he
        · exact hlt
        · exact Nat.lt_trans hlt (ht.1 e he)
      · rename_i hge
        refine List.pairwise_cons.2 ⟨fun e he => ?_, ih (fun e he => hk e (List.mem_cons_of_mem _ he)) ht.2⟩
        rcases mem_smInsert he with rfl | he
        · have := hk (i, w) (List.mem_cons_self ..)
          simp only at *
          omega
        · exact ht.1 e he
  · rcases mem_smInsert he with rfl | he
    · exact hv
    · exact h.2 e he

theorem smWf_set [DecidableEq α] (k : Nat) (v : α) (h : smWf d m) : smWf d (smSet d m k v) := by
  unfold smSet
  split
  · exact smWf_erase k h
  · rename_i hv
    refine smWf_insert hv (fun e he => ?_) (smWf_erase k h)
    rw [smErase_eq_filter] at he
    simpa using (List.mem_filter.1 he).2

theorem smWf_setRange [DecidableEq α] (k : Nat) (vs : List α) (h : smWf d m) : smWf d (smSetRange d m k vs) := by
  induction vs generalizing k m with
  | nil => exact h
  | cons v t ih => exact ih (k + 1) (smWf_set k v h)

end Sys2Proof.Machine
end

