-- ==== Sys2Proof/Laws/State.lean ====
section
/-! SUPPORT. One lemma for each field under each named update of the state, and what each accessor reads after it. -/

namespace Sys2Proof.Machine

/-! ### `setR` -/

@[simp] theorem setR_pending (s : State) (r : Reg) (v : W64) : (setR s r v).pending = s.pending := rfl
@[simp] theorem setR_now (s : State) (r : Reg) (v : W64) : (setR s r v).now = s.now := rfl
@[simp] theorem setR_draws (s : State) (r : Reg) (v : W64) : (setR s r v).draws = s.draws := rfl
@[simp] theorem setR_eng (s : State) (r : Reg) (v : W64) : (setR s r v).eng = s.eng := rfl
@[simp] theorem setR_cl (s : State) (r : Reg) (v : W64) : (setR s r v).cl = s.cl := rfl
@[simp] theorem setR_tallies (s : State) (r : Reg) (v : W64) : (setR s r v).tallies = s.tallies := rfl
@[simp] theorem setR_dsp (s : State) (r : Reg) (v : W64) : (setR s r v).dsp = s.dsp := rfl
@[simp] theorem setR_ses (s : State) (r : Reg) (v : W64) : (setR s r v).ses = s.ses := rfl
@[simp] theorem setR_parts (s : State) (r : Reg) (v : W64) : (setR s r v).parts = s.parts := rfl
@[simp] theorem setR_partWipe (s : State) (r : Reg) (v : W64) : (setR s r v).partWipe = s.partWipe := rfl
@[simp] theorem setR_ctrls (s : State) (r : Reg) (v : W64) : (setR s r v).ctrls = s.ctrls := rfl
@[simp] theorem setR_mem (s : State) (r : Reg) (v : W64) : (setR s r v).mem = s.mem := rfl
@[simp] theorem setR_coh (s : State) (r : Reg) (v : W64) : (setR s r v).coh = s.coh := rfl
@[simp] theorem setR_xlt (s : State) (r : Reg) (v : W64) : (setR s r v).xlt = s.xlt := rfl
@[simp] theorem setR_harts (s : State) (r : Reg) (v : W64) : (setR s r v).harts = s.harts := rfl
@[simp] theorem setR_orf (s : State) (r : Reg) (v : W64) : (setR s r v).orf = s.orf := rfl
@[simp] theorem setR_fab (s : State) (r : Reg) (v : W64) : (setR s r v).fab = s.fab := rfl
@[simp] theorem setR_mir (s : State) (r : Reg) (v : W64) : (setR s r v).mir = s.mir := rfl
@[simp] theorem setR_stc (s : State) (r : Reg) (v : W64) : (setR s r v).stc = s.stc := rfl
@[simp] theorem setR_pwr (s : State) (r : Reg) (v : W64) : (setR s r v).pwr = s.pwr := rfl
@[simp] theorem setR_err (s : State) (r : Reg) (v : W64) : (setR s r v).err = s.err := rfl
@[simp] theorem setR_sec (s : State) (r : Reg) (v : W64) : (setR s r v).sec = s.sec := rfl
@[simp] theorem setR_boot (s : State) (r : Reg) (v : W64) : (setR s r v).boot = s.boot := rfl
@[simp] theorem setR_brd (s : State) (r : Reg) (v : W64) : (setR s r v).brd = s.brd := rfl

/-! ### `setSlot` -/

@[simp] theorem setSlot_pending (s : State) (c : CtxId) (v : Slot) : (setSlot s c v).pending = s.pending := rfl
@[simp] theorem setSlot_now (s : State) (c : CtxId) (v : Slot) : (setSlot s c v).now = s.now := rfl
@[simp] theorem setSlot_draws (s : State) (c : CtxId) (v : Slot) : (setSlot s c v).draws = s.draws := rfl
@[simp] theorem setSlot_rf (s : State) (c : CtxId) (v : Slot) : (setSlot s c v).rf = s.rf := rfl
@[simp] theorem setSlot_cl (s : State) (c : CtxId) (v : Slot) : (setSlot s c v).cl = s.cl := rfl
@[simp] theorem setSlot_tallies (s : State) (c : CtxId) (v : Slot) : (setSlot s c v).tallies = s.tallies := rfl
@[simp] theorem setSlot_dsp (s : State) (c : CtxId) (v : Slot) : (setSlot s c v).dsp = s.dsp := rfl
@[simp] theorem setSlot_ses (s : State) (c : CtxId) (v : Slot) : (setSlot s c v).ses = s.ses := rfl
@[simp] theorem setSlot_parts (s : State) (c : CtxId) (v : Slot) : (setSlot s c v).parts = s.parts := rfl
@[simp] theorem setSlot_partWipe (s : State) (c : CtxId) (v : Slot) : (setSlot s c v).partWipe = s.partWipe := rfl
@[simp] theorem setSlot_ctrls (s : State) (c : CtxId) (v : Slot) : (setSlot s c v).ctrls = s.ctrls := rfl
@[simp] theorem setSlot_mem (s : State) (c : CtxId) (v : Slot) : (setSlot s c v).mem = s.mem := rfl
@[simp] theorem setSlot_coh (s : State) (c : CtxId) (v : Slot) : (setSlot s c v).coh = s.coh := rfl
@[simp] theorem setSlot_xlt (s : State) (c : CtxId) (v : Slot) : (setSlot s c v).xlt = s.xlt := rfl
@[simp] theorem setSlot_harts (s : State) (c : CtxId) (v : Slot) : (setSlot s c v).harts = s.harts := rfl
@[simp] theorem setSlot_orf (s : State) (c : CtxId) (v : Slot) : (setSlot s c v).orf = s.orf := rfl
@[simp] theorem setSlot_fab (s : State) (c : CtxId) (v : Slot) : (setSlot s c v).fab = s.fab := rfl
@[simp] theorem setSlot_mir (s : State) (c : CtxId) (v : Slot) : (setSlot s c v).mir = s.mir := rfl
@[simp] theorem setSlot_stc (s : State) (c : CtxId) (v : Slot) : (setSlot s c v).stc = s.stc := rfl
@[simp] theorem setSlot_pwr (s : State) (c : CtxId) (v : Slot) : (setSlot s c v).pwr = s.pwr := rfl
@[simp] theorem setSlot_err (s : State) (c : CtxId) (v : Slot) : (setSlot s c v).err = s.err := rfl
@[simp] theorem setSlot_sec (s : State) (c : CtxId) (v : Slot) : (setSlot s c v).sec = s.sec := rfl
@[simp] theorem setSlot_boot (s : State) (c : CtxId) (v : Slot) : (setSlot s c v).boot = s.boot := rfl
@[simp] theorem setSlot_brd (s : State) (c : CtxId) (v : Slot) : (setSlot s c v).brd = s.brd := rfl

/-! ### `setTe` -/

@[simp] theorem setTe_pending (s : State) (te : TeId) (v : Te) : (setTe s te v).pending = s.pending := rfl
@[simp] theorem setTe_now (s : State) (te : TeId) (v : Te) : (setTe s te v).now = s.now := rfl
@[simp] theorem setTe_draws (s : State) (te : TeId) (v : Te) : (setTe s te v).draws = s.draws := rfl
@[simp] theorem setTe_rf (s : State) (te : TeId) (v : Te) : (setTe s te v).rf = s.rf := rfl
@[simp] theorem setTe_cl (s : State) (te : TeId) (v : Te) : (setTe s te v).cl = s.cl := rfl
@[simp] theorem setTe_tallies (s : State) (te : TeId) (v : Te) : (setTe s te v).tallies = s.tallies := rfl
@[simp] theorem setTe_dsp (s : State) (te : TeId) (v : Te) : (setTe s te v).dsp = s.dsp := rfl
@[simp] theorem setTe_ses (s : State) (te : TeId) (v : Te) : (setTe s te v).ses = s.ses := rfl
@[simp] theorem setTe_parts (s : State) (te : TeId) (v : Te) : (setTe s te v).parts = s.parts := rfl
@[simp] theorem setTe_partWipe (s : State) (te : TeId) (v : Te) : (setTe s te v).partWipe = s.partWipe := rfl
@[simp] theorem setTe_ctrls (s : State) (te : TeId) (v : Te) : (setTe s te v).ctrls = s.ctrls := rfl
@[simp] theorem setTe_mem (s : State) (te : TeId) (v : Te) : (setTe s te v).mem = s.mem := rfl
@[simp] theorem setTe_coh (s : State) (te : TeId) (v : Te) : (setTe s te v).coh = s.coh := rfl
@[simp] theorem setTe_xlt (s : State) (te : TeId) (v : Te) : (setTe s te v).xlt = s.xlt := rfl
@[simp] theorem setTe_harts (s : State) (te : TeId) (v : Te) : (setTe s te v).harts = s.harts := rfl
@[simp] theorem setTe_orf (s : State) (te : TeId) (v : Te) : (setTe s te v).orf = s.orf := rfl
@[simp] theorem setTe_fab (s : State) (te : TeId) (v : Te) : (setTe s te v).fab = s.fab := rfl
@[simp] theorem setTe_mir (s : State) (te : TeId) (v : Te) : (setTe s te v).mir = s.mir := rfl
@[simp] theorem setTe_stc (s : State) (te : TeId) (v : Te) : (setTe s te v).stc = s.stc := rfl
@[simp] theorem setTe_pwr (s : State) (te : TeId) (v : Te) : (setTe s te v).pwr = s.pwr := rfl
@[simp] theorem setTe_err (s : State) (te : TeId) (v : Te) : (setTe s te v).err = s.err := rfl
@[simp] theorem setTe_sec (s : State) (te : TeId) (v : Te) : (setTe s te v).sec = s.sec := rfl
@[simp] theorem setTe_boot (s : State) (te : TeId) (v : Te) : (setTe s te v).boot = s.boot := rfl
@[simp] theorem setTe_brd (s : State) (te : TeId) (v : Te) : (setTe s te v).brd = s.brd := rfl

/-! ### `setGroup` -/

@[simp] theorem setGroup_pending (s : State) (te : TeId) (g : GroupId) (v : Group) : (setGroup s te g v).pending = s.pending := rfl
@[simp] theorem setGroup_now (s : State) (te : TeId) (g : GroupId) (v : Group) : (setGroup s te g v).now = s.now := rfl
@[simp] theorem setGroup_draws (s : State) (te : TeId) (g : GroupId) (v : Group) : (setGroup s te g v).draws = s.draws := rfl
@[simp] theorem setGroup_rf (s : State) (te : TeId) (g : GroupId) (v : Group) : (setGroup s te g v).rf = s.rf := rfl
@[simp] theorem setGroup_cl (s : State) (te : TeId) (g : GroupId) (v : Group) : (setGroup s te g v).cl = s.cl := rfl
@[simp] theorem setGroup_tallies (s : State) (te : TeId) (g : GroupId) (v : Group) : (setGroup s te g v).tallies = s.tallies := rfl
@[simp] theorem setGroup_dsp (s : State) (te : TeId) (g : GroupId) (v : Group) : (setGroup s te g v).dsp = s.dsp := rfl
@[simp] theorem setGroup_ses (s : State) (te : TeId) (g : GroupId) (v : Group) : (setGroup s te g v).ses = s.ses := rfl
@[simp] theorem setGroup_parts (s : State) (te : TeId) (g : GroupId) (v : Group) : (setGroup s te g v).parts = s.parts := rfl
@[simp] theorem setGroup_partWipe (s : State) (te : TeId) (g : GroupId) (v : Group) : (setGroup s te g v).partWipe = s.partWipe := rfl
@[simp] theorem setGroup_ctrls (s : State) (te : TeId) (g : GroupId) (v : Group) : (setGroup s te g v).ctrls = s.ctrls := rfl
@[simp] theorem setGroup_mem (s : State) (te : TeId) (g : GroupId) (v : Group) : (setGroup s te g v).mem = s.mem := rfl
@[simp] theorem setGroup_coh (s : State) (te : TeId) (g : GroupId) (v : Group) : (setGroup s te g v).coh = s.coh := rfl
@[simp] theorem setGroup_xlt (s : State) (te : TeId) (g : GroupId) (v : Group) : (setGroup s te g v).xlt = s.xlt := rfl
@[simp] theorem setGroup_harts (s : State) (te : TeId) (g : GroupId) (v : Group) : (setGroup s te g v).harts = s.harts := rfl
@[simp] theorem setGroup_orf (s : State) (te : TeId) (g : GroupId) (v : Group) : (setGroup s te g v).orf = s.orf := rfl
@[simp] theorem setGroup_fab (s : State) (te : TeId) (g : GroupId) (v : Group) : (setGroup s te g v).fab = s.fab := rfl
@[simp] theorem setGroup_mir (s : State) (te : TeId) (g : GroupId) (v : Group) : (setGroup s te g v).mir = s.mir := rfl
@[simp] theorem setGroup_stc (s : State) (te : TeId) (g : GroupId) (v : Group) : (setGroup s te g v).stc = s.stc := rfl
@[simp] theorem setGroup_pwr (s : State) (te : TeId) (g : GroupId) (v : Group) : (setGroup s te g v).pwr = s.pwr := rfl
@[simp] theorem setGroup_err (s : State) (te : TeId) (g : GroupId) (v : Group) : (setGroup s te g v).err = s.err := rfl
@[simp] theorem setGroup_sec (s : State) (te : TeId) (g : GroupId) (v : Group) : (setGroup s te g v).sec = s.sec := rfl
@[simp] theorem setGroup_boot (s : State) (te : TeId) (g : GroupId) (v : Group) : (setGroup s te g v).boot = s.boot := rfl
@[simp] theorem setGroup_brd (s : State) (te : TeId) (g : GroupId) (v : Group) : (setGroup s te g v).brd = s.brd := rfl

/-! ### `setVreg` -/

@[simp] theorem setVreg_pending (s : State) (c : CtxId) (r : Nat) (v : List W32) : (setVreg s c r v).pending = s.pending := rfl
@[simp] theorem setVreg_now (s : State) (c : CtxId) (r : Nat) (v : List W32) : (setVreg s c r v).now = s.now := rfl
@[simp] theorem setVreg_draws (s : State) (c : CtxId) (r : Nat) (v : List W32) : (setVreg s c r v).draws = s.draws := rfl
@[simp] theorem setVreg_rf (s : State) (c : CtxId) (r : Nat) (v : List W32) : (setVreg s c r v).rf = s.rf := rfl
@[simp] theorem setVreg_cl (s : State) (c : CtxId) (r : Nat) (v : List W32) : (setVreg s c r v).cl = s.cl := rfl
@[simp] theorem setVreg_tallies (s : State) (c : CtxId) (r : Nat) (v : List W32) : (setVreg s c r v).tallies = s.tallies := rfl
@[simp] theorem setVreg_dsp (s : State) (c : CtxId) (r : Nat) (v : List W32) : (setVreg s c r v).dsp = s.dsp := rfl
@[simp] theorem setVreg_ses (s : State) (c : CtxId) (r : Nat) (v : List W32) : (setVreg s c r v).ses = s.ses := rfl
@[simp] theorem setVreg_parts (s : State) (c : CtxId) (r : Nat) (v : List W32) : (setVreg s c r v).parts = s.parts := rfl
@[simp] theorem setVreg_partWipe (s : State) (c : CtxId) (r : Nat) (v : List W32) : (setVreg s c r v).partWipe = s.partWipe := rfl
@[simp] theorem setVreg_ctrls (s : State) (c : CtxId) (r : Nat) (v : List W32) : (setVreg s c r v).ctrls = s.ctrls := rfl
@[simp] theorem setVreg_mem (s : State) (c : CtxId) (r : Nat) (v : List W32) : (setVreg s c r v).mem = s.mem := rfl
@[simp] theorem setVreg_coh (s : State) (c : CtxId) (r : Nat) (v : List W32) : (setVreg s c r v).coh = s.coh := rfl
@[simp] theorem setVreg_xlt (s : State) (c : CtxId) (r : Nat) (v : List W32) : (setVreg s c r v).xlt = s.xlt := rfl
@[simp] theorem setVreg_harts (s : State) (c : CtxId) (r : Nat) (v : List W32) : (setVreg s c r v).harts = s.harts := rfl
@[simp] theorem setVreg_orf (s : State) (c : CtxId) (r : Nat) (v : List W32) : (setVreg s c r v).orf = s.orf := rfl
@[simp] theorem setVreg_fab (s : State) (c : CtxId) (r : Nat) (v : List W32) : (setVreg s c r v).fab = s.fab := rfl
@[simp] theorem setVreg_mir (s : State) (c : CtxId) (r : Nat) (v : List W32) : (setVreg s c r v).mir = s.mir := rfl
@[simp] theorem setVreg_stc (s : State) (c : CtxId) (r : Nat) (v : List W32) : (setVreg s c r v).stc = s.stc := rfl
@[simp] theorem setVreg_pwr (s : State) (c : CtxId) (r : Nat) (v : List W32) : (setVreg s c r v).pwr = s.pwr := rfl
@[simp] theorem setVreg_err (s : State) (c : CtxId) (r : Nat) (v : List W32) : (setVreg s c r v).err = s.err := rfl
@[simp] theorem setVreg_sec (s : State) (c : CtxId) (r : Nat) (v : List W32) : (setVreg s c r v).sec = s.sec := rfl
@[simp] theorem setVreg_boot (s : State) (c : CtxId) (r : Nat) (v : List W32) : (setVreg s c r v).boot = s.boot := rfl
@[simp] theorem setVreg_brd (s : State) (c : CtxId) (r : Nat) (v : List W32) : (setVreg s c r v).brd = s.brd := rfl

/-! ### `setVmask` -/

@[simp] theorem setVmask_pending (s : State) (c : CtxId) (r : Nat) (v : BitVec 256) : (setVmask s c r v).pending = s.pending := rfl
@[simp] theorem setVmask_now (s : State) (c : CtxId) (r : Nat) (v : BitVec 256) : (setVmask s c r v).now = s.now := rfl
@[simp] theorem setVmask_draws (s : State) (c : CtxId) (r : Nat) (v : BitVec 256) : (setVmask s c r v).draws = s.draws := rfl
@[simp] theorem setVmask_rf (s : State) (c : CtxId) (r : Nat) (v : BitVec 256) : (setVmask s c r v).rf = s.rf := rfl
@[simp] theorem setVmask_cl (s : State) (c : CtxId) (r : Nat) (v : BitVec 256) : (setVmask s c r v).cl = s.cl := rfl
@[simp] theorem setVmask_tallies (s : State) (c : CtxId) (r : Nat) (v : BitVec 256) : (setVmask s c r v).tallies = s.tallies := rfl
@[simp] theorem setVmask_dsp (s : State) (c : CtxId) (r : Nat) (v : BitVec 256) : (setVmask s c r v).dsp = s.dsp := rfl
@[simp] theorem setVmask_ses (s : State) (c : CtxId) (r : Nat) (v : BitVec 256) : (setVmask s c r v).ses = s.ses := rfl
@[simp] theorem setVmask_parts (s : State) (c : CtxId) (r : Nat) (v : BitVec 256) : (setVmask s c r v).parts = s.parts := rfl
@[simp] theorem setVmask_partWipe (s : State) (c : CtxId) (r : Nat) (v : BitVec 256) : (setVmask s c r v).partWipe = s.partWipe := rfl
@[simp] theorem setVmask_ctrls (s : State) (c : CtxId) (r : Nat) (v : BitVec 256) : (setVmask s c r v).ctrls = s.ctrls := rfl
@[simp] theorem setVmask_mem (s : State) (c : CtxId) (r : Nat) (v : BitVec 256) : (setVmask s c r v).mem = s.mem := rfl
@[simp] theorem setVmask_coh (s : State) (c : CtxId) (r : Nat) (v : BitVec 256) : (setVmask s c r v).coh = s.coh := rfl
@[simp] theorem setVmask_xlt (s : State) (c : CtxId) (r : Nat) (v : BitVec 256) : (setVmask s c r v).xlt = s.xlt := rfl
@[simp] theorem setVmask_harts (s : State) (c : CtxId) (r : Nat) (v : BitVec 256) : (setVmask s c r v).harts = s.harts := rfl
@[simp] theorem setVmask_orf (s : State) (c : CtxId) (r : Nat) (v : BitVec 256) : (setVmask s c r v).orf = s.orf := rfl
@[simp] theorem setVmask_fab (s : State) (c : CtxId) (r : Nat) (v : BitVec 256) : (setVmask s c r v).fab = s.fab := rfl
@[simp] theorem setVmask_mir (s : State) (c : CtxId) (r : Nat) (v : BitVec 256) : (setVmask s c r v).mir = s.mir := rfl
@[simp] theorem setVmask_stc (s : State) (c : CtxId) (r : Nat) (v : BitVec 256) : (setVmask s c r v).stc = s.stc := rfl
@[simp] theorem setVmask_pwr (s : State) (c : CtxId) (r : Nat) (v : BitVec 256) : (setVmask s c r v).pwr = s.pwr := rfl
@[simp] theorem setVmask_err (s : State) (c : CtxId) (r : Nat) (v : BitVec 256) : (setVmask s c r v).err = s.err := rfl
@[simp] theorem setVmask_sec (s : State) (c : CtxId) (r : Nat) (v : BitVec 256) : (setVmask s c r v).sec = s.sec := rfl
@[simp] theorem setVmask_boot (s : State) (c : CtxId) (r : Nat) (v : BitVec 256) : (setVmask s c r v).boot = s.boot := rfl
@[simp] theorem setVmask_brd (s : State) (c : CtxId) (r : Nat) (v : BitVec 256) : (setVmask s c r v).brd = s.brd := rfl

/-! ### `tsWrite` -/

@[simp] theorem tsWrite_pending (s : State) (te : TeId) (a : Nat) (v : List Byte) : (tsWrite s te a v).pending = s.pending := rfl
@[simp] theorem tsWrite_now (s : State) (te : TeId) (a : Nat) (v : List Byte) : (tsWrite s te a v).now = s.now := rfl
@[simp] theorem tsWrite_draws (s : State) (te : TeId) (a : Nat) (v : List Byte) : (tsWrite s te a v).draws = s.draws := rfl
@[simp] theorem tsWrite_rf (s : State) (te : TeId) (a : Nat) (v : List Byte) : (tsWrite s te a v).rf = s.rf := rfl
@[simp] theorem tsWrite_cl (s : State) (te : TeId) (a : Nat) (v : List Byte) : (tsWrite s te a v).cl = s.cl := rfl
@[simp] theorem tsWrite_tallies (s : State) (te : TeId) (a : Nat) (v : List Byte) : (tsWrite s te a v).tallies = s.tallies := rfl
@[simp] theorem tsWrite_dsp (s : State) (te : TeId) (a : Nat) (v : List Byte) : (tsWrite s te a v).dsp = s.dsp := rfl
@[simp] theorem tsWrite_ses (s : State) (te : TeId) (a : Nat) (v : List Byte) : (tsWrite s te a v).ses = s.ses := rfl
@[simp] theorem tsWrite_parts (s : State) (te : TeId) (a : Nat) (v : List Byte) : (tsWrite s te a v).parts = s.parts := rfl
@[simp] theorem tsWrite_partWipe (s : State) (te : TeId) (a : Nat) (v : List Byte) : (tsWrite s te a v).partWipe = s.partWipe := rfl
@[simp] theorem tsWrite_ctrls (s : State) (te : TeId) (a : Nat) (v : List Byte) : (tsWrite s te a v).ctrls = s.ctrls := rfl
@[simp] theorem tsWrite_mem (s : State) (te : TeId) (a : Nat) (v : List Byte) : (tsWrite s te a v).mem = s.mem := rfl
@[simp] theorem tsWrite_coh (s : State) (te : TeId) (a : Nat) (v : List Byte) : (tsWrite s te a v).coh = s.coh := rfl
@[simp] theorem tsWrite_xlt (s : State) (te : TeId) (a : Nat) (v : List Byte) : (tsWrite s te a v).xlt = s.xlt := rfl
@[simp] theorem tsWrite_harts (s : State) (te : TeId) (a : Nat) (v : List Byte) : (tsWrite s te a v).harts = s.harts := rfl
@[simp] theorem tsWrite_orf (s : State) (te : TeId) (a : Nat) (v : List Byte) : (tsWrite s te a v).orf = s.orf := rfl
@[simp] theorem tsWrite_fab (s : State) (te : TeId) (a : Nat) (v : List Byte) : (tsWrite s te a v).fab = s.fab := rfl
@[simp] theorem tsWrite_mir (s : State) (te : TeId) (a : Nat) (v : List Byte) : (tsWrite s te a v).mir = s.mir := rfl
@[simp] theorem tsWrite_stc (s : State) (te : TeId) (a : Nat) (v : List Byte) : (tsWrite s te a v).stc = s.stc := rfl
@[simp] theorem tsWrite_pwr (s : State) (te : TeId) (a : Nat) (v : List Byte) : (tsWrite s te a v).pwr = s.pwr := rfl
@[simp] theorem tsWrite_err (s : State) (te : TeId) (a : Nat) (v : List Byte) : (tsWrite s te a v).err = s.err := rfl
@[simp] theorem tsWrite_sec (s : State) (te : TeId) (a : Nat) (v : List Byte) : (tsWrite s te a v).sec = s.sec := rfl
@[simp] theorem tsWrite_boot (s : State) (te : TeId) (a : Nat) (v : List Byte) : (tsWrite s te a v).boot = s.boot := rfl
@[simp] theorem tsWrite_brd (s : State) (te : TeId) (a : Nat) (v : List Byte) : (tsWrite s te a v).brd = s.brd := rfl

/-! ### `csWrite` -/

@[simp] theorem csWrite_pending (s : State) (cl : Fin 64) (a : Nat) (v : List Byte) : (csWrite s cl a v).pending = s.pending := rfl
@[simp] theorem csWrite_now (s : State) (cl : Fin 64) (a : Nat) (v : List Byte) : (csWrite s cl a v).now = s.now := rfl
@[simp] theorem csWrite_draws (s : State) (cl : Fin 64) (a : Nat) (v : List Byte) : (csWrite s cl a v).draws = s.draws := rfl
@[simp] theorem csWrite_rf (s : State) (cl : Fin 64) (a : Nat) (v : List Byte) : (csWrite s cl a v).rf = s.rf := rfl
@[simp] theorem csWrite_eng (s : State) (cl : Fin 64) (a : Nat) (v : List Byte) : (csWrite s cl a v).eng = s.eng := rfl
@[simp] theorem csWrite_tallies (s : State) (cl : Fin 64) (a : Nat) (v : List Byte) : (csWrite s cl a v).tallies = s.tallies := rfl
@[simp] theorem csWrite_dsp (s : State) (cl : Fin 64) (a : Nat) (v : List Byte) : (csWrite s cl a v).dsp = s.dsp := rfl
@[simp] theorem csWrite_ses (s : State) (cl : Fin 64) (a : Nat) (v : List Byte) : (csWrite s cl a v).ses = s.ses := rfl
@[simp] theorem csWrite_parts (s : State) (cl : Fin 64) (a : Nat) (v : List Byte) : (csWrite s cl a v).parts = s.parts := rfl
@[simp] theorem csWrite_partWipe (s : State) (cl : Fin 64) (a : Nat) (v : List Byte) : (csWrite s cl a v).partWipe = s.partWipe := rfl
@[simp] theorem csWrite_ctrls (s : State) (cl : Fin 64) (a : Nat) (v : List Byte) : (csWrite s cl a v).ctrls = s.ctrls := rfl
@[simp] theorem csWrite_mem (s : State) (cl : Fin 64) (a : Nat) (v : List Byte) : (csWrite s cl a v).mem = s.mem := rfl
@[simp] theorem csWrite_coh (s : State) (cl : Fin 64) (a : Nat) (v : List Byte) : (csWrite s cl a v).coh = s.coh := rfl
@[simp] theorem csWrite_xlt (s : State) (cl : Fin 64) (a : Nat) (v : List Byte) : (csWrite s cl a v).xlt = s.xlt := rfl
@[simp] theorem csWrite_harts (s : State) (cl : Fin 64) (a : Nat) (v : List Byte) : (csWrite s cl a v).harts = s.harts := rfl
@[simp] theorem csWrite_orf (s : State) (cl : Fin 64) (a : Nat) (v : List Byte) : (csWrite s cl a v).orf = s.orf := rfl
@[simp] theorem csWrite_fab (s : State) (cl : Fin 64) (a : Nat) (v : List Byte) : (csWrite s cl a v).fab = s.fab := rfl
@[simp] theorem csWrite_mir (s : State) (cl : Fin 64) (a : Nat) (v : List Byte) : (csWrite s cl a v).mir = s.mir := rfl
@[simp] theorem csWrite_stc (s : State) (cl : Fin 64) (a : Nat) (v : List Byte) : (csWrite s cl a v).stc = s.stc := rfl
@[simp] theorem csWrite_pwr (s : State) (cl : Fin 64) (a : Nat) (v : List Byte) : (csWrite s cl a v).pwr = s.pwr := rfl
@[simp] theorem csWrite_err (s : State) (cl : Fin 64) (a : Nat) (v : List Byte) : (csWrite s cl a v).err = s.err := rfl
@[simp] theorem csWrite_sec (s : State) (cl : Fin 64) (a : Nat) (v : List Byte) : (csWrite s cl a v).sec = s.sec := rfl
@[simp] theorem csWrite_boot (s : State) (cl : Fin 64) (a : Nat) (v : List Byte) : (csWrite s cl a v).boot = s.boot := rfl
@[simp] theorem csWrite_brd (s : State) (cl : Fin 64) (a : Nat) (v : List Byte) : (csWrite s cl a v).brd = s.brd := rfl

/-! ### `setAcc` -/

@[simp] theorem setAcc_pending (s : State) (te : TeId) (g i : Nat) (v : W32) : (setAcc s te g i v).pending = s.pending := rfl
@[simp] theorem setAcc_now (s : State) (te : TeId) (g i : Nat) (v : W32) : (setAcc s te g i v).now = s.now := rfl
@[simp] theorem setAcc_draws (s : State) (te : TeId) (g i : Nat) (v : W32) : (setAcc s te g i v).draws = s.draws := rfl
@[simp] theorem setAcc_rf (s : State) (te : TeId) (g i : Nat) (v : W32) : (setAcc s te g i v).rf = s.rf := rfl
@[simp] theorem setAcc_cl (s : State) (te : TeId) (g i : Nat) (v : W32) : (setAcc s te g i v).cl = s.cl := rfl
@[simp] theorem setAcc_tallies (s : State) (te : TeId) (g i : Nat) (v : W32) : (setAcc s te g i v).tallies = s.tallies := rfl
@[simp] theorem setAcc_dsp (s : State) (te : TeId) (g i : Nat) (v : W32) : (setAcc s te g i v).dsp = s.dsp := rfl
@[simp] theorem setAcc_ses (s : State) (te : TeId) (g i : Nat) (v : W32) : (setAcc s te g i v).ses = s.ses := rfl
@[simp] theorem setAcc_parts (s : State) (te : TeId) (g i : Nat) (v : W32) : (setAcc s te g i v).parts = s.parts := rfl
@[simp] theorem setAcc_partWipe (s : State) (te : TeId) (g i : Nat) (v : W32) : (setAcc s te g i v).partWipe = s.partWipe := rfl
@[simp] theorem setAcc_ctrls (s : State) (te : TeId) (g i : Nat) (v : W32) : (setAcc s te g i v).ctrls = s.ctrls := rfl
@[simp] theorem setAcc_mem (s : State) (te : TeId) (g i : Nat) (v : W32) : (setAcc s te g i v).mem = s.mem := rfl
@[simp] theorem setAcc_coh (s : State) (te : TeId) (g i : Nat) (v : W32) : (setAcc s te g i v).coh = s.coh := rfl
@[simp] theorem setAcc_xlt (s : State) (te : TeId) (g i : Nat) (v : W32) : (setAcc s te g i v).xlt = s.xlt := rfl
@[simp] theorem setAcc_harts (s : State) (te : TeId) (g i : Nat) (v : W32) : (setAcc s te g i v).harts = s.harts := rfl
@[simp] theorem setAcc_orf (s : State) (te : TeId) (g i : Nat) (v : W32) : (setAcc s te g i v).orf = s.orf := rfl
@[simp] theorem setAcc_fab (s : State) (te : TeId) (g i : Nat) (v : W32) : (setAcc s te g i v).fab = s.fab := rfl
@[simp] theorem setAcc_mir (s : State) (te : TeId) (g i : Nat) (v : W32) : (setAcc s te g i v).mir = s.mir := rfl
@[simp] theorem setAcc_stc (s : State) (te : TeId) (g i : Nat) (v : W32) : (setAcc s te g i v).stc = s.stc := rfl
@[simp] theorem setAcc_pwr (s : State) (te : TeId) (g i : Nat) (v : W32) : (setAcc s te g i v).pwr = s.pwr := rfl
@[simp] theorem setAcc_err (s : State) (te : TeId) (g i : Nat) (v : W32) : (setAcc s te g i v).err = s.err := rfl
@[simp] theorem setAcc_sec (s : State) (te : TeId) (g i : Nat) (v : W32) : (setAcc s te g i v).sec = s.sec := rfl
@[simp] theorem setAcc_boot (s : State) (te : TeId) (g i : Nat) (v : W32) : (setAcc s te g i v).boot = s.boot := rfl
@[simp] theorem setAcc_brd (s : State) (te : TeId) (g i : Nat) (v : W32) : (setAcc s te g i v).brd = s.brd := rfl

/-! ### `tallyAdd` -/

@[simp] theorem tallyAdd_pending (s : State) (k : Nat) (v : W32) : (tallyAdd s k v).pending = s.pending := rfl
@[simp] theorem tallyAdd_now (s : State) (k : Nat) (v : W32) : (tallyAdd s k v).now = s.now := rfl
@[simp] theorem tallyAdd_draws (s : State) (k : Nat) (v : W32) : (tallyAdd s k v).draws = s.draws := rfl
@[simp] theorem tallyAdd_rf (s : State) (k : Nat) (v : W32) : (tallyAdd s k v).rf = s.rf := rfl
@[simp] theorem tallyAdd_eng (s : State) (k : Nat) (v : W32) : (tallyAdd s k v).eng = s.eng := rfl
@[simp] theorem tallyAdd_cl (s : State) (k : Nat) (v : W32) : (tallyAdd s k v).cl = s.cl := rfl
@[simp] theorem tallyAdd_dsp (s : State) (k : Nat) (v : W32) : (tallyAdd s k v).dsp = s.dsp := rfl
@[simp] theorem tallyAdd_ses (s : State) (k : Nat) (v : W32) : (tallyAdd s k v).ses = s.ses := rfl
@[simp] theorem tallyAdd_parts (s : State) (k : Nat) (v : W32) : (tallyAdd s k v).parts = s.parts := rfl
@[simp] theorem tallyAdd_partWipe (s : State) (k : Nat) (v : W32) : (tallyAdd s k v).partWipe = s.partWipe := rfl
@[simp] theorem tallyAdd_ctrls (s : State) (k : Nat) (v : W32) : (tallyAdd s k v).ctrls = s.ctrls := rfl
@[simp] theorem tallyAdd_mem (s : State) (k : Nat) (v : W32) : (tallyAdd s k v).mem = s.mem := rfl
@[simp] theorem tallyAdd_coh (s : State) (k : Nat) (v : W32) : (tallyAdd s k v).coh = s.coh := rfl
@[simp] theorem tallyAdd_xlt (s : State) (k : Nat) (v : W32) : (tallyAdd s k v).xlt = s.xlt := rfl
@[simp] theorem tallyAdd_harts (s : State) (k : Nat) (v : W32) : (tallyAdd s k v).harts = s.harts := rfl
@[simp] theorem tallyAdd_orf (s : State) (k : Nat) (v : W32) : (tallyAdd s k v).orf = s.orf := rfl
@[simp] theorem tallyAdd_fab (s : State) (k : Nat) (v : W32) : (tallyAdd s k v).fab = s.fab := rfl
@[simp] theorem tallyAdd_mir (s : State) (k : Nat) (v : W32) : (tallyAdd s k v).mir = s.mir := rfl
@[simp] theorem tallyAdd_pwr (s : State) (k : Nat) (v : W32) : (tallyAdd s k v).pwr = s.pwr := rfl
@[simp] theorem tallyAdd_err (s : State) (k : Nat) (v : W32) : (tallyAdd s k v).err = s.err := rfl
@[simp] theorem tallyAdd_sec (s : State) (k : Nat) (v : W32) : (tallyAdd s k v).sec = s.sec := rfl
@[simp] theorem tallyAdd_boot (s : State) (k : Nat) (v : W32) : (tallyAdd s k v).boot = s.boot := rfl
@[simp] theorem tallyAdd_brd (s : State) (k : Nat) (v : W32) : (tallyAdd s k v).brd = s.brd := rfl

/-! ### `noteProgress` -/

@[simp] theorem noteProgress_pending (s : State) (unit n : Nat) : (noteProgress s unit n).pending = s.pending := rfl
@[simp] theorem noteProgress_now (s : State) (unit n : Nat) : (noteProgress s unit n).now = s.now := rfl
@[simp] theorem noteProgress_draws (s : State) (unit n : Nat) : (noteProgress s unit n).draws = s.draws := rfl
@[simp] theorem noteProgress_rf (s : State) (unit n : Nat) : (noteProgress s unit n).rf = s.rf := rfl
@[simp] theorem noteProgress_eng (s : State) (unit n : Nat) : (noteProgress s unit n).eng = s.eng := rfl
@[simp] theorem noteProgress_cl (s : State) (unit n : Nat) : (noteProgress s unit n).cl = s.cl := rfl
@[simp] theorem noteProgress_tallies (s : State) (unit n : Nat) : (noteProgress s unit n).tallies = s.tallies := rfl
@[simp] theorem noteProgress_dsp (s : State) (unit n : Nat) : (noteProgress s unit n).dsp = s.dsp := rfl
@[simp] theorem noteProgress_ses (s : State) (unit n : Nat) : (noteProgress s unit n).ses = s.ses := rfl
@[simp] theorem noteProgress_parts (s : State) (unit n : Nat) : (noteProgress s unit n).parts = s.parts := rfl
@[simp] theorem noteProgress_partWipe (s : State) (unit n : Nat) : (noteProgress s unit n).partWipe = s.partWipe := rfl
@[simp] theorem noteProgress_ctrls (s : State) (unit n : Nat) : (noteProgress s unit n).ctrls = s.ctrls := rfl
@[simp] theorem noteProgress_mem (s : State) (unit n : Nat) : (noteProgress s unit n).mem = s.mem := rfl
@[simp] theorem noteProgress_coh (s : State) (unit n : Nat) : (noteProgress s unit n).coh = s.coh := rfl
@[simp] theorem noteProgress_xlt (s : State) (unit n : Nat) : (noteProgress s unit n).xlt = s.xlt := rfl
@[simp] theorem noteProgress_harts (s : State) (unit n : Nat) : (noteProgress s unit n).harts = s.harts := rfl
@[simp] theorem noteProgress_orf (s : State) (unit n : Nat) : (noteProgress s unit n).orf = s.orf := rfl
@[simp] theorem noteProgress_fab (s : State) (unit n : Nat) : (noteProgress s unit n).fab = s.fab := rfl
@[simp] theorem noteProgress_mir (s : State) (unit n : Nat) : (noteProgress s unit n).mir = s.mir := rfl
@[simp] theorem noteProgress_stc (s : State) (unit n : Nat) : (noteProgress s unit n).stc = s.stc := rfl
@[simp] theorem noteProgress_pwr (s : State) (unit n : Nat) : (noteProgress s unit n).pwr = s.pwr := rfl
@[simp] theorem noteProgress_sec (s : State) (unit n : Nat) : (noteProgress s unit n).sec = s.sec := rfl
@[simp] theorem noteProgress_boot (s : State) (unit n : Nat) : (noteProgress s unit n).boot = s.boot := rfl
@[simp] theorem noteProgress_brd (s : State) (unit n : Nat) : (noteProgress s unit n).brd = s.brd := rfl

/-! ### `advanceTo` -/

@[simp] theorem advanceTo_pending (s : State) (t : Nat) : (advanceTo s t).pending = s.pending := rfl
@[simp] theorem advanceTo_draws (s : State) (t : Nat) : (advanceTo s t).draws = s.draws := rfl
@[simp] theorem advanceTo_rf (s : State) (t : Nat) : (advanceTo s t).rf = s.rf := rfl
@[simp] theorem advanceTo_eng (s : State) (t : Nat) : (advanceTo s t).eng = s.eng := rfl
@[simp] theorem advanceTo_cl (s : State) (t : Nat) : (advanceTo s t).cl = s.cl := rfl
@[simp] theorem advanceTo_tallies (s : State) (t : Nat) : (advanceTo s t).tallies = s.tallies := rfl
@[simp] theorem advanceTo_dsp (s : State) (t : Nat) : (advanceTo s t).dsp = s.dsp := rfl
@[simp] theorem advanceTo_ses (s : State) (t : Nat) : (advanceTo s t).ses = s.ses := rfl
@[simp] theorem advanceTo_parts (s : State) (t : Nat) : (advanceTo s t).parts = s.parts := rfl
@[simp] theorem advanceTo_partWipe (s : State) (t : Nat) : (advanceTo s t).partWipe = s.partWipe := rfl
@[simp] theorem advanceTo_ctrls (s : State) (t : Nat) : (advanceTo s t).ctrls = s.ctrls := rfl
@[simp] theorem advanceTo_mem (s : State) (t : Nat) : (advanceTo s t).mem = s.mem := rfl
@[simp] theorem advanceTo_coh (s : State) (t : Nat) : (advanceTo s t).coh = s.coh := rfl
@[simp] theorem advanceTo_xlt (s : State) (t : Nat) : (advanceTo s t).xlt = s.xlt := rfl
@[simp] theorem advanceTo_harts (s : State) (t : Nat) : (advanceTo s t).harts = s.harts := rfl
@[simp] theorem advanceTo_orf (s : State) (t : Nat) : (advanceTo s t).orf = s.orf := rfl
@[simp] theorem advanceTo_fab (s : State) (t : Nat) : (advanceTo s t).fab = s.fab := rfl
@[simp] theorem advanceTo_mir (s : State) (t : Nat) : (advanceTo s t).mir = s.mir := rfl
@[simp] theorem advanceTo_stc (s : State) (t : Nat) : (advanceTo s t).stc = s.stc := rfl
@[simp] theorem advanceTo_pwr (s : State) (t : Nat) : (advanceTo s t).pwr = s.pwr := rfl
@[simp] theorem advanceTo_err (s : State) (t : Nat) : (advanceTo s t).err = s.err := rfl
@[simp] theorem advanceTo_sec (s : State) (t : Nat) : (advanceTo s t).sec = s.sec := rfl
@[simp] theorem advanceTo_boot (s : State) (t : Nat) : (advanceTo s t).boot = s.boot := rfl
@[simp] theorem advanceTo_brd (s : State) (t : Nat) : (advanceTo s t).brd = s.brd := rfl

/-! ### `setPart` -/

@[simp] theorem setPart_pending (s : State) (p : PartId) (v : BitVec 512) : (setPart s p v).pending = s.pending := rfl
@[simp] theorem setPart_now (s : State) (p : PartId) (v : BitVec 512) : (setPart s p v).now = s.now := rfl
@[simp] theorem setPart_draws (s : State) (p : PartId) (v : BitVec 512) : (setPart s p v).draws = s.draws := rfl
@[simp] theorem setPart_rf (s : State) (p : PartId) (v : BitVec 512) : (setPart s p v).rf = s.rf := rfl
@[simp] theorem setPart_eng (s : State) (p : PartId) (v : BitVec 512) : (setPart s p v).eng = s.eng := rfl
@[simp] theorem setPart_cl (s : State) (p : PartId) (v : BitVec 512) : (setPart s p v).cl = s.cl := rfl
@[simp] theorem setPart_tallies (s : State) (p : PartId) (v : BitVec 512) : (setPart s p v).tallies = s.tallies := rfl
@[simp] theorem setPart_dsp (s : State) (p : PartId) (v : BitVec 512) : (setPart s p v).dsp = s.dsp := rfl
@[simp] theorem setPart_ses (s : State) (p : PartId) (v : BitVec 512) : (setPart s p v).ses = s.ses := rfl
@[simp] theorem setPart_partWipe (s : State) (p : PartId) (v : BitVec 512) : (setPart s p v).partWipe = s.partWipe := rfl
@[simp] theorem setPart_ctrls (s : State) (p : PartId) (v : BitVec 512) : (setPart s p v).ctrls = s.ctrls := rfl
@[simp] theorem setPart_mem (s : State) (p : PartId) (v : BitVec 512) : (setPart s p v).mem = s.mem := rfl
@[simp] theorem setPart_coh (s : State) (p : PartId) (v : BitVec 512) : (setPart s p v).coh = s.coh := rfl
@[simp] theorem setPart_xlt (s : State) (p : PartId) (v : BitVec 512) : (setPart s p v).xlt = s.xlt := rfl
@[simp] theorem setPart_harts (s : State) (p : PartId) (v : BitVec 512) : (setPart s p v).harts = s.harts := rfl
@[simp] theorem setPart_orf (s : State) (p : PartId) (v : BitVec 512) : (setPart s p v).orf = s.orf := rfl
@[simp] theorem setPart_fab (s : State) (p : PartId) (v : BitVec 512) : (setPart s p v).fab = s.fab := rfl
@[simp] theorem setPart_mir (s : State) (p : PartId) (v : BitVec 512) : (setPart s p v).mir = s.mir := rfl
@[simp] theorem setPart_stc (s : State) (p : PartId) (v : BitVec 512) : (setPart s p v).stc = s.stc := rfl
@[simp] theorem setPart_pwr (s : State) (p : PartId) (v : BitVec 512) : (setPart s p v).pwr = s.pwr := rfl
@[simp] theorem setPart_err (s : State) (p : PartId) (v : BitVec 512) : (setPart s p v).err = s.err := rfl
@[simp] theorem setPart_sec (s : State) (p : PartId) (v : BitVec 512) : (setPart s p v).sec = s.sec := rfl
@[simp] theorem setPart_boot (s : State) (p : PartId) (v : BitVec 512) : (setPart s p v).boot = s.boot := rfl
@[simp] theorem setPart_brd (s : State) (p : PartId) (v : BitVec 512) : (setPart s p v).brd = s.brd := rfl

/-! ### Tables of the engines -/

@[simp] theorem setSlot_eng_te (s : State) (c : CtxId) (v : Slot) : (setSlot s c v).eng.te = s.eng.te := rfl
@[simp] theorem setSlot_eng_groups (s : State) (c : CtxId) (v : Slot) : (setSlot s c v).eng.groups = s.eng.groups := rfl
@[simp] theorem setSlot_eng_sregs (s : State) (c : CtxId) (v : Slot) : (setSlot s c v).eng.sregs = s.eng.sregs := rfl
@[simp] theorem setSlot_eng_vregs (s : State) (c : CtxId) (v : Slot) : (setSlot s c v).eng.vregs = s.eng.vregs := rfl
@[simp] theorem setSlot_eng_masks (s : State) (c : CtxId) (v : Slot) : (setSlot s c v).eng.masks = s.eng.masks := rfl
@[simp] theorem setSlot_eng_tiles (s : State) (c : CtxId) (v : Slot) : (setSlot s c v).eng.tiles = s.eng.tiles := rfl
@[simp] theorem setSlot_eng_tileErr (s : State) (c : CtxId) (v : Slot) : (setSlot s c v).eng.tileErr = s.eng.tileErr := rfl
@[simp] theorem setSlot_eng_acc (s : State) (c : CtxId) (v : Slot) : (setSlot s c v).eng.acc = s.eng.acc := rfl
@[simp] theorem setTe_eng_slots (s : State) (te : TeId) (v : Te) : (setTe s te v).eng.slots = s.eng.slots := rfl
@[simp] theorem setTe_eng_groups (s : State) (te : TeId) (v : Te) : (setTe s te v).eng.groups = s.eng.groups := rfl
@[simp] theorem setTe_eng_sregs (s : State) (te : TeId) (v : Te) : (setTe s te v).eng.sregs = s.eng.sregs := rfl
@[simp] theorem setTe_eng_vregs (s : State) (te : TeId) (v : Te) : (setTe s te v).eng.vregs = s.eng.vregs := rfl
@[simp] theorem setTe_eng_masks (s : State) (te : TeId) (v : Te) : (setTe s te v).eng.masks = s.eng.masks := rfl
@[simp] theorem setTe_eng_tiles (s : State) (te : TeId) (v : Te) : (setTe s te v).eng.tiles = s.eng.tiles := rfl
@[simp] theorem setTe_eng_tileErr (s : State) (te : TeId) (v : Te) : (setTe s te v).eng.tileErr = s.eng.tileErr := rfl
@[simp] theorem setTe_eng_acc (s : State) (te : TeId) (v : Te) : (setTe s te v).eng.acc = s.eng.acc := rfl
@[simp] theorem setGroup_eng_te (s : State) (te : TeId) (g : GroupId) (v : Group) : (setGroup s te g v).eng.te = s.eng.te := rfl
@[simp] theorem setGroup_eng_slots (s : State) (te : TeId) (g : GroupId) (v : Group) : (setGroup s te g v).eng.slots = s.eng.slots := rfl
@[simp] theorem setGroup_eng_sregs (s : State) (te : TeId) (g : GroupId) (v : Group) : (setGroup s te g v).eng.sregs = s.eng.sregs := rfl
@[simp] theorem setGroup_eng_vregs (s : State) (te : TeId) (g : GroupId) (v : Group) : (setGroup s te g v).eng.vregs = s.eng.vregs := rfl
@[simp] theorem setGroup_eng_masks (s : State) (te : TeId) (g : GroupId) (v : Group) : (setGroup s te g v).eng.masks = s.eng.masks := rfl
@[simp] theorem setGroup_eng_tiles (s : State) (te : TeId) (g : GroupId) (v : Group) : (setGroup s te g v).eng.tiles = s.eng.tiles := rfl
@[simp] theorem setGroup_eng_tileErr (s : State) (te : TeId) (g : GroupId) (v : Group) : (setGroup s te g v).eng.tileErr = s.eng.tileErr := rfl
@[simp] theorem setGroup_eng_acc (s : State) (te : TeId) (g : GroupId) (v : Group) : (setGroup s te g v).eng.acc = s.eng.acc := rfl
@[simp] theorem setVreg_eng_te (s : State) (c : CtxId) (r : Nat) (v : List W32) : (setVreg s c r v).eng.te = s.eng.te := rfl
@[simp] theorem setVreg_eng_slots (s : State) (c : CtxId) (r : Nat) (v : List W32) : (setVreg s c r v).eng.slots = s.eng.slots := rfl
@[simp] theorem setVreg_eng_groups (s : State) (c : CtxId) (r : Nat) (v : List W32) : (setVreg s c r v).eng.groups = s.eng.groups := rfl
@[simp] theorem setVreg_eng_sregs (s : State) (c : CtxId) (r : Nat) (v : List W32) : (setVreg s c r v).eng.sregs = s.eng.sregs := rfl
@[simp] theorem setVreg_eng_masks (s : State) (c : CtxId) (r : Nat) (v : List W32) : (setVreg s c r v).eng.masks = s.eng.masks := rfl
@[simp] theorem setVreg_eng_tiles (s : State) (c : CtxId) (r : Nat) (v : List W32) : (setVreg s c r v).eng.tiles = s.eng.tiles := rfl
@[simp] theorem setVreg_eng_tileErr (s : State) (c : CtxId) (r : Nat) (v : List W32) : (setVreg s c r v).eng.tileErr = s.eng.tileErr := rfl
@[simp] theorem setVreg_eng_acc (s : State) (c : CtxId) (r : Nat) (v : List W32) : (setVreg s c r v).eng.acc = s.eng.acc := rfl
@[simp] theorem setVmask_eng_te (s : State) (c : CtxId) (r : Nat) (v : BitVec 256) : (setVmask s c r v).eng.te = s.eng.te := rfl
@[simp] theorem setVmask_eng_slots (s : State) (c : CtxId) (r : Nat) (v : BitVec 256) : (setVmask s c r v).eng.slots = s.eng.slots := rfl
@[simp] theorem setVmask_eng_groups (s : State) (c : CtxId) (r : Nat) (v : BitVec 256) : (setVmask s c r v).eng.groups = s.eng.groups := rfl
@[simp] theorem setVmask_eng_sregs (s : State) (c : CtxId) (r : Nat) (v : BitVec 256) : (setVmask s c r v).eng.sregs = s.eng.sregs := rfl
@[simp] theorem setVmask_eng_vregs (s : State) (c : CtxId) (r : Nat) (v : BitVec 256) : (setVmask s c r v).eng.vregs = s.eng.vregs := rfl
@[simp] theorem setVmask_eng_tiles (s : State) (c : CtxId) (r : Nat) (v : BitVec 256) : (setVmask s c r v).eng.tiles = s.eng.tiles := rfl
@[simp] theorem setVmask_eng_tileErr (s : State) (c : CtxId) (r : Nat) (v : BitVec 256) : (setVmask s c r v).eng.tileErr = s.eng.tileErr := rfl
@[simp] theorem setVmask_eng_acc (s : State) (c : CtxId) (r : Nat) (v : BitVec 256) : (setVmask s c r v).eng.acc = s.eng.acc := rfl
@[simp] theorem tsWrite_eng_te (s : State) (te : TeId) (a : Nat) (v : List Byte) : (tsWrite s te a v).eng.te = s.eng.te := rfl
@[simp] theorem tsWrite_eng_slots (s : State) (te : TeId) (a : Nat) (v : List Byte) : (tsWrite s te a v).eng.slots = s.eng.slots := rfl
@[simp] theorem tsWrite_eng_groups (s : State) (te : TeId) (a : Nat) (v : List Byte) : (tsWrite s te a v).eng.groups = s.eng.groups := rfl
@[simp] theorem tsWrite_eng_sregs (s : State) (te : TeId) (a : Nat) (v : List Byte) : (tsWrite s te a v).eng.sregs = s.eng.sregs := rfl
@[simp] theorem tsWrite_eng_vregs (s : State) (te : TeId) (a : Nat) (v : List Byte) : (tsWrite s te a v).eng.vregs = s.eng.vregs := rfl
@[simp] theorem tsWrite_eng_masks (s : State) (te : TeId) (a : Nat) (v : List Byte) : (tsWrite s te a v).eng.masks = s.eng.masks := rfl
@[simp] theorem tsWrite_eng_acc (s : State) (te : TeId) (a : Nat) (v : List Byte) : (tsWrite s te a v).eng.acc = s.eng.acc := rfl
@[simp] theorem setAcc_eng_te (s : State) (te : TeId) (g i : Nat) (v : W32) : (setAcc s te g i v).eng.te = s.eng.te := rfl
@[simp] theorem setAcc_eng_slots (s : State) (te : TeId) (g i : Nat) (v : W32) : (setAcc s te g i v).eng.slots = s.eng.slots := rfl
@[simp] theorem setAcc_eng_groups (s : State) (te : TeId) (g i : Nat) (v : W32) : (setAcc s te g i v).eng.groups = s.eng.groups := rfl
@[simp] theorem setAcc_eng_sregs (s : State) (te : TeId) (g i : Nat) (v : W32) : (setAcc s te g i v).eng.sregs = s.eng.sregs := rfl
@[simp] theorem setAcc_eng_vregs (s : State) (te : TeId) (g i : Nat) (v : W32) : (setAcc s te g i v).eng.vregs = s.eng.vregs := rfl
@[simp] theorem setAcc_eng_masks (s : State) (te : TeId) (g i : Nat) (v : W32) : (setAcc s te g i v).eng.masks = s.eng.masks := rfl
@[simp] theorem setAcc_eng_tiles (s : State) (te : TeId) (g i : Nat) (v : W32) : (setAcc s te g i v).eng.tiles = s.eng.tiles := rfl
@[simp] theorem setAcc_eng_tileErr (s : State) (te : TeId) (g i : Nat) (v : W32) : (setAcc s te g i v).eng.tileErr = s.eng.tileErr := rfl

/-! ### Reads after writes -/

theorem ctxKey_inj {c d : CtxId} (h : ctxKey c = ctxKey d) : c = d := by
  obtain ⟨t, k⟩ := c
  obtain ⟨u, j⟩ := d
  simp only [ctxKey] at h
  have hk := k.isLt
  have hj := j.isLt
  have ht : t = u := Fin.ext (by omega)
  have hkj : k = j := Fin.ext (by omega)
  rw [ht, hkj]

@[simp] theorem getR_setR (s : State) (r : Reg) (v : W64) : getR (setR s r v) r = v := smGet_set_self ..
theorem getR_setR_ne (s : State) {r q : Reg} (v : W64) (h : q.addr ≠ r.addr) : getR (setR s r v) q = getR s q := smGet_set_ne v h

theorem getSlot_setSlot (s : State) (c d : CtxId) (v : Slot) : getSlot (setSlot s c v) d = if d = c then v else getSlot s d := by
  by_cases h : d = c
  · subst h; simp [getSlot, setSlot]
  · simp only [h, if_false]; exact smGet_set_ne v fun h' => h (ctxKey_inj h')
theorem getTe_setTe (s : State) (t u : TeId) (v : Te) : getTe (setTe s t v) u = if u = t then v else getTe s u := by
  by_cases h : u = t
  · subst h; simp [getTe, setTe]
  · simp only [h, if_false]; exact smGet_set_ne v fun h' => h (Fin.ext h')
theorem getGroup_setGroup (s : State) (t u : TeId) (g k : GroupId) (v : Group) :
    getGroup (setGroup s t g v) u k = if u = t ∧ k = g then v else getGroup s u k := by
  by_cases h : u = t ∧ k = g
  · obtain ⟨rfl, rfl⟩ := h; simp [getGroup, setGroup]
  · simp only [h, if_false]
    refine smGet_set_ne v fun h' => h ?_
    have := g.isLt
    have := k.isLt
    exact ⟨Fin.ext (by omega), Fin.ext (by omega)⟩

@[simp] theorem getSlot_setTe (s : State) (t : TeId) (v : Te) (c : CtxId) : getSlot (setTe s t v) c = getSlot s c := rfl
@[simp] theorem getSlot_setGroup (s : State) (t : TeId) (g : GroupId) (v : Group) (c : CtxId) : getSlot (setGroup s t g v) c = getSlot s c := rfl
@[simp] theorem getTe_setSlot (s : State) (c : CtxId) (v : Slot) (t : TeId) : getTe (setSlot s c v) t = getTe s t := rfl
@[simp] theorem getTe_setGroup (s : State) (u : TeId) (g : GroupId) (v : Group) (t : TeId) : getTe (setGroup s u g v) t = getTe s t := rfl
@[simp] theorem getGroup_setSlot (s : State) (c : CtxId) (v : Slot) (t : TeId) (g : GroupId) : getGroup (setSlot s c v) t g = getGroup s t g := rfl
@[simp] theorem getGroup_setTe (s : State) (u : TeId) (v : Te) (t : TeId) (g : GroupId) : getGroup (setTe s u v) t g = getGroup s t g := rfl
@[simp] theorem getSlot_tsWrite (s : State) (t : TeId) (a : Nat) (v : List Byte) (c : CtxId) : getSlot (tsWrite s t a v) c = getSlot s c := rfl
@[simp] theorem getTe_tsWrite (s : State) (u : TeId) (a : Nat) (v : List Byte) (t : TeId) : getTe (tsWrite s u a v) t = getTe s t := rfl

theorem setSreg_eq (s : State) (c : CtxId) (r : Nat) (v : W64) :
    setSreg s c r v = { s with eng := { s.eng with sregs := if r = 0 then s.eng.sregs else smSet 0 s.eng.sregs (32 * ctxKey c + r) v } } := by
  unfold setSreg; split <;> rfl
@[simp] theorem getSlot_setSreg (s : State) (c d : CtxId) (r : Nat) (v : W64) : getSlot (setSreg s c r v) d = getSlot s d := by rw [setSreg_eq]; rfl
@[simp] theorem getTe_setSreg (s : State) (c : CtxId) (r : Nat) (v : W64) (t : TeId) : getTe (setSreg s c r v) t = getTe s t := by rw [setSreg_eq]; rfl
@[simp] theorem setSreg_now (s : State) (c : CtxId) (r : Nat) (v : W64) : (setSreg s c r v).now = s.now := by rw [setSreg_eq]

/-- A scalar register after a write (R120). -/
theorem sregIs_setSreg (s : State) (c : CtxId) {r : Nat} (hr : r < 32) (v : W64) : SregIs s (setSreg s c r v) c r v := by
  intro d q hq
  by_cases h0 : r = 0
  · simp [setSreg, h0]
  · simp only [sreg, setSreg, h0, if_false]
    by_cases hq0 : q = 0
    · subst hq0; simp [Ne.symm h0]
    · simp only [hq0, if_false, smGet_set]
      by_cases h : d = c ∧ q = r
      · obtain ⟨rfl, rfl⟩ := h; simp [h0]
      · have hk : 32 * ctxKey d + q ≠ 32 * ctxKey c + r := fun h' => h ⟨ctxKey_inj (by omega), by omega⟩
        have hn : ¬ (d = c ∧ q = r ∧ r ≠ 0) := fun h' => h ⟨h'.1, h'.2.1⟩
        simp only [hk, hn, if_false]

end Sys2Proof.Machine
end

