-- ==== Sys2Proof/Laws/Issue.lean ====
section
/-! SUPPORT. What issue does with an instruction that may issue in the present cycle. -/

namespace Sys2Proof.Machine

theorem firstCause_none {l : List (Nat × Bool)} : firstCause l = none ↔ ∀ e ∈ l, e.2 = false := by
  unfold firstCause
  rw [List.min?_eq_none_iff]
  simp

theorem Legal.opcode {ctx : Ctx} {w : W64} {op : Nat} {x : Bool} {own : List (Nat × Bool)} (h : Legal ctx w op x own) :
    bits w 7 0 = op := by
  have := firstCause_none.1 h (0x01, decide (bits w 7 0 ≠ op)) (by simp [commonCauses])
  simpa using this

theorem clearHolds_none {s : State} {c : CtxId} {ctx : Ctx} (hr : getCtx s c = some ctx) (hh : ctx.hold = []) : clearHolds s c = s := by
  unfold clearHolds; rw [hr]; simp [hh]

theorem freeCycle_free {s : State} {c : CtxId} (h : (getTe s c.te).issuedYet = false ∨ (getTe s c.te).lastIssue < cycleNow s) :
    freeCycle s c = s := by
  unfold freeCycle
  rcases h with h | h
  · simp [h]
  · have : ¬ cycleNow s ≤ (getTe s c.te).lastIssue := by omega
    simp [this]

/-- What an instruction that has come to issue makes of the state. -/
def settled (before : State) (c : CtxId) (next : W64) : Issued → State
  | .done s => hasIssued s c next
  | .jump s pc => hasIssued s c pc
  | .wait t code => modCtx (notReady t c) c fun x => { x with wait := code }
  | .stop s cls cause d0 d1 => stopAt s c cls cause d0 d1
  | .record s r => stopRec s c r
  | .fail t b => if b.held then modCtx before c fun x => { x with wait := 0 } else stopBad t c b

/-- A legal instruction of a ready context comes to its own effect. -/
theorem issue_ready {s : State} {c : CtxId} {ctx : Ctx} {w x : W64} {op : Nat} {needX : Bool} {k : Kind}
    {own : Ctx → List (Nat × Bool)} {run : State → Ctx → Issued} (hs : Ready s c ctx) (hl : Legal ctx w op needX (own ctx)) :
    issue s c w x op needX k own run = settled s c (ctx.pc + (if needX then 16 else 8)) (run s ctx) := by
  have hop := hl.opcode
  unfold Legal at hl
  have hr : sequencersRun s = true := by simp [sequencersRun, hs.noReset]
  have hh : ctx.hold.findSome? (heldBack k) = none := by simp [hs.noHold]
  have ho : ¬ ((getSlot s c).occ ≠ .running ∨ ctx.stop.isSome ∨ ctx.ended ∨ otherRow w op) := by
    simp [hs.occupied, hs.notStopped, hs.notEnded, otherRow, hop]
  have hk : correctRegs s c ctx = s := by simp [correctRegs, hs.registers]
  unfold issue
  rw [hr, hs.powered, clearHolds_none hs.resident hs.noHold]
  simp only [Bool.not_true, Bool.or_self, Bool.false_eq_true, if_false, hs.resident, ho, hh, hop, if_true, hl, hk, freeCycle_free hs.cycle]
  rw [show readUpset s ctx (run s ctx) = run s ctx by simp [readUpset, hs.registers]]
  cases run s ctx <;> rfl

theorem clocked_running {s : State} {f : State → State} (h : running s = true) : clocked s f = .next (f s) := by
  simp [clocked, h]

theorem clocked_stopped {s : State} {f : State → State} (h : running s = false) : clocked s f = .next s := by
  simp [clocked, h]

theorem onDie_stopped {s : State} {d : Nat} {f : State → State} (h : running s = false) : onDie s d f = .next s := clocked_stopped h

theorem onDie_running {s : State} {d : Nat} {f : State → State} (h : running s = true) (hc : bitAt s.brd.clockLost d = false) :
    onDie s d f = .next (f s) := by
  rw [onDie, clocked_running h, hc]; rfl

theorem stitching_stopped {s : State} {f : State → State} (h : stitchRuns s = false) : stitching s f = .next s := by
  simp [stitching, h]

theorem spdmAsk_stopped {s : State} {a b : Bool} {f : State → State} (h : running s = false) : spdmAsk s a b f = .next s :=
  clocked_stopped h

@[simp] theorem getTe_bookLost (s : State) (c : CtxId) (e : TeId) : getTe (bookLost s c) e = getTe s e := rfl
@[simp] theorem getSlot_bookLost (s : State) (c d : CtxId) :
    getSlot (bookLost s c) d = if d = c then { getSlot s c with stalled := (getSlot s c).stalled ++ lostCycles s c, readyFrom := cycleNow s + 1 } else getSlot s d := by
  unfold bookLost; rw [getSlot_setSlot]

theorem getTe_hasIssued (s : State) (c : CtxId) (pc : W64) (e : TeId) : getTe (hasIssued s c pc) e = getTe (bookIssue s c pc) e := rfl
theorem getSlot_hasIssued (s : State) (c d : CtxId) (pc : W64) : getSlot (hasIssued s c pc) d = getSlot (bookIssue s c pc) d := rfl

/-- The bookkeeping of an instruction that has issued. -/
theorem hasIssued_advances {s : State} {c : CtxId} {ctx : Ctx} {pc : W64} (hr : getCtx s c = some ctx) :
    Proceeds s (hasIssued s c pc) c ctx pc := by
  have hr' : (getSlot s c).ctx = some ctx := hr
  constructor
  · intro e
    simp [getTe_hasIssued, bookIssue, progressed, modCtx, getTe_setTe, cycleNow]
    split <;> rename_i h <;> simp [h]
  · intro d
    by_cases h : d = c
    · subst h
      simp [getSlot_hasIssued, bookIssue, progressed, modCtx, getSlot_setSlot, hr', issuedSlot, cycleNow]
    · simp [getSlot_hasIssued, bookIssue, progressed, modCtx, getSlot_setSlot, h]

/-- The bookkeeping of an instruction whose effect makes its own slot `v` and leaves engines, other slots and time alone. -/
theorem advances_of {s u : State} {c : CtxId} {v : Slot} {ctx : Ctx} {pc : W64} (hx : v.ctx = some ctx) (hr : v.readyFrom = (getSlot s c).readyFrom)
    (ht : ∀ e, getTe u e = getTe s e) (hg : ∀ d, getSlot u d = if d = c then v else getSlot s d) (hn : u.now = s.now) :
    Advances s (hasIssued u c pc) c (issuedSlot s c v ctx pc) := by
  have hv : getSlot u c = v := by rw [hg, if_pos rfl]
  have h := hasIssued_advances (s := u) (pc := pc) (by rw [getCtx, hv]; exact hx)
  have hc : cycleNow u = cycleNow s := by rw [cycleNow, hn]; rfl
  refine ⟨fun e => ?_, fun d => ?_⟩
  · rw [h.te e, ht, hc]
  · rw [h.slot d, hv, hg]
    have hl : lostCycles u c = lostCycles s c := by unfold lostCycles; rw [ht, hv, hr]
    simp only [issuedSlot, hc, hl]
    by_cases hd : d = c <;> simp [hd]

/-- The bookkeeping of an instruction whose effect leaves engines, slots and time alone. -/
theorem proceeds_of {s u : State} {c : CtxId} {ctx : Ctx} {pc : W64} (hr : getCtx s c = some ctx)
    (ht : ∀ e, getTe u e = getTe s e) (hg : ∀ d, getSlot u d = getSlot s d) (hn : u.now = s.now) :
    Proceeds s (hasIssued u c pc) c ctx pc := by
  have hu : getCtx u c = some ctx := by rw [getCtx, hg]; exact hr
  have h := hasIssued_advances (pc := pc) hu
  have hc : cycleNow u = cycleNow s := by rw [cycleNow, hn]; rfl
  refine ⟨fun e => ?_, fun d => ?_⟩
  · rw [h.te e, ht, hc]
  · rw [h.slot d, hg, hg]
    have hl : lostCycles u c = lostCycles s c := by unfold lostCycles; rw [ht, hg]
    simp only [issuedSlot, hc, hl]

/-- A scalar register after an effect that writes it alone. -/
theorem sregIs_of {s t : State} {c : CtxId} {r : Nat} {v : W64} (hr : r < 32) (h : t.eng.sregs = (setSreg s c r v).eng.sregs) :
    SregIs s t c r v := by
  intro d q hq
  rw [← sregIs_setSreg s c hr v d q hq]
  simp only [sreg, h]

theorem Legal.more {ctx : Ctx} {w : W64} {op : Nat} {x : Bool} {own more : List (Nat × Bool)} (h : Legal ctx w op x own)
    (hm : ∀ e ∈ more, e.2 = false) : Legal ctx w op x (own ++ more) := by
  unfold Legal at *
  rw [firstCause_none] at *
  intro e he
  rw [← List.append_assoc] at he
  rcases List.mem_append.1 he with he | he
  · exact h e he
  · exact hm e he

/-- A cause that does not apply may stand anywhere in the list. -/
theorem Legal.of {ctx : Ctx} {w : W64} {op : Nat} {x : Bool} {own all : List (Nat × Bool)} (h : Legal ctx w op x own)
    (hm : ∀ e ∈ all, e ∈ own ∨ e.2 = false) : Legal ctx w op x all := by
  unfold Legal at *
  rw [firstCause_none] at *
  intro e he
  rcases List.mem_append.1 he with he | he
  · exact h e (List.mem_append_left _ he)
  · rcases hm e he with hm | hm
    · exact h e (List.mem_append_right _ hm)
    · exact hm

/-- An effect on the slots alone is one of issue alone. -/
theorem onlyIssue_of {s u : State} (c : CtxId) (pc : W64) (h : u = { s with eng := { s.eng with te := u.eng.te, slots := u.eng.slots } }) :
    OnlyIssue s (hasIssued u c pc) := by
  unfold OnlyIssue hasIssued
  rw [h]
theorem hasIssued_only (s : State) (c : CtxId) (pc : W64) : OnlyIssue s (hasIssued s c pc) := rfl

end Sys2Proof.Machine
end

