-- ==== Sys2Proof/Laws/Stops.lean ====
section
/-! SUPPORT. What placing a record, halting a context and freeing a slot can change. -/

namespace Sys2Proof.Machine

/-- A record that reaches its queue changes the error queues and the queue's own registers, nothing else. -/
theorem placeAt_only (s : State) (r : Rec) (n : BitVec 48) : placeAt s r n = { s with rf := (placeAt s r n).rf, err := (placeAt s r n).err } := by
  unfold placeAt
  dsimp only
  split
  · rfl
  · split <;> split <;> rfl
/-- Placing a record changes the error queues and the queue's own registers, nothing else. -/
theorem place_only (s : State) (r : Rec) : place s r = { s with rf := (place s r).rf, err := (place s r).err } := by
  unfold place
  split
  · rfl
  · split
    · exact placeAt_only s r _
    · rfl

@[simp] theorem place_eng (s : State) (r : Rec) : (place s r).eng = s.eng := by rw [place_only]
@[simp] theorem getSlot_place (s : State) (r : Rec) (c : CtxId) : getSlot (place s r) c = getSlot s c := by simp only [getSlot, place_eng]
@[simp] theorem getTe_place (s : State) (r : Rec) (t : TeId) : getTe (place s r) t = getTe s t := by simp only [getTe, place_eng]
@[simp] theorem getCtx_place (s : State) (r : Rec) (c : CtxId) : getCtx (place s r) c = getCtx s c := by simp only [getCtx, getSlot_place]

/-- Setting groups to one value in turn. -/
theorem foldGroups_only (l : List GroupId) (te : TeId) (v : Group) (s : State) :
    l.foldl (fun s g => setGroup s te g v) s
      = { s with eng := { s.eng with groups := (l.foldl (fun s g => setGroup s te g v) s).eng.groups } } := by
  induction l generalizing s with
  | nil => rfl
  | cons g l ih => rw [List.foldl_cons, ih]; rfl

theorem getGroup_foldGroups (l : List GroupId) (te : TeId) (v : Group) (s : State) (u : TeId) (g : GroupId) :
    getGroup (l.foldl (fun s g => setGroup s te g v) s) u g = if u = te ∧ g ∈ l then v else getGroup s u g := by
  induction l generalizing s with
  | nil => simp
  | cons k l ih =>
    rw [List.foldl_cons, ih, getGroup_setGroup]
    by_cases hu : u = te <;> by_cases hg : g = k <;> by_cases hl : g ∈ l <;> simp [hu, hg, hl]

theorem getSlot_foldGroups (l : List GroupId) (te : TeId) (v : Group) (s : State) (c : CtxId) :
    getSlot (l.foldl (fun s g => setGroup s te g v) s) c = getSlot s c := by rw [foldGroups_only]; rfl
theorem getTe_foldGroups (l : List GroupId) (te : TeId) (v : Group) (s : State) (t : TeId) :
    getTe (l.foldl (fun s g => setGroup s te g v) s) t = getTe s t := by rw [foldGroups_only]; rfl

/-- Discarding a context's work changes its engine alone. -/
theorem discardWork_only (s : State) (c : CtxId) : discardWork s c = { s with eng := (discardWork s c).eng } := by
  unfold discardWork
  dsimp only
  rw [foldGroups_only]
  split
  · split <;> rfl
  · rfl

/-- A slot whose context stops has an empty queue, and what it has queued and its accounts aside it is as before (R88, R233). -/
theorem cutSlot_eq (s : State) (c : CtxId) :
    cutSlot s c = { getSlot s c with queue := [], progress := (cutSlot s c).progress, stalled := (cutSlot s c).stalled } := by
  unfold cutSlot
  dsimp only
  split
  · split <;> rfl
  · rfl
@[simp] theorem cutSlot_queue (s : State) (c : CtxId) : (cutSlot s c).queue = [] := by rw [cutSlot_eq]
@[simp] theorem cutSlot_ctx (s : State) (c : CtxId) : (cutSlot s c).ctx = (getSlot s c).ctx := by rw [cutSlot_eq]

theorem getSlot_discardWork (s : State) (c d : CtxId) :
    getSlot (discardWork s c) d = if d = c then cutSlot s c else getSlot s d := by
  unfold discardWork
  dsimp only
  rw [getSlot_setSlot, getSlot_foldGroups, getSlot_setTe]
  split <;> split <;> (try split) <;> rfl

/-- Halting a context that has not stopped: its slot is ending and it issues nothing further; other slots are as before. -/
theorem getSlot_haltCtx {s : State} {c : CtxId} {x : Ctx} (info : StopInfo) (hc : getCtx s c = some x) (hs : x.stop = none) (d : CtxId) :
    getSlot (haltCtx s c info) d = if d = c then { cutSlot s c with
      occ := .ending, ctx := some { x with stop := some info, hold := [], wait := 7 } } else getSlot s d := by
  unfold haltCtx
  rw [hc]
  simp only [hs, Option.isSome_none, Bool.false_eq_true, if_false, getSlot_setSlot, getSlot_discardWork]
  split <;> simp

theorem haltCtx_only (s : State) (c : CtxId) (info : StopInfo) : haltCtx s c info = { s with eng := (haltCtx s c info).eng } := by
  unfold haltCtx
  split
  · split
    · rfl
    · dsimp only; rw [discardWork_only]; rfl
  · rfl

/-- With no key slot for its job, a context stop starts no abort (R463). -/
theorem autoAbort_none {s : State} {job : W16} (cls : Nat) (h : slotOfJob s job = none) : autoAbort s job cls = s := by
  unfold autoAbort; rw [h]

/-- A message sent on Orfin, or left to wait, changes Orfin's state and the link's, and reads nothing else. -/
theorem orfSend_of {s u : State} (h : u.orf = s.orf) (hf : u.fab = s.fab) (m : OrfMsg) :
    orfSend u m = { u with orf := (orfSend s m).orf, fab := (orfSend s m).fab } := by
  have hl : getLink u = getLink s := by funext l; simp only [getLink, hf]
  have hm : orfMay u m = orfMay s m := by unfold orfMay linkMay linkUp creditOfLink; rw [hl, h]
  have hw : orfLeave u m = { u with orf := (orfLeave s m).orf, fab := (orfLeave s m).fab } := by
    simp only [orfLeave, sendFlit, spendCredit, setLink, getLink, h, hf]
  unfold orfSend
  rw [hm]
  by_cases hc : orfMay s m = true
  · simp only [hc, if_true, hw]
  · rw [if_neg hc, if_neg hc, h, ← hf]
/-- Sending the flush that is wanted changes no more. -/
theorem sendFlush_of {s u : State} (h : u.orf = s.orf) (hf : u.fab = s.fab) :
    sendFlush u = { u with orf := (sendFlush s).orf, fab := (sendFlush s).fab } := by
  have hw : flushWanted u = flushWanted s := by unfold flushWanted; rw [h]
  unfold sendFlush
  rw [hw, h]
  by_cases hc : (s.orf.flushSent.isSome || !flushWanted s) = true
  · rw [if_pos hc, if_pos hc, ← h, ← hf]
  · rw [if_neg hc, if_neg hc]
    have hx : ∀ x, orfSend { u with orf := x } .bulkFlush = { u with orf := (orfSend { s with orf := x } .bulkFlush).orf, fab := (orfSend { s with orf := x } .bulkFlush).fab } :=
      fun x => orfSend_of (s := { s with orf := x }) (u := { u with orf := x }) rfl hf .bulkFlush
    exact hx _

/-- A descriptor's completion changes Orfin's state and its link's alone, and reads nothing else. -/
theorem finishDesc_of {s u : State} (h : u.orf = s.orf) (hf : u.fab = s.fab) (ring index status detail te slot : Nat) :
    finishDesc u ring index status detail te slot
      = { u with orf := (finishDesc s ring index status detail te slot).orf, fab := (finishDesc s ring index status detail te slot).fab } := by
  unfold finishDesc
  have hr : getRing u ring = getRing s ring := by unfold getRing; rw [h]
  have hs : ∀ v, (setRing u ring v).orf = (setRing s ring v).orf := fun v => by simp only [setRing, h]
  have hg : ∀ v, (setRing u ring v).fab = (setRing s ring v).fab := fun v => hf
  rw [hr, sendFlush_of (hs _) (hg _)]
  rfl

theorem finishLaunch_of {s u : State} (h : u.orf = s.orf) (hf : u.fab = s.fab) (l : Launch) (status detail te slot : Nat) :
    finishLaunch u l status detail te slot
      = { u with orf := (finishLaunch s l status detail te slot).orf, fab := (finishLaunch s l status detail te slot).fab } := finishDesc_of h hf ..

/-- The check for a drained engine changes that engine's service state alone (R237). -/
theorem getTe_svcCheck (s : State) (te u : TeId) :
    getTe (svcCheck s te) u = if u = te ∧ (getTe s te).svc = .draining ∧ slotsEmpty s te = true then { getTe s te with svc := .out } else getTe s u := by
  unfold svcCheck
  dsimp only
  by_cases h : (getTe s te).svc = .draining ∧ slotsEmpty s te = true
  · rw [if_pos h, getTe_setTe]; simp [h]
  · rw [if_neg h]; simp [h]

theorem svcCheck_only (s : State) (te : TeId) : svcCheck s te = { s with eng := { s.eng with te := (svcCheck s te).eng.te } } := by
  unfold svcCheck; dsimp only; split <;> rfl

/-- A freed slot: it is empty, its launch completes, other slots are as before (R219, R442). -/
theorem emptySlot_eq {s : State} {c : CtxId} {x : Ctx} (status detail : Nat) (h : getCtx s c = some x) :
    emptySlot s c status detail = svcCheck { setSlot s c { getSlot s c with occ := .empty, ctx := none, queue := [], progress := [], stalled := [] } with
      orf := (finishLaunch s x.launch status detail c.te.val c.slot.val).orf
      fab := (finishLaunch s x.launch status detail c.te.val c.slot.val).fab
      cl := { s.cl with
        lastLine := smErase s.cl.lastLine (ctxKey c)
        readAhead := smSet [] s.cl.readAhead (clusterOf c.te).val ((smGet [] s.cl.readAhead (clusterOf c.te).val).filter fun e => decide (e.1 ≠ c)) } } c.te := by
  unfold emptySlot
  rw [h]
  refine congrArg (fun z => svcCheck z c.te) ?_
  dsimp only
  rw [finishLaunch_of (s := s)]
  all_goals rfl

end Sys2Proof.Machine
end

