-- ==== Sys2Proof/Laws/Array.lean ====
section
/-! SUPPORT. What the array's stall accounting can change. -/

namespace Sys2Proof.Machine

/-- From `s` to `t` slots only gain stalled intervals, and nothing else differs. -/
structure OnlyStalled (s t : State) : Prop where
  slots : ∀ c, ∃ l, getSlot t c = { getSlot s c with stalled := (getSlot s c).stalled ++ l }
  rest : ∃ sl, t = { s with eng := { s.eng with slots := sl } }

theorem OnlyStalled.refl (s : State) : OnlyStalled s s := ⟨fun _ => ⟨[], by simp⟩, ⟨s.eng.slots, rfl⟩⟩

theorem OnlyStalled.trans {s t u : State} (h : OnlyStalled s t) (k : OnlyStalled t u) : OnlyStalled s u := by
  refine ⟨fun c => ?_, ?_⟩
  · obtain ⟨l, hl⟩ := h.slots c
    obtain ⟨m, hm⟩ := k.slots c
    exact ⟨l ++ m, by rw [hm, hl, List.append_assoc]⟩
  · obtain ⟨a, rfl⟩ := h.rest
    obtain ⟨b, rfl⟩ := k.rest
    exact ⟨b, rfl⟩

theorem onlyStalled_stalledFor (s : State) (c : CtxId) (a b : Nat) : OnlyStalled s (stalledFor s c a b) := by
  refine ⟨fun d => ?_, ⟨_, rfl⟩⟩
  by_cases h : d = c
  · subst h; exact ⟨_, by rw [stalledFor, getSlot_setSlot, if_pos rfl]⟩
  · exact ⟨[], by rw [stalledFor, getSlot_setSlot, if_neg h, List.append_nil]⟩

theorem onlyStalled_standsBehind (te : TeId) (o : SlotId) (s : State) (k : SlotId) : OnlyStalled s (standsBehind te o s k) := by
  unfold standsBehind
  dsimp only
  split
  · exact OnlyStalled.refl s
  · split
    · split
      · exact onlyStalled_stalledFor ..
      · exact OnlyStalled.refl s
    · exact OnlyStalled.refl s

theorem onlyStalled_standsBefore (te : TeId) (o : SlotId) (s : State) : OnlyStalled s (standsBefore te o s) := by
  unfold standsBefore
  dsimp only
  split
  · split
    · exact onlyStalled_stalledFor ..
    · exact OnlyStalled.refl s
  · exact OnlyStalled.refl s

theorem onlyStalled_foldl {α : Type} {f : State → α → State} (h : ∀ s x, OnlyStalled s (f s x)) (l : List α) (s : State) :
    OnlyStalled s (l.foldl f s) := by
  induction l generalizing s with
  | nil => exact OnlyStalled.refl s
  | cons x l ih => exact (h s x).trans (ih _)

/-- Drains that stand behind another count it in their slots, nothing else (R233). -/
theorem onlyStalled_drainsStand (s : State) (te : TeId) (cyc : Nat) : OnlyStalled s (drainsStand s te cyc) := by
  unfold drainsStand
  split
  · exact OnlyStalled.refl s
  · refine onlyStalled_foldl (fun s g => ?_) _ _
    split
    · dsimp only
      split
      · exact onlyStalled_stalledFor ..
      · exact OnlyStalled.refl s
    · exact OnlyStalled.refl s

/-- The stall accounting changes slots' stalled intervals and the engine's mark of the present, nothing else (R233). -/
theorem accountArray_cases (s : State) (te : TeId) :
    OnlyStalled s (accountArray s te)
      ∨ ∃ u, OnlyStalled s u ∧ accountArray s te = setTe u te { getTe u te with occupiedFrom := cycleNow u } := by
  unfold accountArray
  split
  · exact Or.inl (OnlyStalled.refl s)
  · exact Or.inr ⟨_, (onlyStalled_standsBefore te _ s).trans (onlyStalled_foldl (onlyStalled_standsBehind te _) allSlots _), rfl⟩

theorem OnlyStalled.getTe {s t : State} (h : OnlyStalled s t) (u : TeId) : getTe t u = getTe s u := by
  obtain ⟨sl, rfl⟩ := h.rest; rfl

theorem getTe_accountArray (s : State) (te u : TeId) : ∃ o, getTe (accountArray s te) u = { getTe s u with occupiedFrom := o } := by
  rcases accountArray_cases s te with h | ⟨v, h, e⟩
  · exact ⟨_, by rw [h.getTe]⟩
  · rw [e, getTe_setTe]
    by_cases hu : u = te
    · subst hu; exact ⟨_, by rw [if_pos rfl, h.getTe]⟩
    · exact ⟨_, by rw [if_neg hu, h.getTe]⟩

theorem getTe_accountArray_ne (s : State) {te u : TeId} (hu : u ≠ te) : getTe (accountArray s te) u = getTe s u := by
  rcases accountArray_cases s te with h | ⟨v, h, e⟩
  · exact h.getTe u
  · rw [e, getTe_setTe, if_neg hu, h.getTe]

theorem getSlot_accountArray (s : State) (te : TeId) (c : CtxId) :
    ∃ l, getSlot (accountArray s te) c = { getSlot s c with stalled := (getSlot s c).stalled ++ l } := by
  rcases accountArray_cases s te with h | ⟨v, h, e⟩
  · exact h.slots c
  · rw [e, getSlot_setTe]; exact h.slots c

theorem stalled_accountArray (s : State) (te : TeId) (c : CtxId) {p : Nat × Nat} (h : p ∈ (getSlot s c).stalled) :
    p ∈ (getSlot (accountArray s te) c).stalled := by
  obtain ⟨l, hl⟩ := getSlot_accountArray s te c
  rw [hl]
  exact List.mem_append_left _ h

theorem accountArray_only (s : State) (te : TeId) : ∃ tm sl, accountArray s te = { s with eng := { s.eng with te := tm, slots := sl } } := by
  rcases accountArray_cases s te with h | ⟨v, h, e⟩
  · obtain ⟨sl, hs⟩ := h.rest; exact ⟨s.eng.te, sl, hs⟩
  · obtain ⟨sl, rfl⟩ := h.rest; exact ⟨_, sl, e⟩

end Sys2Proof.Machine
end

