-- ==== Sys2Proof/Laws/Bits.lean ====
section
/-! SUPPORT. Bit fields: what a field reads after it, or another, is written. -/

namespace Sys2Proof

theorem getLsbD_setBits {n : Nat} (w : BitVec n) (hi lo v i : Nat) :
    (setBits w hi lo v).getLsbD i = if lo ≤ i ∧ i < hi + 1 ∧ i < n then v.testBit (i - lo) else w.getLsbD i := by
  have hm : ∀ j, (BitVec.ofNat n (2 ^ (hi + 1 - lo) - 1)).getLsbD j = (decide (j < n) && decide (j < hi + 1 - lo)) := by
    intro j
    rw [BitVec.getLsbD_ofNat, Nat.testBit_two_pow_sub_one]
  simp only [setBits, BitVec.getLsbD_or, BitVec.getLsbD_and, BitVec.getLsbD_not, BitVec.getLsbD_shiftLeft, hm, BitVec.getLsbD_ofNat]
  by_cases hn : i < n
  · by_cases hlo : i < lo
    · have h1 : ¬ lo ≤ i := by omega
      simp [hn, hlo, h1]
    · by_cases hhi : i < hi + 1
      · have h1 : i - lo < n := by omega
        have h2 : i - lo < hi + 1 - lo := by omega
        have h3 : lo ≤ i := by omega
        simp [hn, hlo, hhi, h1, h2, h3]
      · have h2 : ¬ i - lo < hi + 1 - lo := by omega
        simp [hn, hlo, hhi, h2]
  · have : w.getLsbD i = false := BitVec.getLsbD_of_ge w i (by omega)
    simp [hn, this]

theorem testBit_bits {n : Nat} (w : BitVec n) (hi lo i : Nat) : (bits w hi lo).testBit i = (decide (i < hi + 1 - lo) && w.getLsbD (lo + i)) := by
  have : (bits w hi lo).testBit i = (w.extractLsb' lo (hi + 1 - lo)).getLsbD i := rfl
  rw [this, BitVec.getLsbD_extractLsb']

theorem bits_lt {n : Nat} (w : BitVec n) (hi lo : Nat) : bits w hi lo < 2 ^ (hi + 1 - lo) := (w.extractLsb' lo (hi + 1 - lo)).isLt

/-- A field that was written reads as the low bits of what was written. -/
theorem bits_setBits_same {n : Nat} (w : BitVec n) {hi lo : Nat} (v : Nat) (h : hi < n) (hl : lo ≤ hi) :
    bits (setBits w hi lo v) hi lo = v % 2 ^ (hi + 1 - lo) := by
  apply Nat.eq_of_testBit_eq
  intro i
  rw [testBit_bits, Nat.testBit_mod_two_pow, getLsbD_setBits]
  by_cases hi' : i < hi + 1 - lo
  · have h1 : lo ≤ lo + i ∧ lo + i < hi + 1 ∧ lo + i < n := by omega
    rw [if_pos h1, Nat.add_sub_cancel_left]
  · simp [hi']

/-- Another field reads as before. -/
theorem bits_setBits_ne {n : Nat} (w : BitVec n) {hi lo hi' lo' : Nat} (v : Nat) (h : hi' < lo ∨ hi < lo') :
    bits (setBits w hi lo v) hi' lo' = bits w hi' lo' := by
  apply Nat.eq_of_testBit_eq
  intro i
  rw [testBit_bits, testBit_bits, getLsbD_setBits]
  by_cases hi2 : i < hi' + 1 - lo'
  · have h1 : ¬ (lo ≤ lo' + i ∧ lo' + i < hi + 1 ∧ lo' + i < n) := by omega
    rw [if_neg h1]
  · simp [hi2]

theorem bitAt_setBits_ne {n : Nat} (w : BitVec n) {hi lo i : Nat} (v : Nat) (h : i < lo ∨ hi < i) : bitAt (setBits w hi lo v) i = bitAt w i := by
  unfold bitAt
  rw [getLsbD_setBits, if_neg]
  omega

theorem bitAt_setBit_same {n : Nat} (w : BitVec n) {i : Nat} (b : Bool) (h : i < n) : bitAt (setBit w i b) i = b := by
  unfold bitAt setBit
  rw [getLsbD_setBits, if_pos ⟨Nat.le_refl _, by omega, h⟩]
  cases b <;> simp

end Sys2Proof
end

