-- ==== Sys2Proof/Laws/Dispatch.lean ====
section
/-! SUPPORT. Which meaning each command has: one lemma for each constructor, true by unfolding, so that no later proof unfolds the dispatch. -/

namespace Sys2Proof.Machine

@[simp] theorem exec_nop (s : State) (c : CtxId) (w x : W64) : exec (.nop c w x) s = execNop c w x s := rfl
@[simp] theorem exec_endKernel (s : State) (c : CtxId) (w x : W64) : exec (.endKernel c w x) s = execEndKernel c w x s := rfl
@[simp] theorem exec_stopk (s : State) (c : CtxId) (w x : W64) : exec (.stopk c w x) s = execStopk c w x s := rfl
@[simp] theorem exec_srd (s : State) (c : CtxId) (w x : W64) : exec (.srd c w x) s = execSrd c w x s := rfl
@[simp] theorem exec_salu (s : State) (c : CtxId) (w x : W64) : exec (.salu c w x) s = execSalu c w x s := rfl
@[simp] theorem exec_salui (s : State) (c : CtxId) (w x : W64) : exec (.salui c w x) s = execSalui c w x s := rfl
@[simp] theorem exec_li (s : State) (c : CtxId) (w x : W64) : exec (.li c w x) s = execLi c w x s := rfl
@[simp] theorem exec_br (s : State) (c : CtxId) (w x : W64) : exec (.br c w x) s = execBr c w x s := rfl
@[simp] theorem exec_bdnz (s : State) (c : CtxId) (w x : W64) : exec (.bdnz c w x) s = execBdnz c w x s := rfl
@[simp] theorem exec_sld (s : State) (c : CtxId) (w x : W64) : exec (.sld c w x) s = execSld c w x s := rfl
@[simp] theorem exec_sst (s : State) (c : CtxId) (w x : W64) : exec (.sst c w x) s = execSst c w x s := rfl
@[simp] theorem exec_tmov (s : State) (c : CtxId) (w x : W64) : exec (.tmov c w x) s = execTmov c w x s := rfl
@[simp] theorem exec_tmovComplete (s : State) (c : CtxId) : exec (.tmovComplete c) s = execTmovComplete c s := rfl
@[simp] theorem exec_mma (s : State) (c : CtxId) (w x : W64) : exec (.mma c w x) s = execMma c w x s := rfl
@[simp] theorem exec_arrayTakeMma (s : State) (te : TeId) : exec (.arrayTakeMma te) s = execArrayTakeMma te s := rfl
@[simp] theorem exec_arrayReform (s : State) (te : TeId) : exec (.arrayReform te) s = execArrayReform te s := rfl
@[simp] theorem exec_ringReady (s : State) (te : TeId) : exec (.ringReady te) s = execRingReady te s := rfl
@[simp] theorem exec_weightLoadDone (s : State) (te : TeId) : exec (.weightLoadDone te) s = execWeightLoadDone te s := rfl
@[simp] theorem exec_passRowsEnter (s : State) (te : TeId) : exec (.passRowsEnter te) s = execPassRowsEnter te s := rfl
@[simp] theorem exec_groupLanding (s : State) (te : TeId) (g : GroupId) : exec (.groupLanding te g) s = execGroupLanding te g s := rfl
@[simp] theorem exec_openGroup (s : State) (c : CtxId) (w x : W64) : exec (.openGroup c w x) s = execOpenGroup c w x s := rfl
@[simp] theorem exec_close (s : State) (c : CtxId) (w x : W64) : exec (.close c w x) s = execClose c w x s := rfl
@[simp] theorem exec_swap (s : State) (c : CtxId) (w x : W64) : exec (.swap c w x) s = execSwap c w x s := rfl
@[simp] theorem exec_scaleRows (s : State) (c : CtxId) (w x : W64) : exec (.scaleRows c w x) s = execScaleRows c w x s := rfl
@[simp] theorem exec_scaleRowsBegin (s : State) (te : TeId) (g : GroupId) : exec (.scaleRowsBegin te g) s = execScaleRowsBegin te g s := rfl
@[simp] theorem exec_discard (s : State) (c : CtxId) (w x : W64) : exec (.discard c w x) s = execDiscard c w x s := rfl
@[simp] theorem exec_drainStart (s : State) (te : TeId) (g : GroupId) : exec (.drainStart te g) s = execDrainStart te g s := rfl
@[simp] theorem exec_drainEnd (s : State) (te : TeId) : exec (.drainEnd te) s = execDrainEnd te s := rfl
@[simp] theorem exec_valu (s : State) (c : CtxId) (w x : W64) : exec (.valu c w x) s = execValu c w x s := rfl
@[simp] theorem exec_vred (s : State) (c : CtxId) (w x : W64) : exec (.vred c w x) s = execVred c w x s := rfl
@[simp] theorem exec_vld (s : State) (c : CtxId) (w x : W64) : exec (.vld c w x) s = execVld c w x s := rfl
@[simp] theorem exec_vst (s : State) (c : CtxId) (w x : W64) : exec (.vst c w x) s = execVst c w x s := rfl
@[simp] theorem exec_vsort (s : State) (c : CtxId) (w x : W64) : exec (.vsort c w x) s = execVsort c w x s := rfl
@[simp] theorem exec_vscan (s : State) (c : CtxId) (w x : W64) : exec (.vscan c w x) s = execVscan c w x s := rfl
@[simp] theorem exec_vrng (s : State) (c : CtxId) (w x : W64) : exec (.vrng c w x) s = execVrng c w x s := rfl
@[simp] theorem exec_sfn (s : State) (c : CtxId) (w x : W64) : exec (.sfn c w x) s = execSfn c w x s := rfl
@[simp] theorem exec_vact (s : State) (c : CtxId) (w x : W64) : exec (.vact c w x) s = execVact c w x s := rfl
@[simp] theorem exec_twait (s : State) (c : CtxId) (w x : W64) : exec (.twait c w x) s = execTwait c w x s := rfl
@[simp] theorem exec_twaitSatisfied (s : State) (c : CtxId) : exec (.twaitSatisfied c) s = execTwaitSatisfied c s := rfl
@[simp] theorem exec_tsig (s : State) (c : CtxId) (w x : W64) : exec (.tsig c w x) s = execTsig c w x s := rfl
@[simp] theorem exec_bar (s : State) (c : CtxId) (w x : W64) : exec (.bar c w x) s = execBar c w x s := rfl
@[simp] theorem exec_acq (s : State) (c : CtxId) (w x : W64) : exec (.acq c w x) s = execAcq c w x s := rfl
@[simp] theorem exec_rel (s : State) (c : CtxId) (w x : W64) : exec (.rel c w x) s = execRel c w x s := rfl
@[simp] theorem exec_atom (s : State) (c : CtxId) (w x : W64) : exec (.atom c w x) s = execAtom c w x s := rfl
@[simp] theorem exec_dcZero (s : State) (c : CtxId) (w x : W64) : exec (.dcZero c w x) s = execDcZero c w x s := rfl
@[simp] theorem exec_gather (s : State) (c : CtxId) (w x : W64) : exec (.gather c w x) s = execGather c w x s := rfl
@[simp] theorem exec_scatter (s : State) (c : CtxId) (w x : W64) : exec (.scatter c w x) s = execScatter c w x s := rfl
@[simp] theorem exec_kvgather (s : State) (c : CtxId) (w x : W64) : exec (.kvgather c w x) s = execKvgather c w x s := rfl
@[simp] theorem exec_kvappend (s : State) (c : CtxId) (w x : W64) : exec (.kvappend c w x) s = execKvappend c w x s := rfl
@[simp] theorem exec_dispatchInstrComplete (s : State) (c : CtxId) : exec (.dispatchInstrComplete c) s = execDispatchInstrComplete c s := rfl
@[simp] theorem exec_dispatch (s : State) (c : CtxId) (w x : W64) : exec (.dispatch c w x) s = execDispatch c w x s := rfl
@[simp] theorem exec_routeTagAssign (s : State) (d : CDie) : exec (.routeTagAssign d) s = execRouteTagAssign d s := rfl
@[simp] theorem exec_tokenSend (s : State) (d : CDie) (tag : Fin 1024) : exec (.tokenSend d tag) s = execTokenSend d tag s := rfl
@[simp] theorem exec_returnRoute (s : State) (c : CtxId) (w x : W64) : exec (.returnRoute c w x) s = execReturnRoute c w x s := rfl
@[simp] theorem exec_verify (s : State) (c : CtxId) (w x : W64) : exec (.verify c w x) s = execVerify c w x s := rfl
@[simp] theorem exec_commit (s : State) (c : CtxId) (w x : W64) : exec (.commit c w x) s = execCommit c w x s := rfl
@[simp] theorem exec_mirrorAckTimeout (s : State) (session : Session) : exec (.mirrorAckTimeout session) s = execMirrorAckTimeout session s := rfl
@[simp] theorem exec_tokenArrive (s : State) (d : CDie) (port : Option XfPort) (p : XfPacket) : exec (.tokenArrive d port p) s = execTokenArrive d port p s := rfl
@[simp] theorem exec_resultArrive (s : State) (d : CDie) (port : Option XfPort) (p : XfPacket) : exec (.resultArrive d port p) s = execResultArrive d port p s := rfl
@[simp] theorem exec_dispatchDeadline (s : State) (d : CDie) : exec (.dispatchDeadline d) s = execDispatchDeadline d s := rfl
@[simp] theorem exec_combineDone (s : State) (d : CDie) (tag : Fin 1024) : exec (.combineDone d tag) s = execCombineDone d tag s := rfl
@[simp] theorem exec_sesTableWrite (s : State) (hart : Hart) (session : Session) (word : Fin 32) (v : W64) : exec (.sesTableWrite hart session word v) s = execSesTableWrite hart session word v s := rfl
@[simp] theorem exec_sessionLive (s : State) (session : Session) : exec (.sessionLive session) s = execSessionLive session s := rfl
@[simp] theorem exec_sessionHeld (s : State) (session : Session) : exec (.sessionHeld session) s = execSessionHeld session s := rfl
@[simp] theorem exec_sessionFree (s : State) (session : Session) : exec (.sessionFree session) s = execSessionFree session s := rfl
@[simp] theorem exec_teSlotcfgWrite (s : State) (te : TeId) (v : W64) : exec (.teSlotcfgWrite te v) s = execTeSlotcfgWrite te v s := rfl
@[simp] theorem exec_tePartWrite (s : State) (p : PartId) (word : Fin 8) (v : W64) : exec (.tePartWrite p word v) s = execTePartWrite p word v s := rfl
@[simp] theorem exec_partitionWipeEnd (s : State) (p : PartId) : exec (.partitionWipeEnd p) s = execPartitionWipeEnd p s := rfl
@[simp] theorem exec_launchPlace (s : State) (te : TeId) : exec (.launchPlace te) s = execLaunchPlace te s := rfl
@[simp] theorem exec_slotWipeEnd (s : State) (c : CtxId) : exec (.slotWipeEnd c) s = execSlotWipeEnd c s := rfl
@[simp] theorem exec_contextStopComplete (s : State) (c : CtxId) : exec (.contextStopComplete c) s = execContextStopComplete c s := rfl
@[simp] theorem exec_teSvcOut (s : State) (te : TeId) : exec (.teSvcOut te) s = execTeSvcOut te s := rfl
@[simp] theorem exec_teSvcOutNow (s : State) (te : TeId) : exec (.teSvcOutNow te) s = execTeSvcOutNow te s := rfl
@[simp] theorem exec_teSvcIn (s : State) (te : TeId) : exec (.teSvcIn te) s = execTeSvcIn te s := rfl
@[simp] theorem exec_teWipeEnd (s : State) (te : TeId) : exec (.teWipeEnd te) s = execTeWipeEnd te s := rfl
@[simp] theorem exec_returnPatrolEnd (s : State) (te : TeId) (failing : Option (Fin 192 × W64)) : exec (.returnPatrolEnd te failing) s = execReturnPatrolEnd te failing s := rfl
@[simp] theorem exec_patrolSlice (s : State) (te : TeId) (observed : W64) : exec (.patrolSlice te observed) s = execPatrolSlice te observed s := rfl
@[simp] theorem exec_stackSensorRead (s : State) (st : StackId) (temp : Byte) : exec (.stackSensorRead st temp) s = execStackSensorRead st temp s := rfl
@[simp] theorem exec_stackSensorFail (s : State) (st : StackId) : exec (.stackSensorFail st) s = execStackSensorFail st s := rfl
@[simp] theorem exec_refresh (s : State) (st : StackId) : exec (.refresh st) s = execRefresh st s := rfl
@[simp] theorem exec_lpddrRefreshIndication (s : State) (pkg : DeepId) (code : Byte) : exec (.lpddrRefreshIndication pkg code) s = execLpddrRefreshIndication pkg code s := rfl
@[simp] theorem exec_controllerServe (s : State) (ctrl : CtrlId) : exec (.controllerServe ctrl) s = execControllerServe ctrl s := rfl
@[simp] theorem exec_p1Promote (s : State) (ctrl : CtrlId) : exec (.p1Promote ctrl) s = execP1Promote ctrl s := rfl
@[simp] theorem exec_laneRepair (s : State) (st : StackId) (v : W64) : exec (.laneRepair st v) s = execLaneRepair st v s := rfl
@[simp] theorem exec_softPpr (s : State) (st : StackId) (v : W64) : exec (.softPpr st v) s = execSoftPpr st v s := rfl
@[simp] theorem exec_hardPpr (s : State) (st : StackId) (v : W64) : exec (.hardPpr st v) s = execHardPpr st v s := rfl
@[simp] theorem exec_repairDone (s : State) (st : StackId) (result : Fin 4) : exec (.repairDone st result) s = execRepairDone st result s := rfl
@[simp] theorem exec_dcDisable (s : State) (d : CDie) : exec (.dcDisable d) s = execDcDisable d s := rfl
@[simp] theorem exec_dcDisableDone (s : State) (d : CDie) : exec (.dcDisableDone d) s = execDcDisableDone d s := rfl
@[simp] theorem exec_dcEnable (s : State) (d : CDie) : exec (.dcEnable d) s = execDcEnable d s := rfl
@[simp] theorem exec_dcInval (s : State) (d : CDie) : exec (.dcInval d) s = execDcInval d s := rfl
@[simp] theorem exec_dcInvalDone (s : State) (d : CDie) : exec (.dcInvalDone d) s = execDcInvalDone d s := rfl
@[simp] theorem exec_qcmdDiscard (s : State) (die : Fin 6) (v : W64) : exec (.qcmdDiscard die v) s = execQcmdDiscard die v s := rfl
@[simp] theorem exec_qcmdRetire (s : State) (die : Fin 6) (v : W64) : exec (.qcmdRetire die v) s = execQcmdRetire die v s := rfl
@[simp] theorem exec_xltInval (s : State) (hart : Hart) (v : W64) : exec (.xltInval hart v) s = execXltInval hart v s := rfl
@[simp] theorem exec_xltAck (s : State) (d : CDie) (hart : Hart) : exec (.xltAck d hart) s = execXltAck d hart s := rfl
@[simp] theorem exec_xltOverdue (s : State) (hart : Hart) : exec (.xltOverdue hart) s = execXltOverdue hart s := rfl
@[simp] theorem exec_tltMapWrite (s : State) (slab : Fin 16384) (v : W64) : exec (.tltMapWrite slab v) s = execTltMapWrite slab v s := rfl
@[simp] theorem exec_tltMapInvalidate (s : State) (slab : Fin 16384) : exec (.tltMapInvalidate slab) s = execTltMapInvalidate slab s := rfl
@[simp] theorem exec_tltMove (s : State) (v : W64) : exec (.tltMove v) s = execTltMove v s := rfl
@[simp] theorem exec_moveMark (s : State) : exec (.moveMark) s = execMoveMark s := rfl
@[simp] theorem exec_moveMarkAck (s : State) (die : Fin 6) : exec (.moveMarkAck die) s = execMoveMarkAck die s := rfl
@[simp] theorem exec_moveCopyTile (s : State) : exec (.moveCopyTile) s = execMoveCopyTile s := rfl
@[simp] theorem exec_moveSwitch (s : State) : exec (.moveSwitch) s = execMoveSwitch s := rfl
@[simp] theorem exec_moveDone (s : State) : exec (.moveDone) s = execMoveDone s := rfl
@[simp] theorem exec_moveSwitchOverdue (s : State) : exec (.moveSwitchOverdue) s = execMoveSwitchOverdue s := rfl
@[simp] theorem exec_moveWipeSource (s : State) : exec (.moveWipeSource) s = execMoveWipeSource s := rfl
@[simp] theorem exec_moveAbandon (s : State) (cause : Byte) : exec (.moveAbandon cause) s = execMoveAbandon cause s := rfl
@[simp] theorem exec_fetchS (s : State) (a : Agent) (line : LineAddr) : exec (.fetchS a line) s = execFetchS a line s := rfl
@[simp] theorem exec_fetchX (s : State) (a : Agent) (line : LineAddr) : exec (.fetchX a line) s = execFetchX a line s := rfl
@[simp] theorem exec_claim (s : State) (a : Agent) (line : LineAddr) : exec (.claim a line) s = execClaim a line s := rfl
@[simp] theorem exec_claimZero (s : State) (a : Agent) (line : LineAddr) : exec (.claimZero a line) s = execClaimZero a line s := rfl
@[simp] theorem exec_peek (s : State) (a : Agent) (line : LineAddr) : exec (.peek a line) s = execPeek a line s := rfl
@[simp] theorem exec_putLine (s : State) (a : Agent) (line : LineAddr) (data : Line) : exec (.putLine a line data) s = execPutLine a line data s := rfl
@[simp] theorem exec_putBytes (s : State) (a : Agent) (line : LineAddr) (data : Line) (mask : W64) : exec (.putBytes a line data mask) s = execPutBytes a line data mask s := rfl
@[simp] theorem exec_homeAtomic (s : State) (a : Agent) (line : LineAddr) (offset : Fin 64) (op : AtomOp) (wide : Bool) (operand compare : W64) : exec (.homeAtomic a line offset op wide operand compare) s = execHomeAtomic a line offset op wide operand compare s := rfl
@[simp] theorem exec_evictDirty (s : State) (a : Agent) (line : LineAddr) : exec (.evictDirty a line) s = execEvictDirty a line s := rfl
@[simp] theorem exec_evictClean (s : State) (a : Agent) (line : LineAddr) : exec (.evictClean a line) s = execEvictClean a line s := rfl
@[simp] theorem exec_probeShare (s : State) (a : Agent) (line : LineAddr) : exec (.probeShare a line) s = execProbeShare a line s := rfl
@[simp] theorem exec_probeTake (s : State) (a : Agent) (line : LineAddr) : exec (.probeTake a line) s = execProbeTake a line s := rfl
@[simp] theorem exec_probeKill (s : State) (a : Agent) (line : LineAddr) : exec (.probeKill a line) s = execProbeKill a line s := rfl
@[simp] theorem exec_probePeek (s : State) (a : Agent) (line : LineAddr) : exec (.probePeek a line) s = execProbePeek a line s := rfl
@[simp] theorem exec_probeRecall (s : State) (a : Agent) (line : LineAddr) : exec (.probeRecall a line) s = execProbeRecall a line s := rfl
@[simp] theorem exec_setRecall (s : State) (a : Agent) (die : Fin 6) (slice : Fin 16) (set : Fin 16384) : exec (.setRecall a die slice set) s = execSetRecall a die slice set s := rfl
@[simp] theorem exec_probeAck (s : State) (a : Agent) (line : LineAddr) : exec (.probeAck a line) s = execProbeAck a line s := rfl
@[simp] theorem exec_done (s : State) (a : Agent) (line : LineAddr) : exec (.done a line) s = execDone a line s := rfl
@[simp] theorem exec_doneAck (s : State) (a : Agent) (line : LineAddr) : exec (.doneAck a line) s = execDoneAck a line s := rfl
@[simp] theorem exec_evictAck (s : State) (a : Agent) (line : LineAddr) : exec (.evictAck a line) s = execEvictAck a line s := rfl
@[simp] theorem exec_fail (s : State) (a : Agent) (line : LineAddr) : exec (.fail a line) s = execFail a line s := rfl
@[simp] theorem exec_lineData (s : State) (a : Agent) (line : LineAddr) : exec (.lineData a line) s = execLineData a line s := rfl
@[simp] theorem exec_snoopHoldExpire (s : State) (a : Agent) (line : LineAddr) : exec (.snoopHoldExpire a line) s = execSnoopHoldExpire a line s := rfl
@[simp] theorem exec_dieTallyAdd (s : State) (d : CDie) (level : TallyLevel) (index : Fin 4096) (v : W32) : exec (.dieTallyAdd d level index v) s = execDieTallyAdd d level index v s := rfl
@[simp] theorem exec_orfRingCfgWrite (s : State) (r : RingId) (v : W64) : exec (.orfRingCfgWrite r v) s = execOrfRingCfgWrite r v s := rfl
@[simp] theorem exec_doorbellWrite (s : State) (r : RingId) (v : W64) : exec (.doorbellWrite r v) s = execDoorbellWrite r v s := rfl
@[simp] theorem exec_bulkSyncRead (s : State) : exec (.bulkSyncRead) s = execBulkSyncRead s := rfl
@[simp] theorem exec_descriptorFetch (s : State) (r : RingId) (line : Option (BitVec 512)) : exec (.descriptorFetch r line) s = execDescriptorFetch r line s := rfl
@[simp] theorem exec_descriptorReread (s : State) (r : RingId) (line : Option (BitVec 512)) : exec (.descriptorReread r line) s = execDescriptorReread r line s := rfl
@[simp] theorem exec_launch (s : State) (r : RingId) : exec (.launch r) s = execLaunch r s := rfl
@[simp] theorem exec_copyIn (s : State) (r : RingId) (lines : List Line) : exec (.copyIn r lines) s = execCopyIn r lines s := rfl
@[simp] theorem exec_copyOut (s : State) (r : RingId) : exec (.copyOut r) s = execCopyOut r s := rfl
@[simp] theorem exec_descriptorNop (s : State) (r : RingId) : exec (.descriptorNop r) s = execDescriptorNop r s := rfl
@[simp] theorem exec_completionWrite (s : State) (r : RingId) (ok : Bool) : exec (.completionWrite r ok) s = execCompletionWrite r ok s := rfl
@[simp] theorem exec_bulkFlushResp (s : State) : exec (.bulkFlushResp) s = execBulkFlushResp s := rfl
@[simp] theorem exec_ioRead (s : State) (off : BitVec 20) (width : Byte) : exec (.ioRead off width) s = execIoRead off width s := rfl
@[simp] theorem exec_ioWrite (s : State) (off : BitVec 20) (width : Byte) (v : W64) : exec (.ioWrite off width v) s = execIoWrite off width v s := rfl
@[simp] theorem exec_seamFlitError (s : State) (l : SeamFlit) : exec (.seamFlitError l) s = execSeamFlitError l s := rfl
@[simp] theorem exec_serdesFlitError (s : State) (l : SerdesFlit) : exec (.serdesFlitError l) s = execSerdesFlitError l s := rfl
@[simp] theorem exec_nakReplay (s : State) (l : NakFlit) : exec (.nakReplay l) s = execNakReplay l s := rfl
@[simp] theorem exec_linkTrainDone (s : State) (l : LinkId) (ok : Bool) (spares : Byte) : exec (.linkTrainDone l ok spares) s = execLinkTrainDone l ok spares s := rfl
@[simp] theorem exec_seamCtrlRetrain (s : State) (l : Fin 7) : exec (.seamCtrlRetrain l) s = execSeamCtrlRetrain l s := rfl
@[simp] theorem exec_versionReceive (s : State) (l : LinkId) (v : W64) : exec (.versionReceive l v) s = execVersionReceive l v s := rfl
@[simp] theorem exec_readyReceive (s : State) (l : LinkId) : exec (.readyReceive l) s = execReadyReceive l s := rfl
@[simp] theorem exec_retrainReceive (s : State) (l : LinkId) : exec (.retrainReceive l) s = execRetrainReceive l s := rfl
@[simp] theorem exec_syncReceive (s : State) (l : LinkId) (count : BitVec 48) (ns : W32) : exec (.syncReceive l count ns) s = execSyncReceive l count ns s := rfl
@[simp] theorem exec_pkeyReceive (s : State) (n : Fin 2) (m : KexMsg) : exec (.pkeyReceive n m) s = execPkeyReceive n m s := rfl
@[simp] theorem exec_linkTimeout (s : State) (l : LinkId) : exec (.linkTimeout l) s = execLinkTimeout l s := rfl
@[simp] theorem exec_xfPacketSend (s : State) (l : LinkId) : exec (.xfPacketSend l) s = execXfPacketSend l s := rfl
@[simp] theorem exec_credSend (s : State) (node : BitVec 11) : exec (.credSend node) s = execCredSend node s := rfl
@[simp] theorem exec_credReceive (s : State) (l : LinkId) (p : XfPacket) : exec (.credReceive l p) s = execCredReceive l p s := rfl
@[simp] theorem exec_xfE2eReset (s : State) (v : W64) : exec (.xfE2eReset v) s = execXfE2eReset v s := rfl
@[simp] theorem exec_xfAbort (s : State) (v : W64) : exec (.xfAbort v) s = execXfAbort v s := rfl
@[simp] theorem exec_abortReceive (s : State) (port : XfPort) (p : XfPacket) : exec (.abortReceive port p) s = execAbortReceive port p s := rfl
@[simp] theorem exec_mkvSend (s : State) : exec (.mkvSend) s = execMkvSend s := rfl
@[simp] theorem exec_mkvReceive (s : State) (n : Fin 2) (p : XfPacket) : exec (.mkvReceive n p) s = execMkvReceive n p s := rfl
@[simp] theorem exec_mentReceive (s : State) (n : Fin 2) (p : XfPacket) : exec (.mentReceive n p) s = execMentReceive n p s := rfl
@[simp] theorem exec_mackReceive (s : State) (n : Fin 2) (p : XfPacket) : exec (.mackReceive n p) s = execMackReceive n p s := rfl
@[simp] theorem exec_mirTakeover (s : State) (v : W64) : exec (.mirTakeover v) s = execMirTakeover v s := rfl
@[simp] theorem exec_helloReceive (s : State) (m : KexMsg) : exec (.helloReceive m) s = execHelloReceive m s := rfl
@[simp] theorem exec_wrapReceive (s : State) (m : KexMsg) : exec (.wrapReceive m) s = execWrapReceive m s := rfl
@[simp] theorem exec_kexAckReceive (s : State) (m : KexMsg) : exec (.kexAckReceive m) s = execKexAckReceive m s := rfl
@[simp] theorem exec_switchReceive (s : State) (m : KexMsg) : exec (.switchReceive m) s = execSwitchReceive m s := rfl
@[simp] theorem exec_stitchEdge (s : State) (ns : StitchPulse) : exec (.stitchEdge ns) s = execStitchEdge ns s := rfl
@[simp] theorem exec_stitchEdgeAccept (s : State) : exec (.stitchEdgeAccept) s = execStitchEdgeAccept s := rfl
@[simp] theorem exec_substituteBoundary (s : State) : exec (.substituteBoundary) s = execSubstituteBoundary s := rfl
@[simp] theorem exec_holdoverBoundary (s : State) : exec (.holdoverBoundary) s = execHoldoverBoundary s := rfl
@[simp] theorem exec_stcRelock (s : State) : exec (.stcRelock) s = execStcRelock s := rfl
@[simp] theorem exec_relockTimeout (s : State) : exec (.relockTimeout) s = execRelockTimeout s := rfl
@[simp] theorem exec_stcPeriodWrite (s : State) (v : W64) : exec (.stcPeriodWrite v) s = execStcPeriodWrite v s := rfl
@[simp] theorem exec_stcLoad (s : State) (v : W64) : exec (.stcLoad v) s = execStcLoad v s := rfl
@[simp] theorem exec_pwrMboxWrite (s : State) (v : W64) : exec (.pwrMboxWrite v) s = execPwrMboxWrite v s := rfl
@[simp] theorem exec_pwrLoopWrite (s : State) (v : W64) : exec (.pwrLoopWrite v) s = execPwrLoopWrite v s := rfl
@[simp] theorem exec_powerSample (s : State) (watts : BitVec 13) : exec (.powerSample watts) s = execPowerSample watts s := rfl
@[simp] theorem exec_excursionLimit (s : State) : exec (.excursionLimit) s = execExcursionLimit s := rfl
@[simp] theorem exec_dieLimiterTick (s : State) (die : Fin 6) (watts : BitVec 12) : exec (.dieLimiterTick die watts) s = execDieLimiterTick die watts s := rfl
@[simp] theorem exec_vfStepDone (s : State) (die : Fin 6) : exec (.vfStepDone die) s = execVfStepDone die s := rfl
@[simp] theorem exec_regionLimiterTick (s : State) (rgn : Fin 24) (watts : BitVec 12) : exec (.regionLimiterTick rgn watts) s = execRegionLimiterTick rgn watts s := rfl
@[simp] theorem exec_droopTrip (s : State) (rgn : Fin 24) : exec (.droopTrip rgn) s = execDroopTrip rgn s := rfl
@[simp] theorem exec_droopRecover (s : State) (rgn : Fin 24) : exec (.droopRecover rgn) s = execDroopRecover rgn s := rfl
@[simp] theorem exec_regionOff (s : State) (target : Byte) : exec (.regionOff target) s = execRegionOff target s := rfl
@[simp] theorem exec_regionOn (s : State) (target : Byte) : exec (.regionOn target) s = execRegionOn target s := rfl
@[simp] theorem exec_hostCoreOff (s : State) (target : Byte) : exec (.hostCoreOff target) s = execHostCoreOff target s := rfl
@[simp] theorem exec_hostCoreOn (s : State) (target : Byte) : exec (.hostCoreOn target) s = execHostCoreOn target s := rfl
@[simp] theorem exec_junctionSensorRead (s : State) (die : Fin 6) (temp : Byte) : exec (.junctionSensorRead die temp) s = execJunctionSensorRead die temp s := rfl
@[simp] theorem exec_dieSensorFail (s : State) (die : Fin 6) : exec (.dieSensorFail die) s = execDieSensorFail die s := rfl
@[simp] theorem exec_coolantStop (s : State) (lowNs : W32) : exec (.coolantStop lowNs) s = execCoolantStop lowNs s := rfl
@[simp] theorem exec_thmCtrlWrite (s : State) (v : W64) : exec (.thmCtrlWrite v) s = execThmCtrlWrite v s := rfl
@[simp] theorem exec_thermalTrip (s : State) (die : Fin 6) : exec (.thermalTrip die) s = execThermalTrip die s := rfl
@[simp] theorem exec_clockLoss (s : State) (die : Fin 6) (pll : Option Byte) : exec (.clockLoss die pll) s = execClockLoss die pll s := rfl
@[simp] theorem exec_errQConsWrite (s : State) (h : HDie) (v : W64) : exec (.errQConsWrite h v) s = execErrQConsWrite h v s := rfl
@[simp] theorem exec_errStopContext (s : State) (v : W64) : exec (.errStopContext v) s = execErrStopContext v s := rfl
@[simp] theorem exec_errStopPartition (s : State) (v : W64) : exec (.errStopPartition v) s = execErrStopPartition v s := rfl
@[simp] theorem exec_errReset (s : State) (v : W64) : exec (.errReset v) s = execErrReset v s := rfl
@[simp] theorem exec_resetCaptureEnd (s : State) : exec (.resetCaptureEnd) s = execResetCaptureEnd s := rfl
@[simp] theorem exec_resetQuiesceEnd (s : State) : exec (.resetQuiesceEnd) s = execResetQuiesceEnd s := rfl
@[simp] theorem exec_resetWipeEnd (s : State) : exec (.resetWipeEnd) s = execResetWipeEnd s := rfl
@[simp] theorem exec_resetReleaseEnd (s : State) : exec (.resetReleaseEnd) s = execResetReleaseEnd s := rfl
@[simp] theorem exec_capReleaseA (s : State) (h : HDie) : exec (.capReleaseA h) s = execCapReleaseA h s := rfl
@[simp] theorem exec_capReleaseB (s : State) (h : HDie) : exec (.capReleaseB h) s = execCapReleaseB h s := rfl
@[simp] theorem exec_resetNFall (s : State) : exec (.resetNFall) s = execResetNFall s := rfl
@[simp] theorem exec_resetNCaptureDone (s : State) : exec (.resetNCaptureDone) s = execResetNCaptureDone s := rfl
@[simp] theorem exec_resetNRelease (s : State) : exec (.resetNRelease) s = execResetNRelease s := rfl
@[simp] theorem exec_pwrGoodRise (s : State) : exec (.pwrGoodRise) s = execPwrGoodRise s := rfl
@[simp] theorem exec_railFail (s : State) : exec (.railFail) s = execRailFail s := rfl
@[simp] theorem exec_pwrGoodFall (s : State) : exec (.pwrGoodFall) s = execPwrGoodFall s := rfl
@[simp] theorem exec_startPhaseEnd (s : State) (work : PhaseWork) : exec (.startPhaseEnd work) s = execStartPhaseEnd work s := rfl
@[simp] theorem exec_startPhaseTimeout (s : State) : exec (.startPhaseTimeout) s = execStartPhaseTimeout s := rfl
@[simp] theorem exec_fullWipeDone (s : State) : exec (.fullWipeDone) s = execFullWipeDone s := rfl
@[simp] theorem exec_transition (s : State) (v : W64) : exec (.transition v) s = execTransition v s := rfl
@[simp] theorem exec_debugUnlock (s : State) : exec (.debugUnlock) s = execDebugUnlock s := rfl
@[simp] theorem exec_rollback (s : State) (v : W64) : exec (.rollback v) s = execRollback v s := rfl
@[simp] theorem exec_keyReset (s : State) : exec (.keyReset) s = execKeyReset s := rfl
@[simp] theorem exec_cancel (s : State) : exec (.cancel) s = execCancel s := rfl
@[simp] theorem exec_svnCommit (s : State) : exec (.svnCommit) s = execSvnCommit s := rfl
@[simp] theorem exec_presenceProven (s : State) (fallNs : BitVec 36) (burnOk : Bool) : exec (.presenceProven fallNs burnOk) s = execPresenceProven fallNs burnOk s := rfl
@[simp] theorem exec_presenceExpire (s : State) : exec (.presenceExpire) s = execPresenceExpire s := rfl
@[simp] theorem exec_sealBreak (s : State) (lowNs : W32) : exec (.sealBreak lowNs) s = execSealBreak lowNs s := rfl
@[simp] theorem exec_aliasRederived (s : State) : exec (.aliasRederived) s = execAliasRederived s := rfl
@[simp] theorem exec_secMeasGo (s : State) (v : W64) : exec (.secMeasGo v) s = execSecMeasGo v s := rfl
@[simp] theorem exec_bind (s : State) (v : W64) : exec (.bind v) s = execBind v s := rfl
@[simp] theorem exec_rotate (s : State) (v : W64) : exec (.rotate v) s = execRotate v s := rfl
@[simp] theorem exec_clear (s : State) (v : W64) : exec (.clear v) s = execClear v s := rfl
@[simp] theorem exec_bindTimeout (s : State) : exec (.bindTimeout) s = execBindTimeout s := rfl
@[simp] theorem exec_getVersion (s : State) : exec (.getVersion) s = execGetVersion s := rfl
@[simp] theorem exec_getCapabilities (s : State) : exec (.getCapabilities) s = execGetCapabilities s := rfl
@[simp] theorem exec_negotiateAlgorithms (s : State) : exec (.negotiateAlgorithms) s = execNegotiateAlgorithms s := rfl
@[simp] theorem exec_getDigests (s : State) : exec (.getDigests) s = execGetDigests s := rfl
@[simp] theorem exec_getCertificate (s : State) (offset length : W16) : exec (.getCertificate offset length) s = execGetCertificate offset length s := rfl
@[simp] theorem exec_challenge (s : State) (nonce : BitVec 256) : exec (.challenge nonce) s = execChallenge nonce s := rfl
@[simp] theorem exec_getMeasurements (s : State) (index : Byte) : exec (.getMeasurements index) s = execGetMeasurements index s := rfl
@[simp] theorem exec_spdmUnsupported (s : State) (code : Byte) : exec (.spdmUnsupported code) s = execSpdmUnsupported code s := rfl
@[simp] theorem exec_registerAccessHeld (s : State) (hart : Hart) (addr : BitVec 52) (write : Bool) (v : W64) : exec (.registerAccessHeld hart addr write v) s = execRegisterAccessHeld hart addr write v s := rfl
@[simp] theorem exec_registerDeadDieTimeout (s : State) (hart : Hart) (addr : BitVec 52) : exec (.registerDeadDieTimeout hart addr) s = execRegisterDeadDieTimeout hart addr s := rfl
@[simp] theorem exec_registerMisaligned (s : State) (hart : Hart) (addr : BitVec 52) (width : Byte) : exec (.registerMisaligned hart addr width) s = execRegisterMisaligned hart addr width s := rfl
@[simp] theorem exec_unmappedAccess (s : State) (hart : Hart) (addr : BitVec 52) (write : Bool) : exec (.unmappedAccess hart addr write) s = execUnmappedAccess hart addr write s := rfl
@[simp] theorem exec_registerReadClear (s : State) (hart : Hart) (addr : BitVec 52) : exec (.registerReadClear hart addr) s = execRegisterReadClear hart addr s := rfl
@[simp] theorem exec_registerWrite (s : State) (hart : Hart) (addr : BitVec 52) (v : W64) : exec (.registerWrite hart addr v) s = execRegisterWrite hart addr v s := rfl
@[simp] theorem exec_hostCoreLoadStore (s : State) (hart : Hart) (op : HostOp) : exec (.hostCoreLoadStore hart op) s = execHostCoreLoadStore hart op s := rfl
@[simp] theorem exec_wipePartEnd (s : State) (part : Fin 16) : exec (.wipePartEnd part) s = execWipePartEnd part s := rfl
@[simp] theorem exec_patrolInterval (s : State) : exec (.patrolInterval) s = execPatrolInterval s := rfl

end Sys2Proof.Machine
end

