-- ==== Sys2Proof/Laws/Frames.lean ====
section
/-! SUPPORT. What the shared operations over registers, error records, links and keys change. -/

namespace Sys2Proof.Machine

theorem smGet_smMod {α : Type} [DecidableEq α] (d : α) (m : SMap α) (k j : Nat) (f : α → α) :
    smGet d (smMod d m k f) j = if j = k then f (smGet d m k) else smGet d m j := by
  simp [smMod, smGet_set]

theorem getLink_setLink (s : State) (l m : Nat) (v : Link) : getLink (setLink s l v) m = if m = l then v else getLink s m := by
  simp [getLink, setLink, smGet_set]
theorem getKey_setKey (s : State) (l m : Nat) (v : KeySlot) : getKey (setKey s l v) m = if m = l then v else getKey s m := by
  simp [getKey, setKey, smGet_set]

/-! ### Registers -/

theorem countR_rf (s : State) (r : Reg) (hi lo n : Nat) : ∃ rf, countR s r hi lo n = { s with rf := rf } := ⟨_, rfl⟩
theorem raise_rf (s : State) (r : Reg) (b : Nat) : ∃ rf, raise s r b = { s with rf := rf } := ⟨_, rfl⟩
theorem foldl_rf {α : Type} (f : State → α → State) (hf : ∀ s a, ∃ rf, f s a = { s with rf := rf }) (l : List α) (s : State) :
    ∃ rf, l.foldl f s = { s with rf := rf } := by
  induction l generalizing s with
  | nil => exact ⟨s.rf, rfl⟩
  | cons a l ih =>
    rw [List.foldl_cons]
    obtain ⟨rf, h⟩ := hf s a
    rw [h]
    obtain ⟨rf2, h2⟩ := ih { s with rf := rf }
    exact ⟨rf2, h2⟩
theorem seamCount_rf (s : State) (l hi lo n : Nat) : ∃ rf, seamCount s l hi lo n = { s with rf := rf } := foldl_rf _ (fun _ _ => ⟨_, rfl⟩) _ _
theorem seamFlag_rf (s : State) (l b : Nat) : ∃ rf, seamFlag s l b = { s with rf := rf } := foldl_rf _ (fun _ _ => ⟨_, rfl⟩) _ _

theorem getR_raise_ne (s : State) {r q : Reg} (b : Nat) (h : q.addr ≠ r.addr) : getR (raise s r b) q = getR s q := getR_setR_ne _ _ h
theorem getR_raise (s : State) (r : Reg) (b : Nat) : getR (raise s r b) r = getR s r ||| (1#64 <<< b) := getR_setR ..
theorem flagR_raise (s : State) (r : Reg) {b : Nat} (h : b < 64) : flagR (raise s r b) r b = true := by
  rw [flagR, getR_raise, bitAt]
  simp [h]
theorem getR_countR_ne (s : State) {r q : Reg} (hi lo n : Nat) (h : q.addr ≠ r.addr) : getR (countR s r hi lo n) q = getR s q := getR_setR_ne _ _ h

/-- A record changes only the error queues and their registers. -/
theorem place_frame (s : State) (r : Rec) : ∃ rf er, place s r = { s with rf := rf, err := er } := ⟨_, _, place_only s r⟩

/-- A record that reaches its queue leaves every register but ERR_Q_STATUS and ERR_Q_DROP of the queues. -/
theorem placeAt_getR (s : State) (r : Rec) (n : BitVec 48) {q : Reg} (h : ∀ i : HDie, q.addr ≠ (Reg.errQDrop i).addr ∧ q.addr ≠ (Reg.errQStatus i).addr) :
    getR (placeAt s r n) q = getR s q := by
  unfold placeAt
  dsimp only
  split
  · rfl
  · split <;> split
    · rw [getR_countR_ne _ _ _ _ (h _).1]; exact getR_setR_ne _ _ (h _).1
    · rw [getR_countR_ne _ _ _ _ (h _).1]
    · rw [getR_raise_ne _ _ (h _).2, getR_countR_ne _ _ _ _ (h _).1]; exact getR_setR_ne _ _ (h _).1
    · rw [getR_raise_ne _ _ (h _).2, getR_countR_ne _ _ _ _ (h _).1]
/-- The same of a record that is placed, or that Seam holds. -/
theorem place_getR (s : State) (r : Rec) {q : Reg} (h : ∀ i : HDie, q.addr ≠ (Reg.errQDrop i).addr ∧ q.addr ≠ (Reg.errQStatus i).addr) :
    getR (place s r) q = getR s q := by
  unfold place
  split
  · rfl
  · split
    · exact placeAt_getR s r _ h
    · rfl

/-! ### Packets -/

theorem afterFlit_frame (l : Nat) (v : Link) (f : Flit) : ∃ a r b, afterFlit l v f = { v with sent := a, replay := r, back := b } :=
  ⟨_, _, _, rfl⟩
/-- A flit leaves every link but its own, and that but for what it has sent, keeps for replay and has to return. -/
theorem getLink_sendFlit (s : State) (l m : Nat) (kind : BitVec 2) (body : List Byte) :
    ∃ a r b, getLink (sendFlit l kind s body) m = if m = l then { getLink s l with sent := a, replay := r, back := b } else getLink s m := by
  obtain ⟨a, r, b, h⟩ := afterFlit_frame l (getLink s l) (nextFlit (getLink s l) kind body)
  refine ⟨a, r, b, ?_⟩
  rw [← h, ← getLink_setLink]
  rfl
/-- A flit changes the links and the wire alone. -/
theorem sendFlit_frame (s : State) (l : Nat) (kind : BitVec 2) (body : List Byte) :
    ∃ ls w, sendFlit l kind s body = { s with fab := { s.fab with links := ls, wire := w } } := ⟨_, _, rfl⟩
/-- Flits change the links and the wire alone. -/
theorem sendFlits_frame (s : State) (l : Nat) (kind : BitVec 2) (bodies : List (List Byte)) :
    ∃ ls w, sendFlits s l kind bodies = { s with fab := { s.fab with links := ls, wire := w } } := by
  unfold sendFlits
  induction bodies generalizing s with
  | nil => exact ⟨_, _, rfl⟩
  | cons x xs ih => obtain ⟨ls, w, h⟩ := ih (sendFlit l kind s x); exact ⟨ls, w, by rw [List.foldl_cons, h]; rfl⟩
/-- Sending flits leaves every link but for what it has sent, keeps for replay and has to return. -/
theorem getLink_sendFlits (s : State) (l m : Nat) (kind : BitVec 2) (bodies : List (List Byte)) :
    ∃ a r b, getLink (sendFlits s l kind bodies) m = { getLink s m with sent := a, replay := r, back := b } := by
  unfold sendFlits
  induction bodies generalizing s with
  | nil => exact ⟨_, _, _, rfl⟩
  | cons x xs ih =>
    obtain ⟨a, r, b, h⟩ := ih (sendFlit l kind s x)
    obtain ⟨a', r', b', h'⟩ := getLink_sendFlit s l m kind x
    refine ⟨a, r, b, ?_⟩
    rw [List.foldl_cons, h, h']
    split
    · rename_i e; rw [e]
    · rfl
theorem getLink_sendFlits_ne (s : State) {l m : Nat} (h : m ≠ l) (kind : BitVec 2) (bodies : List (List Byte)) :
    getLink (sendFlits s l kind bodies) m = getLink s m := by
  unfold sendFlits
  induction bodies generalizing s with
  | nil => rfl
  | cons x xs ih =>
    obtain ⟨a, r, b, h'⟩ := getLink_sendFlit s l m kind x
    rw [List.foldl_cons, ih, h', if_neg h]

/-- A control flit leaves its link but for what it has sent, keeps for replay and has to return, and stands on the wire. -/
theorem sendControl_frame (s : State) (l c : Nat) (x : List Byte) :
    ∃ ls w, sendControl s l c x = { s with fab := { s.fab with links := ls, wire := w } } := ⟨_, _, rfl⟩
theorem getLink_sendControl (s : State) (l c m : Nat) (x : List Byte) :
    ∃ a r b, getLink (sendControl s l c x) m = if m = l then { getLink s l with sent := a, replay := r, back := b } else getLink s m :=
  getLink_sendFlit s l m 2 (controlBody c x)
/-- A packet that arrives right changes its own link alone. -/
theorem heardPacket_frame (s : State) (l cls n : Nat) :
    ∃ ls, heardPacket s l cls n = { s with fab := { s.fab with links := ls } } ∧ ∀ m, m ≠ l → getLink (heardPacket s l cls n) m = getLink s m := by
  refine ⟨_, rfl, fun m h => ?_⟩
  simp only [heardPacket, heardFlits, getLink_setLink, h, if_false]
theorem retrain_frame (s : State) (l : Nat) :
    ∃ rf ls, retrain s l = { s with rf := rf, fab := { s.fab with links := ls } }
      ∧ ∀ m, getLink (retrain s l) m = if m = l then retraining (getLink s l) .retraining else getLink s m := by
  obtain ⟨rf, h⟩ : ∃ rf, (if l < 7 then seamCount s l 47 32 1 else s) = { s with rf := rf } := by
    split
    · exact seamCount_rf _ _ _ _ _
    · exact ⟨s.rf, rfl⟩
  unfold retrain beginTraining
  rw [h]
  exact ⟨rf, _, rfl, fun m => by rw [getLink_setLink]; rfl⟩

/-- A packet that leaves takes credits of its link and stands in its flits; nothing but the links, the wire and what has left changes. -/
theorem sendOut_frame (s : State) (l : Nat) (p : XfPacket) :
    ∃ ls w, sendOut s l p = { s with fab := { s.fab with links := ls, wire := w, out := s.fab.out ++ [⟨l, p⟩] } } := by
  unfold sendOut
  split
  · obtain ⟨ls, w, h⟩ := sendFlits_frame (spendCredit s l (hdrClass p.hdr) (packetUnits p.payload.length (hdrClass p.hdr))) l 0 (areas 1008 (packetBytes (packetKey s l p.hdr) p))
    exact ⟨ls, w, by rw [h]; rfl⟩
  · exact ⟨_, _, rfl⟩
theorem getLink_sendOut (s : State) (l m : Nat) (p : XfPacket) :
    ∃ a r b c, getLink (sendOut s l p) m = { getLink s m with sent := a, replay := r, back := b, credit := c } := by
  unfold sendOut
  split
  · obtain ⟨a, r, b, h⟩ := getLink_sendFlits (spendCredit s l (hdrClass p.hdr) (packetUnits p.payload.length (hdrClass p.hdr))) l m 0 (areas 1008 (packetBytes (packetKey s l p.hdr) p))
    have e : ∃ c, getLink (spendCredit s l (hdrClass p.hdr) (packetUnits p.payload.length (hdrClass p.hdr))) m = { getLink s m with credit := c } := by
      simp only [spendCredit, getLink_setLink]
      split
      · rename_i e; rw [e]; exact ⟨_, rfl⟩
      · exact ⟨_, rfl⟩
    obtain ⟨c, e⟩ := e
    exact ⟨a, r, b, c, by change getLink (sendFlits _ l 0 _) m = _; rw [h, e]⟩
  · exact ⟨_, _, _, _, rfl⟩

/-- The packet that a stamped one leaves as. -/
def stamped (s : State) (l : Nat) (q : Queued) (k : Nat) : LinkOut :=
  ⟨l, { q.packet with
    hdr := mkHdr q.node (myNode s) (hdrClass q.packet.hdr) (getKey s k).epoch k (min (smGet 0 s.fab.owed q.node) 0xFFFF)
      (smGet 0 (getKey s k).seqOut q.node + 1) (q.packet.payload.length / 64) }⟩
theorem stampSend_frame (s : State) (l : Nat) (q : Queued) (k : Nat) : ∃ a b c w, stampSend s l q k = { s with fab := { s.fab with
    slots := a, owed := smMod 0 s.fab.owed q.node (· - min (smGet 0 s.fab.owed q.node) 0xFFFF), owedSince := b, links := c, wire := w
    out := s.fab.out ++ [stamped s l q k] } } := by
  unfold stampSend
  dsimp only
  obtain ⟨ls, w, h⟩ := sendOut_frame _ l _
  rw [h]
  exact ⟨_, _, _, _, rfl⟩
theorem stampSend_used (s : State) (l : Nat) (q : Queued) (k : Nat) : (stampSend s l q k).fab.used = s.fab.used := by
  obtain ⟨a, b, c, w, h⟩ := stampSend_frame s l q k; rw [h]
theorem stampSend_out (s : State) (l : Nat) (q : Queued) (k : Nat) : (stampSend s l q k).fab.out = s.fab.out ++ [stamped s l q k] := by
  obtain ⟨a, b, c, w, h⟩ := stampSend_frame s l q k; rw [h]
theorem getLink_stampSend (s : State) (l m : Nat) (q : Queued) (k : Nat) :
    ∃ a r b c, getLink (stampSend s l q k) m = { getLink s m with sent := a, replay := r, back := b, credit := c } := by
  unfold stampSend
  exact getLink_sendOut _ l m _
theorem stampSend_owed (s : State) (l : Nat) (q : Queued) (k m : Nat) : smGet 0 (stampSend s l q k).fab.owed m
    = smGet 0 s.fab.owed m - if m = q.node then min (smGet 0 s.fab.owed m) 0xFFFF else 0 := by
  obtain ⟨a, b, c, w, h⟩ := stampSend_frame s l q k
  rw [h]
  simp only [smGet_smMod]
  by_cases h : m = q.node <;> simp [h]

end Sys2Proof.Machine
end

