-- ==== Sys2Proof/Laws/Operations.lean ====
section
/-! SUPPORT. What additions to tallies and the settling of operations can change. -/

namespace Sys2Proof.Machine

/-- An addition through a handle changes tallies and the stitch block's counter of additions, nothing else. -/
theorem handleAdd_only (s : State) (h : Option W32) (v : W32) :
    handleAdd s h v = { s with tallies := (handleAdd s h v).tallies, stc := (handleAdd s h v).stc } := by
  unfold handleAdd; split <;> rfl

theorem tally_handleAdd (s : State) (h : W32) (v : W32) (j : Nat) :
    tally (handleAdd s (some h) v) j = if handleKey h = some j then tally s j + v else tally s j := by
  simp only [handleAdd, Option.bind_some]
  split
  · rename_i k hk
    simp only [tallyAdd, tally, smMod, smGet_set, hk, Option.some.injEq]
    by_cases hj : j = k
    · subst hj; simp
    · have : ¬ k = j := fun h => hj h.symm
      simp only [hj, this, if_false]
  · rename_i hk; simp [hk]

theorem handleAdds_only {α : Type} (f : α → Option W32) (g : α → W32) (l : List α) (s : State) :
    ∃ ts st, l.foldl (fun s p => handleAdd s (f p) (g p)) s = { s with tallies := ts, stc := st } := by
  induction l generalizing s with
  | nil => exact ⟨s.tallies, s.stc, rfl⟩
  | cons x l ih =>
    obtain ⟨ts, st, h⟩ := ih (handleAdd s (f x) (g x))
    exact ⟨ts, st, by rw [List.foldl_cons, h, handleAdd_only s]⟩

/-- Settling a context's operations changes slots, tallies and the stitch block's counter of additions, nothing else (R331). -/
theorem settleOps_only (s : State) (c : CtxId) :
    ∃ sl ts st, settleOps s c = { s with eng := { s.eng with slots := sl }, tallies := ts, stc := st } := by
  unfold settleOps
  split
  · exact ⟨s.eng.slots, s.tallies, s.stc, rfl⟩
  · dsimp only
    obtain ⟨ts, st, h⟩ := handleAdds_only (fun p : W32 × Nat => some p.1) (fun p => BitVec.ofNat 32 p.2) _ (modCtx s c _)
    rw [h]
    exact ⟨_, ts, st, rfl⟩

theorem performOp_only (s : State) (c : CtxId) (n : Nat) :
    ∃ sl ts st, performOp s c n = { s with eng := { s.eng with slots := sl }, tallies := ts, stc := st } := by
  unfold performOp
  obtain ⟨sl, ts, st, h⟩ := settleOps_only (modCtx s c fun x => { x with ops := x.ops.map fun o =>
    if o.number = n then { o with performed := true, reads := [], writes := [] } else o }) c
  rw [h]
  exact ⟨sl, ts, st, rfl⟩

/-- An operation that a context begins to await: its slot holds it, and its mover may note progress. -/
theorem addOp_only (s : State) (c : CtxId) (o : Op) :
    ∃ pr sl, addOp s c o = { s with err := { s.err with progress := pr }, eng := { s.eng with slots := sl } } := by
  unfold addOp moverMoved
  split <;> exact ⟨_, _, rfl⟩

/-- A ring's freed tally, like every settling, changes slots, tallies and that counter alone. -/
theorem ringFreed_only (s : State) (m : Mma) (c : CtxId) :
    ∃ sl ts st, ringFreed s m c = { s with eng := { s.eng with slots := sl }, tallies := ts, stc := st } := by
  unfold ringFreed
  obtain ⟨sl, ts, st, h⟩ := settleOps_only (modCtx s c _) c
  dsimp only
  rw [h]
  exact ⟨sl, ts, st, rfl⟩

/-- With no operation of its context outstanding and the route to its die up, a ring's freed tally rises at once. -/
theorem ringFreed_idle {s : State} {m : Mma} {c : CtxId} {x : Ctx} (hx : getCtx s c = some x) (ho : x.ops = [])
    (hu : tallyUp s (dieOf c.te).val m.freed = true) (k : Nat) :
    tally (ringFreed s m c) k = if handleKey m.freed = some k then tally s k + 1 else tally s k := by
  have hx' : (getSlot s c).ctx = some x := hx
  have hup : ∀ y, tallyUp (setSlot s c y) (dieOf c.te).val m.freed = true := fun _ => hu
  unfold ringFreed settleOps
  dsimp only
  simp only [getCtx, modCtx, getSlot_setSlot, if_true, hx', Option.map_some, ho, List.takeWhile_nil, List.dropWhile_nil, List.nil_append]
  simp only [flushOps, Option.all_some, hup, Bool.and_self, if_true, List.foldl_cons, List.foldl_nil]
  rw [tally_handleAdd]
  rfl

end Sys2Proof.Machine
end

