-- ==== Sys2Proof/Laws/Setters.lean ====
section
/-! SUPPORT. One lemma for each field that a named update of the memory system, the links or the companion's block leaves alone. -/

namespace Sys2Proof.Machine

/-! ### `setKey` -/

@[simp] theorem setKey_pending (s : State) (k : Nat) (v : KeySlot) : (setKey s k v).pending = s.pending := rfl
@[simp] theorem setKey_now (s : State) (k : Nat) (v : KeySlot) : (setKey s k v).now = s.now := rfl
@[simp] theorem setKey_draws (s : State) (k : Nat) (v : KeySlot) : (setKey s k v).draws = s.draws := rfl
@[simp] theorem setKey_rf (s : State) (k : Nat) (v : KeySlot) : (setKey s k v).rf = s.rf := rfl
@[simp] theorem setKey_eng (s : State) (k : Nat) (v : KeySlot) : (setKey s k v).eng = s.eng := rfl
@[simp] theorem setKey_cl (s : State) (k : Nat) (v : KeySlot) : (setKey s k v).cl = s.cl := rfl
@[simp] theorem setKey_tallies (s : State) (k : Nat) (v : KeySlot) : (setKey s k v).tallies = s.tallies := rfl
@[simp] theorem setKey_dsp (s : State) (k : Nat) (v : KeySlot) : (setKey s k v).dsp = s.dsp := rfl
@[simp] theorem setKey_ses (s : State) (k : Nat) (v : KeySlot) : (setKey s k v).ses = s.ses := rfl
@[simp] theorem setKey_parts (s : State) (k : Nat) (v : KeySlot) : (setKey s k v).parts = s.parts := rfl
@[simp] theorem setKey_partWipe (s : State) (k : Nat) (v : KeySlot) : (setKey s k v).partWipe = s.partWipe := rfl
@[simp] theorem setKey_ctrls (s : State) (k : Nat) (v : KeySlot) : (setKey s k v).ctrls = s.ctrls := rfl
@[simp] theorem setKey_mem (s : State) (k : Nat) (v : KeySlot) : (setKey s k v).mem = s.mem := rfl
@[simp] theorem setKey_coh (s : State) (k : Nat) (v : KeySlot) : (setKey s k v).coh = s.coh := rfl
@[simp] theorem setKey_xlt (s : State) (k : Nat) (v : KeySlot) : (setKey s k v).xlt = s.xlt := rfl
@[simp] theorem setKey_harts (s : State) (k : Nat) (v : KeySlot) : (setKey s k v).harts = s.harts := rfl
@[simp] theorem setKey_orf (s : State) (k : Nat) (v : KeySlot) : (setKey s k v).orf = s.orf := rfl
@[simp] theorem setKey_mir (s : State) (k : Nat) (v : KeySlot) : (setKey s k v).mir = s.mir := rfl
@[simp] theorem setKey_stc (s : State) (k : Nat) (v : KeySlot) : (setKey s k v).stc = s.stc := rfl
@[simp] theorem setKey_pwr (s : State) (k : Nat) (v : KeySlot) : (setKey s k v).pwr = s.pwr := rfl
@[simp] theorem setKey_err (s : State) (k : Nat) (v : KeySlot) : (setKey s k v).err = s.err := rfl
@[simp] theorem setKey_sec (s : State) (k : Nat) (v : KeySlot) : (setKey s k v).sec = s.sec := rfl
@[simp] theorem setKey_boot (s : State) (k : Nat) (v : KeySlot) : (setKey s k v).boot = s.boot := rfl
@[simp] theorem setKey_brd (s : State) (k : Nat) (v : KeySlot) : (setKey s k v).brd = s.brd := rfl

/-! ### `setLink` -/

@[simp] theorem setLink_pending (s : State) (l : Nat) (v : Link) : (setLink s l v).pending = s.pending := rfl
@[simp] theorem setLink_now (s : State) (l : Nat) (v : Link) : (setLink s l v).now = s.now := rfl
@[simp] theorem setLink_draws (s : State) (l : Nat) (v : Link) : (setLink s l v).draws = s.draws := rfl
@[simp] theorem setLink_rf (s : State) (l : Nat) (v : Link) : (setLink s l v).rf = s.rf := rfl
@[simp] theorem setLink_eng (s : State) (l : Nat) (v : Link) : (setLink s l v).eng = s.eng := rfl
@[simp] theorem setLink_cl (s : State) (l : Nat) (v : Link) : (setLink s l v).cl = s.cl := rfl
@[simp] theorem setLink_tallies (s : State) (l : Nat) (v : Link) : (setLink s l v).tallies = s.tallies := rfl
@[simp] theorem setLink_dsp (s : State) (l : Nat) (v : Link) : (setLink s l v).dsp = s.dsp := rfl
@[simp] theorem setLink_ses (s : State) (l : Nat) (v : Link) : (setLink s l v).ses = s.ses := rfl
@[simp] theorem setLink_parts (s : State) (l : Nat) (v : Link) : (setLink s l v).parts = s.parts := rfl
@[simp] theorem setLink_partWipe (s : State) (l : Nat) (v : Link) : (setLink s l v).partWipe = s.partWipe := rfl
@[simp] theorem setLink_ctrls (s : State) (l : Nat) (v : Link) : (setLink s l v).ctrls = s.ctrls := rfl
@[simp] theorem setLink_mem (s : State) (l : Nat) (v : Link) : (setLink s l v).mem = s.mem := rfl
@[simp] theorem setLink_coh (s : State) (l : Nat) (v : Link) : (setLink s l v).coh = s.coh := rfl
@[simp] theorem setLink_xlt (s : State) (l : Nat) (v : Link) : (setLink s l v).xlt = s.xlt := rfl
@[simp] theorem setLink_harts (s : State) (l : Nat) (v : Link) : (setLink s l v).harts = s.harts := rfl
@[simp] theorem setLink_orf (s : State) (l : Nat) (v : Link) : (setLink s l v).orf = s.orf := rfl
@[simp] theorem setLink_mir (s : State) (l : Nat) (v : Link) : (setLink s l v).mir = s.mir := rfl
@[simp] theorem setLink_stc (s : State) (l : Nat) (v : Link) : (setLink s l v).stc = s.stc := rfl
@[simp] theorem setLink_pwr (s : State) (l : Nat) (v : Link) : (setLink s l v).pwr = s.pwr := rfl
@[simp] theorem setLink_err (s : State) (l : Nat) (v : Link) : (setLink s l v).err = s.err := rfl
@[simp] theorem setLink_sec (s : State) (l : Nat) (v : Link) : (setLink s l v).sec = s.sec := rfl
@[simp] theorem setLink_boot (s : State) (l : Nat) (v : Link) : (setLink s l v).boot = s.boot := rfl
@[simp] theorem setLink_brd (s : State) (l : Nat) (v : Link) : (setLink s l v).brd = s.brd := rfl

/-! ### `setRoutes` -/

@[simp] theorem setRoutes_pending (s : State) (d : CDie) (l : List Route) : (setRoutes s d l).pending = s.pending := rfl
@[simp] theorem setRoutes_now (s : State) (d : CDie) (l : List Route) : (setRoutes s d l).now = s.now := rfl
@[simp] theorem setRoutes_draws (s : State) (d : CDie) (l : List Route) : (setRoutes s d l).draws = s.draws := rfl
@[simp] theorem setRoutes_rf (s : State) (d : CDie) (l : List Route) : (setRoutes s d l).rf = s.rf := rfl
@[simp] theorem setRoutes_eng (s : State) (d : CDie) (l : List Route) : (setRoutes s d l).eng = s.eng := rfl
@[simp] theorem setRoutes_cl (s : State) (d : CDie) (l : List Route) : (setRoutes s d l).cl = s.cl := rfl
@[simp] theorem setRoutes_tallies (s : State) (d : CDie) (l : List Route) : (setRoutes s d l).tallies = s.tallies := rfl
@[simp] theorem setRoutes_ses (s : State) (d : CDie) (l : List Route) : (setRoutes s d l).ses = s.ses := rfl
@[simp] theorem setRoutes_parts (s : State) (d : CDie) (l : List Route) : (setRoutes s d l).parts = s.parts := rfl
@[simp] theorem setRoutes_partWipe (s : State) (d : CDie) (l : List Route) : (setRoutes s d l).partWipe = s.partWipe := rfl
@[simp] theorem setRoutes_ctrls (s : State) (d : CDie) (l : List Route) : (setRoutes s d l).ctrls = s.ctrls := rfl
@[simp] theorem setRoutes_mem (s : State) (d : CDie) (l : List Route) : (setRoutes s d l).mem = s.mem := rfl
@[simp] theorem setRoutes_coh (s : State) (d : CDie) (l : List Route) : (setRoutes s d l).coh = s.coh := rfl
@[simp] theorem setRoutes_xlt (s : State) (d : CDie) (l : List Route) : (setRoutes s d l).xlt = s.xlt := rfl
@[simp] theorem setRoutes_harts (s : State) (d : CDie) (l : List Route) : (setRoutes s d l).harts = s.harts := rfl
@[simp] theorem setRoutes_orf (s : State) (d : CDie) (l : List Route) : (setRoutes s d l).orf = s.orf := rfl
@[simp] theorem setRoutes_fab (s : State) (d : CDie) (l : List Route) : (setRoutes s d l).fab = s.fab := rfl
@[simp] theorem setRoutes_mir (s : State) (d : CDie) (l : List Route) : (setRoutes s d l).mir = s.mir := rfl
@[simp] theorem setRoutes_stc (s : State) (d : CDie) (l : List Route) : (setRoutes s d l).stc = s.stc := rfl
@[simp] theorem setRoutes_pwr (s : State) (d : CDie) (l : List Route) : (setRoutes s d l).pwr = s.pwr := rfl
@[simp] theorem setRoutes_err (s : State) (d : CDie) (l : List Route) : (setRoutes s d l).err = s.err := rfl
@[simp] theorem setRoutes_sec (s : State) (d : CDie) (l : List Route) : (setRoutes s d l).sec = s.sec := rfl
@[simp] theorem setRoutes_boot (s : State) (d : CDie) (l : List Route) : (setRoutes s d l).boot = s.boot := rfl
@[simp] theorem setRoutes_brd (s : State) (d : CDie) (l : List Route) : (setRoutes s d l).brd = s.brd := rfl

/-! ### `setRing` -/

@[simp] theorem setRing_pending (s : State) (r : Nat) (v : Ring) : (setRing s r v).pending = s.pending := rfl
@[simp] theorem setRing_now (s : State) (r : Nat) (v : Ring) : (setRing s r v).now = s.now := rfl
@[simp] theorem setRing_draws (s : State) (r : Nat) (v : Ring) : (setRing s r v).draws = s.draws := rfl
@[simp] theorem setRing_rf (s : State) (r : Nat) (v : Ring) : (setRing s r v).rf = s.rf := rfl
@[simp] theorem setRing_eng (s : State) (r : Nat) (v : Ring) : (setRing s r v).eng = s.eng := rfl
@[simp] theorem setRing_cl (s : State) (r : Nat) (v : Ring) : (setRing s r v).cl = s.cl := rfl
@[simp] theorem setRing_tallies (s : State) (r : Nat) (v : Ring) : (setRing s r v).tallies = s.tallies := rfl
@[simp] theorem setRing_dsp (s : State) (r : Nat) (v : Ring) : (setRing s r v).dsp = s.dsp := rfl
@[simp] theorem setRing_ses (s : State) (r : Nat) (v : Ring) : (setRing s r v).ses = s.ses := rfl
@[simp] theorem setRing_parts (s : State) (r : Nat) (v : Ring) : (setRing s r v).parts = s.parts := rfl
@[simp] theorem setRing_partWipe (s : State) (r : Nat) (v : Ring) : (setRing s r v).partWipe = s.partWipe := rfl
@[simp] theorem setRing_ctrls (s : State) (r : Nat) (v : Ring) : (setRing s r v).ctrls = s.ctrls := rfl
@[simp] theorem setRing_mem (s : State) (r : Nat) (v : Ring) : (setRing s r v).mem = s.mem := rfl
@[simp] theorem setRing_coh (s : State) (r : Nat) (v : Ring) : (setRing s r v).coh = s.coh := rfl
@[simp] theorem setRing_xlt (s : State) (r : Nat) (v : Ring) : (setRing s r v).xlt = s.xlt := rfl
@[simp] theorem setRing_harts (s : State) (r : Nat) (v : Ring) : (setRing s r v).harts = s.harts := rfl
@[simp] theorem setRing_fab (s : State) (r : Nat) (v : Ring) : (setRing s r v).fab = s.fab := rfl
@[simp] theorem setRing_mir (s : State) (r : Nat) (v : Ring) : (setRing s r v).mir = s.mir := rfl
@[simp] theorem setRing_stc (s : State) (r : Nat) (v : Ring) : (setRing s r v).stc = s.stc := rfl
@[simp] theorem setRing_pwr (s : State) (r : Nat) (v : Ring) : (setRing s r v).pwr = s.pwr := rfl
@[simp] theorem setRing_err (s : State) (r : Nat) (v : Ring) : (setRing s r v).err = s.err := rfl
@[simp] theorem setRing_sec (s : State) (r : Nat) (v : Ring) : (setRing s r v).sec = s.sec := rfl
@[simp] theorem setRing_boot (s : State) (r : Nat) (v : Ring) : (setRing s r v).boot = s.boot := rfl
@[simp] theorem setRing_brd (s : State) (r : Nat) (v : Ring) : (setRing s r v).brd = s.brd := rfl

/-! ### `setCtrl` -/

@[simp] theorem setCtrl_pending (s : State) (c : CtrlId) (v : Ctrl) : (setCtrl s c v).pending = s.pending := rfl
@[simp] theorem setCtrl_now (s : State) (c : CtrlId) (v : Ctrl) : (setCtrl s c v).now = s.now := rfl
@[simp] theorem setCtrl_draws (s : State) (c : CtrlId) (v : Ctrl) : (setCtrl s c v).draws = s.draws := rfl
@[simp] theorem setCtrl_rf (s : State) (c : CtrlId) (v : Ctrl) : (setCtrl s c v).rf = s.rf := rfl
@[simp] theorem setCtrl_eng (s : State) (c : CtrlId) (v : Ctrl) : (setCtrl s c v).eng = s.eng := rfl
@[simp] theorem setCtrl_cl (s : State) (c : CtrlId) (v : Ctrl) : (setCtrl s c v).cl = s.cl := rfl
@[simp] theorem setCtrl_tallies (s : State) (c : CtrlId) (v : Ctrl) : (setCtrl s c v).tallies = s.tallies := rfl
@[simp] theorem setCtrl_dsp (s : State) (c : CtrlId) (v : Ctrl) : (setCtrl s c v).dsp = s.dsp := rfl
@[simp] theorem setCtrl_ses (s : State) (c : CtrlId) (v : Ctrl) : (setCtrl s c v).ses = s.ses := rfl
@[simp] theorem setCtrl_parts (s : State) (c : CtrlId) (v : Ctrl) : (setCtrl s c v).parts = s.parts := rfl
@[simp] theorem setCtrl_partWipe (s : State) (c : CtrlId) (v : Ctrl) : (setCtrl s c v).partWipe = s.partWipe := rfl
@[simp] theorem setCtrl_mem (s : State) (c : CtrlId) (v : Ctrl) : (setCtrl s c v).mem = s.mem := rfl
@[simp] theorem setCtrl_coh (s : State) (c : CtrlId) (v : Ctrl) : (setCtrl s c v).coh = s.coh := rfl
@[simp] theorem setCtrl_xlt (s : State) (c : CtrlId) (v : Ctrl) : (setCtrl s c v).xlt = s.xlt := rfl
@[simp] theorem setCtrl_harts (s : State) (c : CtrlId) (v : Ctrl) : (setCtrl s c v).harts = s.harts := rfl
@[simp] theorem setCtrl_orf (s : State) (c : CtrlId) (v : Ctrl) : (setCtrl s c v).orf = s.orf := rfl
@[simp] theorem setCtrl_fab (s : State) (c : CtrlId) (v : Ctrl) : (setCtrl s c v).fab = s.fab := rfl
@[simp] theorem setCtrl_mir (s : State) (c : CtrlId) (v : Ctrl) : (setCtrl s c v).mir = s.mir := rfl
@[simp] theorem setCtrl_stc (s : State) (c : CtrlId) (v : Ctrl) : (setCtrl s c v).stc = s.stc := rfl
@[simp] theorem setCtrl_pwr (s : State) (c : CtrlId) (v : Ctrl) : (setCtrl s c v).pwr = s.pwr := rfl
@[simp] theorem setCtrl_err (s : State) (c : CtrlId) (v : Ctrl) : (setCtrl s c v).err = s.err := rfl
@[simp] theorem setCtrl_sec (s : State) (c : CtrlId) (v : Ctrl) : (setCtrl s c v).sec = s.sec := rfl
@[simp] theorem setCtrl_boot (s : State) (c : CtrlId) (v : Ctrl) : (setCtrl s c v).boot = s.boot := rfl
@[simp] theorem setCtrl_brd (s : State) (c : CtrlId) (v : Ctrl) : (setCtrl s c v).brd = s.brd := rfl

/-! ### `setHart` -/

@[simp] theorem setHart_pending (s : State) (h : Nat) (v : HartState) : (setHart s h v).pending = s.pending := rfl
@[simp] theorem setHart_now (s : State) (h : Nat) (v : HartState) : (setHart s h v).now = s.now := rfl
@[simp] theorem setHart_draws (s : State) (h : Nat) (v : HartState) : (setHart s h v).draws = s.draws := rfl
@[simp] theorem setHart_rf (s : State) (h : Nat) (v : HartState) : (setHart s h v).rf = s.rf := rfl
@[simp] theorem setHart_eng (s : State) (h : Nat) (v : HartState) : (setHart s h v).eng = s.eng := rfl
@[simp] theorem setHart_cl (s : State) (h : Nat) (v : HartState) : (setHart s h v).cl = s.cl := rfl
@[simp] theorem setHart_tallies (s : State) (h : Nat) (v : HartState) : (setHart s h v).tallies = s.tallies := rfl
@[simp] theorem setHart_dsp (s : State) (h : Nat) (v : HartState) : (setHart s h v).dsp = s.dsp := rfl
@[simp] theorem setHart_ses (s : State) (h : Nat) (v : HartState) : (setHart s h v).ses = s.ses := rfl
@[simp] theorem setHart_parts (s : State) (h : Nat) (v : HartState) : (setHart s h v).parts = s.parts := rfl
@[simp] theorem setHart_partWipe (s : State) (h : Nat) (v : HartState) : (setHart s h v).partWipe = s.partWipe := rfl
@[simp] theorem setHart_ctrls (s : State) (h : Nat) (v : HartState) : (setHart s h v).ctrls = s.ctrls := rfl
@[simp] theorem setHart_mem (s : State) (h : Nat) (v : HartState) : (setHart s h v).mem = s.mem := rfl
@[simp] theorem setHart_coh (s : State) (h : Nat) (v : HartState) : (setHart s h v).coh = s.coh := rfl
@[simp] theorem setHart_xlt (s : State) (h : Nat) (v : HartState) : (setHart s h v).xlt = s.xlt := rfl
@[simp] theorem setHart_orf (s : State) (h : Nat) (v : HartState) : (setHart s h v).orf = s.orf := rfl
@[simp] theorem setHart_fab (s : State) (h : Nat) (v : HartState) : (setHart s h v).fab = s.fab := rfl
@[simp] theorem setHart_mir (s : State) (h : Nat) (v : HartState) : (setHart s h v).mir = s.mir := rfl
@[simp] theorem setHart_stc (s : State) (h : Nat) (v : HartState) : (setHart s h v).stc = s.stc := rfl
@[simp] theorem setHart_pwr (s : State) (h : Nat) (v : HartState) : (setHart s h v).pwr = s.pwr := rfl
@[simp] theorem setHart_err (s : State) (h : Nat) (v : HartState) : (setHart s h v).err = s.err := rfl
@[simp] theorem setHart_sec (s : State) (h : Nat) (v : HartState) : (setHart s h v).sec = s.sec := rfl
@[simp] theorem setHart_boot (s : State) (h : Nat) (v : HartState) : (setHart s h v).boot = s.boot := rfl
@[simp] theorem setHart_brd (s : State) (h : Nat) (v : HartState) : (setHart s h v).brd = s.brd := rfl

/-! ### `setSes` -/

@[simp] theorem setSes_pending (s : State) (n : Nat) (v : BitVec 2048) : (setSes s n v).pending = s.pending := rfl
@[simp] theorem setSes_now (s : State) (n : Nat) (v : BitVec 2048) : (setSes s n v).now = s.now := rfl
@[simp] theorem setSes_draws (s : State) (n : Nat) (v : BitVec 2048) : (setSes s n v).draws = s.draws := rfl
@[simp] theorem setSes_rf (s : State) (n : Nat) (v : BitVec 2048) : (setSes s n v).rf = s.rf := rfl
@[simp] theorem setSes_eng (s : State) (n : Nat) (v : BitVec 2048) : (setSes s n v).eng = s.eng := rfl
@[simp] theorem setSes_cl (s : State) (n : Nat) (v : BitVec 2048) : (setSes s n v).cl = s.cl := rfl
@[simp] theorem setSes_tallies (s : State) (n : Nat) (v : BitVec 2048) : (setSes s n v).tallies = s.tallies := rfl
@[simp] theorem setSes_dsp (s : State) (n : Nat) (v : BitVec 2048) : (setSes s n v).dsp = s.dsp := rfl
@[simp] theorem setSes_parts (s : State) (n : Nat) (v : BitVec 2048) : (setSes s n v).parts = s.parts := rfl
@[simp] theorem setSes_partWipe (s : State) (n : Nat) (v : BitVec 2048) : (setSes s n v).partWipe = s.partWipe := rfl
@[simp] theorem setSes_ctrls (s : State) (n : Nat) (v : BitVec 2048) : (setSes s n v).ctrls = s.ctrls := rfl
@[simp] theorem setSes_mem (s : State) (n : Nat) (v : BitVec 2048) : (setSes s n v).mem = s.mem := rfl
@[simp] theorem setSes_coh (s : State) (n : Nat) (v : BitVec 2048) : (setSes s n v).coh = s.coh := rfl
@[simp] theorem setSes_xlt (s : State) (n : Nat) (v : BitVec 2048) : (setSes s n v).xlt = s.xlt := rfl
@[simp] theorem setSes_harts (s : State) (n : Nat) (v : BitVec 2048) : (setSes s n v).harts = s.harts := rfl
@[simp] theorem setSes_orf (s : State) (n : Nat) (v : BitVec 2048) : (setSes s n v).orf = s.orf := rfl
@[simp] theorem setSes_fab (s : State) (n : Nat) (v : BitVec 2048) : (setSes s n v).fab = s.fab := rfl
@[simp] theorem setSes_mir (s : State) (n : Nat) (v : BitVec 2048) : (setSes s n v).mir = s.mir := rfl
@[simp] theorem setSes_stc (s : State) (n : Nat) (v : BitVec 2048) : (setSes s n v).stc = s.stc := rfl
@[simp] theorem setSes_pwr (s : State) (n : Nat) (v : BitVec 2048) : (setSes s n v).pwr = s.pwr := rfl
@[simp] theorem setSes_err (s : State) (n : Nat) (v : BitVec 2048) : (setSes s n v).err = s.err := rfl
@[simp] theorem setSes_sec (s : State) (n : Nat) (v : BitVec 2048) : (setSes s n v).sec = s.sec := rfl
@[simp] theorem setSes_boot (s : State) (n : Nat) (v : BitVec 2048) : (setSes s n v).boot = s.boot := rfl
@[simp] theorem setSes_brd (s : State) (n : Nat) (v : BitVec 2048) : (setSes s n v).brd = s.brd := rfl

/-! ### `setCopy` -/

@[simp] theorem setCopy_pending (s : State) (a line : Nat) (v : Copy) : (setCopy s a line v).pending = s.pending := rfl
@[simp] theorem setCopy_now (s : State) (a line : Nat) (v : Copy) : (setCopy s a line v).now = s.now := rfl
@[simp] theorem setCopy_draws (s : State) (a line : Nat) (v : Copy) : (setCopy s a line v).draws = s.draws := rfl
@[simp] theorem setCopy_rf (s : State) (a line : Nat) (v : Copy) : (setCopy s a line v).rf = s.rf := rfl
@[simp] theorem setCopy_eng (s : State) (a line : Nat) (v : Copy) : (setCopy s a line v).eng = s.eng := rfl
@[simp] theorem setCopy_cl (s : State) (a line : Nat) (v : Copy) : (setCopy s a line v).cl = s.cl := rfl
@[simp] theorem setCopy_tallies (s : State) (a line : Nat) (v : Copy) : (setCopy s a line v).tallies = s.tallies := rfl
@[simp] theorem setCopy_dsp (s : State) (a line : Nat) (v : Copy) : (setCopy s a line v).dsp = s.dsp := rfl
@[simp] theorem setCopy_ses (s : State) (a line : Nat) (v : Copy) : (setCopy s a line v).ses = s.ses := rfl
@[simp] theorem setCopy_parts (s : State) (a line : Nat) (v : Copy) : (setCopy s a line v).parts = s.parts := rfl
@[simp] theorem setCopy_partWipe (s : State) (a line : Nat) (v : Copy) : (setCopy s a line v).partWipe = s.partWipe := rfl
@[simp] theorem setCopy_ctrls (s : State) (a line : Nat) (v : Copy) : (setCopy s a line v).ctrls = s.ctrls := rfl
@[simp] theorem setCopy_mem (s : State) (a line : Nat) (v : Copy) : (setCopy s a line v).mem = s.mem := rfl
@[simp] theorem setCopy_xlt (s : State) (a line : Nat) (v : Copy) : (setCopy s a line v).xlt = s.xlt := rfl
@[simp] theorem setCopy_harts (s : State) (a line : Nat) (v : Copy) : (setCopy s a line v).harts = s.harts := rfl
@[simp] theorem setCopy_orf (s : State) (a line : Nat) (v : Copy) : (setCopy s a line v).orf = s.orf := rfl
@[simp] theorem setCopy_fab (s : State) (a line : Nat) (v : Copy) : (setCopy s a line v).fab = s.fab := rfl
@[simp] theorem setCopy_mir (s : State) (a line : Nat) (v : Copy) : (setCopy s a line v).mir = s.mir := rfl
@[simp] theorem setCopy_stc (s : State) (a line : Nat) (v : Copy) : (setCopy s a line v).stc = s.stc := rfl
@[simp] theorem setCopy_pwr (s : State) (a line : Nat) (v : Copy) : (setCopy s a line v).pwr = s.pwr := rfl
@[simp] theorem setCopy_err (s : State) (a line : Nat) (v : Copy) : (setCopy s a line v).err = s.err := rfl
@[simp] theorem setCopy_sec (s : State) (a line : Nat) (v : Copy) : (setCopy s a line v).sec = s.sec := rfl
@[simp] theorem setCopy_boot (s : State) (a line : Nat) (v : Copy) : (setCopy s a line v).boot = s.boot := rfl
@[simp] theorem setCopy_brd (s : State) (a line : Nat) (v : Copy) : (setCopy s a line v).brd = s.brd := rfl

/-! ### `setBuf` -/

@[simp] theorem setBuf_pending (s : State) (a line : Nat) (v : Option EvictBuf) : (setBuf s a line v).pending = s.pending := rfl
@[simp] theorem setBuf_now (s : State) (a line : Nat) (v : Option EvictBuf) : (setBuf s a line v).now = s.now := rfl
@[simp] theorem setBuf_draws (s : State) (a line : Nat) (v : Option EvictBuf) : (setBuf s a line v).draws = s.draws := rfl
@[simp] theorem setBuf_rf (s : State) (a line : Nat) (v : Option EvictBuf) : (setBuf s a line v).rf = s.rf := rfl
@[simp] theorem setBuf_eng (s : State) (a line : Nat) (v : Option EvictBuf) : (setBuf s a line v).eng = s.eng := rfl
@[simp] theorem setBuf_cl (s : State) (a line : Nat) (v : Option EvictBuf) : (setBuf s a line v).cl = s.cl := rfl
@[simp] theorem setBuf_tallies (s : State) (a line : Nat) (v : Option EvictBuf) : (setBuf s a line v).tallies = s.tallies := rfl
@[simp] theorem setBuf_dsp (s : State) (a line : Nat) (v : Option EvictBuf) : (setBuf s a line v).dsp = s.dsp := rfl
@[simp] theorem setBuf_ses (s : State) (a line : Nat) (v : Option EvictBuf) : (setBuf s a line v).ses = s.ses := rfl
@[simp] theorem setBuf_parts (s : State) (a line : Nat) (v : Option EvictBuf) : (setBuf s a line v).parts = s.parts := rfl
@[simp] theorem setBuf_partWipe (s : State) (a line : Nat) (v : Option EvictBuf) : (setBuf s a line v).partWipe = s.partWipe := rfl
@[simp] theorem setBuf_ctrls (s : State) (a line : Nat) (v : Option EvictBuf) : (setBuf s a line v).ctrls = s.ctrls := rfl
@[simp] theorem setBuf_mem (s : State) (a line : Nat) (v : Option EvictBuf) : (setBuf s a line v).mem = s.mem := rfl
@[simp] theorem setBuf_xlt (s : State) (a line : Nat) (v : Option EvictBuf) : (setBuf s a line v).xlt = s.xlt := rfl
@[simp] theorem setBuf_harts (s : State) (a line : Nat) (v : Option EvictBuf) : (setBuf s a line v).harts = s.harts := rfl
@[simp] theorem setBuf_orf (s : State) (a line : Nat) (v : Option EvictBuf) : (setBuf s a line v).orf = s.orf := rfl
@[simp] theorem setBuf_fab (s : State) (a line : Nat) (v : Option EvictBuf) : (setBuf s a line v).fab = s.fab := rfl
@[simp] theorem setBuf_mir (s : State) (a line : Nat) (v : Option EvictBuf) : (setBuf s a line v).mir = s.mir := rfl
@[simp] theorem setBuf_stc (s : State) (a line : Nat) (v : Option EvictBuf) : (setBuf s a line v).stc = s.stc := rfl
@[simp] theorem setBuf_pwr (s : State) (a line : Nat) (v : Option EvictBuf) : (setBuf s a line v).pwr = s.pwr := rfl
@[simp] theorem setBuf_err (s : State) (a line : Nat) (v : Option EvictBuf) : (setBuf s a line v).err = s.err := rfl
@[simp] theorem setBuf_sec (s : State) (a line : Nat) (v : Option EvictBuf) : (setBuf s a line v).sec = s.sec := rfl
@[simp] theorem setBuf_boot (s : State) (a line : Nat) (v : Option EvictBuf) : (setBuf s a line v).boot = s.boot := rfl
@[simp] theorem setBuf_brd (s : State) (a line : Nat) (v : Option EvictBuf) : (setBuf s a line v).brd = s.brd := rfl

/-! ### `setDir` -/

@[simp] theorem setDir_pending (s : State) (line : Nat) (v : DirEntry) : (setDir s line v).pending = s.pending := rfl
@[simp] theorem setDir_now (s : State) (line : Nat) (v : DirEntry) : (setDir s line v).now = s.now := rfl
@[simp] theorem setDir_draws (s : State) (line : Nat) (v : DirEntry) : (setDir s line v).draws = s.draws := rfl
@[simp] theorem setDir_rf (s : State) (line : Nat) (v : DirEntry) : (setDir s line v).rf = s.rf := rfl
@[simp] theorem setDir_eng (s : State) (line : Nat) (v : DirEntry) : (setDir s line v).eng = s.eng := rfl
@[simp] theorem setDir_cl (s : State) (line : Nat) (v : DirEntry) : (setDir s line v).cl = s.cl := rfl
@[simp] theorem setDir_tallies (s : State) (line : Nat) (v : DirEntry) : (setDir s line v).tallies = s.tallies := rfl
@[simp] theorem setDir_dsp (s : State) (line : Nat) (v : DirEntry) : (setDir s line v).dsp = s.dsp := rfl
@[simp] theorem setDir_ses (s : State) (line : Nat) (v : DirEntry) : (setDir s line v).ses = s.ses := rfl
@[simp] theorem setDir_parts (s : State) (line : Nat) (v : DirEntry) : (setDir s line v).parts = s.parts := rfl
@[simp] theorem setDir_partWipe (s : State) (line : Nat) (v : DirEntry) : (setDir s line v).partWipe = s.partWipe := rfl
@[simp] theorem setDir_ctrls (s : State) (line : Nat) (v : DirEntry) : (setDir s line v).ctrls = s.ctrls := rfl
@[simp] theorem setDir_mem (s : State) (line : Nat) (v : DirEntry) : (setDir s line v).mem = s.mem := rfl
@[simp] theorem setDir_xlt (s : State) (line : Nat) (v : DirEntry) : (setDir s line v).xlt = s.xlt := rfl
@[simp] theorem setDir_harts (s : State) (line : Nat) (v : DirEntry) : (setDir s line v).harts = s.harts := rfl
@[simp] theorem setDir_orf (s : State) (line : Nat) (v : DirEntry) : (setDir s line v).orf = s.orf := rfl
@[simp] theorem setDir_fab (s : State) (line : Nat) (v : DirEntry) : (setDir s line v).fab = s.fab := rfl
@[simp] theorem setDir_mir (s : State) (line : Nat) (v : DirEntry) : (setDir s line v).mir = s.mir := rfl
@[simp] theorem setDir_stc (s : State) (line : Nat) (v : DirEntry) : (setDir s line v).stc = s.stc := rfl
@[simp] theorem setDir_pwr (s : State) (line : Nat) (v : DirEntry) : (setDir s line v).pwr = s.pwr := rfl
@[simp] theorem setDir_err (s : State) (line : Nat) (v : DirEntry) : (setDir s line v).err = s.err := rfl
@[simp] theorem setDir_sec (s : State) (line : Nat) (v : DirEntry) : (setDir s line v).sec = s.sec := rfl
@[simp] theorem setDir_boot (s : State) (line : Nat) (v : DirEntry) : (setDir s line v).boot = s.boot := rfl
@[simp] theorem setDir_brd (s : State) (line : Nat) (v : DirEntry) : (setDir s line v).brd = s.brd := rfl

/-! ### `setHome` -/

@[simp] theorem setHome_pending (s : State) (line : Nat) (v : HomeLine) : (setHome s line v).pending = s.pending := rfl
@[simp] theorem setHome_now (s : State) (line : Nat) (v : HomeLine) : (setHome s line v).now = s.now := rfl
@[simp] theorem setHome_draws (s : State) (line : Nat) (v : HomeLine) : (setHome s line v).draws = s.draws := rfl
@[simp] theorem setHome_rf (s : State) (line : Nat) (v : HomeLine) : (setHome s line v).rf = s.rf := rfl
@[simp] theorem setHome_eng (s : State) (line : Nat) (v : HomeLine) : (setHome s line v).eng = s.eng := rfl
@[simp] theorem setHome_cl (s : State) (line : Nat) (v : HomeLine) : (setHome s line v).cl = s.cl := rfl
@[simp] theorem setHome_tallies (s : State) (line : Nat) (v : HomeLine) : (setHome s line v).tallies = s.tallies := rfl
@[simp] theorem setHome_dsp (s : State) (line : Nat) (v : HomeLine) : (setHome s line v).dsp = s.dsp := rfl
@[simp] theorem setHome_ses (s : State) (line : Nat) (v : HomeLine) : (setHome s line v).ses = s.ses := rfl
@[simp] theorem setHome_parts (s : State) (line : Nat) (v : HomeLine) : (setHome s line v).parts = s.parts := rfl
@[simp] theorem setHome_partWipe (s : State) (line : Nat) (v : HomeLine) : (setHome s line v).partWipe = s.partWipe := rfl
@[simp] theorem setHome_ctrls (s : State) (line : Nat) (v : HomeLine) : (setHome s line v).ctrls = s.ctrls := rfl
@[simp] theorem setHome_mem (s : State) (line : Nat) (v : HomeLine) : (setHome s line v).mem = s.mem := rfl
@[simp] theorem setHome_xlt (s : State) (line : Nat) (v : HomeLine) : (setHome s line v).xlt = s.xlt := rfl
@[simp] theorem setHome_harts (s : State) (line : Nat) (v : HomeLine) : (setHome s line v).harts = s.harts := rfl
@[simp] theorem setHome_orf (s : State) (line : Nat) (v : HomeLine) : (setHome s line v).orf = s.orf := rfl
@[simp] theorem setHome_fab (s : State) (line : Nat) (v : HomeLine) : (setHome s line v).fab = s.fab := rfl
@[simp] theorem setHome_mir (s : State) (line : Nat) (v : HomeLine) : (setHome s line v).mir = s.mir := rfl
@[simp] theorem setHome_stc (s : State) (line : Nat) (v : HomeLine) : (setHome s line v).stc = s.stc := rfl
@[simp] theorem setHome_pwr (s : State) (line : Nat) (v : HomeLine) : (setHome s line v).pwr = s.pwr := rfl
@[simp] theorem setHome_err (s : State) (line : Nat) (v : HomeLine) : (setHome s line v).err = s.err := rfl
@[simp] theorem setHome_sec (s : State) (line : Nat) (v : HomeLine) : (setHome s line v).sec = s.sec := rfl
@[simp] theorem setHome_boot (s : State) (line : Nat) (v : HomeLine) : (setHome s line v).boot = s.boot := rfl
@[simp] theorem setHome_brd (s : State) (line : Nat) (v : HomeLine) : (setHome s line v).brd = s.brd := rfl

/-! ### `setTxn` -/

@[simp] theorem setTxn_pending (s : State) (line : Nat) (t : Option Txn) : (setTxn s line t).pending = s.pending := rfl
@[simp] theorem setTxn_now (s : State) (line : Nat) (t : Option Txn) : (setTxn s line t).now = s.now := rfl
@[simp] theorem setTxn_draws (s : State) (line : Nat) (t : Option Txn) : (setTxn s line t).draws = s.draws := rfl
@[simp] theorem setTxn_rf (s : State) (line : Nat) (t : Option Txn) : (setTxn s line t).rf = s.rf := rfl
@[simp] theorem setTxn_eng (s : State) (line : Nat) (t : Option Txn) : (setTxn s line t).eng = s.eng := rfl
@[simp] theorem setTxn_cl (s : State) (line : Nat) (t : Option Txn) : (setTxn s line t).cl = s.cl := rfl
@[simp] theorem setTxn_tallies (s : State) (line : Nat) (t : Option Txn) : (setTxn s line t).tallies = s.tallies := rfl
@[simp] theorem setTxn_dsp (s : State) (line : Nat) (t : Option Txn) : (setTxn s line t).dsp = s.dsp := rfl
@[simp] theorem setTxn_ses (s : State) (line : Nat) (t : Option Txn) : (setTxn s line t).ses = s.ses := rfl
@[simp] theorem setTxn_parts (s : State) (line : Nat) (t : Option Txn) : (setTxn s line t).parts = s.parts := rfl
@[simp] theorem setTxn_partWipe (s : State) (line : Nat) (t : Option Txn) : (setTxn s line t).partWipe = s.partWipe := rfl
@[simp] theorem setTxn_ctrls (s : State) (line : Nat) (t : Option Txn) : (setTxn s line t).ctrls = s.ctrls := rfl
@[simp] theorem setTxn_mem (s : State) (line : Nat) (t : Option Txn) : (setTxn s line t).mem = s.mem := rfl
@[simp] theorem setTxn_xlt (s : State) (line : Nat) (t : Option Txn) : (setTxn s line t).xlt = s.xlt := rfl
@[simp] theorem setTxn_harts (s : State) (line : Nat) (t : Option Txn) : (setTxn s line t).harts = s.harts := rfl
@[simp] theorem setTxn_orf (s : State) (line : Nat) (t : Option Txn) : (setTxn s line t).orf = s.orf := rfl
@[simp] theorem setTxn_fab (s : State) (line : Nat) (t : Option Txn) : (setTxn s line t).fab = s.fab := rfl
@[simp] theorem setTxn_mir (s : State) (line : Nat) (t : Option Txn) : (setTxn s line t).mir = s.mir := rfl
@[simp] theorem setTxn_stc (s : State) (line : Nat) (t : Option Txn) : (setTxn s line t).stc = s.stc := rfl
@[simp] theorem setTxn_pwr (s : State) (line : Nat) (t : Option Txn) : (setTxn s line t).pwr = s.pwr := rfl
@[simp] theorem setTxn_err (s : State) (line : Nat) (t : Option Txn) : (setTxn s line t).err = s.err := rfl
@[simp] theorem setTxn_sec (s : State) (line : Nat) (t : Option Txn) : (setTxn s line t).sec = s.sec := rfl
@[simp] theorem setTxn_boot (s : State) (line : Nat) (t : Option Txn) : (setTxn s line t).boot = s.boot := rfl
@[simp] theorem setTxn_brd (s : State) (line : Nat) (t : Option Txn) : (setTxn s line t).brd = s.brd := rfl

/-! ### `setWay` -/

@[simp] theorem setWay_pending (s : State) (cache line w : Nat) (v : Way) : (setWay s cache line w v).pending = s.pending := rfl
@[simp] theorem setWay_now (s : State) (cache line w : Nat) (v : Way) : (setWay s cache line w v).now = s.now := rfl
@[simp] theorem setWay_draws (s : State) (cache line w : Nat) (v : Way) : (setWay s cache line w v).draws = s.draws := rfl
@[simp] theorem setWay_rf (s : State) (cache line w : Nat) (v : Way) : (setWay s cache line w v).rf = s.rf := rfl
@[simp] theorem setWay_eng (s : State) (cache line w : Nat) (v : Way) : (setWay s cache line w v).eng = s.eng := rfl
@[simp] theorem setWay_cl (s : State) (cache line w : Nat) (v : Way) : (setWay s cache line w v).cl = s.cl := rfl
@[simp] theorem setWay_tallies (s : State) (cache line w : Nat) (v : Way) : (setWay s cache line w v).tallies = s.tallies := rfl
@[simp] theorem setWay_dsp (s : State) (cache line w : Nat) (v : Way) : (setWay s cache line w v).dsp = s.dsp := rfl
@[simp] theorem setWay_ses (s : State) (cache line w : Nat) (v : Way) : (setWay s cache line w v).ses = s.ses := rfl
@[simp] theorem setWay_parts (s : State) (cache line w : Nat) (v : Way) : (setWay s cache line w v).parts = s.parts := rfl
@[simp] theorem setWay_partWipe (s : State) (cache line w : Nat) (v : Way) : (setWay s cache line w v).partWipe = s.partWipe := rfl
@[simp] theorem setWay_ctrls (s : State) (cache line w : Nat) (v : Way) : (setWay s cache line w v).ctrls = s.ctrls := rfl
@[simp] theorem setWay_mem (s : State) (cache line w : Nat) (v : Way) : (setWay s cache line w v).mem = s.mem := rfl
@[simp] theorem setWay_xlt (s : State) (cache line w : Nat) (v : Way) : (setWay s cache line w v).xlt = s.xlt := rfl
@[simp] theorem setWay_harts (s : State) (cache line w : Nat) (v : Way) : (setWay s cache line w v).harts = s.harts := rfl
@[simp] theorem setWay_orf (s : State) (cache line w : Nat) (v : Way) : (setWay s cache line w v).orf = s.orf := rfl
@[simp] theorem setWay_fab (s : State) (cache line w : Nat) (v : Way) : (setWay s cache line w v).fab = s.fab := rfl
@[simp] theorem setWay_mir (s : State) (cache line w : Nat) (v : Way) : (setWay s cache line w v).mir = s.mir := rfl
@[simp] theorem setWay_stc (s : State) (cache line w : Nat) (v : Way) : (setWay s cache line w v).stc = s.stc := rfl
@[simp] theorem setWay_pwr (s : State) (cache line w : Nat) (v : Way) : (setWay s cache line w v).pwr = s.pwr := rfl
@[simp] theorem setWay_err (s : State) (cache line w : Nat) (v : Way) : (setWay s cache line w v).err = s.err := rfl
@[simp] theorem setWay_sec (s : State) (cache line w : Nat) (v : Way) : (setWay s cache line w v).sec = s.sec := rfl
@[simp] theorem setWay_boot (s : State) (cache line w : Nat) (v : Way) : (setWay s cache line w v).boot = s.boot := rfl
@[simp] theorem setWay_brd (s : State) (cache line w : Nat) (v : Way) : (setWay s cache line w v).brd = s.brd := rfl

/-! ### `setWayKey` -/

@[simp] theorem setWayKey_pending (s : State) (k : Nat) (v : Way) : (setWayKey s k v).pending = s.pending := rfl
@[simp] theorem setWayKey_now (s : State) (k : Nat) (v : Way) : (setWayKey s k v).now = s.now := rfl
@[simp] theorem setWayKey_draws (s : State) (k : Nat) (v : Way) : (setWayKey s k v).draws = s.draws := rfl
@[simp] theorem setWayKey_rf (s : State) (k : Nat) (v : Way) : (setWayKey s k v).rf = s.rf := rfl
@[simp] theorem setWayKey_eng (s : State) (k : Nat) (v : Way) : (setWayKey s k v).eng = s.eng := rfl
@[simp] theorem setWayKey_cl (s : State) (k : Nat) (v : Way) : (setWayKey s k v).cl = s.cl := rfl
@[simp] theorem setWayKey_tallies (s : State) (k : Nat) (v : Way) : (setWayKey s k v).tallies = s.tallies := rfl
@[simp] theorem setWayKey_dsp (s : State) (k : Nat) (v : Way) : (setWayKey s k v).dsp = s.dsp := rfl
@[simp] theorem setWayKey_ses (s : State) (k : Nat) (v : Way) : (setWayKey s k v).ses = s.ses := rfl
@[simp] theorem setWayKey_parts (s : State) (k : Nat) (v : Way) : (setWayKey s k v).parts = s.parts := rfl
@[simp] theorem setWayKey_partWipe (s : State) (k : Nat) (v : Way) : (setWayKey s k v).partWipe = s.partWipe := rfl
@[simp] theorem setWayKey_ctrls (s : State) (k : Nat) (v : Way) : (setWayKey s k v).ctrls = s.ctrls := rfl
@[simp] theorem setWayKey_mem (s : State) (k : Nat) (v : Way) : (setWayKey s k v).mem = s.mem := rfl
@[simp] theorem setWayKey_xlt (s : State) (k : Nat) (v : Way) : (setWayKey s k v).xlt = s.xlt := rfl
@[simp] theorem setWayKey_harts (s : State) (k : Nat) (v : Way) : (setWayKey s k v).harts = s.harts := rfl
@[simp] theorem setWayKey_orf (s : State) (k : Nat) (v : Way) : (setWayKey s k v).orf = s.orf := rfl
@[simp] theorem setWayKey_fab (s : State) (k : Nat) (v : Way) : (setWayKey s k v).fab = s.fab := rfl
@[simp] theorem setWayKey_mir (s : State) (k : Nat) (v : Way) : (setWayKey s k v).mir = s.mir := rfl
@[simp] theorem setWayKey_stc (s : State) (k : Nat) (v : Way) : (setWayKey s k v).stc = s.stc := rfl
@[simp] theorem setWayKey_pwr (s : State) (k : Nat) (v : Way) : (setWayKey s k v).pwr = s.pwr := rfl
@[simp] theorem setWayKey_err (s : State) (k : Nat) (v : Way) : (setWayKey s k v).err = s.err := rfl
@[simp] theorem setWayKey_sec (s : State) (k : Nat) (v : Way) : (setWayKey s k v).sec = s.sec := rfl
@[simp] theorem setWayKey_boot (s : State) (k : Nat) (v : Way) : (setWayKey s k v).boot = s.boot := rfl
@[simp] theorem setWayKey_brd (s : State) (k : Nat) (v : Way) : (setWayKey s k v).brd = s.brd := rfl

/-! ### `setPend` -/

@[simp] theorem setPend_pending (s : State) (h : Nat) (v : Option XltPend) : (setPend s h v).pending = s.pending := rfl
@[simp] theorem setPend_now (s : State) (h : Nat) (v : Option XltPend) : (setPend s h v).now = s.now := rfl
@[simp] theorem setPend_draws (s : State) (h : Nat) (v : Option XltPend) : (setPend s h v).draws = s.draws := rfl
@[simp] theorem setPend_rf (s : State) (h : Nat) (v : Option XltPend) : (setPend s h v).rf = s.rf := rfl
@[simp] theorem setPend_eng (s : State) (h : Nat) (v : Option XltPend) : (setPend s h v).eng = s.eng := rfl
@[simp] theorem setPend_cl (s : State) (h : Nat) (v : Option XltPend) : (setPend s h v).cl = s.cl := rfl
@[simp] theorem setPend_tallies (s : State) (h : Nat) (v : Option XltPend) : (setPend s h v).tallies = s.tallies := rfl
@[simp] theorem setPend_dsp (s : State) (h : Nat) (v : Option XltPend) : (setPend s h v).dsp = s.dsp := rfl
@[simp] theorem setPend_ses (s : State) (h : Nat) (v : Option XltPend) : (setPend s h v).ses = s.ses := rfl
@[simp] theorem setPend_parts (s : State) (h : Nat) (v : Option XltPend) : (setPend s h v).parts = s.parts := rfl
@[simp] theorem setPend_partWipe (s : State) (h : Nat) (v : Option XltPend) : (setPend s h v).partWipe = s.partWipe := rfl
@[simp] theorem setPend_ctrls (s : State) (h : Nat) (v : Option XltPend) : (setPend s h v).ctrls = s.ctrls := rfl
@[simp] theorem setPend_mem (s : State) (h : Nat) (v : Option XltPend) : (setPend s h v).mem = s.mem := rfl
@[simp] theorem setPend_coh (s : State) (h : Nat) (v : Option XltPend) : (setPend s h v).coh = s.coh := rfl
@[simp] theorem setPend_harts (s : State) (h : Nat) (v : Option XltPend) : (setPend s h v).harts = s.harts := rfl
@[simp] theorem setPend_orf (s : State) (h : Nat) (v : Option XltPend) : (setPend s h v).orf = s.orf := rfl
@[simp] theorem setPend_fab (s : State) (h : Nat) (v : Option XltPend) : (setPend s h v).fab = s.fab := rfl
@[simp] theorem setPend_mir (s : State) (h : Nat) (v : Option XltPend) : (setPend s h v).mir = s.mir := rfl
@[simp] theorem setPend_stc (s : State) (h : Nat) (v : Option XltPend) : (setPend s h v).stc = s.stc := rfl
@[simp] theorem setPend_pwr (s : State) (h : Nat) (v : Option XltPend) : (setPend s h v).pwr = s.pwr := rfl
@[simp] theorem setPend_err (s : State) (h : Nat) (v : Option XltPend) : (setPend s h v).err = s.err := rfl
@[simp] theorem setPend_sec (s : State) (h : Nat) (v : Option XltPend) : (setPend s h v).sec = s.sec := rfl
@[simp] theorem setPend_boot (s : State) (h : Nat) (v : Option XltPend) : (setPend s h v).boot = s.boot := rfl
@[simp] theorem setPend_brd (s : State) (h : Nat) (v : Option XltPend) : (setPend s h v).brd = s.brd := rfl

/-! ### `setMap` -/

@[simp] theorem setMap_pending (s : State) (slab : Nat) (v : W64) : (setMap s slab v).pending = s.pending := rfl
@[simp] theorem setMap_now (s : State) (slab : Nat) (v : W64) : (setMap s slab v).now = s.now := rfl
@[simp] theorem setMap_draws (s : State) (slab : Nat) (v : W64) : (setMap s slab v).draws = s.draws := rfl
@[simp] theorem setMap_rf (s : State) (slab : Nat) (v : W64) : (setMap s slab v).rf = s.rf := rfl
@[simp] theorem setMap_eng (s : State) (slab : Nat) (v : W64) : (setMap s slab v).eng = s.eng := rfl
@[simp] theorem setMap_cl (s : State) (slab : Nat) (v : W64) : (setMap s slab v).cl = s.cl := rfl
@[simp] theorem setMap_tallies (s : State) (slab : Nat) (v : W64) : (setMap s slab v).tallies = s.tallies := rfl
@[simp] theorem setMap_dsp (s : State) (slab : Nat) (v : W64) : (setMap s slab v).dsp = s.dsp := rfl
@[simp] theorem setMap_ses (s : State) (slab : Nat) (v : W64) : (setMap s slab v).ses = s.ses := rfl
@[simp] theorem setMap_parts (s : State) (slab : Nat) (v : W64) : (setMap s slab v).parts = s.parts := rfl
@[simp] theorem setMap_partWipe (s : State) (slab : Nat) (v : W64) : (setMap s slab v).partWipe = s.partWipe := rfl
@[simp] theorem setMap_ctrls (s : State) (slab : Nat) (v : W64) : (setMap s slab v).ctrls = s.ctrls := rfl
@[simp] theorem setMap_mem (s : State) (slab : Nat) (v : W64) : (setMap s slab v).mem = s.mem := rfl
@[simp] theorem setMap_coh (s : State) (slab : Nat) (v : W64) : (setMap s slab v).coh = s.coh := rfl
@[simp] theorem setMap_harts (s : State) (slab : Nat) (v : W64) : (setMap s slab v).harts = s.harts := rfl
@[simp] theorem setMap_orf (s : State) (slab : Nat) (v : W64) : (setMap s slab v).orf = s.orf := rfl
@[simp] theorem setMap_fab (s : State) (slab : Nat) (v : W64) : (setMap s slab v).fab = s.fab := rfl
@[simp] theorem setMap_mir (s : State) (slab : Nat) (v : W64) : (setMap s slab v).mir = s.mir := rfl
@[simp] theorem setMap_stc (s : State) (slab : Nat) (v : W64) : (setMap s slab v).stc = s.stc := rfl
@[simp] theorem setMap_pwr (s : State) (slab : Nat) (v : W64) : (setMap s slab v).pwr = s.pwr := rfl
@[simp] theorem setMap_err (s : State) (slab : Nat) (v : W64) : (setMap s slab v).err = s.err := rfl
@[simp] theorem setMap_sec (s : State) (slab : Nat) (v : W64) : (setMap s slab v).sec = s.sec := rfl
@[simp] theorem setMap_boot (s : State) (slab : Nat) (v : W64) : (setMap s slab v).boot = s.boot := rfl
@[simp] theorem setMap_brd (s : State) (slab : Nat) (v : W64) : (setMap s slab v).brd = s.brd := rfl

/-! ### `setRun` -/

@[simp] theorem setRun_pending (s : State) (r : Option MoveRun) : (setRun s r).pending = s.pending := rfl
@[simp] theorem setRun_now (s : State) (r : Option MoveRun) : (setRun s r).now = s.now := rfl
@[simp] theorem setRun_draws (s : State) (r : Option MoveRun) : (setRun s r).draws = s.draws := rfl
@[simp] theorem setRun_rf (s : State) (r : Option MoveRun) : (setRun s r).rf = s.rf := rfl
@[simp] theorem setRun_eng (s : State) (r : Option MoveRun) : (setRun s r).eng = s.eng := rfl
@[simp] theorem setRun_cl (s : State) (r : Option MoveRun) : (setRun s r).cl = s.cl := rfl
@[simp] theorem setRun_tallies (s : State) (r : Option MoveRun) : (setRun s r).tallies = s.tallies := rfl
@[simp] theorem setRun_dsp (s : State) (r : Option MoveRun) : (setRun s r).dsp = s.dsp := rfl
@[simp] theorem setRun_ses (s : State) (r : Option MoveRun) : (setRun s r).ses = s.ses := rfl
@[simp] theorem setRun_parts (s : State) (r : Option MoveRun) : (setRun s r).parts = s.parts := rfl
@[simp] theorem setRun_partWipe (s : State) (r : Option MoveRun) : (setRun s r).partWipe = s.partWipe := rfl
@[simp] theorem setRun_ctrls (s : State) (r : Option MoveRun) : (setRun s r).ctrls = s.ctrls := rfl
@[simp] theorem setRun_mem (s : State) (r : Option MoveRun) : (setRun s r).mem = s.mem := rfl
@[simp] theorem setRun_coh (s : State) (r : Option MoveRun) : (setRun s r).coh = s.coh := rfl
@[simp] theorem setRun_harts (s : State) (r : Option MoveRun) : (setRun s r).harts = s.harts := rfl
@[simp] theorem setRun_orf (s : State) (r : Option MoveRun) : (setRun s r).orf = s.orf := rfl
@[simp] theorem setRun_fab (s : State) (r : Option MoveRun) : (setRun s r).fab = s.fab := rfl
@[simp] theorem setRun_mir (s : State) (r : Option MoveRun) : (setRun s r).mir = s.mir := rfl
@[simp] theorem setRun_stc (s : State) (r : Option MoveRun) : (setRun s r).stc = s.stc := rfl
@[simp] theorem setRun_pwr (s : State) (r : Option MoveRun) : (setRun s r).pwr = s.pwr := rfl
@[simp] theorem setRun_err (s : State) (r : Option MoveRun) : (setRun s r).err = s.err := rfl
@[simp] theorem setRun_sec (s : State) (r : Option MoveRun) : (setRun s r).sec = s.sec := rfl
@[simp] theorem setRun_boot (s : State) (r : Option MoveRun) : (setRun s r).boot = s.boot := rfl
@[simp] theorem setRun_brd (s : State) (r : Option MoveRun) : (setRun s r).brd = s.brd := rfl

/-! ### `setProxy` -/

@[simp] theorem setProxy_pending (s : State) (line : Nat) (v : Copy) : (setProxy s line v).pending = s.pending := rfl
@[simp] theorem setProxy_now (s : State) (line : Nat) (v : Copy) : (setProxy s line v).now = s.now := rfl
@[simp] theorem setProxy_draws (s : State) (line : Nat) (v : Copy) : (setProxy s line v).draws = s.draws := rfl
@[simp] theorem setProxy_rf (s : State) (line : Nat) (v : Copy) : (setProxy s line v).rf = s.rf := rfl
@[simp] theorem setProxy_eng (s : State) (line : Nat) (v : Copy) : (setProxy s line v).eng = s.eng := rfl
@[simp] theorem setProxy_cl (s : State) (line : Nat) (v : Copy) : (setProxy s line v).cl = s.cl := rfl
@[simp] theorem setProxy_tallies (s : State) (line : Nat) (v : Copy) : (setProxy s line v).tallies = s.tallies := rfl
@[simp] theorem setProxy_dsp (s : State) (line : Nat) (v : Copy) : (setProxy s line v).dsp = s.dsp := rfl
@[simp] theorem setProxy_ses (s : State) (line : Nat) (v : Copy) : (setProxy s line v).ses = s.ses := rfl
@[simp] theorem setProxy_parts (s : State) (line : Nat) (v : Copy) : (setProxy s line v).parts = s.parts := rfl
@[simp] theorem setProxy_partWipe (s : State) (line : Nat) (v : Copy) : (setProxy s line v).partWipe = s.partWipe := rfl
@[simp] theorem setProxy_ctrls (s : State) (line : Nat) (v : Copy) : (setProxy s line v).ctrls = s.ctrls := rfl
@[simp] theorem setProxy_mem (s : State) (line : Nat) (v : Copy) : (setProxy s line v).mem = s.mem := rfl
@[simp] theorem setProxy_coh (s : State) (line : Nat) (v : Copy) : (setProxy s line v).coh = s.coh := rfl
@[simp] theorem setProxy_xlt (s : State) (line : Nat) (v : Copy) : (setProxy s line v).xlt = s.xlt := rfl
@[simp] theorem setProxy_harts (s : State) (line : Nat) (v : Copy) : (setProxy s line v).harts = s.harts := rfl
@[simp] theorem setProxy_fab (s : State) (line : Nat) (v : Copy) : (setProxy s line v).fab = s.fab := rfl
@[simp] theorem setProxy_mir (s : State) (line : Nat) (v : Copy) : (setProxy s line v).mir = s.mir := rfl
@[simp] theorem setProxy_stc (s : State) (line : Nat) (v : Copy) : (setProxy s line v).stc = s.stc := rfl
@[simp] theorem setProxy_pwr (s : State) (line : Nat) (v : Copy) : (setProxy s line v).pwr = s.pwr := rfl
@[simp] theorem setProxy_err (s : State) (line : Nat) (v : Copy) : (setProxy s line v).err = s.err := rfl
@[simp] theorem setProxy_sec (s : State) (line : Nat) (v : Copy) : (setProxy s line v).sec = s.sec := rfl
@[simp] theorem setProxy_boot (s : State) (line : Nat) (v : Copy) : (setProxy s line v).boot = s.boot := rfl
@[simp] theorem setProxy_brd (s : State) (line : Nat) (v : Copy) : (setProxy s line v).brd = s.brd := rfl

/-! ### `setProxyAsk` -/

@[simp] theorem setProxyAsk_pending (s : State) (line : Nat) (v : Option Ask) : (setProxyAsk s line v).pending = s.pending := rfl
@[simp] theorem setProxyAsk_now (s : State) (line : Nat) (v : Option Ask) : (setProxyAsk s line v).now = s.now := rfl
@[simp] theorem setProxyAsk_draws (s : State) (line : Nat) (v : Option Ask) : (setProxyAsk s line v).draws = s.draws := rfl
@[simp] theorem setProxyAsk_rf (s : State) (line : Nat) (v : Option Ask) : (setProxyAsk s line v).rf = s.rf := rfl
@[simp] theorem setProxyAsk_eng (s : State) (line : Nat) (v : Option Ask) : (setProxyAsk s line v).eng = s.eng := rfl
@[simp] theorem setProxyAsk_cl (s : State) (line : Nat) (v : Option Ask) : (setProxyAsk s line v).cl = s.cl := rfl
@[simp] theorem setProxyAsk_tallies (s : State) (line : Nat) (v : Option Ask) : (setProxyAsk s line v).tallies = s.tallies := rfl
@[simp] theorem setProxyAsk_dsp (s : State) (line : Nat) (v : Option Ask) : (setProxyAsk s line v).dsp = s.dsp := rfl
@[simp] theorem setProxyAsk_ses (s : State) (line : Nat) (v : Option Ask) : (setProxyAsk s line v).ses = s.ses := rfl
@[simp] theorem setProxyAsk_parts (s : State) (line : Nat) (v : Option Ask) : (setProxyAsk s line v).parts = s.parts := rfl
@[simp] theorem setProxyAsk_partWipe (s : State) (line : Nat) (v : Option Ask) : (setProxyAsk s line v).partWipe = s.partWipe := rfl
@[simp] theorem setProxyAsk_ctrls (s : State) (line : Nat) (v : Option Ask) : (setProxyAsk s line v).ctrls = s.ctrls := rfl
@[simp] theorem setProxyAsk_mem (s : State) (line : Nat) (v : Option Ask) : (setProxyAsk s line v).mem = s.mem := rfl
@[simp] theorem setProxyAsk_coh (s : State) (line : Nat) (v : Option Ask) : (setProxyAsk s line v).coh = s.coh := rfl
@[simp] theorem setProxyAsk_xlt (s : State) (line : Nat) (v : Option Ask) : (setProxyAsk s line v).xlt = s.xlt := rfl
@[simp] theorem setProxyAsk_harts (s : State) (line : Nat) (v : Option Ask) : (setProxyAsk s line v).harts = s.harts := rfl
@[simp] theorem setProxyAsk_fab (s : State) (line : Nat) (v : Option Ask) : (setProxyAsk s line v).fab = s.fab := rfl
@[simp] theorem setProxyAsk_mir (s : State) (line : Nat) (v : Option Ask) : (setProxyAsk s line v).mir = s.mir := rfl
@[simp] theorem setProxyAsk_stc (s : State) (line : Nat) (v : Option Ask) : (setProxyAsk s line v).stc = s.stc := rfl
@[simp] theorem setProxyAsk_pwr (s : State) (line : Nat) (v : Option Ask) : (setProxyAsk s line v).pwr = s.pwr := rfl
@[simp] theorem setProxyAsk_err (s : State) (line : Nat) (v : Option Ask) : (setProxyAsk s line v).err = s.err := rfl
@[simp] theorem setProxyAsk_sec (s : State) (line : Nat) (v : Option Ask) : (setProxyAsk s line v).sec = s.sec := rfl
@[simp] theorem setProxyAsk_boot (s : State) (line : Nat) (v : Option Ask) : (setProxyAsk s line v).boot = s.boot := rfl
@[simp] theorem setProxyAsk_brd (s : State) (line : Nat) (v : Option Ask) : (setProxyAsk s line v).brd = s.brd := rfl

/-! ### `setProxyBuf` -/

@[simp] theorem setProxyBuf_pending (s : State) (line : Nat) (v : Option EvictBuf) : (setProxyBuf s line v).pending = s.pending := rfl
@[simp] theorem setProxyBuf_now (s : State) (line : Nat) (v : Option EvictBuf) : (setProxyBuf s line v).now = s.now := rfl
@[simp] theorem setProxyBuf_draws (s : State) (line : Nat) (v : Option EvictBuf) : (setProxyBuf s line v).draws = s.draws := rfl
@[simp] theorem setProxyBuf_rf (s : State) (line : Nat) (v : Option EvictBuf) : (setProxyBuf s line v).rf = s.rf := rfl
@[simp] theorem setProxyBuf_eng (s : State) (line : Nat) (v : Option EvictBuf) : (setProxyBuf s line v).eng = s.eng := rfl
@[simp] theorem setProxyBuf_cl (s : State) (line : Nat) (v : Option EvictBuf) : (setProxyBuf s line v).cl = s.cl := rfl
@[simp] theorem setProxyBuf_tallies (s : State) (line : Nat) (v : Option EvictBuf) : (setProxyBuf s line v).tallies = s.tallies := rfl
@[simp] theorem setProxyBuf_dsp (s : State) (line : Nat) (v : Option EvictBuf) : (setProxyBuf s line v).dsp = s.dsp := rfl
@[simp] theorem setProxyBuf_ses (s : State) (line : Nat) (v : Option EvictBuf) : (setProxyBuf s line v).ses = s.ses := rfl
@[simp] theorem setProxyBuf_parts (s : State) (line : Nat) (v : Option EvictBuf) : (setProxyBuf s line v).parts = s.parts := rfl
@[simp] theorem setProxyBuf_partWipe (s : State) (line : Nat) (v : Option EvictBuf) : (setProxyBuf s line v).partWipe = s.partWipe := rfl
@[simp] theorem setProxyBuf_ctrls (s : State) (line : Nat) (v : Option EvictBuf) : (setProxyBuf s line v).ctrls = s.ctrls := rfl
@[simp] theorem setProxyBuf_mem (s : State) (line : Nat) (v : Option EvictBuf) : (setProxyBuf s line v).mem = s.mem := rfl
@[simp] theorem setProxyBuf_coh (s : State) (line : Nat) (v : Option EvictBuf) : (setProxyBuf s line v).coh = s.coh := rfl
@[simp] theorem setProxyBuf_xlt (s : State) (line : Nat) (v : Option EvictBuf) : (setProxyBuf s line v).xlt = s.xlt := rfl
@[simp] theorem setProxyBuf_harts (s : State) (line : Nat) (v : Option EvictBuf) : (setProxyBuf s line v).harts = s.harts := rfl
@[simp] theorem setProxyBuf_fab (s : State) (line : Nat) (v : Option EvictBuf) : (setProxyBuf s line v).fab = s.fab := rfl
@[simp] theorem setProxyBuf_mir (s : State) (line : Nat) (v : Option EvictBuf) : (setProxyBuf s line v).mir = s.mir := rfl
@[simp] theorem setProxyBuf_stc (s : State) (line : Nat) (v : Option EvictBuf) : (setProxyBuf s line v).stc = s.stc := rfl
@[simp] theorem setProxyBuf_pwr (s : State) (line : Nat) (v : Option EvictBuf) : (setProxyBuf s line v).pwr = s.pwr := rfl
@[simp] theorem setProxyBuf_err (s : State) (line : Nat) (v : Option EvictBuf) : (setProxyBuf s line v).err = s.err := rfl
@[simp] theorem setProxyBuf_sec (s : State) (line : Nat) (v : Option EvictBuf) : (setProxyBuf s line v).sec = s.sec := rfl
@[simp] theorem setProxyBuf_boot (s : State) (line : Nat) (v : Option EvictBuf) : (setProxyBuf s line v).boot = s.boot := rfl
@[simp] theorem setProxyBuf_brd (s : State) (line : Nat) (v : Option EvictBuf) : (setProxyBuf s line v).brd = s.brd := rfl

/-! ### `setDie` -/

@[simp] theorem setDie_pending (s : State) (d : Nat) (v : DiePower) : (setDie s d v).pending = s.pending := rfl
@[simp] theorem setDie_now (s : State) (d : Nat) (v : DiePower) : (setDie s d v).now = s.now := rfl
@[simp] theorem setDie_draws (s : State) (d : Nat) (v : DiePower) : (setDie s d v).draws = s.draws := rfl
@[simp] theorem setDie_rf (s : State) (d : Nat) (v : DiePower) : (setDie s d v).rf = s.rf := rfl
@[simp] theorem setDie_eng (s : State) (d : Nat) (v : DiePower) : (setDie s d v).eng = s.eng := rfl
@[simp] theorem setDie_cl (s : State) (d : Nat) (v : DiePower) : (setDie s d v).cl = s.cl := rfl
@[simp] theorem setDie_tallies (s : State) (d : Nat) (v : DiePower) : (setDie s d v).tallies = s.tallies := rfl
@[simp] theorem setDie_dsp (s : State) (d : Nat) (v : DiePower) : (setDie s d v).dsp = s.dsp := rfl
@[simp] theorem setDie_ses (s : State) (d : Nat) (v : DiePower) : (setDie s d v).ses = s.ses := rfl
@[simp] theorem setDie_parts (s : State) (d : Nat) (v : DiePower) : (setDie s d v).parts = s.parts := rfl
@[simp] theorem setDie_partWipe (s : State) (d : Nat) (v : DiePower) : (setDie s d v).partWipe = s.partWipe := rfl
@[simp] theorem setDie_ctrls (s : State) (d : Nat) (v : DiePower) : (setDie s d v).ctrls = s.ctrls := rfl
@[simp] theorem setDie_mem (s : State) (d : Nat) (v : DiePower) : (setDie s d v).mem = s.mem := rfl
@[simp] theorem setDie_coh (s : State) (d : Nat) (v : DiePower) : (setDie s d v).coh = s.coh := rfl
@[simp] theorem setDie_xlt (s : State) (d : Nat) (v : DiePower) : (setDie s d v).xlt = s.xlt := rfl
@[simp] theorem setDie_harts (s : State) (d : Nat) (v : DiePower) : (setDie s d v).harts = s.harts := rfl
@[simp] theorem setDie_orf (s : State) (d : Nat) (v : DiePower) : (setDie s d v).orf = s.orf := rfl
@[simp] theorem setDie_fab (s : State) (d : Nat) (v : DiePower) : (setDie s d v).fab = s.fab := rfl
@[simp] theorem setDie_mir (s : State) (d : Nat) (v : DiePower) : (setDie s d v).mir = s.mir := rfl
@[simp] theorem setDie_stc (s : State) (d : Nat) (v : DiePower) : (setDie s d v).stc = s.stc := rfl
@[simp] theorem setDie_err (s : State) (d : Nat) (v : DiePower) : (setDie s d v).err = s.err := rfl
@[simp] theorem setDie_sec (s : State) (d : Nat) (v : DiePower) : (setDie s d v).sec = s.sec := rfl
@[simp] theorem setDie_boot (s : State) (d : Nat) (v : DiePower) : (setDie s d v).boot = s.boot := rfl
@[simp] theorem setDie_brd (s : State) (d : Nat) (v : DiePower) : (setDie s d v).brd = s.brd := rfl

/-! ### `setRegion` -/

@[simp] theorem setRegion_pending (s : State) (i : Nat) (v : RegionPower) : (setRegion s i v).pending = s.pending := rfl
@[simp] theorem setRegion_now (s : State) (i : Nat) (v : RegionPower) : (setRegion s i v).now = s.now := rfl
@[simp] theorem setRegion_draws (s : State) (i : Nat) (v : RegionPower) : (setRegion s i v).draws = s.draws := rfl
@[simp] theorem setRegion_rf (s : State) (i : Nat) (v : RegionPower) : (setRegion s i v).rf = s.rf := rfl
@[simp] theorem setRegion_eng (s : State) (i : Nat) (v : RegionPower) : (setRegion s i v).eng = s.eng := rfl
@[simp] theorem setRegion_cl (s : State) (i : Nat) (v : RegionPower) : (setRegion s i v).cl = s.cl := rfl
@[simp] theorem setRegion_tallies (s : State) (i : Nat) (v : RegionPower) : (setRegion s i v).tallies = s.tallies := rfl
@[simp] theorem setRegion_dsp (s : State) (i : Nat) (v : RegionPower) : (setRegion s i v).dsp = s.dsp := rfl
@[simp] theorem setRegion_ses (s : State) (i : Nat) (v : RegionPower) : (setRegion s i v).ses = s.ses := rfl
@[simp] theorem setRegion_parts (s : State) (i : Nat) (v : RegionPower) : (setRegion s i v).parts = s.parts := rfl
@[simp] theorem setRegion_partWipe (s : State) (i : Nat) (v : RegionPower) : (setRegion s i v).partWipe = s.partWipe := rfl
@[simp] theorem setRegion_ctrls (s : State) (i : Nat) (v : RegionPower) : (setRegion s i v).ctrls = s.ctrls := rfl
@[simp] theorem setRegion_mem (s : State) (i : Nat) (v : RegionPower) : (setRegion s i v).mem = s.mem := rfl
@[simp] theorem setRegion_coh (s : State) (i : Nat) (v : RegionPower) : (setRegion s i v).coh = s.coh := rfl
@[simp] theorem setRegion_xlt (s : State) (i : Nat) (v : RegionPower) : (setRegion s i v).xlt = s.xlt := rfl
@[simp] theorem setRegion_harts (s : State) (i : Nat) (v : RegionPower) : (setRegion s i v).harts = s.harts := rfl
@[simp] theorem setRegion_orf (s : State) (i : Nat) (v : RegionPower) : (setRegion s i v).orf = s.orf := rfl
@[simp] theorem setRegion_fab (s : State) (i : Nat) (v : RegionPower) : (setRegion s i v).fab = s.fab := rfl
@[simp] theorem setRegion_mir (s : State) (i : Nat) (v : RegionPower) : (setRegion s i v).mir = s.mir := rfl
@[simp] theorem setRegion_stc (s : State) (i : Nat) (v : RegionPower) : (setRegion s i v).stc = s.stc := rfl
@[simp] theorem setRegion_err (s : State) (i : Nat) (v : RegionPower) : (setRegion s i v).err = s.err := rfl
@[simp] theorem setRegion_sec (s : State) (i : Nat) (v : RegionPower) : (setRegion s i v).sec = s.sec := rfl
@[simp] theorem setRegion_boot (s : State) (i : Nat) (v : RegionPower) : (setRegion s i v).boot = s.boot := rfl
@[simp] theorem setRegion_brd (s : State) (i : Nat) (v : RegionPower) : (setRegion s i v).brd = s.brd := rfl

/-! ### `setReadAhead` -/


/-! ### `setWriteBuf` -/

@[simp] theorem setWriteBuf_pending (s : State) (cl : Fin 64) (l : List BufWrite) : (setWriteBuf s cl l).pending = s.pending := rfl
@[simp] theorem setWriteBuf_now (s : State) (cl : Fin 64) (l : List BufWrite) : (setWriteBuf s cl l).now = s.now := rfl
@[simp] theorem setWriteBuf_draws (s : State) (cl : Fin 64) (l : List BufWrite) : (setWriteBuf s cl l).draws = s.draws := rfl
@[simp] theorem setWriteBuf_rf (s : State) (cl : Fin 64) (l : List BufWrite) : (setWriteBuf s cl l).rf = s.rf := rfl
@[simp] theorem setWriteBuf_eng (s : State) (cl : Fin 64) (l : List BufWrite) : (setWriteBuf s cl l).eng = s.eng := rfl
@[simp] theorem setWriteBuf_tallies (s : State) (cl : Fin 64) (l : List BufWrite) : (setWriteBuf s cl l).tallies = s.tallies := rfl
@[simp] theorem setWriteBuf_dsp (s : State) (cl : Fin 64) (l : List BufWrite) : (setWriteBuf s cl l).dsp = s.dsp := rfl
@[simp] theorem setWriteBuf_ses (s : State) (cl : Fin 64) (l : List BufWrite) : (setWriteBuf s cl l).ses = s.ses := rfl
@[simp] theorem setWriteBuf_parts (s : State) (cl : Fin 64) (l : List BufWrite) : (setWriteBuf s cl l).parts = s.parts := rfl
@[simp] theorem setWriteBuf_partWipe (s : State) (cl : Fin 64) (l : List BufWrite) : (setWriteBuf s cl l).partWipe = s.partWipe := rfl
@[simp] theorem setWriteBuf_ctrls (s : State) (cl : Fin 64) (l : List BufWrite) : (setWriteBuf s cl l).ctrls = s.ctrls := rfl
@[simp] theorem setWriteBuf_mem (s : State) (cl : Fin 64) (l : List BufWrite) : (setWriteBuf s cl l).mem = s.mem := rfl
@[simp] theorem setWriteBuf_coh (s : State) (cl : Fin 64) (l : List BufWrite) : (setWriteBuf s cl l).coh = s.coh := rfl
@[simp] theorem setWriteBuf_xlt (s : State) (cl : Fin 64) (l : List BufWrite) : (setWriteBuf s cl l).xlt = s.xlt := rfl
@[simp] theorem setWriteBuf_harts (s : State) (cl : Fin 64) (l : List BufWrite) : (setWriteBuf s cl l).harts = s.harts := rfl
@[simp] theorem setWriteBuf_orf (s : State) (cl : Fin 64) (l : List BufWrite) : (setWriteBuf s cl l).orf = s.orf := rfl
@[simp] theorem setWriteBuf_fab (s : State) (cl : Fin 64) (l : List BufWrite) : (setWriteBuf s cl l).fab = s.fab := rfl
@[simp] theorem setWriteBuf_mir (s : State) (cl : Fin 64) (l : List BufWrite) : (setWriteBuf s cl l).mir = s.mir := rfl
@[simp] theorem setWriteBuf_stc (s : State) (cl : Fin 64) (l : List BufWrite) : (setWriteBuf s cl l).stc = s.stc := rfl
@[simp] theorem setWriteBuf_pwr (s : State) (cl : Fin 64) (l : List BufWrite) : (setWriteBuf s cl l).pwr = s.pwr := rfl
@[simp] theorem setWriteBuf_err (s : State) (cl : Fin 64) (l : List BufWrite) : (setWriteBuf s cl l).err = s.err := rfl
@[simp] theorem setWriteBuf_sec (s : State) (cl : Fin 64) (l : List BufWrite) : (setWriteBuf s cl l).sec = s.sec := rfl
@[simp] theorem setWriteBuf_boot (s : State) (cl : Fin 64) (l : List BufWrite) : (setWriteBuf s cl l).boot = s.boot := rfl
@[simp] theorem setWriteBuf_brd (s : State) (cl : Fin 64) (l : List BufWrite) : (setWriteBuf s cl l).brd = s.brd := rfl

/-! ### `setClusterXlt` -/

@[simp] theorem setClusterXlt_pending (s : State) (cl : Fin 64) (l : List SegEntry) : (setClusterXlt s cl l).pending = s.pending := rfl
@[simp] theorem setClusterXlt_now (s : State) (cl : Fin 64) (l : List SegEntry) : (setClusterXlt s cl l).now = s.now := rfl
@[simp] theorem setClusterXlt_draws (s : State) (cl : Fin 64) (l : List SegEntry) : (setClusterXlt s cl l).draws = s.draws := rfl
@[simp] theorem setClusterXlt_rf (s : State) (cl : Fin 64) (l : List SegEntry) : (setClusterXlt s cl l).rf = s.rf := rfl
@[simp] theorem setClusterXlt_eng (s : State) (cl : Fin 64) (l : List SegEntry) : (setClusterXlt s cl l).eng = s.eng := rfl
@[simp] theorem setClusterXlt_tallies (s : State) (cl : Fin 64) (l : List SegEntry) : (setClusterXlt s cl l).tallies = s.tallies := rfl
@[simp] theorem setClusterXlt_dsp (s : State) (cl : Fin 64) (l : List SegEntry) : (setClusterXlt s cl l).dsp = s.dsp := rfl
@[simp] theorem setClusterXlt_ses (s : State) (cl : Fin 64) (l : List SegEntry) : (setClusterXlt s cl l).ses = s.ses := rfl
@[simp] theorem setClusterXlt_parts (s : State) (cl : Fin 64) (l : List SegEntry) : (setClusterXlt s cl l).parts = s.parts := rfl
@[simp] theorem setClusterXlt_partWipe (s : State) (cl : Fin 64) (l : List SegEntry) : (setClusterXlt s cl l).partWipe = s.partWipe := rfl
@[simp] theorem setClusterXlt_ctrls (s : State) (cl : Fin 64) (l : List SegEntry) : (setClusterXlt s cl l).ctrls = s.ctrls := rfl
@[simp] theorem setClusterXlt_mem (s : State) (cl : Fin 64) (l : List SegEntry) : (setClusterXlt s cl l).mem = s.mem := rfl
@[simp] theorem setClusterXlt_coh (s : State) (cl : Fin 64) (l : List SegEntry) : (setClusterXlt s cl l).coh = s.coh := rfl
@[simp] theorem setClusterXlt_xlt (s : State) (cl : Fin 64) (l : List SegEntry) : (setClusterXlt s cl l).xlt = s.xlt := rfl
@[simp] theorem setClusterXlt_harts (s : State) (cl : Fin 64) (l : List SegEntry) : (setClusterXlt s cl l).harts = s.harts := rfl
@[simp] theorem setClusterXlt_orf (s : State) (cl : Fin 64) (l : List SegEntry) : (setClusterXlt s cl l).orf = s.orf := rfl
@[simp] theorem setClusterXlt_fab (s : State) (cl : Fin 64) (l : List SegEntry) : (setClusterXlt s cl l).fab = s.fab := rfl
@[simp] theorem setClusterXlt_mir (s : State) (cl : Fin 64) (l : List SegEntry) : (setClusterXlt s cl l).mir = s.mir := rfl
@[simp] theorem setClusterXlt_stc (s : State) (cl : Fin 64) (l : List SegEntry) : (setClusterXlt s cl l).stc = s.stc := rfl
@[simp] theorem setClusterXlt_pwr (s : State) (cl : Fin 64) (l : List SegEntry) : (setClusterXlt s cl l).pwr = s.pwr := rfl
@[simp] theorem setClusterXlt_err (s : State) (cl : Fin 64) (l : List SegEntry) : (setClusterXlt s cl l).err = s.err := rfl
@[simp] theorem setClusterXlt_sec (s : State) (cl : Fin 64) (l : List SegEntry) : (setClusterXlt s cl l).sec = s.sec := rfl
@[simp] theorem setClusterXlt_boot (s : State) (cl : Fin 64) (l : List SegEntry) : (setClusterXlt s cl l).boot = s.boot := rfl
@[simp] theorem setClusterXlt_brd (s : State) (cl : Fin 64) (l : List SegEntry) : (setClusterXlt s cl l).brd = s.brd := rfl

/-! ### `setDieXlt` -/

@[simp] theorem setDieXlt_pending (s : State) (d : CDie) (l : List SegEntry) : (setDieXlt s d l).pending = s.pending := rfl
@[simp] theorem setDieXlt_now (s : State) (d : CDie) (l : List SegEntry) : (setDieXlt s d l).now = s.now := rfl
@[simp] theorem setDieXlt_draws (s : State) (d : CDie) (l : List SegEntry) : (setDieXlt s d l).draws = s.draws := rfl
@[simp] theorem setDieXlt_rf (s : State) (d : CDie) (l : List SegEntry) : (setDieXlt s d l).rf = s.rf := rfl
@[simp] theorem setDieXlt_eng (s : State) (d : CDie) (l : List SegEntry) : (setDieXlt s d l).eng = s.eng := rfl
@[simp] theorem setDieXlt_tallies (s : State) (d : CDie) (l : List SegEntry) : (setDieXlt s d l).tallies = s.tallies := rfl
@[simp] theorem setDieXlt_dsp (s : State) (d : CDie) (l : List SegEntry) : (setDieXlt s d l).dsp = s.dsp := rfl
@[simp] theorem setDieXlt_ses (s : State) (d : CDie) (l : List SegEntry) : (setDieXlt s d l).ses = s.ses := rfl
@[simp] theorem setDieXlt_parts (s : State) (d : CDie) (l : List SegEntry) : (setDieXlt s d l).parts = s.parts := rfl
@[simp] theorem setDieXlt_partWipe (s : State) (d : CDie) (l : List SegEntry) : (setDieXlt s d l).partWipe = s.partWipe := rfl
@[simp] theorem setDieXlt_ctrls (s : State) (d : CDie) (l : List SegEntry) : (setDieXlt s d l).ctrls = s.ctrls := rfl
@[simp] theorem setDieXlt_mem (s : State) (d : CDie) (l : List SegEntry) : (setDieXlt s d l).mem = s.mem := rfl
@[simp] theorem setDieXlt_coh (s : State) (d : CDie) (l : List SegEntry) : (setDieXlt s d l).coh = s.coh := rfl
@[simp] theorem setDieXlt_xlt (s : State) (d : CDie) (l : List SegEntry) : (setDieXlt s d l).xlt = s.xlt := rfl
@[simp] theorem setDieXlt_harts (s : State) (d : CDie) (l : List SegEntry) : (setDieXlt s d l).harts = s.harts := rfl
@[simp] theorem setDieXlt_orf (s : State) (d : CDie) (l : List SegEntry) : (setDieXlt s d l).orf = s.orf := rfl
@[simp] theorem setDieXlt_fab (s : State) (d : CDie) (l : List SegEntry) : (setDieXlt s d l).fab = s.fab := rfl
@[simp] theorem setDieXlt_mir (s : State) (d : CDie) (l : List SegEntry) : (setDieXlt s d l).mir = s.mir := rfl
@[simp] theorem setDieXlt_stc (s : State) (d : CDie) (l : List SegEntry) : (setDieXlt s d l).stc = s.stc := rfl
@[simp] theorem setDieXlt_pwr (s : State) (d : CDie) (l : List SegEntry) : (setDieXlt s d l).pwr = s.pwr := rfl
@[simp] theorem setDieXlt_err (s : State) (d : CDie) (l : List SegEntry) : (setDieXlt s d l).err = s.err := rfl
@[simp] theorem setDieXlt_sec (s : State) (d : CDie) (l : List SegEntry) : (setDieXlt s d l).sec = s.sec := rfl
@[simp] theorem setDieXlt_boot (s : State) (d : CDie) (l : List SegEntry) : (setDieXlt s d l).boot = s.boot := rfl
@[simp] theorem setDieXlt_brd (s : State) (d : CDie) (l : List SegEntry) : (setDieXlt s d l).brd = s.brd := rfl

/-! ### `setAgree` -/

@[simp] theorem setAgree_pending (s : State) (a : Option KeyAgree) : (setAgree s a).pending = s.pending := rfl
@[simp] theorem setAgree_now (s : State) (a : Option KeyAgree) : (setAgree s a).now = s.now := rfl
@[simp] theorem setAgree_draws (s : State) (a : Option KeyAgree) : (setAgree s a).draws = s.draws := rfl
@[simp] theorem setAgree_rf (s : State) (a : Option KeyAgree) : (setAgree s a).rf = s.rf := rfl
@[simp] theorem setAgree_eng (s : State) (a : Option KeyAgree) : (setAgree s a).eng = s.eng := rfl
@[simp] theorem setAgree_cl (s : State) (a : Option KeyAgree) : (setAgree s a).cl = s.cl := rfl
@[simp] theorem setAgree_tallies (s : State) (a : Option KeyAgree) : (setAgree s a).tallies = s.tallies := rfl
@[simp] theorem setAgree_dsp (s : State) (a : Option KeyAgree) : (setAgree s a).dsp = s.dsp := rfl
@[simp] theorem setAgree_ses (s : State) (a : Option KeyAgree) : (setAgree s a).ses = s.ses := rfl
@[simp] theorem setAgree_parts (s : State) (a : Option KeyAgree) : (setAgree s a).parts = s.parts := rfl
@[simp] theorem setAgree_partWipe (s : State) (a : Option KeyAgree) : (setAgree s a).partWipe = s.partWipe := rfl
@[simp] theorem setAgree_ctrls (s : State) (a : Option KeyAgree) : (setAgree s a).ctrls = s.ctrls := rfl
@[simp] theorem setAgree_mem (s : State) (a : Option KeyAgree) : (setAgree s a).mem = s.mem := rfl
@[simp] theorem setAgree_coh (s : State) (a : Option KeyAgree) : (setAgree s a).coh = s.coh := rfl
@[simp] theorem setAgree_xlt (s : State) (a : Option KeyAgree) : (setAgree s a).xlt = s.xlt := rfl
@[simp] theorem setAgree_harts (s : State) (a : Option KeyAgree) : (setAgree s a).harts = s.harts := rfl
@[simp] theorem setAgree_orf (s : State) (a : Option KeyAgree) : (setAgree s a).orf = s.orf := rfl
@[simp] theorem setAgree_mir (s : State) (a : Option KeyAgree) : (setAgree s a).mir = s.mir := rfl
@[simp] theorem setAgree_stc (s : State) (a : Option KeyAgree) : (setAgree s a).stc = s.stc := rfl
@[simp] theorem setAgree_pwr (s : State) (a : Option KeyAgree) : (setAgree s a).pwr = s.pwr := rfl
@[simp] theorem setAgree_err (s : State) (a : Option KeyAgree) : (setAgree s a).err = s.err := rfl
@[simp] theorem setAgree_sec (s : State) (a : Option KeyAgree) : (setAgree s a).sec = s.sec := rfl
@[simp] theorem setAgree_boot (s : State) (a : Option KeyAgree) : (setAgree s a).boot = s.boot := rfl
@[simp] theorem setAgree_brd (s : State) (a : Option KeyAgree) : (setAgree s a).brd = s.brd := rfl

/-! ### `setCap` -/

@[simp] theorem setCap_pending (s : State) (h : HDie) (k : Nat) (v : CapSlot) : (setCap s h k v).pending = s.pending := rfl
@[simp] theorem setCap_now (s : State) (h : HDie) (k : Nat) (v : CapSlot) : (setCap s h k v).now = s.now := rfl
@[simp] theorem setCap_draws (s : State) (h : HDie) (k : Nat) (v : CapSlot) : (setCap s h k v).draws = s.draws := rfl
@[simp] theorem setCap_rf (s : State) (h : HDie) (k : Nat) (v : CapSlot) : (setCap s h k v).rf = s.rf := rfl
@[simp] theorem setCap_eng (s : State) (h : HDie) (k : Nat) (v : CapSlot) : (setCap s h k v).eng = s.eng := rfl
@[simp] theorem setCap_cl (s : State) (h : HDie) (k : Nat) (v : CapSlot) : (setCap s h k v).cl = s.cl := rfl
@[simp] theorem setCap_tallies (s : State) (h : HDie) (k : Nat) (v : CapSlot) : (setCap s h k v).tallies = s.tallies := rfl
@[simp] theorem setCap_dsp (s : State) (h : HDie) (k : Nat) (v : CapSlot) : (setCap s h k v).dsp = s.dsp := rfl
@[simp] theorem setCap_ses (s : State) (h : HDie) (k : Nat) (v : CapSlot) : (setCap s h k v).ses = s.ses := rfl
@[simp] theorem setCap_parts (s : State) (h : HDie) (k : Nat) (v : CapSlot) : (setCap s h k v).parts = s.parts := rfl
@[simp] theorem setCap_partWipe (s : State) (h : HDie) (k : Nat) (v : CapSlot) : (setCap s h k v).partWipe = s.partWipe := rfl
@[simp] theorem setCap_ctrls (s : State) (h : HDie) (k : Nat) (v : CapSlot) : (setCap s h k v).ctrls = s.ctrls := rfl
@[simp] theorem setCap_mem (s : State) (h : HDie) (k : Nat) (v : CapSlot) : (setCap s h k v).mem = s.mem := rfl
@[simp] theorem setCap_coh (s : State) (h : HDie) (k : Nat) (v : CapSlot) : (setCap s h k v).coh = s.coh := rfl
@[simp] theorem setCap_xlt (s : State) (h : HDie) (k : Nat) (v : CapSlot) : (setCap s h k v).xlt = s.xlt := rfl
@[simp] theorem setCap_harts (s : State) (h : HDie) (k : Nat) (v : CapSlot) : (setCap s h k v).harts = s.harts := rfl
@[simp] theorem setCap_orf (s : State) (h : HDie) (k : Nat) (v : CapSlot) : (setCap s h k v).orf = s.orf := rfl
@[simp] theorem setCap_fab (s : State) (h : HDie) (k : Nat) (v : CapSlot) : (setCap s h k v).fab = s.fab := rfl
@[simp] theorem setCap_mir (s : State) (h : HDie) (k : Nat) (v : CapSlot) : (setCap s h k v).mir = s.mir := rfl
@[simp] theorem setCap_stc (s : State) (h : HDie) (k : Nat) (v : CapSlot) : (setCap s h k v).stc = s.stc := rfl
@[simp] theorem setCap_pwr (s : State) (h : HDie) (k : Nat) (v : CapSlot) : (setCap s h k v).pwr = s.pwr := rfl
@[simp] theorem setCap_sec (s : State) (h : HDie) (k : Nat) (v : CapSlot) : (setCap s h k v).sec = s.sec := rfl
@[simp] theorem setCap_boot (s : State) (h : HDie) (k : Nat) (v : CapSlot) : (setCap s h k v).boot = s.boot := rfl
@[simp] theorem setCap_brd (s : State) (h : HDie) (k : Nat) (v : CapSlot) : (setCap s h k v).brd = s.brd := rfl

/-! ### `setStored` -/

@[simp] theorem setStored_pending (s : State) (pa : Nat) (data : Line) (checks : W64) : (setStored s pa data checks).pending = s.pending := rfl
@[simp] theorem setStored_now (s : State) (pa : Nat) (data : Line) (checks : W64) : (setStored s pa data checks).now = s.now := rfl
@[simp] theorem setStored_draws (s : State) (pa : Nat) (data : Line) (checks : W64) : (setStored s pa data checks).draws = s.draws := rfl
@[simp] theorem setStored_rf (s : State) (pa : Nat) (data : Line) (checks : W64) : (setStored s pa data checks).rf = s.rf := rfl
@[simp] theorem setStored_eng (s : State) (pa : Nat) (data : Line) (checks : W64) : (setStored s pa data checks).eng = s.eng := rfl
@[simp] theorem setStored_cl (s : State) (pa : Nat) (data : Line) (checks : W64) : (setStored s pa data checks).cl = s.cl := rfl
@[simp] theorem setStored_tallies (s : State) (pa : Nat) (data : Line) (checks : W64) : (setStored s pa data checks).tallies = s.tallies := rfl
@[simp] theorem setStored_dsp (s : State) (pa : Nat) (data : Line) (checks : W64) : (setStored s pa data checks).dsp = s.dsp := rfl
@[simp] theorem setStored_ses (s : State) (pa : Nat) (data : Line) (checks : W64) : (setStored s pa data checks).ses = s.ses := rfl
@[simp] theorem setStored_parts (s : State) (pa : Nat) (data : Line) (checks : W64) : (setStored s pa data checks).parts = s.parts := rfl
@[simp] theorem setStored_partWipe (s : State) (pa : Nat) (data : Line) (checks : W64) : (setStored s pa data checks).partWipe = s.partWipe := rfl
@[simp] theorem setStored_ctrls (s : State) (pa : Nat) (data : Line) (checks : W64) : (setStored s pa data checks).ctrls = s.ctrls := rfl
@[simp] theorem setStored_coh (s : State) (pa : Nat) (data : Line) (checks : W64) : (setStored s pa data checks).coh = s.coh := rfl
@[simp] theorem setStored_xlt (s : State) (pa : Nat) (data : Line) (checks : W64) : (setStored s pa data checks).xlt = s.xlt := rfl
@[simp] theorem setStored_harts (s : State) (pa : Nat) (data : Line) (checks : W64) : (setStored s pa data checks).harts = s.harts := rfl
@[simp] theorem setStored_orf (s : State) (pa : Nat) (data : Line) (checks : W64) : (setStored s pa data checks).orf = s.orf := rfl
@[simp] theorem setStored_fab (s : State) (pa : Nat) (data : Line) (checks : W64) : (setStored s pa data checks).fab = s.fab := rfl
@[simp] theorem setStored_mir (s : State) (pa : Nat) (data : Line) (checks : W64) : (setStored s pa data checks).mir = s.mir := rfl
@[simp] theorem setStored_stc (s : State) (pa : Nat) (data : Line) (checks : W64) : (setStored s pa data checks).stc = s.stc := rfl
@[simp] theorem setStored_pwr (s : State) (pa : Nat) (data : Line) (checks : W64) : (setStored s pa data checks).pwr = s.pwr := rfl
@[simp] theorem setStored_err (s : State) (pa : Nat) (data : Line) (checks : W64) : (setStored s pa data checks).err = s.err := rfl
@[simp] theorem setStored_sec (s : State) (pa : Nat) (data : Line) (checks : W64) : (setStored s pa data checks).sec = s.sec := rfl
@[simp] theorem setStored_boot (s : State) (pa : Nat) (data : Line) (checks : W64) : (setStored s pa data checks).boot = s.boot := rfl
@[simp] theorem setStored_brd (s : State) (pa : Nat) (data : Line) (checks : W64) : (setStored s pa data checks).brd = s.brd := rfl

end Sys2Proof.Machine
end

