-- ==== Sys2Proof/Laws/Stores.lean ====
section
/-! SUPPORT. What reading a tile store or a cluster store can change. -/

namespace Sys2Proof.Machine

/-- Reading a tile store corrects lines of it and their code words, nothing else (R258). -/
theorem tsLoad_only (s : State) (te : TeId) (a n : Nat) :
    ∃ m e, (tsLoad s te a n).1 = { s with eng := { s.eng with tiles := m, tileErr := e } } := by
  unfold tsLoad
  dsimp only
  split
  · exact ⟨_, _, rfl⟩
  · exact ⟨s.eng.tiles, _, rfl⟩

theorem rewritten_nil (m : SMap Byte) (a n : Nat) : rewritten m [] a n = m := rfl

/-- A read that succeeds answers the bytes as they then stand; with no wrong symbol in any store, nothing changes. -/
theorem tsLoad_ok {s u : State} {te : TeId} {a n : Nat} {bs : List Byte} (h : tsLoad s te a n = (u, .inr bs)) :
    bs = tsRead u te a n ∧ bs.length = n ∧ (s.eng.tileErr = [] → u = s)
      ∧ ∃ m e, u = { s with eng := { s.eng with tiles := m, tileErr := e } } := by
  obtain ⟨m, e, hu⟩ := tsLoad_only s te a n
  rw [h] at hu
  unfold tsLoad at h
  dsimp only at h
  split at h
  · rename_i errs heq
    simp only [Prod.mk.injEq, Sum.inr.injEq] at h
    obtain ⟨rfl, rfl⟩ := h
    refine ⟨rfl, by simp [tsRead, smGetRange], fun hn => ?_, m, e, hu⟩
    simp only [readStore, hn, List.filter_nil, Prod.mk.injEq] at heq
    rw [← heq.1, hn, rewritten_nil, ← hn]
  · simp at h

end Sys2Proof.Machine
end

