-- ==== Sys2Proof/Laws/Vector.lean ====
section
/-! SUPPORT. What a write of a vector register or of a mask leaves, lane by lane and bit by bit. -/

namespace Sys2Proof.Machine

/-- A vector register after a write of its lanes (R120). -/
theorem lanesAre_setVreg (s : State) (c : CtxId) {r : Nat} (hr : r < 32) (v : List W32) (hv : v.length = 256) :
    LanesAre s (setVreg s c r v) c r fun i => laneOf v i := by
  intro d q i hq hi
  simp only [vlane, setVreg, smGet_setRange, hv, laneOf]
  by_cases h : d = c ∧ q = r
  · obtain ⟨rfl, rfl⟩ := h
    have h1 : (32 * ctxKey d + q) * 256 + i - (32 * ctxKey d + q) * 256 = i := by omega
    rw [if_pos (c := _ ≤ _ ∧ _) ⟨Nat.le_add_right .., by omega⟩, if_pos ⟨rfl, rfl⟩, h1]
  · rw [if_neg h, if_neg]
    rintro ⟨a, b⟩
    exact h ⟨ctxKey_inj (by omega), by omega⟩

/-- Vector registers after an effect that writes one of them alone. -/
theorem lanesAre_of {s t : State} {c : CtxId} {r : Nat} {v : List W32} {f : Nat → W32} (hr : r < 32) (hv : v.length = 256)
    (ht : t.eng.vregs = (setVreg s c r v).eng.vregs) (hf : ∀ i, i < 256 → laneOf v i = f i) : LanesAre s t c r f := by
  intro d q i hq hi
  rw [← hf i hi, ← lanesAre_setVreg s c hr v hv d q i hq hi]
  simp only [vlane, ht]

@[simp] theorem length_lanes256 (f : Nat → W32) : (lanes256 f).length = 256 := by simp [lanes256]

theorem laneOf_lanes256 (f : Nat → W32) {i : Nat} (h : i < 256) : laneOf (lanes256 f) i = f i := by
  simp [laneOf, lanes256, List.getD_eq_getElem?_getD, h]

@[simp] theorem length_maskLanes (a b : List W32) (m : BitVec 256) : (maskLanes a b m).length = 256 := length_lanes256 _

theorem laneOf_maskLanes (a b : List W32) (m : BitVec 256) {i : Nat} (h : i < 256) :
    laneOf (maskLanes a b m) i = if m.getLsbD i then laneOf b i else laneOf a i := laneOf_lanes256 _ h

theorem laneOf_vreg (s : State) (c : CtxId) (r : Nat) {i : Nat} (h : i < 256) : laneOf (vreg s c r) i = vlane s c r i := by
  simp [laneOf, vreg, vlane, smGetRange, List.getD_eq_getElem?_getD, h]

@[simp] theorem length_vreg (s : State) (c : CtxId) (r : Nat) : (vreg s c r).length = 256 := by simp [vreg, smGetRange]

theorem laneOf_map (f : W32 → W32) {l : List W32} {i : Nat} (h : i < l.length) : laneOf (l.map f) i = f (laneOf l i) := by
  simp [laneOf, List.getD_eq_getElem?_getD, h]

/-- The bits of a mask that is put together from its bits. -/
theorem getLsbD_maskOf (f : Nat → Bool) {i : Nat} (h : i < 256) : (maskOf f).getLsbD i = f i := by
  have key : ∀ n, n ≤ 256 → ∀ j, j < 256 →
      ((List.range n).foldl (fun a i => if f i then a ||| (1#256 <<< i) else a) 0).getLsbD j = (decide (j < n) && f j) := by
    intro n
    induction n with
    | zero => intro _ j _; simp
    | succ n ih =>
      intro hn j hj
      rw [List.range_succ, List.foldl_append, List.foldl_cons, List.foldl_nil]
      have hi := ih (by omega) j hj
      by_cases hf : f n = true
      · rw [if_pos hf, BitVec.getLsbD_or, hi, BitVec.getLsbD_shiftLeft]
        by_cases hjn : j = n
        · subst hjn; simp [hf, hj]
        · by_cases hlt : j < n
          · simp [hlt, Nat.lt_succ_of_lt hlt]
          · have h1 : ¬ j < n + 1 := by omega
            have h2 : ¬ j - n = 0 := by omega
            simp [hlt, h1, h2]
      · rw [if_neg hf, hi]
        by_cases hjn : j = n
        · subst hjn; simp at hf; simp [hf]
        · congr 1
          exact decide_eq_decide.2 (by omega)
  rw [maskOf, key 256 (Nat.le_refl _) i h]
  simp [h]

/-- A mask after a write (R120). -/
theorem maskIs_setVmask (s : State) (c : CtxId) {r : Nat} (hr : r < 8) (h0 : r ≠ 0) (v : BitVec 256) :
    MaskIs s (setVmask s c r v) c r fun i => v.getLsbD i := by
  intro d q i hq hi
  simp only [vmask, setVmask, smGet_set]
  by_cases h : d = c ∧ q = r
  · obtain ⟨rfl, rfl⟩ := h
    simp [h0]
  · rw [if_neg h, if_neg (c := 8 * ctxKey d + q = 8 * ctxKey c + r)]
    intro e
    exact h ⟨ctxKey_inj (by omega), by omega⟩

/-- Masks after an effect that writes one of them alone. -/
theorem maskIs_of {s t : State} {c : CtxId} {r : Nat} {v : BitVec 256} {f : Nat → Bool} (hr : r < 8) (h0 : r ≠ 0)
    (ht : t.eng.masks = (setVmask s c r v).eng.masks) (hf : ∀ i, i < 256 → v.getLsbD i = f i) : MaskIs s t c r f := by
  intro d q i hq hi
  rw [← hf i hi, ← maskIs_setVmask s c hr h0 v d q i hq hi]
  simp only [vmask, ht]

end Sys2Proof.Machine
end

