-- ==== Sys2Proof/Laws/Units.lean ====
section
/-! SUPPORT. What the operations of the units leave and what they keep, one lemma for each, so that no proof unfolds them. -/

namespace Sys2Proof.Machine

/-! ### Registers and accessors -/

theorem getCtrl_setCtrl (s : State) (c d : CtrlId) (v : Ctrl) : getCtrl (setCtrl s c v) d = if d = c then v else getCtrl s d := by
  simp only [getCtrl, setCtrl, smGet_set, Fin.ext_iff]
theorem flagR_place (s : State) (r : Rec) {q : Reg} (i : Nat) (h : ∀ i : HDie, q.addr ≠ (Reg.errQDrop i).addr ∧ q.addr ≠ (Reg.errQStatus i).addr) :
    flagR (place s r) q i = flagR s q i := by rw [flagR, place_getR _ _ h, flagR]
theorem flagR_raise_ne (s : State) {r q : Reg} (b i : Nat) (h : q.addr ≠ r.addr) : flagR (raise s r b) q i = flagR s q i := by
  rw [flagR, getR_raise_ne _ _ h, flagR]
theorem flagR_lower (s : State) (r : Reg) {b : Nat} (h : b < 64) : flagR (lower s r b) r b = false := by
  rw [flagR, lower, setFieldR, getR_setR, bitAt, setBits]
  simp [h]
theorem flagR_lower_ne (s : State) {r q : Reg} (b i : Nat) (h : q.addr ≠ r.addr) : flagR (lower s r b) q i = flagR s q i := by
  rw [flagR, lower, setFieldR, getR_setR_ne _ _ h, flagR]
theorem lower_rf (s : State) (r : Reg) (b : Nat) : ∃ rf, lower s r b = { s with rf := rf } := ⟨_, rfl⟩
theorem draw_fst (s : State) : (draw s).1 = s.draws := rfl
theorem draw_snd (s : State) : (draw s).2 = { s with draws := s.draws + 1 } := rfl
theorem getCopy_setCopy (s : State) {a b line l : Nat} (v : Copy) (ha : a < 128) (hb : b < 128) :
    getCopy (setCopy s a line v) b l = if b = a ∧ l = line then v else getCopy s b l := by
  simp only [getCopy, setCopy, smGet_set, copyKey]
  have : 128 * l + b = 128 * line + a ↔ b = a ∧ l = line := by omega
  simp only [this]
theorem dirDrop_only (s : State) (line a : Nat) : ∃ d, dirDrop s line a = { s with coh := { s.coh with dir := d } } := by
  unfold dirDrop
  dsimp only
  split
  · exact ⟨_, rfl⟩
  · exact ⟨_, rfl⟩
theorem proxyAsk_setProxyAsk (s : State) (line l : Nat) (v : Option Ask) : smGet none (setProxyAsk s line v).orf.proxyAsk l = if l = line then v else smGet none s.orf.proxyAsk l := by
  simp only [setProxyAsk, smGet_set]
theorem getProxy_setProxy (s : State) (line l : Nat) (v : Copy) : getProxy (setProxy s line v) l = if l = line then v else getProxy s l := by
  simp only [getProxy, setProxy, smGet_set]
theorem proxyBuf_setProxyBuf (s : State) (line l : Nat) (v : Option EvictBuf) : proxyBuf (setProxyBuf s line v) l = if l = line then v else proxyBuf s l := by
  simp only [proxyBuf, setProxyBuf, smGet_set]
theorem getProxy_setProxyBuf (s : State) (line l : Nat) (v : Option EvictBuf) : getProxy (setProxyBuf s line v) l = getProxy s l := rfl
/-- A message sent on Orfin, or left to wait, changes the messages that have left and that wait, the BulkWrites under way, the links and the wire. -/
theorem orfSend_only (s : State) (m : OrfMsg) : ∃ o w b ls wi, orfSend s m = { s with
    orf := { s.orf with out := o, wait := w, bulkSeqs := b }, fab := { s.fab with links := ls, wire := wi } } := by
  unfold orfSend
  split
  · obtain ⟨ls, w, h⟩ := sendFlit_frame (spendCredit s 23 m.cls 1) 23 0 (bytesOf 16 (Config.orfHeader m.cls m.at_).toNat ++ m.data)
    unfold orfLeave
    dsimp only
    rw [h]
    exact ⟨_, _, _, _, _, rfl⟩
  · exact ⟨_, _, _, _, _, rfl⟩
/-- A message sent on Orfin leaves at once where its class may send, else it waits behind those of its class (R345). -/
theorem orfSend_sent (s : State) (m : OrfMsg) : if orfMay s m then (orfSend s m).orf.out = s.orf.out ++ [m] ∧ (orfSend s m).orf.wait = s.orf.wait
    else (orfSend s m).orf.out = s.orf.out ∧ (orfSend s m).orf.wait = s.orf.wait ++ [m] := by
  unfold orfSend
  by_cases h : orfMay s m = true
  · rw [if_pos h, if_pos h]
    obtain ⟨ls, w, h⟩ := sendFlit_frame (spendCredit s 23 m.cls 1) 23 0 (bytesOf 16 (Config.orfHeader m.cls m.at_).toNat ++ m.data)
    unfold orfLeave
    dsimp only
    rw [h]
    exact ⟨rfl, rfl⟩
  · rw [if_neg h, if_neg h]
    exact ⟨rfl, rfl⟩
theorem getProxy_orfSend (s : State) (l : Nat) (m : OrfMsg) : getProxy (orfSend s m) l = getProxy s l := by
  obtain ⟨o, w, b, ls, wi, h⟩ := orfSend_only s m; rw [h]; rfl
theorem flagR_rf {s t : State} (h : t.rf = s.rf) (r : Reg) (i : Nat) : flagR t r i = flagR s r i := by simp only [flagR, getR, h]
theorem fieldR_rf {s t : State} (h : t.rf = s.rf) (r : Reg) (i j : Nat) : fieldR t r i j = fieldR s r i j := by simp only [fieldR, getR, h]
theorem orfSend_rf (s : State) (m : OrfMsg) : (orfSend s m).rf = s.rf := by
  obtain ⟨o, w, b, ls, wi, h⟩ := orfSend_only s m; rw [h]
theorem raise_only (s : State) (r : Reg) (b : Nat) : ∃ rf, raise s r b = { s with rf := rf } := ⟨_, rfl⟩
theorem countR_only (s : State) (r : Reg) (hi lo n : Nat) : ∃ rf, countR s r hi lo n = { s with rf := rf } := ⟨_, rfl⟩
theorem dspCount_only (s : State) (d : CDie) (e : DspEvt) (n : Nat) : ∃ rf, dspCount s d e n = { s with rf := rf } := by
  unfold dspCount
  split
  · exact ⟨s.rf, rfl⟩
  · cases e <;> exact ⟨_, rfl⟩
theorem getSes_setSes (s : State) (n m : Nat) (v : BitVec 2048) : getSes (setSes s n v) m = if m = n then v else getSes s m := by
  simp only [getSes, setSes, smGet_set]
theorem getPart_setPart (s : State) (p q : PartId) (v : BitVec 512) : getPart (setPart s p v) q = if q = p then v else getPart s q := by
  simp only [getPart, setPart, smGet_set, Fin.val_inj]
theorem getPend_setPend (s : State) (h j : Nat) (p : Option XltPend) : getPend (setPend s h p) j = if j = h then p else getPend s j := by
  simp only [getPend, setPend, smGet_set]
theorem mapEntry_setMap (s : State) (h j : Nat) (p : W64) : mapEntry (setMap s h p) j = if j = h then p else mapEntry s j := by
  simp only [mapEntry, setMap, smGet_set]
theorem getBuf_setBuf (s : State) {a b line l : Nat} (v : Option EvictBuf) (ha : a < 128) (hb : b < 128) :
    getBuf (setBuf s a line v) b l = if b = a ∧ l = line then v else getBuf s b l := by
  simp only [getBuf, setBuf, smGet_set, copyKey]
  have : 128 * l + b = 128 * line + a ↔ b = a ∧ l = line := by omega
  simp only [this]
theorem getHome_setTxn (s : State) (l line : Nat) (t : Option Txn) : getHome (setTxn s line t) l = if l = line then { getHome s line with txn := t } else getHome s l := by
  simp only [getHome, setTxn, setHome, smGet_set]
theorem getCopy_setTxn (s : State) (a l line : Nat) (t : Option Txn) : getCopy (setTxn s line t) a l = getCopy s a l := rfl
theorem getCopy_hartLoses (s : State) (h l a line : Nat) : getCopy (hartLoses s h l) a line = getCopy s a line := rfl
theorem getHome_setCopy (s : State) (a l line : Nat) (c : Copy) : getHome (setCopy s a l c) line = getHome s line := rfl
theorem getRing_setRing (s : State) (r q : Nat) (v : Ring) : getRing (setRing s r v) q = if q = r then v else getRing s q := by
  simp only [getRing, setRing, smGet_set]
theorem getR_setRing (s : State) (r : Nat) (v : Ring) (q : Reg) : getR (setRing s r v) q = getR s q := rfl
theorem getRing_setR (s : State) (r : Reg) (v : W64) (q : Nat) : getRing (setR s r v) q = getRing s q := rfl
theorem getDie_setDie (s : State) (d e : Nat) (v : DiePower) : getDie (setDie s d v) e = if e = d then v else getDie s e := by simp only [getDie, setDie, smGet_set]
theorem getRegion_setRegion (s : State) (d e : Nat) (v : RegionPower) : getRegion (setRegion s d v) e = if e = d then v else getRegion s e := by simp only [getRegion, setRegion, smGet_set]
theorem stitching_runs {s : State} (f : State → State) (h : stitchRuns s = true) : stitching s f = .next (f s) := by rw [stitching, if_pos h]
theorem smGet_map {α : Type} (d : α) (m : SMap α) (f : α → α) (hf : f d = d) (k : Nat) : smGet d (m.map fun e : Nat × α => (e.1, f e.2)) k = f (smGet d m k) := by
  induction m with
  | nil => simp [smGet, hf]
  | cons e m ih =>
    obtain ⟨i, v⟩ := e
    simp only [List.map_cons, smGet]
    split
    · rfl
    · exact ih
theorem getHart_setHart (s : State) (h k : Nat) (v : HartState) : getHart (setHart s h v) k = if k = h then v else getHart s k := by
  simp only [getHart, setHart, smGet_set]
/-! ### Engines -/

theorem tiles_writes_out (te : TeId) (runs : List (Nat × List Byte)) (v : State) (b : Nat)
    (h : ∀ r ∈ runs, ¬ (r.1 ≤ b ∧ b < r.1 + r.2.length)) :
    smGet 0 (runs.foldl (fun s r => tsWrite s te r.1 r.2) v).eng.tiles (2097152 * te.val + b) = smGet 0 v.eng.tiles (2097152 * te.val + b) := by
  induction runs generalizing v with
  | nil => rfl
  | cons r l ih =>
    rw [List.foldl_cons, ih _ fun q hq => h q (List.mem_cons_of_mem _ hq)]
    simp only [tsWrite, smGet_setRange]
    have := h r (List.mem_cons_self ..)
    rw [if_neg]; omega
theorem accAt_setAcc (s : State) (te : TeId) (g i : Nat) (v : W32) (u : TeId) (h j : Nat) (hg : g < 8) (hh : h < 8) (hi : i < 16384) (hj : j < 16384) :
    accAt (setAcc s te g i v) u h j = if u = te ∧ h = g ∧ j = i then v else accAt s u h j := by
  simp only [accAt, setAcc, smGet_set]
  by_cases hc : u = te ∧ h = g ∧ j = i
  · obtain ⟨rfl, rfl, rfl⟩ := hc; simp
  · rw [if_neg hc, if_neg]
    intro e; apply hc
    have : u.val = te.val := by omega
    exact ⟨Fin.ext this, by omega, by omega⟩
theorem accAt_addBlocks (te : TeId) (g i : Nat) (hg : g < 8) (hi : i < 16384) (l : List W32) (s : State) :
    (∀ u h j, h < 8 → j < 16384 → accAt (l.foldl (addBlock false te g i) s) u h j = if u = te ∧ h = g ∧ j = i then l.foldl fadd (accAt s te g i) else accAt s u h j)
    ∧ ∃ a, l.foldl (addBlock false te g i) s = { s with eng := { s.eng with acc := a } } := by
  induction l generalizing s with
  | nil => exact ⟨fun u h j _ _ => by by_cases hc : u = te ∧ h = g ∧ j = i <;> simp [hc], s.eng.acc, rfl⟩
  | cons v l ih =>
    obtain ⟨h1, a, h2⟩ := ih (addBlock false te g i s v)
    refine ⟨fun u h j hh hj => ?_, a, by rw [List.foldl_cons, h2]; rfl⟩
    rw [List.foldl_cons, h1 u h j hh hj]
    have e : ∀ u h j, h < 8 → j < 16384 → accAt (addBlock false te g i s v) u h j = if u = te ∧ h = g ∧ j = i then fadd (accAt s te g i) v else accAt s u h j :=
      fun u h j hh hj => accAt_setAcc s te g i _ u h j hg hh hi hj
    by_cases hc : u = te ∧ h = g ∧ j = i
    · rw [if_pos hc, if_pos hc, List.foldl_cons, e _ _ _ hg hi, if_pos ⟨rfl, rfl, rfl⟩]
    · rw [if_neg hc, if_neg hc, e _ _ _ hh hj, if_neg hc]
theorem accAt_addFlight (te : TeId) (g : Nat) (hg : g < 8) (l : List (Nat × List W32)) (hl : ∀ a ∈ l, a.1 < 16384) (s : State) :
    (∀ u h j, h < 8 → j < 16384 → accAt (l.foldl (fun s a => a.2.foldl (addBlock false te g a.1) s) s) u h j =
      if u = te ∧ h = g then ((l.filter fun a => decide (a.1 = j)).map (·.2)).flatten.foldl fadd (accAt s te g j) else accAt s u h j)
    ∧ ∃ a, l.foldl (fun s a => a.2.foldl (addBlock false te g a.1) s) s = { s with eng := { s.eng with acc := a } } := by
  induction l generalizing s with
  | nil => exact ⟨fun u h j _ _ => by by_cases hc : u = te ∧ h = g <;> simp [hc], s.eng.acc, rfl⟩
  | cons p l ih =>
    have hp := hl p (List.mem_cons_self ..)
    obtain ⟨b1, b, b2⟩ := accAt_addBlocks te g p.1 hg hp p.2 s
    obtain ⟨h1, a, h2⟩ := ih (fun a ha => hl a (List.mem_cons_of_mem _ ha)) (p.2.foldl (addBlock false te g p.1) s)
    refine ⟨fun u h j hh hj => ?_, a, by rw [List.foldl_cons, h2, b2]⟩
    rw [List.foldl_cons, h1 u h j hh hj]
    by_cases hc : u = te ∧ h = g
    · rw [if_pos hc, if_pos hc, b1 _ _ _ hg hj]
      by_cases hj' : j = p.1
      · subst hj'; simp
      · have : ¬ p.1 = j := fun h => hj' h.symm
        simp [hj', this]
    · rw [if_neg hc, if_neg hc, b1 _ _ _ hh hj, if_neg (fun h => hc ⟨h.1, h.2.1⟩)]
theorem addFlights_accepted (te : TeId) (g : Nat) (hg : g < 8) (l : List Flight) (hl : ∀ f ∈ l, ∀ a ∈ f.adds, a.1 < 16384) (s : State) :
    l.foldl (fun s f => f.adds.foldl (fun s a => a.2.foldl (addBlock false te g a.1) s) s) s
      = (l.map (·.adds)).flatten.foldl (fun s a => a.2.foldl (addBlock false te g a.1) s) s := by
  induction l generalizing s with
  | nil => rfl
  | cons f l ih =>
    rw [List.foldl_cons, ih fun f hf => hl f (List.mem_cons_of_mem _ hf)]
    simp
theorem accAt_clear (s : State) (te : TeId) (g n : Nat) (hg : g + n ≤ 8) (u : TeId) (h i : Nat) (hh : h < 8) (hi : i < 16384) :
    accAt (clearAcc s te g n) u h i = if u = te ∧ g ≤ h ∧ h < g + n then 0 else accAt s u h i := by
  simp only [accAt, clearAcc, smGet_clear]
  by_cases hc : u = te ∧ g ≤ h ∧ h < g + n
  · obtain ⟨rfl, h1, h2⟩ := hc
    rw [if_pos, if_pos ⟨rfl, h1, h2⟩]
    constructor <;> omega
  · rw [if_neg, if_neg hc]
    intro e; apply hc
    have : u.val = te.val := by omega
    exact ⟨Fin.ext this, by omega, by omega⟩
theorem openBlocked_none {s : State} {te : TeId} {g : GroupId} (h : heldByPair s te g = false) (k : (getGroup s te g).st = .free) :
    openBlocked s te g = none := by simp [openBlocked, h, k]
theorem dropResults_only (s : State) (c : CtxId) (g : GroupId) :
    ∃ tm sl, dropResults s c g = { s with eng := { s.eng with te := tm, slots := sl } } := ⟨_, _, rfl⟩
theorem words32_length (bs : List Byte) (m : Nat) (h : bs.length = 4 * m) : (words32 bs).length = m := by
  simp only [words32, chunks, List.length_map, List.length_range, h, ceilDiv']; omega
theorem words32_getD (bs : List Byte) (m r : Nat) (h : bs.length = 4 * m) (hr : r < m) :
    (words32 bs).getD r 0 = BitVec.ofNat 32 (leNat ((bs.drop (4 * r)).take 4)) := by
  have hl := words32_length bs m h
  rw [List.getD_eq_getElem _ _ (by omega)]
  simp [words32, chunks]
theorem takePath_eq (s : State) (te : TeId) (g : GroupId) (d : Drain) : ∃ sl, takePath s te g d =
    { advanceCycle s (max (readyAt (getGroup s te g) d + 1) (getTe s te).drainFree) with eng := { s.eng with slots := sl } } := by
  unfold takePath; dsimp only; split <;> exact ⟨_, rfl⟩
theorem cycleNow_advanceCycle_max (s : State) (c : Nat) : cycleNow (advanceCycle s c) = max (cycleNow s) c := by
  simp only [cycleNow, advanceCycle, advanceTo, cycT]; omega
theorem insertLane_perm (l : List (W32 × Nat)) (p : W32 × Nat) : (insertLane l p).Perm (p :: l) := by
  induction l with
  | nil => exact List.Perm.refl _
  | cons q t ih =>
    unfold insertLane
    split
    · exact (List.Perm.cons q ih).trans (List.Perm.swap p q t)
    · exact List.Perm.refl _
theorem foldInsert_perm (l acc : List (W32 × Nat)) : (l.foldl insertLane acc).Perm (acc ++ l) := by
  induction l generalizing acc with
  | nil => simp
  | cons p l ih =>
    rw [List.foldl_cons]
    refine (ih _).trans ?_
    refine ((insertLane_perm acc p).append_right l).trans ?_
    simpa using (List.perm_middle (a := p) (l₁ := acc) (l₂ := l)).symm
theorem sortLanes_perm (a : List W32) (m : BitVec 256) : ((sortLanes a m).map (·.2)).Perm (List.range 256) := by
  unfold sortLanes
  dsimp only
  generalize hall : (List.range 256).map (fun i => (canon (laneOf a i), i)) = all
  have h1 : ((all.filter fun p => m.getLsbD p.2).foldl insertLane [] ++ all.filter fun p => !m.getLsbD p.2).Perm all := by
    refine ((foldInsert_perm _ []).append_right _).trans ?_
    simpa using List.filter_append_perm (fun p : W32 × Nat => m.getLsbD p.2) all
  refine (h1.map (·.2)).trans ?_
  rw [← hall, List.map_map]
  simp [Function.comp_def]
theorem sortLanes_length (a : List W32) (m : BitVec 256) : (sortLanes a m).length = 256 := by
  have := (sortLanes_perm a m).length_eq; simpa using this
theorem tallyReached_iff {s : State} {h v : W32} {k : Nat} (hk : handleKey h = some k) : tallyReached s h v = decide ((tally s k - v).toNat < 2 ^ 31) := by
  simp only [tallyReached, hk, geZero32]
  generalize tally s k - v = q
  rw [BitVec.msb_eq_decide]
  by_cases hh : q.toNat < 2 ^ 31
  · rw [decide_eq_true hh, decide_eq_false (by omega)]; rfl
  · rw [decide_eq_false hh, decide_eq_true (by omega)]; rfl
theorem getSlot_modCtx {s : State} {c : CtxId} {ctx : Ctx} (hr : getCtx s c = some ctx) (f : Ctx → Ctx) (d : CtxId) :
    getSlot (modCtx s c f) d = if d = c then { getSlot s c with ctx := some (f ctx) } else getSlot s d := by
  have hr' : (getSlot s c).ctx = some ctx := hr
  simp [modCtx, getSlot_setSlot, hr']
theorem proceeds_modCtx {s u : State} {c : CtxId} {ctx y : Ctx} {pc : W64} (hr : getCtx s c = some ctx)
    (ht : ∀ e, getTe u e = getTe s e) (hg : ∀ d, getSlot u d = if d = c then { getSlot s c with ctx := some y } else getSlot s d) (hn : u.now = s.now)
    (hy : y.pc = ctx.pc) (hf : y.firstIssue = ctx.firstIssue) : Proceeds s (hasIssued u c pc) c y pc := by
  have hc : cycleNow u = cycleNow s := by rw [cycleNow, hn]; rfl
  constructor
  · intro e
    simp [getTe_hasIssued, bookIssue, progressed, modCtx, getTe_setTe, hc, ht]
    split <;> rename_i h <;> simp [h, ht]
  · intro d
    by_cases h : d = c
    · subst h
      have hl : lostCycles u d = lostCycles s d := by unfold lostCycles; rw [ht, hg, if_pos rfl]
      simp [getSlot_hasIssued, bookIssue, progressed, modCtx, getSlot_setSlot, issuedSlot, hc, hg, hl]
    · simp [getSlot_hasIssued, bookIssue, progressed, modCtx, getSlot_setSlot, h, hg]
theorem tally_tallyAdd (s : State) (k : Nat) (v : W32) (j : Nat) : tally (tallyAdd s k v) j = if j = k then tally s k + v else tally s j := by
  simp only [tallyAdd, tally, smMod, smGet_set]
theorem tallyAdd_only (s : State) (k : Nat) (v : W32) : tallyAdd s k v = { s with tallies := (tallyAdd s k v).tallies, stc := { s.stc with marginAt := (tallyAdd s k v).stc.marginAt } } := by
  unfold tallyAdd; dsimp only; split <;> rfl
theorem discardStale_eq (s : State) (c : CtxId) (sc : Scope) : ∃ v, discardStale s c sc = { s with cl := v } := by
  unfold discardStale; cases sc <;> exact ⟨_, rfl⟩
theorem atomResult_add_word (k : W32) (b p : W64) : (atomResult .add false (k.setWidth 64) b p).truncate 32 = k + b.truncate 32 := by
  simp [atomResult]
theorem placeLines_length {s u : State} {c : CtxId} {t va n : Nat} {ls : List Nat} (h : placeLines s c t va n = (u, .inr ls)) : ls.length = n := by
  induction n generalizing s u va ls with
  | zero => simp [placeLines] at h; simp [← h.2]
  | succ n ih =>
    unfold placeLines at h
    split at h
    · simp at h
    · split at h
      · simp at h
      · split at h
        · rename_i hh
          simp only [Prod.mk.injEq, Sum.inr.injEq] at h
          have := ih hh
          rw [← h.2]; simp [this]
        · rename_i hx hh
          rw [h] at hh
          exact absurd rfl (hh _ _)
theorem cycleNow_advanceCycle (s : State) (n : Nat) (h : cycleNow s ≤ n) : cycleNow (advanceCycle s n) = n := by
  unfold cycleNow advanceCycle advanceTo cycT at *
  simp only at *
  omega
/-! ### Routes, sessions, partitions and launches -/

theorem ses_performOp (s : State) (c : CtxId) (n : Nat) : (performOp s c n).ses = s.ses := by
  obtain ⟨sl, ts, st, h⟩ := performOp_only s c n
  rw [h]
theorem ses_place (s : State) (r : Rec) : (place s r).ses = s.ses := by rw [place_only]
theorem ses_refuse (s : State) (c : CtxId) (a b d e : Nat) (f : W64) (g : Nat) : (refuseSession s c a b d e f g).ses = s.ses := by
  unfold refuseSession
  split
  · rfl
  · dsimp only; rw [ses_performOp]; show (place s _).ses = _; rw [ses_place]
theorem sesCause_lt {s : State} {id : Nat} {job : W16} (h : sesCause s id job = none) : id % 65536 = id := by
  unfold sesCause at h
  dsimp only at h
  split at h
  · cases h
  · omega
theorem freeTag_spec {s : State} {d : CDie} (h : taggedCount s d < 1024) :
    (∀ q ∈ getRoutes s d, q.tag ≠ some (freeTag s d)) ∧ (∀ n, n < freeTag s d → ∃ q ∈ getRoutes s d, q.tag = some n) := by
  have hex : ∃ n, (List.range 1024).find? (fun t => (getRoutes s d).all fun r => decide (r.tag ≠ some t)) = some n := by
    rw [← Option.isSome_iff_exists, List.find?_isSome]
    by_contra hc
    push_neg at hc
    have hsub : (List.range 1024).map some ⊆ ((getRoutes s d).filter fun r => r.tag.isSome).map (·.tag) := by
      intro t ht
      obtain ⟨n, hn, rfl⟩ := List.mem_map.1 ht
      have := hc n hn
      obtain ⟨r, hr, hrt⟩ : ∃ r ∈ getRoutes s d, r.tag = some n := by simpa using this
      refine List.mem_map.2 ⟨r, List.mem_filter.2 ⟨hr, ?_⟩, ?_⟩
      · have : r.tag = some n := by simpa using hrt
        simp [this]
      · simpa using hrt
    have hnd : ((List.range 1024).map some).Nodup := List.nodup_range.map (Option.some_injective _)
    have := (List.subperm_of_subset hnd hsub).length_le
    simp only [List.length_map, List.length_range] at this
    have h2 : taggedCount s d = ((getRoutes s d).filter fun r => r.tag.isSome).length := rfl
    omega
  obtain ⟨n, hn⟩ := hex
  have hf : freeTag s d = n := by unfold freeTag; rw [hn]; rfl
  rw [hf]
  refine ⟨?_, ?_⟩
  · have := List.find?_some hn
    simp only [List.all_eq_true, decide_eq_true_eq] at this
    exact this
  · intro m hm
    rw [List.find?_range_eq_some] at hn
    have := hn.2.2 m hm
    clear hn hf
    simpa using this
theorem closeRoute_spec (s : State) (d : CDie) (r : Route) : getRoutes (closeRoute s d r) d = (getRoutes s d).map (fun q => if q.ctx = r.ctx ∧ q.opNumber = r.opNumber then
            { q with pairs := r.pairs.map (fun p => if p.pending then Pair.zero else p), closedAt := some s.now } else q) ∧ (closeRoute s d r).now = s.now := by
  unfold closeRoute
  dsimp only
  obtain ⟨rf, h1⟩ := dspCount_only s d .late (r.pairs.filter Pair.pending).length
  rw [h1]
  have key : ∀ z : State, z.dsp = s.dsp → z.now = s.now → getRoutes (modRoute (noteProgress z 4 d.val) d r fun q => { q with pairs := r.pairs.map (fun p => if p.pending then Pair.zero else p), closedAt := some z.now }) d
      = (getRoutes s d).map (fun q => if q.ctx = r.ctx ∧ q.opNumber = r.opNumber then
            { q with pairs := r.pairs.map (fun p => if p.pending then Pair.zero else p), closedAt := some s.now } else q) ∧ (modRoute (noteProgress z 4 d.val) d r fun q => { q with pairs := r.pairs.map (fun p => if p.pending then Pair.zero else p), closedAt := some z.now }).now = s.now := by
    intro z hz hn
    refine ⟨?_, hn⟩
    have : ∀ f, getRoutes (modRoute (noteProgress z 4 d.val) d r f) d = (getRoutes z d).map fun q => if q.ctx = r.ctx ∧ q.opNumber = r.opNumber then f q else q := by
      intro f; simp [getRoutes, modRoute, setRoutes, noteProgress]
    rw [this, hn]
    simp only [getRoutes, hz]
  split
  · exact key _ rfl rfl
  · refine key _ ?_ ?_
    · rw [place_only]
    · rw [place_only]
theorem earlierRoute_least (l : List Route) (r : Route) (hm : r ∈ l) (hmin : ∀ q ∈ l, q ≠ r → r.deadline < q.deadline) :
    l.foldl earlierRoute none = some r := by
  have key : ∀ (l : List Route) (m : Option Route), (∀ q ∈ l, q ≠ r → r.deadline < q.deadline) → (m = some r ∨ (r ∈ l ∧ ∀ q, m = some q → q = r ∨ r.deadline < q.deadline)) →
      l.foldl earlierRoute m = some r := by
    intro l
    induction l with
    | nil =>
      intro m _ h
      rcases h with h | h
      · exact h
      · cases h.1
    | cons a l ih =>
      intro m hmin h
      rw [List.foldl_cons]
      apply ih _ fun q hq => hmin q (List.mem_cons_of_mem _ hq)
      rcases h with h | ⟨hm, h⟩
      · left
        rw [h, earlierRoute]
        by_cases ha : a = r
        · subst ha; simp
        · have := hmin a (List.mem_cons_self ..) ha
          rw [if_pos (by omega)]
      · by_cases ha : a = r
        · subst ha
          left
          cases hmm : m with
          | none => rfl
          | some q =>
            rw [earlierRoute]
            rcases h q hmm with rfl | hq
            · simp
            · rw [if_neg (by omega)]
        · right
          refine ⟨(List.mem_cons.1 hm).resolve_left fun h => ha h.symm, ?_⟩
          intro q hq
          have hra := hmin a (List.mem_cons_self ..) ha
          cases hmm : m with
          | none => rw [hmm, earlierRoute] at hq; cases hq; right; exact hra
          | some q' =>
            rw [hmm, earlierRoute] at hq
            split at hq
            · cases hq; exact h _ hmm
            · cases hq; right; exact hra
  exact key l none hmin (Or.inr ⟨hm, fun q hq => by cases hq⟩)
theorem dsp_performOp (s : State) (c : CtxId) (n : Nat) : (performOp s c n).dsp = s.dsp := by
  obtain ⟨sl, ts, st, h⟩ := performOp_only s c n
  rw [h]
/-- What waits at a mirror port leaves; nothing but the links and what has left changes. -/
theorem mirrorPump_frame (k : Nat) (s : State) (n : Nat) : ∃ f, mirrorPump k s n = { s with fab := f } := by
  induction k generalizing s with
  | zero => exact ⟨_, rfl⟩
  | succ k ih =>
    unfold mirrorPump
    split
    · split
      · obtain ⟨f, h⟩ := ih (mirrorLeave (setLink s (24 + n) { getLink s (24 + n) with sendQ := _ }) n _)
        obtain ⟨ls, w, h'⟩ := sendOut_frame (setKey (setLink s (24 + n) { getLink s (24 + n) with sendQ := _ }) (256 + n) _) (24 + n) _
        exact ⟨f, by rw [h]; unfold mirrorLeave; dsimp only; rw [h']; rfl⟩
      · exact ⟨_, rfl⟩
    · exact ⟨_, rfl⟩
theorem sendMirror_frame (s : State) (n c : Nat) (b : List Byte) : ∃ f, sendMirror s n c b = { s with fab := f } := by
  unfold sendMirror
  dsimp only
  obtain ⟨f, h⟩ := mirrorPump_frame ((getLink s (24 + n)).sendQ.length + 1) (setLink s (24 + n) { getLink s (24 + n) with sendQ := _ }) n
  exact ⟨f, by rw [h]; rfl⟩
theorem ses_sendMirror (s : State) (n c : Nat) (b : List Byte) : (sendMirror s n c b).ses = s.ses := by
  obtain ⟨f, h⟩ := sendMirror_frame s n c b; rw [h]
theorem mir_sendMirror (s : State) (n c : Nat) (b : List Byte) : (sendMirror s n c b).mir = s.mir := by
  obtain ⟨f, h⟩ := sendMirror_frame s n c b; rw [h]
theorem sesFresh_initial (s : State) (n : Nat) : ∀ i ∈ (sesFresh s n).mir.initial, i.1 ≠ n := by
  intro i hi
  have := (List.mem_filter.1 hi).2
  simpa using this
theorem sesRefuse_rf (s : State) (n bit : Nat) : ∃ rf, sesRefuse s n bit = { s with rf := rf } := ⟨_, rfl⟩
theorem sesRefuse_spec (s : State) (n bit : Nat) (h : bit < 64) : flagR (sesRefuse s n bit) (Reg.sesStatus (sesDie n)) bit = true
    ∧ getR (sesRefuse s n bit) (Reg.sesRefused (sesDie n)) = BitVec.ofNat 64 (n % 32768) ∧ sesRefuse s n bit = { s with rf := (sesRefuse s n bit).rf } := by
  refine ⟨?_, getR_setR _ _ _, by obtain ⟨rf, h⟩ := sesRefuse_rf s n bit; rw [h]⟩
  have : (Reg.sesStatus (sesDie n)).addr ≠ (Reg.sesRefused (sesDie n)).addr := by
    generalize sesDie n = d; revert d; decide
  unfold flagR sesRefuse
  rw [getR_setR_ne _ _ this]
  exact flagR_raise s _ h
theorem getSlot_forgetJobs (te : TeId) (l : List SlotId) (s : State) (c : CtxId) :
    getSlot (l.foldl (forgetJob te) s) c = if c.te = te ∧ c.slot ∈ l then { getSlot s c with lastJob := 0xFFFF } else getSlot s c := by
  induction l generalizing s with
  | nil => simp
  | cons k l ih =>
    rw [List.foldl_cons, ih, forgetJob]
    simp only [getSlot_setSlot]
    by_cases h : c = ⟨te, k⟩
    · subst h
      simp
    · by_cases h1 : c.te = te
      · have h2 : c.slot ≠ k := fun hk => h (by cases c; simp_all)
        simp [h, h1, h2]
      · simp [h, h1]
theorem forgetJobs_only (te : TeId) (l : List SlotId) (s : State) : l.foldl (forgetJob te) s = { s with eng := { s.eng with slots := (l.foldl (forgetJob te) s).eng.slots } }
    ∧ (l.foldl (forgetJob te) s).eng.te = s.eng.te := by
  induction l generalizing s with
  | nil => exact ⟨rfl, rfl⟩
  | cons k l ih =>
    rw [List.foldl_cons]
    obtain ⟨h1, h2⟩ := ih (forgetJob te s k)
    refine ⟨?_, by rw [h2]; rfl⟩
    rw [h1]; rfl
theorem smGet_foldl_set {v : Nat} (p : Nat) (l : List Nat) (m : SMap Nat) (c : Nat) (hp : ∀ x ∈ l, x < 64) (hc : c < 64) :
    smGet 0 (l.foldl (fun m c => smSet 0 m (64 * p + c) v) m) (64 * p + c) = if c ∈ l then v else smGet 0 m (64 * p + c) := by
  induction l generalizing m with
  | nil => simp
  | cons k l ih =>
    rw [List.foldl_cons, ih _ (fun x hx => hp x (List.mem_cons_of_mem _ hx)), smGet_set]
    by_cases h : c = k
    · subst h; simp
    · have : 64 * p + c ≠ 64 * p + k := by omega
      simp [h, this]
theorem ptClusters_lt {e : BitVec 512} {c : Nat} (h : c ∈ ptClusters e) : c < 64 := by
  have := (List.mem_filter.1 h).1
  simpa using this
theorem startWipe_spec (s : State) (p : PartId) (e : BitVec 512) (l : List Nat) (hl : ∀ c ∈ l, c < 64) :
    (0 < ptUnits e → ∀ c < 64, smGet 0 (startWipe s p e l).partWipe (64 * p.val + c) = if c ∈ l then (cycleNow s + 64 * ptUnits e) * 65536 + ptBase e * 256 + ptUnits e else smGet 0 s.partWipe (64 * p.val + c))
      ∧ startWipe s p e l = { s with partWipe := (startWipe s p e l).partWipe } := by
  unfold startWipe
  by_cases h : ptUnits e = 0
  · rw [if_pos h]
    exact ⟨fun h2 => by omega, rfl⟩
  · rw [if_neg h]
    exact ⟨fun _ c hc => smGet_foldl_set _ _ _ _ hl hc, rfl⟩
theorem smGet_foldl_wipe (l : List (Nat × Nat)) (s : State) (a : Nat) :
    smGet 0 (l.foldl wipeWindow s).cl.store a = if ∃ e ∈ l, (wipeRange e).1 ≤ a ∧ a < (wipeRange e).2 then 0 else smGet 0 s.cl.store a := by
  induction l generalizing s with
  | nil => simp
  | cons e l ih =>
    rw [List.foldl_cons, ih, wipeWindow]
    simp only [smGet_clear, List.mem_cons, exists_eq_or_imp]
    by_cases h : ∃ e ∈ l, (wipeRange e).1 ≤ a ∧ a < (wipeRange e).2
    · simp [h]
    · simp [h]
theorem wipeWindow_only (l : List (Nat × Nat)) (s : State) : l.foldl wipeWindow s = { s with cl := { s.cl with store := (l.foldl wipeWindow s).cl.store, storeErr := (l.foldl wipeWindow s).cl.storeErr } } := by
  induction l generalizing s with
  | nil => rfl
  | cons e l ih =>
    rw [List.foldl_cons]
    conv => lhs; rw [ih]
    rfl
theorem getSlot_eng {x y : State} (h : x.eng.slots = y.eng.slots) (d : CtxId) : getSlot x d = getSlot y d := by simp only [getSlot, h]
theorem getTe_eng {x y : State} (h : x.eng.te = y.eng.te) (d : TeId) : getTe x d = getTe y d := by simp only [getTe, h]
theorem placeLaunch_spec (s : State) (te : TeId) (k : SlotId) (l : Launch) :
    ∃ z u, (∀ d, getSlot z d = getSlot s d) ∧ (∀ e, (getTe z e).queue = if e = l.home then (getTe s e).queue.erase l else (getTe s e).queue)
      ∧ z = { s with eng := { s.eng with te := z.eng.te }, err := { s.err with progress := z.err.progress } }
      ∧ u = setSlot z ⟨te, k⟩ { getSlot s ⟨te, k⟩ with
          occ := .wiping, ctx := some (newCtx l), queue := [], since := cycleNow s, progress := [], stalled := []
          wipeEnd := if decide ((getSlot s ⟨te, k⟩).lastJob ≠ l.job) = true then cycleNow s + 64 * tsUnits (getTe s te).slotcfg k.val else 0 }
      ∧ placeLaunch s te k l = if (getSlot s ⟨te, k⟩).lastJob = l.job then launchCheck u ⟨te, k⟩ else u := by
  unfold placeLaunch
  dsimp only
  generalize hy : setTe s l.home { getTe s l.home with queue := (getTe s l.home).queue.erase l, stolenFrom := if l.home = te then (getTe s l.home).stolenFrom else min 0xFFFF ((getTe s l.home).stolenFrom + 1) } = y
  have hcfg : (getTe y te).slotcfg = (getTe s te).slotcfg := by
    rw [← hy, getTe_setTe]; split
    · next h => rw [h]
    · rfl
  generalize hq : setTe y te { getTe y te with stolenBy := if l.home = te then (getTe y te).stolenBy else min 0xFFFF ((getTe y te).stolenBy + 1) } = z
  have hz1 : ∀ d, getSlot z d = getSlot s d := fun d => by rw [← hq, ← hy]; rfl
  have hz2 : ∀ e, (getTe z e).queue = if e = l.home then (getTe s e).queue.erase l else (getTe s e).queue := by
    intro e
    rw [← hq, ← hy]
    simp only [getTe_setTe]
    by_cases h1 : e = te <;> by_cases h2 : e = l.home <;> simp_all
  have hz3 : z = { s with eng := { s.eng with te := z.eng.te } } := by rw [← hq, ← hy]; rfl
  have hcyc : cycleNow (noteProgress z 2 (dieOf te).val) = cycleNow s := by rw [hz3]; rfl
  have hgs : getSlot (noteProgress z 2 (dieOf te).val) ⟨te, k⟩ = getSlot s ⟨te, k⟩ := hz1 _
  rw [hcfg, hcyc, hgs]
  refine ⟨noteProgress z 2 (dieOf te).val, _, hz1, hz2, ?_, rfl, ?_⟩
  · conv => lhs; rw [hz3]
    simp only [noteProgress]
    rw [hz3]
  · by_cases h : (getSlot s ⟨te, k⟩).lastJob = l.job
    · rw [if_neg (by simp [h] : ¬ (decide ((getSlot s ⟨te, k⟩).lastJob ≠ l.job) = true)), if_pos h]
    · rw [if_pos (by simp [h] : (decide ((getSlot s ⟨te, k⟩).lastJob ≠ l.job) = true)), if_neg h]
theorem foldGroups_eng (l : List GroupId) (te : TeId) (v : Group) (s : State) : ∃ g, l.foldl (fun s g => setGroup s te g v) s = { s with eng := { s.eng with groups := g } } := by
  induction l generalizing s with
  | nil => exact ⟨s.eng.groups, rfl⟩
  | cons k l ih =>
    rw [List.foldl_cons]
    obtain ⟨g, h⟩ := ih (setGroup s te k v)
    exact ⟨g, by rw [h]; rfl⟩
theorem shadowOpen_only (l : List GroupId) (te : TeId) (v : Group) (s : State) : ∃ g a, l.foldl (fun s g => setGroup (clearAcc s te g.val 1) te g v) s = { s with eng := { s.eng with groups := g, acc := a } } := by
  induction l generalizing s with
  | nil => exact ⟨s.eng.groups, s.eng.acc, rfl⟩
  | cons k l ih =>
    rw [List.foldl_cons]
    obtain ⟨g, a, h⟩ := ih (setGroup (clearAcc s te k.val 1) te k v)
    exact ⟨g, a, by rw [h]; rfl⟩
theorem sendFlush_only (s : State) : ∃ o f, sendFlush s = { s with orf := o, fab := f } := ⟨_, _, sendFlush_of rfl rfl⟩
theorem finishDesc_only (s : State) (a b c d e f : Nat) : ∃ o g, finishDesc s a b c d e f = { s with orf := o, fab := g } := ⟨_, _, finishDesc_of rfl rfl ..⟩
theorem finishLaunch_only (s : State) (l : Launch) (a b c d : Nat) : ∃ o g, finishLaunch s l a b c d = { s with orf := o, fab := g } := finishDesc_only _ _ _ _ _ _ _
theorem foldl_orf {α : Type} (f : State → α → State) (hf : ∀ s a, ∃ o g, f s a = { s with orf := o, fab := g }) (l : List α) (s : State) :
    ∃ o g, l.foldl f s = { s with orf := o, fab := g } := by
  induction l generalizing s with
  | nil => exact ⟨_, _, rfl⟩
  | cons a l ih =>
    rw [List.foldl_cons]
    obtain ⟨o, g, h⟩ := hf s a
    obtain ⟨o', g', h'⟩ := ih (f s a)
    exact ⟨o', g', by rw [h', h]⟩
theorem refuseAffinity_only (s : State) (te : TeId) : ∃ o g, refuseAffinity s te
    = { setTe s te { getTe s te with queue := (getTe s te).queue.filter fun l => !l.affinity } with orf := o, fab := g } := by
  unfold refuseAffinity
  exact foldl_orf _ (fun s l => finishLaunch_only s l _ _ _ _) _ _
theorem newAllowances_spec (l : List TeId) (s : State) : (∀ u, getTe (l.foldl newAllowanceOf s) u = if u ∈ l then { getTe s u with patrolUsed := 0 } else getTe s u)
    ∧ l.foldl newAllowanceOf s = { s with eng := { s.eng with te := (l.foldl newAllowanceOf s).eng.te } } := by
  induction l generalizing s with
  | nil => exact ⟨fun u => by simp, rfl⟩
  | cons k l ih =>
    rw [List.foldl_cons]
    obtain ⟨a, b⟩ := ih (newAllowanceOf s k)
    refine ⟨fun u => ?_, ?_⟩
    · rw [a, newAllowanceOf, getTe_setTe]
      by_cases h : u = k
      · subst h; simp
      · simp [h]
    · conv => lhs; rw [b]
      rfl
theorem svcCheck_spec (s : State) (te : TeId) : (∀ u, getTe (svcCheck s te) u = if u = te ∧ (getTe s te).svc = .draining ∧ slotsEmpty s te = true then { getTe s te with svc := .out } else getTe s u)
    ∧ svcCheck s te = { s with eng := { s.eng with te := (svcCheck s te).eng.te } } := by
  unfold svcCheck
  dsimp only
  by_cases h : (getTe s te).svc = .draining ∧ slotsEmpty s te = true
  · rw [if_pos h]
    refine ⟨fun u => ?_, rfl⟩
    rw [getTe_setTe]
    by_cases hu : u = te <;> simp [hu, h]
  · rw [if_neg h]
    refine ⟨fun u => ?_, rfl⟩
    rw [if_neg (fun hh => h hh.2)]
/-! ### Links, coherence, the companion and start-up -/

theorem releaseOwners_frame (s : State) (qs : List Queued) :
    ∃ sl ts st, releaseOwners s qs = { s with eng := { s.eng with slots := sl }, tallies := ts, stc := st } := by
  unfold releaseOwners
  induction qs generalizing s with
  | nil => exact ⟨s.eng.slots, s.tallies, s.stc, rfl⟩
  | cons q qs ih =>
    rw [List.foldl_cons]
    obtain ⟨sl, ts, st, h⟩ : ∃ sl ts st, releaseOwner s q = { s with eng := { s.eng with slots := sl }, tallies := ts, stc := st } := by
      unfold releaseOwner
      split
      · split
        · exact ⟨s.eng.slots, s.tallies, s.stc, rfl⟩
        · exact performOp_only _ _ _
      · exact ⟨s.eng.slots, s.tallies, s.stc, rfl⟩
    rw [h]
    obtain ⟨sl2, ts2, st2, h2⟩ := ih { s with eng := { s.eng with slots := sl }, tallies := ts, stc := st }
    rw [h2]
    exact ⟨sl2, ts2, st2, rfl⟩
theorem pruneQueue_sendQ (s : State) (l : Nat) :
    (getLink (pruneQueue s l) l).sendQ = (getLink s l).sendQ.filter fun q => !resultStray s q && !tokenLate s q := by
  unfold pruneQueue
  dsimp only
  obtain ⟨sl, ts, st, h⟩ := releaseOwners_frame (countR (setLink s l { getLink s l with sendQ := (getLink s l).sendQ.filter fun q => !resultStray s q && !tokenLate s q }) Reg.xfEvt 31 16 ((getLink s l).sendQ.filter (resultStray s)).length) ((getLink s l).sendQ.filter (resultStray s))
  rw [h]
  have : ∀ v : Link, getLink (setLink s l v) l = v := fun v => by rw [getLink_setLink, if_pos rfl]
  exact congrArg Link.sendQ (this _)
theorem nextPacket_may {s : State} {l : Nat} {qs : List Queued} {q : Queued} (h : nextPacket s l qs = some q) : maySend s l q = true := by
  unfold nextPacket at h
  dsimp only at h
  split at h
  · rename_i z hz
    have := List.find?_some hz
    cases h
    simp only [Bool.and_eq_true] at this
    exact this.2
  · exact List.find?_some h
theorem foldl_kexSend (kind k : Nat) (b : List Byte) (l : List Nat) (s : State) :
    l.foldl (fun s n => kexSend s kind k n b) s = { s with fab := { s.fab with kexOut := s.fab.kexOut ++ l.map fun n => ⟨kind, k, n, kexBytes s kind k b⟩ } } := by
  induction l generalizing s with
  | nil => simp
  | cons n l ih =>
    rw [List.foldl_cons, ih]
    simp only [kexSend, kexBytes, List.map_cons, List.append_assoc, List.cons_append, List.nil_append]
theorem leaderDone_waits {s : State} {a : KeyAgree} (h : s.fab.agree = some a) (hw : a.leader = false ∨ ∃ n ∈ a.peers, n ∉ a.acks) : leaderDone s = s := by
  unfold leaderDone
  rw [h]
  dsimp only
  rw [if_pos]
  rcases hw with h | ⟨n, hn, hna⟩
  · simp [h]
  · simp only [Bool.or_eq_true, Bool.not_eq_true', List.any_eq_true]
    exact Or.inr ⟨n, hn, by simpa using hna⟩
theorem leaderDone_bind {s : State} {a : KeyAgree} (h : s.fab.agree = some a) (hl : a.leader = true) (hp : ∀ n ∈ a.peers, n ∈ a.acks) (hr : a.rotate = false) :
    leaderDone s = endAgree (setKey s a.slot { job := a.job, valid := true, key0 := a.key, has0 := true }) 0 0 := by
  unfold leaderDone
  rw [h]
  dsimp only
  rw [if_neg]
  · simp only [hr, Bool.false_eq_true, if_false, installKey, Bool.not_false, if_true]
  · simp only [hl, Bool.not_true, Bool.false_or, List.any_eq_true, not_exists, not_and]
    intro n hn
    simp [hp n hn]
theorem sendHello_leader (s : State) (a : KeyAgree) (hl : a.leader = true) (hr : a.rotate = false) (hh : a.helloSent = false) :
    ∃ b, sendHello (setAgree s (some a)) = setAgree s (some { a with helloSent := b }) := by
  unfold sendHello
  by_cases h : s.sec.aliasReady = true
  · refine ⟨true, ?_⟩
    simp only [setAgree, hh, h, hl, hr, Bool.not_true, Bool.or_false, Bool.false_eq_true, if_false, if_true]
  · refine ⟨false, ?_⟩
    have h' : s.sec.aliasReady = false := by simpa using h
    show (if (a.helloSent || !s.sec.aliasReady) = true then setAgree s (some a) else _) = _
    rw [if_pos (by rw [h']; simp), ← hh]
theorem doDone_none {s : State} {line a : Nat} (h : ∀ m ∈ s.coh.dones, ¬ (m.line = line ∧ m.agent = a)) : doDone s line a = s := by
  unfold doDone
  have : s.coh.dones.find? (fun m => decide (m.line = line ∧ m.agent = a)) = none := by
    rw [List.find?_eq_none]; intro m hm; simpa using h m hm
  rw [this]
theorem doProbe_spec {s u : State} {line a : Nat} {p : Probe} {x : Txn} {k d} (hx : (getHome s line).txn = some x) (hd : ∀ m ∈ s.coh.dones, ¬ (m.line = line ∧ m.agent = a))
    (h : answerProbe s a line p = (u, k, d)) : doProbe s line a p = setTxn u line (some { x with probes := x.probes.filter fun q => decide (q.agent ≠ a), acks := x.acks ++ [k], line := if d.isSome then d else x.line, lineDie := if d.isSome then agentDie a else x.lineDie, granted := if d.isSome then d.map (·.1) else x.granted }) := by
  unfold doProbe
  simp only [hx, doDone_none hd, h]
  cases d <;> rfl
theorem sendFlush_spec (s : State) : flushWanted s = true → s.orf.flushSent = none →
    (sendFlush s).orf.flushSent = some s.orf.bulkSent
      ∧ ((sendFlush s).orf.out = s.orf.out ++ [.bulkFlush] ∨ (sendFlush s).orf.out = s.orf.out ∧ (sendFlush s).orf.wait = s.orf.wait ++ [.bulkFlush])
      ∧ (∀ w ∈ (sendFlush s).orf.syncWaits, w.asked = true) ∧ sendFlush s = { s with orf := (sendFlush s).orf, fab := (sendFlush s).fab } := by
  intro h1 h2
  have key : ∀ z : State, z.orf.out = s.orf.out → z.orf.wait = s.orf.wait → z.orf.flushSent = some s.orf.bulkSent → (∀ w ∈ z.orf.syncWaits, w.asked = true) →
      (orfSend z .bulkFlush).orf.flushSent = some s.orf.bulkSent
        ∧ ((orfSend z .bulkFlush).orf.out = s.orf.out ++ [.bulkFlush] ∨ (orfSend z .bulkFlush).orf.out = s.orf.out ∧ (orfSend z .bulkFlush).orf.wait = s.orf.wait ++ [.bulkFlush])
        ∧ ∀ w ∈ (orfSend z .bulkFlush).orf.syncWaits, w.asked = true := by
    intro z ho hw hf hs
    unfold orfSend
    split
    · exact ⟨hf, Or.inl (by show z.orf.out ++ _ = _; rw [ho]), hs⟩
    · exact ⟨hf, Or.inr ⟨ho, by show z.orf.wait ++ _ = _; rw [hw]⟩, hs⟩
  refine ⟨?_, ?_, ?_, sendFlush_of rfl rfl⟩ <;> (unfold sendFlush; rw [if_neg (by simp [h1, h2])])
  · refine (key _ ?_ ?_ ?_ ?_).1 <;> first | rfl | simp
  · refine (key _ ?_ ?_ ?_ ?_).2.1 <;> first | rfl | simp
  · refine (key _ ?_ ?_ ?_ ?_).2.2 <;> first | rfl | simp
/-- A flush sent, or left to wait, changes Orfin's state and the link alone. -/
theorem sendFlush_links (s : State) : ∃ o ls wi, sendFlush s = { s with orf := o, fab := { s.fab with links := ls, wire := wi } } := by
  unfold sendFlush
  split
  · exact ⟨s.orf, s.fab.links, s.fab.wire, rfl⟩
  · obtain ⟨o, w, b, ls, wi, h⟩ := orfSend_only { s with orf := { s.orf with
      rings := s.orf.rings.map fun r => (r.1, { r.2 with fetched := r.2.fetched.map fun d => if d.done && dsOrder d.raw then { d with asked := true } else d })
      flushSent := some s.orf.bulkSent
      syncWaits := s.orf.syncWaits.map fun w : SyncWait => { w with asked := true } } } .bulkFlush
    exact ⟨_, _, _, h⟩
theorem getRing_orfSend (s : State) (r : Nat) (m : OrfMsg) : getRing (orfSend s m) r = getRing s r := by
  obtain ⟨o, w, b, ls, wi, h⟩ := orfSend_only s m; rw [h]; rfl
/-- The companion is asked for a line that its proxy does not hold, nor is writing back; an answer is acknowledged (R311, R345). -/
theorem proxyRead_asks {s : State} {a : Nat} (x : Option Line) (h : (getProxy s (a / 64)).st = .i) (hb : proxyBuf s (a / 64) = none) :
    proxyRead s a x = (if x.isSome then orfSend (orfSend s (.ask .peek (a / 64 * 64))) (.doneAck (a / 64 * 64)) else orfSend s (.ask .peek (a / 64 * 64)), some x) := by
  unfold proxyRead; rw [if_neg (by simp [h]), if_neg (by simp [hb])]
theorem setLinks_fold (f : State → Nat → Link) (l : List Nat) (s : State) :
    ∃ lk, l.foldl (fun s n => setLink s n (f s n)) s = { s with fab := { s.fab with links := lk } } := by
  induction l generalizing s with
  | nil => exact ⟨s.fab.links, rfl⟩
  | cons a l ih => obtain ⟨lk, h⟩ := ih (setLink s a (f s a)); exact ⟨lk, h⟩
theorem setLinks_phase (f : State → Nat → Link) (hf : ∀ s n, (f s n).phase = .up) (l : List Nat) (s : State) (m : Nat) :
    (getLink (l.foldl (fun s n => setLink s n (f s n)) s) m).phase = if m ∈ l then .up else (getLink s m).phase := by
  induction l generalizing s with
  | nil => simp
  | cons a l ih =>
    rw [List.foldl_cons, ih, getLink_setLink]
    by_cases h : m ∈ l
    · simp [h]
    · by_cases e : m = a
      · simp [e, hf]
      · simp [h, e]
theorem lowers_fold (p : StackId → Bool) (l : List StackId) (s : State) :
    ∃ rf, l.foldl (fun s (st : StackId) => if p st then s else lower s (Reg.stkCtrl st) 0) s = { s with rf := rf } := by
  induction l generalizing s with
  | nil => exact ⟨s.rf, rfl⟩
  | cons a l ih =>
    rw [List.foldl_cons]
    by_cases h : p a = true
    · rw [if_pos h]; exact ih s
    · rw [if_neg h]
      obtain ⟨rf, e⟩ := ih (lower s (Reg.stkCtrl a) 0)
      rw [e]; exact ⟨rf, rfl⟩
theorem extendFlags_keeps (t : Thimble) : (extendFlags t).cmd = t.cmd ∧ (extendFlags t).result = t.result ∧ (extendFlags t).sealBroken = t.sealBroken ∧ (extendFlags t).aliasReady = false := ⟨rfl, rfl, rfl, rfl⟩
theorem bootImages_eq (s : State) (a b : List Image) :
    (bootImages s a b).1 = { s with sec := (bootImages s a b).1.sec } ∧ (bootImages s a b).2 = (slotOk s.sec a || slotOk s.sec b) := by
  unfold bootImages
  by_cases h : slotOk s.sec a = true
  · simp only [h, if_true, Bool.true_or]; exact ⟨rfl, trivial⟩
  · by_cases g : slotOk s.sec b = true
    · simp only [h, g, if_true, if_false, Bool.or_true, Bool.false_eq_true]; exact ⟨rfl, trivial⟩
    · simp only [h, g, if_false, Bool.false_eq_true]
      exact ⟨rfl, rfl⟩
theorem takeWrites_none {s : State} {h : Nat} {f : Nat → Bool} (hf : ((getHart s h).regWrites.all fun w => !f w.1) = true) :
    takeWrites s h f = setHart s h (getHart s h) := by
  have h1 : (getHart s h).regWrites.filter (fun w => !f w.1) = (getHart s h).regWrites := by
    rw [List.filter_eq_self]; intro a ha; exact List.all_eq_true.mp hf a ha
  have h2 : (getHart s h).regWrites.filter (fun w => f w.1) = [] := by
    rw [List.filter_eq_nil_iff]; intro a ha; have := List.all_eq_true.mp hf a ha; simpa using this
  unfold takeWrites
  dsimp only
  rw [h1, h2]
  rfl
theorem hartWaits_waiting {s : State} {h : Nat} (hw : hartWaits s h = false) : (getHart s h).waiting = false := by
  unfold hartWaits at hw
  simp only [Bool.or_eq_false_iff] at hw
  exact hw.1.2
theorem readEffect_eq {s : State} {h : Option Nat} {p : Place} {r : Reg} (h1 : p.slot = 0x10 → 0x10000 ≤ p.off ∨ p.off % 64 ≠ 8) (h2 : p.slot = 0x0D → p.off < 0x40000 ∨ p.off % 256 ≠ 0x50) :
    readEffect s h p r = if r.rc = 0 then s else setR s r ((getR s r &&& ~~~r.rc) ||| (r.reset &&& r.rc)) := by
  unfold readEffect
  rw [if_neg (fun g => by have := h1 g.1; omega), if_neg (fun g => by have := h2 g.1; omega)]
theorem plainWrite_nil (s : State) (addr : Nat) (r : Reg) (v : W64) (h : r.rw ||| r.w1c ≠ 0) :
    plainWrite s addr r v [] = setR s r (((getR s r &&& ~~~r.rw) ||| (v &&& r.rw)) &&& ~~~(v &&& r.w1c)) := by
  unfold plainWrite
  simp only [List.foldl_nil, if_neg h, if_true]

end Sys2Proof.Machine
end

