-- ==== Sys2Proof/Tests/Slice0.lean ====
section
/-! SUPPORT. Tests: ill-formed commands are refused, and for the hypotheses of each statement a state and operands that meet them. -/

set_option Elab.async false

namespace Sys2Proof.Tests

open Sys2Proof Sys2Proof.Machine

/-! ### Well-formedness: each check refuses an ill-formed command -/

/-- A packet whose payload is not whole lines. -/
def ragged : XfPacket := { hdr := 0, payload := [1], tagOk := true }
/-- A packet of one line whose header names none. -/
def miscounted : XfPacket := { hdr := 0, payload := List.replicate 64 0, tagOk := true }
/-- A packet without payload. -/
def bare : XfPacket := { hdr := 0, payload := [], tagOk := true }
/-- An image of zeros. -/
def image : Image :=
  { signed := 0, advKey := [], advSig := [], ownSig := [], ownKey := [], body := [], advSigOk := true, ownSigOk := true }
/-- A start-up phase that reports five images for a slot. -/
def fiveImages : PhaseWork :=
  { pllOk := true, slotA := List.replicate 5 image, slotB := [], seamOk := true, stackMask := 0, packageMask := 0, hartsOk := true }

theorem test_tokenArrive_ragged : wellFormed (.tokenArrive 0 none ragged) = false := by decide
theorem test_resultArrive_miscounted : wellFormed (.resultArrive 0 none miscounted) = false := by decide
theorem test_credReceive_ragged : wellFormed (.credReceive (.xf 0) ragged) = false := by decide
theorem test_abortReceive_miscounted : wellFormed (.abortReceive 0 miscounted) = false := by decide
theorem test_mkvReceive_ragged : wellFormed (.mkvReceive 0 ragged) = false := by decide
theorem test_mentReceive_miscounted : wellFormed (.mentReceive 0 miscounted) = false := by decide
theorem test_mackReceive_ragged : wellFormed (.mackReceive 0 ragged) = false := by decide
theorem copyIn_too_long (l : List Line) (h : 16777215 < l.length) : wellFormed (.copyIn 0 l) = false := by
  simpa [wellFormed] using h
theorem test_copyIn_too_long : wellFormed (.copyIn 0 (List.replicate 16777216 0)) = false :=
  copyIn_too_long _ (by rw [List.length_replicate]; omega)
theorem test_startPhaseEnd_five_images : wellFormed (.startPhaseEnd fiveImages) = false := by decide
theorem test_bare_packet_is_well_formed : wellFormed (.tokenArrive 0 none bare) = true := by decide
theorem test_no_word_spells_a_command : Sys2Proof.decodeTableWord 64 1 = none := by decide

/-! ### Witnesses: the hypotheses of each statement are met together -/

/-- A slot of an engine. -/
def c0 : CtxId := ⟨0, 0⟩
/-- The launch of a small context. -/
def launch0 : Launch :=
  { job := 1, cid := 5, header := 0, args := 0, seg := 0, priority := 0, affinity := true, any := false, part := 0, home := 0, ring := 0, index := 0, tag := 0, age := 0 }
/-- A context at the first of eight instruction words. -/
def ctx0 : Ctx :=
  { launch := launch0, codeBase := 0, codeBytes := 64, shadow := false, liveBank := 0, pc := 0, lastPc := 0, firstIssue := none, hold := [], wait := 0, ops := [], opCount := 0
    stop := none, idle := 0, hangReported := false, ended := false, upset := 0 }
/-- The reset state with that context resident, and its slot otherwise as given. -/
def withSlot (v : Slot) : State := setSlot State.reset c0 { v with occ := .running, ctx := some ctx0 }
/-- The reset state with that context resident. -/
def st0 : State := withSlot {}
theorem ready0 : Ready st0 c0 ctx0 := ⟨by decide, by decide, by decide, by decide, by decide, by decide, by decide, by decide, by decide, by decide⟩

/-- The queue of StepRunsFront holds a command; the other clause has the reset state. -/
theorem witness_StepRunsFront : ({ State.reset with pending := [.railFail] } : State).pending = .railFail :: [] ∧ State.reset.pending = [] := by decide
/-- A latched package, in which no tray signal comes. -/
def latched0 : State := { State.reset with brd := { State.reset.brd with latched := true, gated := true, thermtripN := false } }
theorem witness_StoppedClocksFreeze : running latched0 = false ∧ stitchRuns latched0 = false ∧ (∀ ns, Instr.startPhaseTimeout ≠ .coolantStop ns)
    ∧ (∀ ns, Instr.startPhaseTimeout ≠ .sealBreak ns) ∧ Instr.startPhaseTimeout ≠ .resetNFall ∧ Instr.startPhaseTimeout ≠ .railFail := by
  refine ⟨by decide, by decide, ?_, ?_, ?_, ?_⟩ <;> intros <;> exact Instr.noConfusion
theorem witness_TripStaysLatched : Tripped latched0 ∧ step { latched0 with pending := [.pwrGoodRise] } = .next latched0 ∧ latched0.brd.pwrGood = true :=
  ⟨⟨by decide, by decide, by decide⟩, by rfl, by decide⟩
theorem witness_CoolantAndHeatTrip : (raise State.reset Reg.thmCtrl 0).brd.latched = false ∧ flagR (raise State.reset Reg.thmCtrl 0) Reg.thmCtrl 0 = true
    ∧ 2000 ≤ (2000#32).toNat ∧ running State.reset = true := by decide

/-- The reset state with a context as given resident. -/
def withCtx (x : Ctx) : State := setSlot State.reset c0 { occ := .running, ctx := some x }
/-- A tile move, and a copy, that have issued and wrote nothing yet. -/
def op0 (k : OpKind) : Op := { kind := k, tally := some 0, count := 1, reads := [], writes := [], seg := 0, number := 3, issuedAt := 0, loads := false }
/-- A live session of job 1 with FP8 elements, one layer and one head, no token stored, and a tree of one node. -/
def entry0 : BitVec 2048 := BitVec.ofNat 2048 (1 + 1 * 2 ^ 16 + 1 * 2 ^ 96 + 1 * 2 ^ 112 + 3 * 2 ^ 120 + 1 * 2 ^ 1024)
/-- Stack S0 online, and the first slab of the context's segment table in its cluster's translation cache. -/
def online (s : State) : State :=
  setClusterXlt (raise s (Reg.stkCtrl 0) 0) 0 [{ table := 0, index := 0, raw := 1 + (1#128 <<< 64), lower := [] }]
theorem ready1 : Ready (online st0) c0 ctx0 := ⟨by decide, by decide, by decide +kernel, by decide, by decide, by decide, by decide, by decide, by decide, by decide⟩
/-- A pair from its second part. -/
theorem pair {α β : Type} {x : α × β} {y : β} (h : x.2 = y) : x = (x.1, y) := by rw [← h]
/-- A read that succeeds. -/
theorem pairR {α β : Type} {x : State × (α ⊕ β)} (h : x.2.isRight = true) : ∃ u v, x = (u, .inr v) := by
  obtain ⟨u, b | v⟩ := x
  · exact absurd h (by simp)
  · exact ⟨u, v, rfl⟩
/-- S0 online, entry0 in session 0 with a block table of one entry at address 0, which names the block at address 0. -/
def withSession : State := setSes (putRaw (online st0) 0 1) 0 (entry0 + (1 <<< 192) + (1 <<< 288))
theorem ready2 : Ready withSession c0 ctx0 := ⟨by decide +kernel, by decide +kernel, by decide +kernel, by decide +kernel, by decide +kernel, by decide, by decide, by decide, by decide, by decide +kernel⟩

theorem witness_ScalarArithmetic : ∃ w u : W64, Ready st0 c0 ctx0
    ∧ Legal ctx0 w 0x08 false [rsv w 63 30] ∧ (bits w 29 24, (0 : W64)) ∈ scalarTable (sreg st0 c0 (bits w 18 14)) (sreg st0 c0 (bits w 23 19))
    ∧ Legal ctx0 u 0x09 false [rsv u 31 25] ∧ (bits u 24 19, BitVec.allOnes 64) ∈ scalarTable (sreg st0 c0 (bits u 18 14)) ((u.extractLsb' 32 32).signExtend 64) :=
  ⟨0xF000008, 0xFFFFFFFF00780009, ready0, by unfold Legal; decide⟩
theorem witness_ScalarConstants : ∃ w u : W64, Ready st0 c0 ctx0 ∧ Legal ctx0 w 0x0A true [rsv w 63 14]
    ∧ Legal ctx0 u 0x04 false [rsv u 63 22] ∧ bits u 21 14 = 9 ∧ (getTe st0 c0.te).current.code = 0 :=
  ⟨0x3F0A, 0x27E04, ready0, by unfold Legal; decide⟩
theorem witness_Branches : ∃ w u v : W64, Ready st0 c0 ctx0 ∧ Legal ctx0 w 0x01 false [rsv w 63 9]
    ∧ Legal ctx0 u 0x0C false [rsv u 31 22, (0x03, decide (bits u 11 9 = 0 ∧ bits u 21 12 ≠ 0)), (0x05, decide (bits u 34 32 ≠ 0))]
    ∧ (bits u 11 9, true) ∈ branchTable (sreg st0 c0 (bits u 16 12)) (sreg st0 c0 (bits u 21 17))
    ∧ Legal ctx0 v 0x0D false [rsv v 31 14, (0x05, decide (bits v 34 32 ≠ 0))] :=
  ⟨0x01, 0xFFFFFFF800000C0C, 0x80000020D, ready0, by unfold Legal; decide⟩
/-- The last eight bytes of the share. -/
theorem witness_ScalarLoadsAndStores : ∃ w u : W64, Ready st0 c0 ctx0 ∧ Legal ctx0 w 0x10 false [rsv w 31 22] ∧ 2 ^ bits w 20 19 = 8
    ∧ (sreg st0 c0 (bits w 18 14) + (w.extractLsb' 32 32).signExtend 64).toNat = 524280 ∧ inShare st0 c0 524280 8 = true ∧ mustWait st0 c0 [(524280, 524288)] [] = false
    ∧ (tsLoad st0 c0.te 524280 8).2 = .inr (List.replicate 8 0)
    ∧ Legal ctx0 u 0x11 false [rsv u 31 21] ∧ 2 ^ bits u 20 19 = 8 ∧ (sreg st0 c0 (bits u 18 14) + (u.extractLsb' 32 32).signExtend 64).toNat = 524280
    ∧ mustWait st0 c0 [] [(524280, 524288)] = false :=
  ⟨0x7FFF800180010, 0x7FFF800180011, ready0, by unfold Legal; decide +kernel⟩
theorem witness_ContextEnds : ∃ w u : W64, Ready st0 c0 ctx0 ∧ Legal ctx0 w 0x03 false [rsv w 63 25] ∧ slotOfJob st0 ctx0.launch.job = none
    ∧ Legal ctx0 u 0x02 false [rsv u 63 9] ∧ allDone st0 c0 = true :=
  ⟨0x1FFFE03, 0x02, ready0, by unfold Legal; decide +kernel⟩

/-- One FP32 element within the tile store. -/
theorem witness_TileMove : ∃ (w x : W64) (m : Move) (u v z : State) (src : List (List Nat × List Nat)) (sr : Option Nat),
    Ready st0 c0 ctx0 ∧ Legal ctx0 w 0x20 true (tmovCauses w x) ∧ m = moveOf st0 c0 w x ∧ moveShapeBad m = false
    ∧ spaceBounds st0 c0 ctx0.launch.job m.ssp (moveElems m ++ moveScales m) = none ∧ spaceBounds st0 c0 ctx0.launch.job m.dsp (moveDst m) = none
    ∧ m.sa % 64 = 0 ∧ m.da % 64 = 0 ∧ m.fs.isCw = false ∧ mustWait st0 c0 (moveReads m) (moveWrites m) = false ∧ bitAt w 28 = false
    ∧ moveSource st0 c0 ctx0.launch m = (u, .inr src) ∧ drawsFor u (bitAt w 27) (roundUp m.cols 32 * m.rows) = (sr, v)
    ∧ writeRuns v c0 ctx0.launch.seg ctx0.opCount m.dsp (moveOut m sr src) = (z, none) :=
  ⟨0x20020000120, 0, _, _, _, _, _, _, ready0, by unfold Legal; decide, rfl, by decide +kernel, by decide +kernel, by decide +kernel, by decide, by decide, by decide, by decide +kernel, by decide, rfl, rfl, rfl⟩
theorem witness_OperationsComplete :
    (∃ u, oldestOp (withCtx { ctx0 with ops := [op0 (.tmov true)] }) c0 (fun k => decide (k = .tmov true) || decide (k = .tmov false)) = some (op0 (.tmov true))
      ∧ drainWrites (moverMoved (withCtx { ctx0 with ops := [op0 (.tmov true)] }) c0 (.tmov true)) c0 3 = (u, []) ∧ handleKey 0 = some 0 ∧ tallyUp u (dieOf c0.te).val 0 = true)
    ∧ ∃ u, oldestOp (withCtx { ctx0 with ops := [op0 (.copy 1)] }) c0 dispatchKind = some (op0 (.copy 1))
      ∧ drainWrites (moverMoved (withCtx { ctx0 with ops := [op0 (.copy 1)] }) c0 (.copy 1)) c0 3 = (u, []) :=
  ⟨⟨_, by decide +kernel, rfl, by decide +kernel, by decide +kernel⟩, _, by decide +kernel, rfl⟩
/-- One row of 64 bytes at address 0. -/
theorem witness_GatherAndScatter : ∃ (w y : W64) (u v q z : State) (ix bs : List Byte) (rows : List (List Byte)),
    Ready (online st0) c0 ctx0 ∧ (∀ i : Fin 32, sreg (online st0) c0 i = 0) ∧ bits w 40 29 = 1 ∧ 64 * bits w 56 41 = 64 ∧ bitAt w 57 = false
    ∧ outOfShare (online st0) c0 [(0, 64), (0, 4)] = none ∧ bits w 28 24 = 0 ∧ tsLoad (online st0) c0.te 0 4 = (u, .inr ix)
    ∧ Legal ctx0 w 0x70 false [rsv w 63 58] ∧ mustWait (online st0) c0 [(0, 4)] [(0, 64)] = false
    ∧ readRuns u c0 ctx0.launch.seg (launchClass ctx0.launch) .memory [(0, 64)] = (v, .inr rows)
    ∧ Legal ctx0 y 0x71 false [rsv y 63 58] ∧ bits y 40 29 = 1 ∧ mustWait (online st0) c0 [(0, 64), (0, 4)] [] = false ∧ tsLoad u c0.te 0 64 = (q, .inr bs)
    ∧ ctxWrite q c0 ctx0.launch.seg ctx0.opCount [(0, bs)] = (z, none) := by
  refine ⟨0x20020000070, 0x20020000071, (tsLoad (online st0) c0.te 0 4).1, _, _, _, List.replicate 4 0, List.replicate 64 0, [List.replicate 64 0], ready1, by decide +kernel, by decide, by decide, by decide, by decide +kernel, by decide,
    pair (by decide +kernel), by unfold Legal; decide, by decide +kernel, pair ?_, by unfold Legal; decide, by decide, by decide +kernel, pair ?_, pair ?_⟩
  · decide +kernel
  · decide +kernel
  · decide +kernel
/-- The tree bias of a tree of one node. -/
theorem witness_KeyValueInstructions_tree : ∃ w : W64, Ready withSession c0 ctx0 ∧ (∀ i : Fin 32, sreg withSession c0 i = 0) ∧ sesElem (getSes withSession 0) = some 1
    ∧ kvCause withSession 0 0 ctx0.launch.job false = none ∧ treeValid (getSes withSession 0) = true ∧ bits w 40 37 = 8 ∧ bits w 36 29 = 1 ∧ bits w 28 9 = 0
    ∧ Legal ctx0 w 0x72 false [rsv w 63 41, (0x04, decide (bits w 40 37 = 3 ∨ 0xC ≤ bits w 40 37)), (0x05, decide (8 ≤ bits w 40 37) && (decide (bits w 23 19 ≠ 0) || decide (bits w 36 29 ≠ 1)))]
    ∧ mustWait withSession c0 [] [(0, gatherBytes 8 1 1 1)] = false ∧ outOfShare withSession c0 [(0, gatherBytes 8 1 1 1)] = none :=
  ⟨0x10020000072, ready2, by decide +kernel, by decide +kernel, by decide +kernel, by decide +kernel, by decide, by decide, by decide, by unfold Legal; decide, by decide +kernel, by decide +kernel⟩
/-- One block of a session that holds no token. -/
theorem witness_KeyValueInstructions_block : ∃ (w : W64) (u v z : State) (ws : List W64) (ks vs : List Byte),
    bits w 40 37 = 0 ∧ bits w 36 29 = 1 ∧ bits w 28 9 = 0
    ∧ Legal ctx0 w 0x72 false [rsv w 63 41, (0x04, decide (bits w 40 37 = 3 ∨ 0xC ≤ bits w 40 37)), (0x05, decide (8 ≤ bits w 40 37) && (decide (bits w 23 19 ≠ 0) || decide (bits w 36 29 ≠ 1)))]
    ∧ kvCause withSession 0 0 ctx0.launch.job true = none ∧ mustWait withSession c0 [] [(0, gatherBytes 0 1 1 1)] = false
    ∧ blockEntries withSession (dieOf c0.te) .p0 (getSes withSession 0) (gatherBlocks 0 1 (sesLen (getSes withSession 0))) = (u, .inr ws)
    ∧ blockCause (getSes withSession 0) 1 ws = none
    ∧ gatherHalf u c0 (getSes withSession 0) 1 0 0 0 1 false ws true = (v, .inr ks) ∧ gatherHalf v c0 (getSes withSession 0) 1 0 0 0 1 true ws false = (z, .inr vs) := by
  have h : ∃ v ks, gatherHalf (blockEntries withSession (dieOf c0.te) .p0 (getSes withSession 0) (gatherBlocks 0 1 (sesLen (getSes withSession 0)))).1 c0 (getSes withSession 0) 1 0 0 0 1 false [] true
      = (v, Sum.inr ks) := pairR (by decide +kernel)
  obtain ⟨v, ks, h⟩ := h
  exact ⟨0x20000072, _, v, v, [], ks, [], by decide, by decide, by decide, by unfold Legal; decide, by decide +kernel, by decide +kernel, pair (by decide +kernel), by decide +kernel, h, by simp [gatherHalf]⟩
/-- One token appended at position 0. -/
theorem witness_KeyValueInstructions_append : ∃ (w : W64) (u v : State) (ws : List W64) (bs : List Byte),
    Legal ctx0 w 0x73 false [rsv w 63 36] ∧ bits w 35 29 = 1 ∧ bits w 28 9 = 0 ∧ kvCause withSession 0 0 ctx0.launch.job true = none
    ∧ outOfShare withSession c0 [(0, 256)] = none ∧ mustWait withSession c0 [(0, 256)] [] = false
    ∧ blockEntries withSession (dieOf c0.te) .p1 (getSes withSession 0) [0] = (u, .inr ws) ∧ blockCause (getSes withSession 0) 1 ws = none
    ∧ sesLen (getSes withSession 0) ≤ 0 ∧ tsLoad u c0.te 0 256 = (v, .inr bs)
    ∧ (∀ p ∈ ((appendRuns (getSes withSession 0) 1 0 0 0 1 ws bs).map fun r => writePieces r.1 r.2).flatten, lineOk v (p.1 / 64) = true) :=
  ⟨0x20000073, _, _, [1], List.replicate 256 0, by unfold Legal; decide, by decide, by decide, by decide +kernel, by decide +kernel, by decide +kernel, pair (by decide +kernel), by decide +kernel, by decide +kernel, pair (by decide +kernel), by decide +kernel⟩

/-- An MMA of one FP32 product into group 0, and one of BF16 in a ring. -/
def mma0 : Mma :=
  { slot := 0, addr := 0, word := 0, ext := 0, g := 0, hint := 0, fa := 0, fb := 0, m := 1, n := 1, k := 1, aBase := 0, aPitch := 0, bBase := 0, bStride := 0, aScale := 0, ring := 0
    ready := 0, freed := 0, queuedAt := 0 }
def ringMma : Mma := { mma0 with fa := 1, fb := 1, ring := 1 }
/-- The array as it runs an MMA. -/
def run0 (m : Mma) : Running := { mma := m, form := .f128, passes := 1, loadNext := 0, loadStart := none, loaded := none, enterNext := 0, heldFrom := none }
/-- The engine whose array runs an MMA. -/
def running0 (r : Running) : State := setTe st0 0 { running := some r }
theorem witness_MatrixIssue : ∃ (w x : W64) (op : Mma), Ready (setGroup st0 0 0 { st := .opened }) c0 ctx0 ∧ Legal ctx0 w 0x30 true (mmaCauses w x ctx0)
    ∧ op = ⟨0, 0, w, x, 0, bits w 15 13, bits w 20 16, bits w 25 21, bits w 33 26, bits w 44 34, bits w 61 45, bits x 15 0,
      bits x 25 16, bits x 41 26, bits x 52 42, 0, bits x 59 58, 0, 0, 0, false, none, 0⟩
    ∧ op.m = 1 ∧ op.n = 1 ∧ op.k = 1 ∧ op.ring = 0 ∧ groupOf (setGroup st0 0 0 { st := .opened }) c0 (bits w 12 9) = some 0
    ∧ outOfShare (setGroup st0 0 0 { st := .opened }) c0 (aRanges op) = none ∧ (getGroup (setGroup st0 0 0 { st := .opened }) 0 0).st = .opened
    ∧ heldByPair (setGroup st0 0 0 { st := .opened }) 0 0 = false ∧ mustWait (setGroup st0 0 0 { st := .opened }) c0 (aRanges op ++ bSpans (setGroup st0 0 0 { st := .opened }) 0 op) [] = false :=
  ⟨0x200404000130, 0, _, ⟨by decide, by decide, by decide, by decide, by decide, by decide, by decide, by decide, by decide, by decide⟩, by unfold Legal; decide, rfl,
    by decide, by decide, by decide, by decide, by decide +kernel, by decide +kernel, by decide +kernel, by decide +kernel, by decide +kernel⟩
theorem witness_ArrayTakes : (running (withSlot { queue := [mma0] }) = true ∧ nextSlot (withSlot { queue := [mma0] }) 0 = some 0
      ∧ (∃ f, resolveForm (boundForm (withSlot { queue := [mma0] }) 0 mma0) mma0.hint (getTe (withSlot { queue := [mma0] }) 0).current 1 1 = some f
        ∧ outOfShare (withSlot { queue := [mma0] }) c0 (bRanges mma0 f) = none))
    ∧ nextSlot (withSlot { queue := [{ mma0 with m := 128, n := 1024 }] }) 0 = some 0
    ∧ resolveForm (boundForm (withSlot { queue := [{ mma0 with m := 128, n := 1024 }] }) 0 mma0) 0 .f128 128 1024 = none :=
  ⟨⟨by decide, by decide +kernel, .f128, by decide +kernel, by decide +kernel⟩, by decide +kernel, by decide +kernel⟩
theorem witness_ArrayReformsAndRings : ((getTe (running0 { run0 mma0 with form := .f256 }) 0).running = some { run0 mma0 with form := .f256 }
      ∧ (FoldForm.f256 : FoldForm) ≠ (getTe (running0 { run0 mma0 with form := .f256 }) 0).form ∧ (getTe (running0 { run0 mma0 with form := .f256 }) 0).flights = [])
    ∧ (getTe (running0 (run0 ringMma)) 0).form = .f128 ∧ rateOf (mmaFmts ringMma).1 (mmaFmts ringMma).2 ≠ .fp32 ∧ handleKey (ringMma.ready.truncate 32) = some 0
    ∧ (tally { running0 (run0 ringMma) with tallies := [(0, 1)] } 0 - (BitVec.ofNat 32 (bits ringMma.ready 63 32) + BitVec.ofNat 32 1)).toNat < 2 ^ 31 := by decide +kernel
theorem witness_WeightLoads : (getTe (running0 { run0 mma0 with loadStart := some 0 }) 0).running = some { run0 mma0 with loadStart := some 0 }
    ∧ ∃ u bs, tsLoad (progressed (advanceCycle (running0 { run0 mma0 with loadStart := some 0 }) (0 + loadCycles .f128 .fp32 .fp32)) c0 0 (0 + loadCycles .f128 .fp32 .fp32)) 0 (tileAt mma0 (passSeg .fp32 0))
      (tileElems .f128 .fp32 .fp32 + tileScales .f128 .fp32 .fp32) = (u, .inr bs) :=
  ⟨by decide +kernel, pairR (by decide +kernel)⟩
theorem witness_PassEnters : ∃ u rows, (getTe (running0 { run0 mma0 with loaded := some 0 }) 0).running = some { run0 mma0 with loaded := some 0 }
    ∧ scalingFirst (running0 { run0 mma0 with loaded := some 0 }) 0 mma0 = false ∧ (othersInProgress (running0 { run0 mma0 with loaded := some 0 }) 0 0).length < 2
    ∧ passRows (advanceCycle (running0 { run0 mma0 with loaded := some 0 }) 1) 0 mma0 .fp32 (passSeg .fp32 0 * passK .f128 .fp32) 1 [0] = (u, .inr rows)
    ∧ u.eng.groups = (running0 { run0 mma0 with loaded := some 0 }).eng.groups ∧ u.eng.te = (running0 { run0 mma0 with loaded := some 0 }).eng.te := by
  obtain ⟨u, rows, h⟩ : ∃ u rows, passRows (advanceCycle (running0 { run0 mma0 with loaded := some 0 }) 1) 0 mma0 .fp32 (passSeg .fp32 0 * passK .f128 .fp32) 1 [0] = (u, .inr rows) := pairR (by decide +kernel)
  have e : u = (passRows (advanceCycle (running0 { run0 mma0 with loaded := some 0 }) 1) 0 mma0 .fp32 (passSeg .fp32 0 * passK .f128 .fp32) 1 [0]).1 := by rw [h]
  exact ⟨u, rows, by decide +kernel, by decide +kernel, by decide +kernel, h, by rw [e]; decide +kernel, by rw [e]; decide +kernel⟩
/-- A pass that has landed one block value in the last element of its group. -/
def landed0 : State := setTe st0 0 { flights := [{ g := 0, slot := 0, landing := 7, m := 1, n := 1, adds := [(16383, [0x3F800000])] }] }
theorem witness_ResultsLand : running landed0 = true ∧ (getTe landed0 0).flights.filter (fun f => decide (f.g = 0)) ≠ [] ∧ (getTe landed0 0).running = none
    ∧ (getGroup landed0 0 0).comp = false ∧ (∀ f ∈ (getTe landed0 0).flights, ∀ a ∈ f.adds, a.1 < 16384) := by decide +kernel

/-- The context's engine with group 0 as given. -/
def withGroup (v : Group) : State := setGroup st0 0 0 v
theorem readyG (v : Group) : Ready (withGroup v) c0 ctx0 :=
  ⟨ready0.clocks, ready0.noReset, ready0.powered, ready0.resident, ready0.occupied, ready0.notStopped, ready0.notEnded, ready0.noHold, ready0.registers, ready0.cycle⟩
/-- A context whose share is two shadow banks. -/
def banks0 : Ctx := { ctx0 with shadow := true }
theorem readyB : Ready (withCtx banks0) c0 banks0 := ⟨by decide, by decide, by decide, by decide, by decide, by decide, by decide, by decide, by decide, by decide⟩
/-- An open group of one element, a group closed with its drain, and one with a scaling requested. -/
def small : Group := { st := .opened, form := some .f128, m := 1, n := 1 }
def drain0 : Drain := ⟨0, false, 0x39, 0, 0, 0, 0⟩
def scaling0 : Drain := ⟨0, true, 0x3B, 0, 0, 0, 0⟩
theorem witness_GroupsOpen : ∃ w u : W64, Ready st0 c0 ctx0 ∧ Legal ctx0 w 0x38 false [rsv w 63 14, (0x06, ctx0.shadow)] ∧ bitAt w 13 = true
    ∧ groupOf st0 c0 (bits w 12 9) = some 0 ∧ groupOf st0 c0 (bits w 12 9 + 1) = some 1 ∧ (∀ k ∈ [(0 : GroupId), 1], heldByPair st0 0 k = false ∧ (getGroup st0 0 k).st = .free)
    ∧ Legal ctx0 u 0x3C false [rsv u 63 13, (0x06, ctx0.shadow)] ∧ groupOf st0 c0 (bits u 12 9) = some 0 ∧ (getGroup (withGroup small) 0 0).st = .opened
    ∧ (getGroup (withGroup { small with st := .closed }) 0 0).st = .closed :=
  ⟨0x2038, 0x3C, ready0, by unfold Legal; decide +kernel⟩
theorem witness_GroupsClose_close : ∃ w x : W64, Ready (withGroup small) c0 ctx0 ∧ Legal ctx0 w 0x39 (closeExt w) (closeCauses w x false ctx0) ∧ groupOf (withGroup small) c0 (bits w 12 9) = some 0
    ∧ extentOf (withGroup small) c0 0 = (1, 1)
    ∧ outOfShare (withGroup small) c0 (drainReadsFrom (drainOf (withGroup small) c0 w x) 1 1 ++ drainWritesTo (drainOf (withGroup small) c0 w x) 1 1) = none
    ∧ closeAccepted (withGroup small) 0 0 = true ∧ closeMustWait (withGroup small) c0 (drainOf (withGroup small) c0 w x) 1 1 = false :=
  ⟨0x39, 0, readyG _, by unfold Legal; decide +kernel⟩
theorem witness_GroupsClose_scale : ∃ w : W64, Legal ctx0 w 0x3B false [rsv w 63 29, (0x06, ctx0.shadow)] ∧ groupOf (withGroup small) c0 (bits w 12 9) = some 0
    ∧ extentOf (withGroup small) c0 0 = (1, 1) ∧ extentOf (withGroup { st := .opened }) c0 0 = (0, 0) ∧ outOfShare (withGroup small) c0 (drainReadsFrom scaling0 1 1) = none
    ∧ heldByPair (withGroup small) 0 0 = false ∧ mustWait (withGroup small) c0 (drainReadsFrom scaling0 1 1) [] = false :=
  ⟨0x3B, by unfold Legal; decide +kernel⟩
theorem witness_GroupsClose_swap : ∃ w x : W64, Ready (withCtx banks0) c0 banks0 ∧ Legal banks0 w 0x3A (closeExt w) (closeCauses w x true banks0)
    ∧ (∃ g g', bankOf (withCtx banks0) c0 0 = some g ∧ bankOf (withCtx banks0) c0 1 = some g' ∧ g ≠ g' ∧ (getGroup (withCtx banks0) 0 g').st = .free)
    ∧ outOfShare (withCtx banks0) c0 (drainReadsFrom (drainOf (withCtx banks0) c0 w x) 0 0 ++ drainWritesTo (drainOf (withCtx banks0) c0 w x) 0 0) = none
    ∧ closeMustWait (withCtx banks0) c0 (drainOf (withCtx banks0) c0 w x) 0 0 = false :=
  ⟨0x3A, 0, readyB, by unfold Legal; decide, ⟨0, 1, by decide +kernel⟩, by decide +kernel, by decide +kernel⟩
theorem witness_DrainPath_scale : running (withGroup { small with reqs := [scaling0] }) = true ∧ canDrain (withGroup { small with reqs := [scaling0] }) 0 0 = some scaling0
    ∧ (getTe (withGroup { small with reqs := [scaling0] }) 0).drain = none ∧ firstReady (withGroup { small with reqs := [scaling0] }) 0 0 scaling0 = true
    ∧ tePowered (withGroup { small with reqs := [scaling0] }) 0 = true
    ∧ ∃ u bs, tsLoad (takePath (withGroup { small with reqs := [scaling0] }) 0 0 scaling0) 0 scaling0.factors (4 * 1) = (u, .inr bs) :=
  ⟨by decide, by decide +kernel, by decide +kernel, by decide +kernel, by decide +kernel, pairR (by decide +kernel)⟩
theorem witness_DrainPath_start : ∃ u, canDrain (withGroup { small with st := .closed, reqs := [drain0] }) 0 0 = some drain0
    ∧ (getTe (withGroup { small with st := .closed, reqs := [drain0] }) 0).drain = none ∧ firstReady (withGroup { small with st := .closed, reqs := [drain0] }) 0 0 drain0 = true
    ∧ drainLoads (takePath (withGroup { small with st := .closed, reqs := [drain0] }) 0 0 drain0) 0 (drainReadsFrom drain0 1 1) = (u, none)
    ∧ getGroup u 0 0 = { small with st := .closed, reqs := [drain0] } :=
  ⟨_, by decide +kernel, by decide +kernel, by decide +kernel, pair (by decide +kernel), by decide +kernel⟩
theorem witness_DrainPath_end : (getTe (setTe st0 0 { drain := some ⟨0, drain0, 0, 1, 1, []⟩ }) 0).drain = some ⟨0, drain0, 0, 1, 1, []⟩
    ∧ (getTe (setTe st0 0 { drain := some ⟨0, scaling0, 0, 1, 1, []⟩ }) 0).drain = some ⟨0, scaling0, 0, 1, 1, []⟩ := by decide

/-- One word for each line of Table 5-15 that the statement names, with the last register numbers and a mask of no lane. -/
theorem witness_VectorArithmetic : ∃ w1 w2 w3 w4 w5 w6 w7 : W64, Ready st0 c0 ctx0
    ∧ Legal ctx0 w1 0x40 false (valuCauses w1) ∧ bits w1 37 32 = 0x07 ∧ Legal ctx0 w2 0x40 false (valuCauses w2) ∧ bits w2 37 32 = 0x0B
    ∧ Legal ctx0 w3 0x40 false (valuCauses w3) ∧ bits w3 37 32 = 0x0C
    ∧ Legal ctx0 w4 0x40 false (valuCauses w4) ∧ bits w4 37 32 = 0x0D ∧ Fmt.ofCode (bits w4 46 42) = some .bf16
    ∧ Legal ctx0 w5 0x40 false (valuCauses w5) ∧ bits w5 37 32 = 0x0E ∧ Legal ctx0 w6 0x40 false (valuCauses w6) ∧ bits w6 37 32 = 0x0F
    ∧ Legal ctx0 w7 0x40 false (valuCauses w7) ∧ bits w7 37 32 = 0x13 :=
  ⟨0x7E007FE40, 0x38BE0FFC040, 0xCE0FFFE40, 0x840DE007FE40, 0xEE0003E40, 0xFE0F83E40, 0x3930001C040, ready0, by unfold Legal; decide⟩
theorem witness_VectorTables : (0x07, fun a _ _ => fneg a) ∈ laneTable ∧ (0x0B, fun a b => (dec32 a).isNan || (dec32 b).isNan) ∈ compareTable ∧ (0x13, fun a _ => !a) ∈ maskTable := by
  simp [laneTable, compareTable, maskTable]
theorem witness_VectorReductions : ∃ w1 w2 w3 w4 w5 w6 : W64, Ready st0 c0 ctx0
    ∧ Legal ctx0 w1 0x41 false [rsv w1 28 19, rsv w1 63 36] ∧ bits w1 35 32 = 4 ∧ (reduceLanes 4 (vreg st0 c0 0) (vmask st0 c0 (bits w1 31 29))).isSome = true
    ∧ Legal ctx0 w2 0x44 false [rsv w2 28 19, rsv w2 63 32, (0x04, bitAt w2 9)] ∧ Legal ctx0 w3 0x45 false [rsv w3 28 19, rsv w3 63 32]
    ∧ Legal ctx0 w4 0x46 false [rsv w4 28 25, rsv w4 63 32, (0x04, bitAt w4 14)]
    ∧ Legal ctx0 w5 0x48 false [rsv w5 28 19, rsv w5 63 34, (0x04, decide (bits w5 33 32 = 3))] ∧ bits w5 33 32 = 2
    ∧ Legal ctx0 w6 0x49 false [rsv w6 28 19, rsv w6 63 34, (0x04, decide (2 ≤ bits w6 33 32))] ∧ bits w6 33 32 = 1 :=
  ⟨0x400000041, 0x3C44, 0x3E45, 0x1003E46, 0x200003E48, 0x100003E49, ready0, by unfold Legal; decide +kernel⟩
/-- The first of 256 FP32 lanes, and 32 lanes of MXFP8 with a scale. -/
theorem witness_VectorLoadsAndStores : ∃ (w1 w2 w3 : W64) (u : State), Ready st0 c0 ctx0 ∧ (∀ i : Fin 32, sreg st0 c0 i = 0)
    ∧ bits w1 45 37 = 256 ∧ Fmt.ofCode (bits w1 36 32) = some .fp32 ∧ Legal ctx0 w1 0x42 false ([rsv w1 28 24, rsv w1 63 46] ++ vmemCauses w1)
    ∧ outOfShare st0 c0 (lanesSpan .fp32 0 ((List.range 256).filter fun i => (vmask st0 c0 0).getLsbD i)) = none
    ∧ mustWait st0 c0 (lanesSpan .fp32 0 ((List.range 256).filter fun i => (vmask st0 c0 0).getLsbD i)) [] = false
    ∧ tsLoadAll st0 c0.te (lanesSpan .fp32 0 ((List.range 256).filter fun i => (vmask st0 c0 0).getLsbD i)) = (u, none)
    ∧ bits w2 45 37 = 256 ∧ Legal ctx0 w2 0x43 false ([rsv w2 28 24, rsv w2 63 47] ++ vmemCauses w2 ++ fmtCauses (bits w2 36 32) (bitAt w2 46) ++ [(0x05, false)])
    ∧ mustWait st0 c0 [] (lanesSpan .fp32 0 ((List.range 256).filter fun i => (vmask st0 c0 0).getLsbD i)) = false
    ∧ bits w3 45 37 = 32 ∧ Fmt.ofCode (bits w3 36 32) = some .mx8e4
    ∧ Legal ctx0 w3 0x43 false ([rsv w3 28 24, rsv w3 63 47] ++ vmemCauses w3 ++ fmtCauses (bits w3 36 32) (bitAt w3 46) ++ [(0x05, true && decide (bits w3 31 29 ≠ 0))]) :=
  ⟨0x200000000042, 0x200000000043, 0x40800000043, _, ready0, by decide +kernel, by decide, by decide, by unfold Legal; decide, by decide +kernel, by decide +kernel, pair (by decide +kernel),
    by decide, by unfold Legal; decide, by decide +kernel, by decide, by decide, by unfold Legal; decide⟩

theorem witness_TallyInstructions : ∃ w u : W64, Ready st0 c0 ctx0 ∧ Legal ctx0 w 0x60 false [rsv w 63 19] ∧ Legal ctx0 u 0x61 false [rsv u 63 19] ∧ sreg st0 c0 (bits w 13 9) = 0
    ∧ handleKey ((0 : W64).truncate 32) = some 0 ∧ tallyUp st0 (dieOf c0.te).val ((0 : W64).truncate 32) = true ∧ (tally st0 0 - 0).toNat < 2 ^ 31
    ∧ ¬ (tally { st0 with tallies := [(0, 0x80000000)] } 0 - 0).toNat < 2 ^ 31
    ∧ getCtx (withCtx { ctx0 with hold := [.twait 0 5] }) c0 = some { ctx0 with hold := [.twait 0 5] }
    ∧ ({ ctx0 with ops := [op0 (.copy 1)] } : Ctx).ops = [op0 (.copy 1)] ∧ (op0 (.copy 1)).performed = false ∧ (op0 (.copy 1)).tally.isSome = true :=
  ⟨0x60, 0x61, ready0, by unfold Legal; decide +kernel⟩
theorem witness_Barriers : ∃ w u v : W64, Ready st0 c0 ctx0 ∧ (bits w 11 9, Scope.package) ∈ [(0, Scope.te), (1, Scope.cluster), (4, Scope.package)]
    ∧ Legal ctx0 w 0x62 false [rsv w 63 12] ∧ Legal ctx0 u 0x63 false [rsv u 63 12] ∧ Legal ctx0 v 0x64 false [rsv v 63 12] ∧ bits u 11 9 = 1 ∧ bits v 11 9 = 0
    ∧ performedAt st0 c0 .package none = true ∧ readsDone st0 c0 = true
    ∧ performedAt (withCtx { ctx0 with ops := [op0 (.copy 1)] }) c0 .package none = false :=
  ⟨0x862, 0x263, 0x64, ready0, by unfold Legal; decide +kernel⟩
theorem witness_AtomsAndZeroing_tally : ∃ w : W64, Ready st0 c0 ctx0 ∧ atomOp (bits w 31 29) = some .maxu
    ∧ Legal ctx0 w 0x65 false [rsv w 63 34, (0x03, decide (bits w 31 29 ≠ 4 ∧ bits w 28 24 ≠ 0)), (0x05, bitAt w 33 && bitAt w 32)]
    ∧ bitAt w 33 = true ∧ (∀ o ∈ ctx0.ops, o.tally = none) ∧ handleKey ((sreg st0 c0 (bits w 18 14)).truncate 32) = some 0 :=
  ⟨0x2C0000065, ready0, by unfold Legal; decide +kernel⟩
theorem witness_AtomsAndZeroing_memory : ∃ (w : W64) (u v z : State) (sa : Nat) (old : W64), Ready (online st0) c0 ctx0 ∧ atomOp (bits w 31 29) = some .add
    ∧ Legal ctx0 w 0x65 false [rsv w 63 34, (0x03, decide (bits w 31 29 ≠ 4 ∧ bits w 28 24 ≠ 0)), (0x05, bitAt w 33 && bitAt w 32)] ∧ bitAt w 33 = false ∧ bitAt w 32 = true
    ∧ translate (online st0) c0.te ctx0.launch.seg 0 = (u, .inr sa) ∧ drainWrites u c0 ctx0.opCount = (v, []) ∧ dieAtomic v (dieOf c0.te) sa .add true 0 0 = (z, .inr old) :=
  ⟨0x100000065, (translate (online st0) c0.te ctx0.launch.seg 0).1, (drainWrites (translate (online st0) c0.te ctx0.launch.seg 0).1 c0 ctx0.opCount).1, _, 0, 0, ready1, by decide, by unfold Legal; decide,
    by decide, by decide, pair (by decide +kernel), pair (by decide +kernel), pair (by decide +kernel)⟩
theorem witness_AtomsAndZeroing_zero : ∃ (w : W64) (u v z : State) (ls : List Nat), Legal ctx0 w 0x66 false [rsv w 63 22] ∧ bits w 21 14 = 1
    ∧ placeLines (online st0) c0 ctx0.launch.seg 0 1 = (u, .inr ls) ∧ drainWrites u c0 ctx0.opCount = (v, []) ∧ zeroLines v c0 ls = (z, none) :=
  ⟨0x4066, (placeLines (online st0) c0 ctx0.launch.seg 0 1).1, (drainWrites (placeLines (online st0) c0 ctx0.launch.seg 0 1).1 c0 ctx0.opCount).1, _, [0], by unfold Legal; decide, by decide,
    pair (by decide +kernel), pair (by decide +kernel), pair (by decide +kernel)⟩

/-- S0 online with an inbox table of one row at address 0 and a home table of one expert at 4,096, the dispatch engine of C0 enabled, job 1 with a cluster window, session 0 as given, and a descriptor in the tile store. -/
def withDesc (e : BitVec 2048) (desc : RDesc) : State :=
  tsWrite (setPart (setSes (raise (putRaw (putRaw (online st0) 0 ((1 <<< 64) + (1 <<< 80))) 4096 (1 <<< 40)) (Reg.dspCtrl 0) 0) 0 e) 0 (1 + (1 <<< 16) + (1 <<< 72))) 0 0 (bytesOf 64 desc.toNat)
def dispatch0 : RDesc := BitVec.ofNat 512 (1 + 2 ^ 8 + 2 ^ 16 + 2 ^ 24 + 4096 * 2 ^ 64 + 1024 * 2 ^ 128 + 2048 * 2 ^ 160 + 4096 * 2 ^ 192 + 3 * 2 ^ 280 + 2 ^ 304)
def return0 : RDesc := BitVec.ofNat 512 (2 + 2 ^ 8 + 1024 * 2 ^ 128)
def verify0 : RDesc := BitVec.ofNat 512 (3 + 1024 * 2 ^ 128 + 2048 * 2 ^ 160 + 4096 * 2 ^ 192)
def commit0 : RDesc := BitVec.ofNat 512 (4 + 2 ^ 64 + 4096 * 2 ^ 192)
/-- A mirrored session. -/
def mirrored0 : BitVec 2048 := entry0 + (1 <<< 8)
theorem routeReady (e : BitVec 2048) (desc : RDesc) (h : (e, desc) ∈ [(entry0, dispatch0), (entry0, return0), (entry0, verify0), (0, verify0), (entry0, commit0), (mirrored0, commit0), (0, commit0)]) :
    RouteReady (withDesc e desc) c0 ctx0 0x74 (tsLoad (withDesc e desc) 0 0 64).1 desc none := by
  simp only [List.mem_cons, Prod.mk.injEq, List.not_mem_nil, or_false] at h
  rcases h with ⟨rfl, rfl⟩ | ⟨rfl, rfl⟩ | ⟨rfl, rfl⟩ | ⟨rfl, rfl⟩ | ⟨rfl, rfl⟩ | ⟨rfl, rfl⟩ | ⟨rfl, rfl⟩ <;>
  exact
    { ready := ⟨by decide +kernel, by decide +kernel, by decide +kernel, by decide +kernel, by decide +kernel, by decide, by decide, by decide, by decide, by decide +kernel⟩
      legal := by unfold Legal; decide
      share := by decide +kernel, aligned := by decide +kernel, free := by decide +kernel
      line := ⟨_, pair (by exact (rfl : _ = Sum.inr _)), by decide +kernel⟩
      ranges := by decide +kernel, window := by decide +kernel, handle := by decide +kernel, accepted := by decide +kernel, enabled := by decide +kernel, clear := by decide +kernel, asks := by decide }
/-- A result that has none in its second part. -/
theorem pairN {α β : Type} {x : α × Option β} (h : x.2.isNone = true) : ∃ u, x = (u, none) := by
  obtain ⟨u, _ | b⟩ := x
  · exact ⟨u, rfl⟩
  · exact absurd h (by simp)
/-- A result that is there. -/
theorem pairS {α : Type} {x : Option α} (h : x.isSome = true) : x = some (x.get h) := (Option.some_get h).symm
/-- The route of dispatch0. -/
def route0 (u : State) : Route :=
  ⟨c0, 1, 5, 0, dispatch0, none, 0, u.stc.count.toNat, deadlineOf u 0, none, [], [], [], List.replicate (rdRows dispatch0 * rdK dispatch0) .unsent, none, false, (sreg (withDesc entry0 dispatch0) c0 (bits (0x74 : W64) 13 9)).toNat⟩
/-- The states in which the routes are handled. -/
def told (e : BitVec 2048) (desc : RDesc) : State := (tsLoad (withDesc e desc) 0 0 64).1
theorem witness_RouteInstructions_dispatch : RouteReady (withDesc entry0 dispatch0) c0 ctx0 0x74 (told entry0 dispatch0) dispatch0 none ∧ rdKind dispatch0 = 1
    ∧ taggedCount (told entry0 dispatch0) 0 < 1024
    ∧ ∃ v, openRoute (addOp (setRoutes (told entry0 dispatch0) 0 (getRoutes (told entry0 dispatch0) 0 ++ [route0 (told entry0 dispatch0)])) c0
      ⟨.route, none, 1, descReads dispatch0, descWrites dispatch0, 0, 0, (told entry0 dispatch0).now, true, false⟩) 0 (route0 (told entry0 dispatch0)) = (v, none) :=
  ⟨routeReady _ _ (by simp), by decide +kernel, by decide +kernel, pairN (by decide +kernel)⟩
theorem witness_RouteInstructions_return : ∃ (v y z sent : State) (e : BitVec 128) (hs : List (BitVec 512)) (bodies : List (List Byte)),
    RouteReady (withDesc entry0 return0) c0 ctx0 0x74 (told entry0 return0) return0 none ∧ rdKind return0 = 2
    ∧ inboxEntry (told entry0 return0) 0 0 = (v, .inr e) ∧ bits return0 41 30 + rdRows return0 ≤ inboxRows e
    ∧ inboxHeads v 0 e 0 [0] = (y, .inr hs) ∧ hs = [0] ∧ outOfShare y c0 [(1024, 1024)] = none ∧ mustWait y c0 [(1024, 1024)] [] = false
    ∧ readRuns y c0 0 .p1 .tile [(1024, 0)] = (z, .inr bodies)
    ∧ sendResults z 0 (some (c0, 0)) ((hs.zip bodies).map fun p =>
      (p.1, bytesOf 64 (resultHead z 0 p.1 0 0 (resLines .fp32 (bits p.1 222 208))).toNat ++ p.2)) = some sent := by
  have h : (inboxEntry (told entry0 return0) 0 0).2 = .inr ((1 <<< 64) + (1 <<< 80)) := by decide +kernel
  have g : (inboxHeads (inboxEntry (told entry0 return0) 0 0).1 0 ((1 <<< 64) + (1 <<< 80)) 0 [0]).2 = .inr [0] := by decide +kernel
  refine ⟨_, _, _, _, _, _, [[]], routeReady _ _ (by simp), by decide +kernel, pair h, by decide +kernel, pair g, rfl, by decide +kernel, by decide +kernel, pair (by decide +kernel), pairS (by decide +kernel)⟩
theorem witness_RouteInstructions_verify : ∃ (v y : State) (rec rec' : List Byte), RouteReady (withDesc entry0 verify0) c0 ctx0 0x74 (told entry0 verify0) verify0 none
    ∧ RouteReady (withDesc 0 verify0) c0 ctx0 0x74 (told 0 verify0) verify0 none ∧ rdKind verify0 = 3
    ∧ tsLoad (told entry0 verify0) 0 1024 512 = (v, .inr rec) ∧ sesCause v 0 ctx0.launch.job = none ∧ treeValid (getSes v 0) = true
    ∧ tsLoad (told 0 verify0) 0 1024 512 = (y, .inr rec') ∧ sesCause y 0 ctx0.launch.job = some 2 :=
  ⟨_, _, List.replicate 512 0, List.replicate 512 0, routeReady _ _ (by simp), routeReady _ _ (by simp), by decide +kernel, pair (by decide +kernel), by decide +kernel, by decide +kernel, pair (by decide +kernel), by decide +kernel⟩
/-- A session whose LEN is the one expected, a mirrored one, and one with another LEN. -/
theorem witness_CommitAdvances : RouteReady (withDesc entry0 commit0) c0 ctx0 0x74 (told entry0 commit0) commit0 none
    ∧ RouteReady (withDesc mirrored0 commit0) c0 ctx0 0x74 (told mirrored0 commit0) commit0 none ∧ rdKind commit0 = 4 ∧ sesCause (told entry0 commit0) 0 1 = none
    ∧ sesCause (told mirrored0 commit0) 0 1 = none ∧ sesLen entry0 = bits commit0 159 128 ∧ sesMirror entry0 = false ∧ sesMirror mirrored0 = true
    ∧ sesLen (entry0 + (1 <<< 32)) ≠ bits commit0 159 128 ∧ RouteReady (withDesc 0 commit0) c0 ctx0 0x74 (told 0 commit0) commit0 none ∧ sesCause (told 0 commit0) 0 1 = some 2 :=
  ⟨routeReady _ _ (by simp), routeReady _ _ (by simp), by decide +kernel, by decide +kernel, by decide +kernel, by decide +kernel, by decide +kernel, by decide +kernel, by decide +kernel, routeReady _ _ (by simp), by decide +kernel⟩

/-- That route, with a tag, one expert whose home is as given, and its pair as given. -/
def openR (h : BitVec 128) (p : Pair) (closed : Option Nat) : Route :=
  { route0 (told entry0 dispatch0) with tag := some 0, experts := [0], weights := [0], homes := [h], pairs := [p], closedAt := closed }
/-- The dispatch engine of C0 holds one route. -/
def holding (r : Route) : State := setRoutes (told entry0 dispatch0) 0 [r]
/-- The lines that fill the buffer of class 6 at a Seam link that is down. -/
def crowd (n : Nat) (s : State) : State := { s with fab := { s.fab with seam := List.replicate n ⟨6, 0, 1, ⟨0, [], true⟩, none⟩ } }
/-- A home at C1 of this node. -/
def home1 : BitVec 128 := BitVec.ofNat 128 (2 ^ 16)
/-- A home at node 5, which is absent. -/
def home5 : BitVec 128 := 5
theorem witness_DispatchEngines_assign : running (holding (route0 (told entry0 dispatch0))) = true
    ∧ (getRoutes (holding (route0 (told entry0 dispatch0))) 0).find? (fun r => r.tag.isNone) = some (route0 (told entry0 dispatch0))
    ∧ taggedCount (holding (route0 (told entry0 dispatch0))) 0 < 1024 ∧ bitAt (holding (route0 (told entry0 dispatch0))).brd.clockLost 0 = false
    ∧ ∃ u, openRoute (holding (route0 (told entry0 dispatch0))) 0 (route0 (told entry0 dispatch0)) = (u, none) :=
  ⟨by decide +kernel, by decide +kernel, by decide +kernel, by decide +kernel, pairN (by decide +kernel)⟩
/-- A queued DISPATCH that an abort has closed. -/
def shutR : Route := { route0 (told entry0 dispatch0) with closedAt := some 0, aborted := true }
theorem witness_DispatchEngines_shut : (getRoutes (holding shutR) 0).find? (fun r => r.tag.isNone) = some shutR
    ∧ ∃ u, combineRows { shutR with pairs := shutR.pairs.map fun _ => .zero, weights := [] } (List.range (rdRows shutR.desc)) (holding shutR) = (u, none) :=
  ⟨by decide +kernel, pairN (by decide +kernel)⟩
/-- The pair's home is absent; or it is C1 of this node, to which Seam has room for a TOKEN; or it has none. -/
theorem witness_DispatchEngines_send : (getRoutes (holding (openR home5 .unsent none)) 0).find? (fun r => decide (r.tag = some 0) && r.closedAt.isNone) = some (openR home5 .unsent none)
    ∧ (openR home5 .unsent none).pairs.findIdx? (fun p => decide (p = .unsent)) = some 0 ∧ (holding (openR home5 .unsent none)).now < (openR home5 .unsent none).deadline
    ∧ chooseHome (holding (openR home5 .unsent none)) 0 home5 0 = none ∧ chooseHome (holding (openR home1 .unsent none)) 0 home1 0 = some (0, 1, 0, false)
    ∧ (∃ u bs, tsLoad (holding (openR home1 .unsent none)) c0.te 4096 64 = (u, .inr bs))
    ∧ dispRoom (holding (openR home1 .unsent none)) 0 0 1 1 (List.replicate 128 0) = true
    ∧ dispRoom (crowd 512 (holding (openR home1 .unsent none))) 0 0 1 1 (List.replicate 128 0) = false :=
  ⟨by decide +kernel, by decide +kernel, by decide +kernel, by decide +kernel, by decide +kernel, pairR (by decide +kernel), by decide +kernel, by decide +kernel⟩
theorem witness_DispatchEngines_deadline : openR home1 .sent none ∈ getRoutes (holding (openR home1 .sent none)) 0 ∧ (openR home1 .sent none).closedAt = none
    ∧ (openR home1 .sent none).tag.isSome = true
    ∧ (∀ q ∈ getRoutes (holding (openR home1 .sent none)) 0, q.closedAt = none → q ≠ openR home1 .sent none → (openR home1 .sent none).deadline < q.deadline) := by decide +kernel
theorem witness_DispatchEngines_combine : ∃ u, (getRoutes (holding (openR home1 .result (some 0))) 0).find? (fun r => decide (r.tag = some 0)) = some (openR home1 .result (some 0))
    ∧ combineRows (openR home1 .result (some 0)) (List.range (rdRows dispatch0))
      (advanceTo (holding (openR home1 .result (some 0))) (0 + cycT (ceilDiv' (rdRows dispatch0 * (rdK dispatch0 + (if rdBaseEn dispatch0 then 1 else 0)) * rdRl dispatch0) 16 + 32))) = (u, none) := by
  have h : (combineRows (openR home1 .result (some 0)) (List.range (rdRows dispatch0))
      (advanceTo (holding (openR home1 .result (some 0))) (0 + cycT (ceilDiv' (rdRows dispatch0 * (rdK dispatch0 + (if rdBaseEn dispatch0 then 1 else 0)) * rdRl dispatch0) 16 + 32)))).2.isNone = true := by decide +kernel
  obtain ⟨u, e⟩ := pairN h
  exact ⟨u, by decide +kernel, e⟩

/-- A packet of another engine of this package: its inner header, and a line. -/
def packet0 (head : BitVec 512) : XfPacket := ⟨0, bytesOf 64 head.toNat ++ List.replicate 64 0, true⟩
/-- A TOKEN of a stitch, for row 0 of expert 0, from C0. -/
def token0 (stitch : Nat) : XfPacket := packet0 (mkPacket 1 0 0 0 0 1 stitch 0 0 0 0 0 0 0 3 1 1 0)
/-- A RESULT of stitch 0 for the pair of tag 0, with a status. -/
def result0 (status : Nat) : XfPacket := packet0 (mkPacket 2 0 0 0 0 1 0 0 0 0 status 0 0 0 0 1 1 0)
/-- The table entry of an inbox of job 1 with a bank of one row of one line, and a tally of the cluster. -/
def inbox0 : BitVec 128 := (1 <<< 48) + (1 <<< 64) + (1 <<< 80)
/-- A packet from this die's own engine is taken. -/
theorem accepted0 (s : State) (p : XfPacket) (h : (seamStop s (bits (innerHead p) 25 24) 0).isSome = false) : acceptDisp s 0 none p = (s, true) := by
  unfold acceptDisp; exact if_neg (by simp only [Fin.val_zero, h]; decide)
theorem witness_DispatchArrivals_token : (let s := putRaw (told entry0 dispatch0) 0 ((1 <<< 48) + (1 <<< 64) + (1 <<< 80))
    ∃ v, running s = true ∧ acceptDisp s 0 none (token0 0) = (s, true) ∧ bits (innerHead (token0 0)) 127 80 = s.stc.count.toNat
    ∧ inboxEntry s 0 0 = (v, .inr inbox0) ∧ tallyUp v 0 (BitVec.ofNat 32 (bits inbox0 127 96)) = true
    ∧ tokenStatus v 0 (innerHead (token0 0)) inbox0 0 0 = 0 ∧ handleKey (BitVec.ofNat 32 (bits inbox0 127 96)) = some 0
    ∧ tokenStatus { v with dsp := { v.dsp with fill := smSet 0 v.dsp.fill 0 1 } } 0 (innerHead (token0 0)) inbox0 0 0 = 0 + 1
    ∧ bits (innerHead (token0 7)) 127 80 ≠ s.stc.count.toNat ∧ bits (innerHead (token0 7)) 127 80 ≠ (s.stc.count.toNat + 2 ^ 48 - 1) % 2 ^ 48
    ∧ bits (innerHead (token0 (2 ^ 48 - 1))) 127 80 = (s.stc.count.toNat + 2 ^ 48 - 1) % 2 ^ 48) := by
  have h : (inboxEntry (putRaw (told entry0 dispatch0) 0 ((1 <<< 48) + (1 <<< 64) + (1 <<< 80))) 0 0).2 = .inr inbox0 := by decide +kernel
  exact ⟨_, by decide +kernel, accepted0 _ _ (by decide +kernel), by decide +kernel, pair h, by decide +kernel, by decide +kernel, by decide +kernel, by decide +kernel, by decide +kernel, by decide +kernel, by decide +kernel⟩
/-- The pair is sent; the route is closed; and no route has the tag. -/
theorem witness_DispatchArrivals_result : (getRoutes (holding (openR home1 .sent none)) 0).find? (fun r => decide (r.tag = some (bits (innerHead (result0 0)) 183 168))) = some (openR home1 .sent none)
    ∧ resultFits (openR home1 .sent none) (innerHead (result0 0)) = true ∧ resultFits (openR home1 .sent none) (innerHead (result0 2)) = true
    ∧ bits (innerHead (result0 0)) 167 164 = 0 ∧ bits (innerHead (result0 2)) 167 164 ≠ 0
    ∧ bits (innerHead (result0 0)) 127 80 = (openR home1 .sent (some 0)).stitch ∧ (openR home1 .sent (some 0)).closedAt.isSome = true
    ∧ (getRoutes (told entry0 dispatch0) 0).find? (fun r => decide (r.tag = some (bits (innerHead (result0 0)) 183 168))) = none
    ∧ (acceptDisp (holding (openR home1 .sent none)) 0 none (result0 0)).2 = true := by decide +kernel
/-- Every Seam link is up. -/
def linked (s : State) : State := { s with fab := { s.fab with links := (List.range 7).map fun l => (l, { phase := .up }) } }
/-- S0 online with session 0 as given, its one block at address 0, every Seam link up, and mirror port 0 up, keyed and enabled. -/
def mirrorAt (e : BitVec 2048) : State :=
  setLink (linked (raise (setSes withSession 0 (e + (1 <<< 192) + (1 <<< 288))) Reg.mirCtrl 0)) 24 { phase := .up, keyValid := true }
/-- A request for the first row of session 0. -/
def mirReq0 : MirReq := ⟨0, 0, 0, 0, 1, 0⟩
/-- A packet of a mirror class from node 0, sequence number 1. -/
def mirPacket (cls : Nat) (body : List Byte) : XfPacket := ⟨mkHdr 0 0 cls false 255 0 1 0, body, true⟩
/-- Session 0 as the port finds it, and the state in which the request waits, or has been taken. -/
def mirEntry : BitVec 2048 := mirrored0 + (1 <<< 192) + (1 <<< 288)
def mirAsked (reqs : List MirReq) : State := { mirrorAt mirrored0 with mir := { State.reset.mir with reqs := reqs } }
/-- The read of the row. -/
def mirRead : State × (Bad ⊕ List Byte) :=
  collect (fun s (p : Nat × List Byte) => portRead s p.1 p.2.length) (appendRuns mirEntry 1 0 0 0 1 [1] (List.replicate 256 0)) (mirrorBlocks (mirAsked []) mirEntry 0 1).1
theorem witness_MirrorPorts_send : ∃ bs,
    mirrorServed (mirAsked [mirReq0]) = true ∧ (mirAsked [mirReq0]).mir.reqs.find? (fun q => !sesMirror (getSes (mirAsked [mirReq0]) q.session) || (mirrorPort (mirAsked [mirReq0]) (bits (getSes (mirAsked [mirReq0]) q.session) 687 672)).isSome) = some mirReq0
    ∧ getSes (mirAsked [mirReq0]) 0 = mirEntry ∧ sesMirror mirEntry = true ∧ sesElem mirEntry = some 1
    ∧ mirrorBlocks (mirAsked []) mirEntry 0 1 = ((mirrorBlocks (mirAsked []) mirEntry 0 1).1, .inr [1]) ∧ mirRead = (mirRead.1, .inr bs) ∧ mirrorPort mirRead.1 (bits mirEntry 687 672) = some 0 := by
  obtain ⟨v, bs, g⟩ := pairR (x := mirRead) (by decide +kernel)
  exact ⟨bs, by decide +kernel, by decide +kernel, by decide +kernel, by decide +kernel, by decide +kernel, pair (by decide +kernel), pair (by rw [g]), by decide +kernel⟩
/-- A session that STANDs BY. -/
def standby0 : BitVec 2048 := mirrored0 + 2
/-- MKV of the first row of session 0; and of a session outside the table. -/
def mkv0 : XfPacket := mirPacket 0 (bytesOf 64 (2 ^ 128) ++ List.replicate 256 0)
def mkv1 : XfPacket := mirPacket 0 (bytesOf 64 (65536 + 2 ^ 128) ++ List.replicate 256 0)
/-- The session as its port finds it, and the state in which its first row has been taken. -/
def standbyEntry : BitVec 2048 := standby0 + (1 <<< 192) + (1 <<< 288)
def mkvTaken : State := (acceptMirror (mirrorAt standby0) 0 0 mkv0).1
theorem witness_MirrorPorts_receive : acceptMirror (mirrorAt standby0) 0 0 mkv0 = (mkvTaken, true) ∧ leNat (mkv0.payload.take 64) % 2 ^ 32 = 0 ∧ getSes mkvTaken 0 = standbyEntry
    ∧ sesState standbyEntry = 3 ∧ sesElem standbyEntry = some 1 ∧ 0 < sesLayers standbyEntry ∧ 0 < sesHeads standbyEntry
    ∧ leNat (mkv0.payload.take 64) / 2 ^ 128 % 2 ^ 16 = 1 ∧ (mkv0.payload.drop 64).length = 2 * 1 * 128 * 1
    ∧ mirrorBlocks mkvTaken standbyEntry 0 1 = ((mirrorBlocks mkvTaken standbyEntry 0 1).1, .inr [1]) ∧ blockCause standbyEntry 1 [1] = none
    ∧ (∀ q ∈ ((appendRuns standbyEntry 1 0 0 0 1 [1] (mkv0.payload.drop 64)).map fun r => writePieces r.1 r.2).flatten, lineOk (mirrorBlocks mkvTaken standbyEntry 0 1).1 (q.1 / 64) = true)
    ∧ (∀ q ∈ ((appendRuns standbyEntry 1 0 0 0 1 [1] (mkv0.payload.drop 64)).map fun r => writePieces r.1 r.2).flatten, lineHeld (mirrorBlocks mkvTaken standbyEntry 0 1).1 87 (q.1 / 64) = false)
    ∧ (acceptMirror (mirrorAt standby0) 0 0 mkv1).2 = true ∧ 65536 ≤ leNat (mkv1.payload.take 64) % 2 ^ 32
    ∧ (acceptMirror (mirrorAt entry0) 0 0 mkv0).2 = true ∧ sesState (getSes (mirrorAt entry0) 0) ≠ 3 :=
  ⟨pair (by decide +kernel), by decide +kernel, by decide +kernel, by decide +kernel, by decide +kernel, by decide +kernel, by decide +kernel, by decide +kernel, by decide +kernel, pair (by decide +kernel),
    by decide +kernel, by decide +kernel, by decide +kernel, by decide +kernel, by decide +kernel, by decide +kernel, by decide +kernel⟩
/-- MENT for session 0, held here as STANDBY, or LIVE. -/
def ment0 : XfPacket := mirPacket 2 (List.replicate 64 0 ++ bytesOf 256 standby0.toNat)
theorem witness_MirrorPorts_entry : (acceptMirror (mirrorAt standby0) 0 2 ment0).2 = true ∧ leNat (ment0.payload.take 4) < 65536
    ∧ sesState (getSes (acceptMirror (mirrorAt standby0) 0 2 ment0).1 0) = 3 ∧ sesState (getSes (acceptMirror (mirrorAt entry0) 0 2 ment0).1 0) = 1 := by decide +kernel
/-- A commit that waits for its acknowledgement since the last boundary. -/
def wait0 : CommitWait := ⟨0, 9, c0, 3, 1024, 1, 0, true, 0, 0, 0, false⟩
def waiting0 : State := { mirrorAt mirrored0 with mir := { State.reset.mir with commits := [wait0] } }
def mack0 : XfPacket := mirPacket 3 (bytesOf 4 0 ++ bytesOf 4 9)
theorem witness_MirrorPorts_acknowledged : (acceptMirror waiting0 0 3 mack0).2 = true ∧ leNat ((mack0.payload.drop 4).take 4) = 9
    ∧ (acceptMirror waiting0 0 3 mack0).1.mir.commits.find? (fun w => decide (w.session = 0) && decide (w.seq.toNat = 9) && w.sent) = some wait0
    ∧ waiting0.mir.commits.find? (fun w => decide (w.session = 0) && decide (1 ≤ w.boundaries) && !w.failed) = some wait0 ∧ getCtx waiting0 c0 = some ctx0 ∧ running waiting0 = true := by decide +kernel
/-- A first copy whose acknowledgement has not come by a boundary. -/
def copy0 : FirstCopy := { session := 0, since := 0, boundaries := 1 }
theorem witness_MirrorPorts_first_copy : let s := { mirrorAt mirrored0 with mir := { State.reset.mir with initial := [copy0] } }
    s.mir.commits.find? (fun w => decide (w.session = 0) && decide (1 ≤ w.boundaries) && !w.failed) = none
    ∧ s.mir.initial.find? (fun i => decide (i.session = 0) && decide (1 ≤ i.boundaries)) = some copy0 ∧ running s = true := by decide +kernel
/-- A takeover set of `n` entries, all of job 1. -/
def takeover (n : Nat) : State := { State.reset with mir := { State.reset.mir with takeover := List.replicate n (1, 0) } }
theorem witness_MirrorPorts_takeover : running (takeover 1) = true ∧ (∃ j ∈ (takeover 1).mir.takeover, j.1 = (1 : W64).extractLsb' 0 16)
    ∧ (∀ j ∈ (takeover 1).mir.takeover, j.1 ≠ (2 : W64).extractLsb' 0 16) ∧ (takeover 1).mir.takeover.length < 8
    ∧ (∀ j ∈ (takeover 8).mir.takeover, j.1 ≠ (2 : W64).extractLsb' 0 16) ∧ 8 ≤ (takeover 8).mir.takeover.length := by decide +kernel

/-- XF enabled, with node 5 behind port 0, whose link is as given, the Seam links up, and key slot 0 of job 1, with node 5 in it. -/
def xf0 (k : Link) : State :=
  let s := setLink (linked (raise (raise State.reset Reg.xfCtrl 0) (Reg.xfRoute 5) 4)) 7 k
  { s with fab := { s.fab with slots := [(0, { job := 1, valid := true, has0 := true })], peers := [(0, 32)], used := [(5, 0x1ff)], owed := [(5, 0x10001)] } }
/-- A RESULT header without payload to node 5. -/
def queued0 : Queued := ⟨⟨mkHdr 5 0 0 false 0 0 0 0, [], true⟩, 5, 1, none⟩
/-- Its port: up, with a credit of each class, and that packet in its queue. -/
def port0 : Link := { phase := .up, sendQ := [queued0], credit := [(0, 4), (1, 4), (2, 4), (3, 1000)] }
/-- A message of Thimble for node 5. -/
def kex0 : KexOut := ⟨3, 0, 5, []⟩
/-- The credit of node 5 just covers the packet; what it is owed is more than one packet returns. -/
theorem witness_PacketsAndCredits_send : running (xf0 port0) = true ∧ (pruneQueue (xf0 port0) 7).fab.kexOut.find? (kexMay (pruneQueue (xf0 port0) 7) 7) = none
    ∧ nextPacket (pruneQueue (xf0 port0) 7) 7 (getLink (pruneQueue (xf0 port0) 7) 7).sendQ = some queued0
    ∧ slotOfJob (pruneQueue (xf0 port0) 7) queued0.job = some 0 ∧ queued0.owner = none ∧ charge queued0.packet.payload.length = creditOf (xf0 port0) 5 := by decide +kernel
theorem witness_PacketsAndCredits_message : (let s := { xf0 port0 with fab := { (xf0 port0).fab with kexOut := [kex0] } }
    running s = true ∧ (pruneQueue s 7).fab.kexOut.find? (kexMay (pruneQueue s 7) 7) = some kex0) := by decide +kernel
theorem witness_PacketsAndCredits_credit : smGet 0 (xf0 port0).fab.owed (5 : BitVec 11).toNat ≠ 0 ∧ unreachable (xf0 port0) (5 : BitVec 11).toNat = false ∧ (5 : BitVec 11).toNat ≠ myNode (xf0 port0)
    ∧ ((xf0 port0).fab.slots.find? fun e => decide (e.1 < 255) && e.2.valid && bitAt (smGet 0 (xf0 port0).fab.peers e.1) (5 : BitVec 11).toNat) = some (0, { job := 1, valid := true, has0 := true })
    ∧ routeUp (xf0 port0) 4 (linkDie (routePort (xf0 port0) 5)) = true ∧ packetMay (xf0 port0) (routePort (xf0 port0) 5) ⟨mkHdr 5 (myNode (xf0 port0)) 1 false 0 0 0 0, [], true⟩ = true := by decide +kernel
/-- A CRED from node 5; and an ABORT of job 2. -/
def cred0 : XfPacket := ⟨mkHdr 0 5 1 false 0 2 1 0, [], true⟩
def abort0 : XfPacket := ⟨mkHdr 0 5 2 false 0 0 1 1, bytesOf 64 (2 + 5 * 2 ^ 16 + 9 * 2 ^ 32), true⟩
theorem witness_PacketsAndCredits_receive : linkUp (xf0 port0) (LinkId.xf 0).num = true ∧ hdrClass cred0.hdr = 1 ∧ hdrDst cred0.hdr = myNode (xf0 port0)
    ∧ packetCause (heardPacket (xf0 port0) (LinkId.xf 0).num 1 cred0.payload.length) cred0 none = none := by decide +kernel
/-- An abort that has not been seen, and one that has. -/
theorem witness_PacketsAndCredits_abort : (let s := { xf0 port0 with fab := { (xf0 port0).fab with seen := [(5, 9)] } }
    hdrClass abort0.hdr = 2 ∧ (acceptXf (xf0 port0) 0 abort0 none true).2 = true ∧ (5, 9) ∉ (acceptXf (xf0 port0) 0 abort0 none true).1.fab.seen
    ∧ slotOfJob (acceptXf (xf0 port0) 0 abort0 none true).1 (BitVec.ofNat 16 (leNat abort0.payload)) = none
    ∧ leNat abort0.payload / 2 ^ 16 % 2 ^ 16 = 5 ∧ leNat abort0.payload / 2 ^ 32 % 2 ^ 32 = 9
    ∧ (acceptXf s 0 abort0 none true).2 = true ∧ (5, 9) ∈ (acceptXf s 0 abort0 none true).1.fab.seen) := by decide +kernel
/-- A link is as given, and every other at its reset value. -/
def linkAt (l : Nat) (k : Link) : State := setLink State.reset l k
/-- A control flit with a SEQ, which acknowledges the one before it, and wishes a replay. -/
def flit0 (seq : BitVec 12) : Flit := { seq := seq, ack := seq - 1, nak := true, kind := 2, credits := 3, body := List.replicate 240 0 }
/-- A flit that is not one, the next of its sequence, and one out of it. -/
theorem witness_LinkEvents_bad_flit : readFlit 23 [] = none ∧ readFlit 0 [] = none := by decide +kernel
theorem witness_LinkEvents_next_flit : (readFlit 23 (flitBytes 23 (flit0 0))).map (·.seq) = some ((getLink (linkAt 23 { phase := .up }) 23).got + 1) := by decide +kernel
theorem witness_LinkEvents_other_flit : (readFlit 23 (flitBytes 23 (flit0 5))).map (·.seq) = some 5 ∧ 5 ≠ (getLink (linkAt 23 { phase := .up }) 23).got + 1 := by decide +kernel
/-- A link that is up may hear bad flits of both kinds, replay, be trained again and time out; one that trains, on its first or its third failure, takes each end of a training; one that has sent VERSION takes a VERSION, and one that has sent READY takes READY. -/
theorem witness_LinkEvents : running (linkAt 0 { phase := .up, nak := true, replays := 15 }) = true
    ∧ getLink (linkAt 0 { phase := .up, nak := true, replays := 15 }) (LinkId.seam 0).num = { phase := .up, nak := true, replays := 15 }
    ∧ getLink (linkAt 7 { phase := .up, replays := 14 }) (LinkId.xf 0).num = { phase := .up, replays := 14 }
    ∧ getLink (linkAt 0 { phase := .training, failedRetrains := 2 }) (LinkId.seam 0).num = { phase := .training, failedRetrains := 2 } ∧ (32 : Byte).toNat ≤ spareLimit (LinkId.seam 0).num
    ∧ getLink (linkAt 0 { phase := .retraining, failedRetrains := 1 }) (LinkId.seam 0).num = { phase := .retraining, failedRetrains := 1 }
    ∧ getLink (linkAt 7 { phase := .retraining }) (LinkId.xf 0).num = { phase := .retraining } ∧ (1 : Byte).toNat ≤ spareLimit (LinkId.xf 0).num ∧ (0 : Byte).toNat ≤ spareLimit LinkId.orfin.num
    ∧ getLink (linkAt 24 { phase := .training, versionSent := true }) (LinkId.mirror 0).num = { phase := .training, versionSent := true }
    ∧ bits (0x40001 : W64) 19 16 = linkType (LinkId.mirror 0).num ∧ bits (0x40001 : W64) 7 0 = 1 ∧ bits (0x40002 : W64) 7 0 ≠ 1
    ∧ getLink (linkAt 7 { phase := .training, versionOk := true, readySent := true }) (LinkId.xf 0).num = { phase := .training, versionOk := true, readySent := true }
    ∧ getLink (linkAt 6 { phase := .training, versionOk := true, readySent := true }) (LinkId.seam 6).num = { phase := .training, versionOk := true, readySent := true }
    ∧ State.reset.stc.count ≠ 1 := by decide +kernel

/-- Thimble's alias key is ready; key slot 0 is as given, with the given nodes of it; this node is 4; XF port 0 is up. -/
def keyed (k : KeySlot) (peers : BitVec 2048) (a : Option KeyAgree) : State :=
  let s := setLink (raise State.reset Reg.xfNode 2) 7 { phase := .up }
  { s with fab := { s.fab with slots := [(0, k)], peers := [(0, peers)], agree := a }, sec := { s.sec with aliasReady := true } }
/-- A free slot for this node alone; a valid one; a free one whose leader is node 3; a valid one that this node leads. -/
theorem witness_KeyAgreement_bind : running (keyed {} 0 none) = true ∧ (keyed {} 0 none).fab.agree = none ∧ (getKey (keyed {} 0 none) 0).valid = false ∧ peersOf (keyed {} 0 none) 0 = []
    ∧ (getKey (keyed { valid := true } 0 none) 0).valid = true ∧ bits (0xFE : W64) 7 0 ≠ 255
    ∧ leaderOf (keyed {} 8 none) (peersOf (keyed {} 8 none) 0) ≠ myNode (keyed {} 8 none)
    ∧ leaderOf (keyed { valid := true } 32 none) (peersOf (keyed { valid := true } 32 none) 0) = myNode (keyed { valid := true } 32 none) ∧ peersOf (keyed { valid := true } 32 none) 0 ≠ [] := by decide +kernel
/-- An agreement for job 1 in slot 0, by its leader or another, with the HELLOs as given. -/
def agree0 (leader : Bool) (peers hellos : List Nat) : KeyAgree := ⟨0, 1, false, leader, peers, hellos, [], 0, 0, true, 0⟩
/-- A message from one node to another for job 1 in slot 0, whose signature holds or not. -/
def msg0 (src dst : W16) (good : Bool) : KexMsg := { port := 0, dst := dst, src := src, slot := 0, job := 1, sigOk := good, chainOk := true, digest := 0, stitch := 0, body := [] }
/-- A message for another node, and one for this; an agreement stands, and the message is of its slot and job. -/
theorem witness_KeyAgreement_messages : linkUp (keyed {} 32 (some (agree0 true [5] []))) (7 + (msg0 5 4 true).port.val) = true ∧ (msg0 5 4 true).dst.toNat = myNode (keyed {} 32 (some (agree0 true [5] [])))
    ∧ (msg0 5 6 true).dst.toNat ≠ myNode (keyed {} 32 (some (agree0 true [5] []))) ∧ (keyed {} 32 (some (agree0 true [5] []))).sec.aliasReady = true
    ∧ (keyed {} 32 (some (agree0 true [5] []))).fab.agree = some (agree0 true [5] []) ∧ (msg0 5 4 true).slot.toNat = (agree0 true [5] []).slot ∧ (msg0 5 4 true).job = (agree0 true [5] []).job
    ∧ (msg0 5 4 true).src.toNat ∈ (agree0 true [5] []).peers ∧ (msg0 5 4 true).src.toNat ∉ (agree0 true [5] []).hellos
    ∧ kexGood (keyed {} 32 (some (agree0 true [5] []))) (msg0 5 4 true) = true ∧ kexGood (keyed {} 32 (some (agree0 true [5] []))) (msg0 5 4 false) = false
    ∧ (agree0 false [3] []).helloSent = true ∧ (msg0 3 4 true).src.toNat = leaderOf (keyed {} 8 (some (agree0 false [3] []))) [3] ∧ kexGood (keyed {} 8 (some (agree0 false [3] []))) (msg0 3 4 true) = true
    ∧ (msg0 5 4 true).src.toNat ∈ (agree0 true [5, 6] [5]).hellos ∧ (msg0 5 4 true).src.toNat ∉ (agree0 true [5, 6] [5]).acks
    ∧ (∃ n ∈ (agree0 true [5, 6] [5]).peers, n ∉ (agree0 true [5, 6] [5]).acks ++ [(msg0 5 4 true).src.toNat])
    ∧ (∀ n ∈ (agree0 true [5] [5]).peers, n ∈ (agree0 true [5] [5]).acks ++ [(msg0 5 4 true).src.toNat]) := by decide +kernel
/-- A message that comes before the alias certificate is ready. -/
theorem witness_KeyAgreement_early : (let s := { keyed {} 32 none with sec := { (keyed {} 32 none).sec with aliasReady := false } }
    running s = true ∧ linkUp s 7 = true ∧ (msg0 5 4 true).dst.toNat = myNode s ∧ s.sec.aliasReady = false) := by decide +kernel
theorem witness_KeyAgreement_switch : (let k : KeySlot := { job := 1, valid := true, has0 := true, has1 := true }
    (msg0 3 4 true).dst.toNat = myNode (keyed k 8 none) ∧ (getKey (keyed k 8 none) 0).valid = true ∧ (if (getKey (keyed k 8 none) 0).epoch then (getKey (keyed k 8 none) 0).has0 else (getKey (keyed k 8 none) 0).has1) = true
    ∧ (msg0 3 4 true).src.toNat ∈ peersOf (keyed k 8 none) 0 ∧ (msg0 3 4 true).src.toNat = leaderOf (keyed k 8 none) (peersOf (keyed k 8 none) 0) ∧ kexGood (keyed k 8 none) (msg0 3 4 true) = true) := by decide +kernel
/-- Mirror port 0, whose partner is node 0, after its own message has gone, before and after the partner's has come. -/
theorem witness_KeyAgreement_port : (let s := fun b => setLink (keyed {} 0 none) 24 { phase := .up, helloSent := true, keyHello := b }
    fieldR (s true) (Reg.mirPort 0) 15 0 = (msg0 0 4 true).src.toNat ∧ linkUp (s true) 24 = true ∧ (getLink (s true) 24).keyValid = false ∧ (getLink (s true) 24).helloSent = true
    ∧ (s true).sec.aliasReady = true ∧ kexGood (s true) (msg0 0 4 true) = true ∧ (getLink (s true) 24).keyHello = true ∧ (getLink (s false) 24).keyHello = false) := by decide +kernel

/-- An entry that may become LIVE, in a state as given, mirrored or not. -/
def liveable (st : Nat) (m : Bool) : BitVec 2048 :=
  entry0 - 1 + BitVec.ofNat 2048 (st + (if m then 2 ^ 8 else 0) + 2 ^ 352 + 0x3F800000 * 2 ^ 320 + 0x3F800000 * 2 ^ 384)
/-- A session table of one entry. -/
def sesAt (e : BitVec 2048) : State := setSes State.reset 0 e
theorem witness_SessionTable : running (sesAt (liveable 0 false)) = true ∧ (∀ st ∈ [0, 1, 2, 3], sesState (getSes (sesAt (liveable st true)) 0) = st ∧ getSes (sesAt (liveable st false)) 0 = liveable st false)
    ∧ canLive (liveable 0 false) = true ∧ canLive (liveable 2 true) = true ∧ sesMirror (liveable 2 true) = true ∧ sesMirror (liveable 0 false) = false ∧ canLive (0 : BitVec 2048) = false
    ∧ bits (sesWord (liveable 1 false) 3) 31 0 ≤ bits (sesWord (liveable 1 false) 3 + 1) 31 0
    ∧ ((sesWord (liveable 1 false) 3 + 1) ^^^ sesWord (liveable 1 false) 3) &&& ~~~(liveMask 3 ||| roMask 3) = 0
    ∧ ((5 : W64) ^^^ sesWord (liveable 3 false) 1) &&& ~~~(roMask 1) ≠ 0 := by decide +kernel

/-- A partition of job 1: VALID, with a window of one unit in the clusters that a mask names. -/
def part0 (valid : Nat) (mask : Nat) : BitVec 512 := BitVec.ofNat 512 (valid + 2 ^ 16 + 2 ^ 72 + mask * 2 ^ 128)
def parts0 (e : BitVec 512) : State := setPart State.reset 0 e
/-- All slots are empty, with a share that fits and two that do not; one is held. -/
theorem witness_SharesAndPartitions_slots : slotsEmpty State.reset 0 = true ∧ ((List.range 4).map (tsUnits 0x0200)).sum ≤ 32 ∧ ((List.range 4).map (grpCount 0x0200)).sum ≤ 8
    ∧ 32 < ((List.range 4).map (tsUnits 0x0021)).sum ∧ 8 < ((List.range 4).map (grpCount 0x0240)).sum ∧ slotsEmpty st0 0 = false := by decide +kernel
/-- The entry opens, closes and takes another mask; in each way it may also be refused. -/
theorem witness_SharesAndPartitions_entry : getPart (parts0 (part0 0 1)) 0 = part0 0 1 ∧ ptValid (part0 0 1) = false ∧ ptValid (part0 1 1) = true
    ∧ setBits (part0 0 1) 63 0 (0x10001#64).toNat &&& ptMask = part0 1 1 ∧ setBits (part0 0 1) 191 128 (3#64).toNat &&& ptMask = part0 0 3
    ∧ ptMayOpen (parts0 (part0 0 1)) 0 (part0 1 1) = true ∧ 0 < ptUnits (part0 1 1) ∧ ptMayOpen (setPart (parts0 (part0 0 1)) 1 (part0 1 1)) 0 (part0 1 1) = false
    ∧ ptReserved (part0 0 3) = [] ∧ setBits (part0 0 1) 63 0 (0x10004#64).toNat &&& ptMask = part0 4 1 ∧ ptValid (part0 4 1) = false ∧ ptReserved (part0 4 1) ≠ []
    ∧ setBits (part0 1 1) 63 0 (0x10000#64).toNat &&& ptMask = part0 0 1 ∧ (∀ te ∈ allTes, jobOn (parts0 (part0 1 1)) 1 te = false) ∧ (∃ te ∈ allTes, jobOn (setPart st0 0 (part0 1 1)) 1 te = true)
    ∧ setBits (part0 1 1) 191 128 (0x13#64).toNat &&& ptMask = part0 1 0x13 ∧ setBits (part0 1 1) 383 128 0 = setBits (part0 1 0x13) 383 128 0
    ∧ ptMayMask (parts0 (part0 1 1)) 0 (part0 1 1) (part0 1 0x13) = true ∧ setBits (part0 1 1) 383 128 0 ≠ setBits (part0 1 1 + (1#512 <<< 72)) 383 128 0 := by decide +kernel

/-- A kernel header of one group and one unit whose code follows it. -/
def header0 : BitVec 512 := BitVec.ofNat 512 (0x4F565349 + 2 ^ 32 + 64 * 2 ^ 64 + 64 * 2 ^ 96 + 2 ^ 128 + 2 ^ 136)
/-- S0 online with that header at address 0, the first slot of engine 0 with one unit and one group, last used by a job as given, and launch0 in its queue. -/
def queued1 (last : W16) : State :=
  let s := putRaw (online (setSlot State.reset c0 { lastJob := last })) 0 header0
  setTe s 0 { getTe s 0 with slotcfg := 0x0041, queue := [launch0] }
theorem witness_LaunchesPlaced_place : running (queued1 7) = true ∧ unfitQueued (queued1 7) 0 = none ∧ unfitQueued (queued1 1) 0 = none ∧ takesLaunches (queued1 7) 0 = true ∧ launchFor (queued1 7) 0 = some launch0 ∧ fittingSlot (queued1 7) 0 launch0 = some 0
    ∧ launchFor (queued1 1) 0 = some launch0 ∧ fittingSlot (queued1 1) 0 launch0 = some 0 ∧ (getSlot (queued1 1) c0).lastJob = launch0.job ∧ (getSlot (queued1 7) c0).lastJob ≠ launch0.job := by decide +kernel
/-- No slot has a share, or the queued launch holds a double error. -/
theorem witness_LaunchesPlaced_unfit : (let s := setTe (queued1 7) 0 { getTe (queued1 7) 0 with slotcfg := 0 }
      running s = true ∧ takesLaunches s 0 = true ∧ unfitQueued s 0 = some (launch0, 0x06))
    ∧ (let l := { launch0 with upset := 2 }
      let s := setTe (queued1 7) 0 { getTe (queued1 7) 0 with queue := [l] }
      takesLaunches s 0 = true ∧ unfitQueued s 0 = some (l, 0x0F)) := by decide +kernel
/-- The slot that launch0 has been given, while it is wiped. -/
def wiping0 : State := setSlot (queued1 7) c0 { occ := .wiping, ctx := some (newCtx launch0), wipeEnd := 64, lastJob := 7 }
theorem witness_LaunchesPlaced_wipe : getCtx wiping0 c0 = some (newCtx launch0) ∧ (getSlot wiping0 c0).wipeEnd ≠ 0 ∧ wiping0.err.phase = 0 ∧ tePowered wiping0 0 = true
    ∧ headerHeld wiping0 0 launch0 = false ∧ (newCtx launch0).stop = none := by decide +kernel
theorem witness_LaunchesPlaced_check : readHeader wiping0 0 launch0 = ((readHeader wiping0 0 launch0).1, .inr header0) ∧ khBad launch0.header header0 = false
    ∧ khGroups header0 ≤ grpCount (getTe (readHeader wiping0 0 launch0).1 0).slotcfg 0 ∧ khUnits header0 ≤ tsUnits (getTe (readHeader wiping0 0 launch0).1 0).slotcfg 0 :=
  ⟨pair (by decide +kernel), by decide +kernel, by decide +kernel, by decide +kernel⟩

/-- Engine 0 in a service state. -/
def served (v : SvcState) : State := setTe State.reset 0 { getTe State.reset 0 with svc := v }
theorem witness_EngineService_orders : (∀ v ∈ [SvcState.inService, .draining, .patrol, .joining, .wiping, .out], running (served v) = true ∧ (getTe (served v) 0).svc = v ∧ (served v).err.phase = 0 ∧ tePowered (served v) 0 = true) := by decide +kernel
/-- The package in its eighth start-up phase, with a period of two patrol intervals. -/
def ready8 : State := { served .inService with boot := { State.reset.boot with phase := 8 }, stc := { State.reset.stc with period := 500000 } }
/-- A pass without a wrong signature, and a slice that is due; in the eighth start-up phase. -/
theorem witness_EngineService_patrol : (∀ x, (none : Option (Fin 192 × W64)) = some x → x.2 = Config.patrolSignature (192 * (0 : TeId).val + x.1.val))
    ∧ (∃ o, o = Config.patrolSignature (192 * (0 : TeId).val + (getTe State.reset 0).patrolSlice)) ∧ (∃ o, o ≠ Config.patrolSignature (192 * (0 : TeId).val + (getTe State.reset 0).patrolSlice))
    ∧ (let v := getTe ready8 0; let run := min (256 - v.patrolPart) (patrolMin ready8.stc.period + fieldR ready8 Reg.stcPatrol 23 0 - v.patrolUsed); v.mustExercise = false ∧ run = 256)
    ∧ (let s := setTe ready8 0 { getTe ready8 0 with patrolUsed := patrolMin ready8.stc.period - 94 }
      min (256 - (getTe s 0).patrolPart) (patrolMin s.stc.period + fieldR s Reg.stcPatrol 23 0 - (getTe s 0).patrolUsed) = 94)
    ∧ ready8.boot.phase = 8 ∧ (getTe ready8 0).svc = .inService ∧ (getTe ready8 0).running = none ∧ (getTe ready8 0).flights = []
    ∧ ready8.stc.patrolIntervals + 1 < patrolParts ready8.stc.period :=
  ⟨by simp, ⟨_, rfl⟩, ⟨Config.patrolSignature (192 * (0 : TeId).val + (getTe State.reset 0).patrolSlice) + 1, by bv_omega⟩, by decide +kernel⟩
/-- A stopped context whose operations are done. -/
theorem witness_EngineService_stop : (let s := withCtx { ctx0 with stop := some ⟨5, 0, 0, 0, 0⟩ }
    running s = true ∧ getCtx s c0 = some { ctx0 with stop := some ⟨5, 0, 0, 0, 0⟩ } ∧ ∀ w ∈ writeBuf s (clusterOf c0.te), w.ctx ≠ c0) := by decide +kernel

/-- Controller 0 as given. -/
def ctrlAt (v : Ctrl) : State := setCtrl State.reset 0 v
/-- A P1 request, which has not been promoted. -/
def memReq0 (cls : MemClass) : MemReq := ⟨cls, .read, 0, 0, false⟩
theorem witness_ControllersServe : running (ctrlAt {}) = true ∧ (getCtrl (ctrlAt {}) (stackCtrl 0)).sensorFailed = false ∧ 105 ≤ (105 : Byte).toNat ∧ (104 : Byte).toNat < 105
    ∧ ((0 : HDie) = 0 ↔ (8 : DeepId).val < 9) ∧ ((1 : HDie) = 0 ↔ (9 : DeepId).val < 9) ∧ ctrlRuns (ctrlAt {}) 0 = true := by decide +kernel
/-- A P1 and a P0 request wait, of which P0 goes first; and a line of scrub is due, whose read succeeds. -/
theorem isReq {v : Serve} {i : Nat} (h : (match v with | .req j => decide (j = i) | _ => false) = true) : v = .req i := by
  cases v <;> simp_all
theorem isScrub {v : Serve} (h : (match v with | .scrub => true | _ => false) = true) : v = .scrub := by
  cases v <;> simp_all
theorem witness_ControllersServe_serve : nextServe (ctrlAt { reqs := [memReq0 .p1, memReq0 .p0] }) 0 = .req 1 ∧ ([memReq0 .p1, memReq0 .p0])[1]? = some (memReq0 .p0)
    ∧ (getCtrl (ctrlAt { reqs := [memReq0 .p0, memReq0 .p1] }) 0).reqs.findIdx? (fun r => decide (r.cls = .p1) && !r.promoted) = some 1
    ∧ nextServe { online (ctrlAt {}) with now := 1 } 0 = .scrub ∧ (∃ u x, decodeRaw { online (ctrlAt {}) with now := 1 } (rangeAddr 0 (getCtrl (ctrlAt {}) 0).scrubNext) = (u, .inr x)) :=
  ⟨isReq (by decide +kernel), by decide +kernel, by decide +kernel, isScrub (by decide +kernel), pairR (by decide +kernel)⟩
/-- The test window of S0 is open, with its controller as given. -/
def testing (v : Ctrl) : State := { ctrlAt v with sec := { State.reset.sec with lc := .manufacture } }
theorem witness_ControllersServe_repair : testOpen (testing {}) 0 = true ∧ testOpen (raise (testing {}) (Reg.stkCtrl 0) 0) 0 = false ∧ (getCtrl (testing { busy := true }) (stackCtrl 0)).busy = true
    ∧ repairOk 2 = true ∧ repairOk (1 + (5 <<< 39)) = false ∧ noSpare (testing { busy := true, testCmd := 2, softUsed := [0] }) 0 2 = true ∧ noSpare (testing { busy := true, testCmd := 2 }) 0 2 = false
    ∧ bits (1 + (4 <<< 39) : W64) 2 0 = 1 ∧ noSpare (testing { busy := true, testCmd := 1 + (4 <<< 39) }) 0 (1 + (4 <<< 39)) = false := by decide +kernel
/-- The die cache of C0 in the states that its control tells apart. -/
theorem witness_DieCacheControl : dcEnabled (raise State.reset (Reg.dcCtrl 0) 0) 0 = true ∧ dcDisabling (raise State.reset (Reg.dcStatus 0) 0) 0 = true ∧ dcEnabled State.reset 0 = false
    ∧ dcDisabling State.reset 0 = false ∧ flagR (raise State.reset (Reg.dcStatus 0) 1) (Reg.dcStatus 0) 1 = true
    ∧ bitAt State.reset.brd.clockLost (0 : CDie).val = false
    ∧ smGet false { State.reset.coh with unclean := smSet false [] 0 true }.unclean (0 : CDie).val = true := by decide +kernel
/-- A quarantined way of C0's cache with its slot. -/
def quar0 : State := { State.reset with coh := { State.reset.coh with ways := [(wayKey 0 0 3, { valid := true, quarantined := true })], qslots := [(16 * cacheSlice 0 0, 1 + (3 <<< 2))] } }
theorem witness_DieCacheControl_quarantine : qcmdTarget quar0 0 (BitVec.ofNat 64 (cacheSlice 0 0 * 8)) = some (wayKey 0 0 3, 0) ∧ qcmdTarget State.reset 0 0 = none ∧ qcmdTarget State.reset 5 4 = none := by decide +kernel

/-- A whole-scope invalidation with the acknowledgements as given, which has seen so many boundaries. -/
def pend0 (acked : List CDie) (n : Nat) : XltPend := { scope := 0, seg := 0, table := 0, acked := acked, era := 1, boundaries := n, overdue := false, reached := (List.range 4).map fun d => (d, 1) }
/-- Hart 0 has it pending, with every Seam link up. -/
def pending0 (p : XltPend) : State := { linked State.reset with xlt := { State.reset.xlt with era := 1, pend := smSet none [] 0 (some p) } }
theorem witness_TranslationControl_inval : running State.reset = true ∧ bits (2 : W64) 1 0 ≠ 3 ∧ getPend State.reset (0 : Hart).val = none ∧ bits (3 : W64) 1 0 = 3 ∧ getPend (pending0 (pend0 [] 0)) (0 : Hart).val ≠ none
    ∧ (∀ l ∈ [[], [(0 : CDie), 1, 2]], let u := xltReach (pending0 (pend0 l 0)) (0 : Hart).val 3
      getPend u (0 : Hart).val = some (pend0 l 0) ∧ xltDrained u 3 (pend0 l 0) = true ∧ xltFirst u 3 (pend0 l 0) = true
      ∧ diesJoined u [4, (3 : CDie).val] = true ∧ 3 ∉ (pend0 l 0).acked)
    ∧ getPend (pending0 (pend0 [] 1)) (0 : Hart).val = some (pend0 [] 1) ∧ (pend0 [] 1).overdue = false ∧ (pend0 [] 1).boundaries ≠ 0 := by decide +kernel
/-- The map entry of slab 0 as given, S0 online, every Seam link up. -/
def mapped0 (e : W64) : State := let s := linked (raise State.reset (Reg.stkCtrl 0) 0); { s with xlt := { s.xlt with map := smSet 0 [] 0 e } }
/-- VALID with backing 1, at rest, or on its way to 2. -/
def entry1 : W64 := 1 + (1 <<< 8)
def moving1 : W64 := 3 + (1 <<< 8) + (2 <<< 32)
theorem witness_TranslationControl_map : mapEntry (mapped0 0) 0 = 0 ∧ bitAt (0 : W64) 0 = false ∧ bitAt entry1 0 = true ∧ slabFree (mapped0 0) 0 (bits entry1 31 8) = true ∧ bits entry1 3 3 = 0 ∧ bits entry1 63 56 = 0
    ∧ slabFree (mapped0 0) 0 0xFFFFFF = false ∧ mapEntry (mapped0 entry1) 0 = entry1 ∧ bits (entry1 ||| 0x30) 31 8 = bits entry1 31 8 ∧ bits (entry1 - 1) 31 8 = bits entry1 31 8 ∧ bitAt (entry1 - 1) 0 = false
    ∧ bitAt entry1 1 = false ∧ mapEntry (mapped0 moving1) 0 = moving1 ∧ bitAt moving1 1 = true ∧ bits (0 : W64) 31 8 ≠ bits entry1 31 8 := by decide +kernel

/-- The slab's accesses are done, or a C-die is out of reach. -/
theorem witness_TranslationControl_clear : (let u := recallSlab (drainSlab (mapped0 entry1) 0) 0
      slabDone u 0 = true ∧ diesJoined u (List.range 6) = true)
    ∧ (let s := { mapped0 entry1 with fab := State.reset.fab }
      diesJoined (recallSlab (drainSlab s 0) 0) (List.range 6) = false) := by decide +kernel

/-- A move of slab 0 to backing 2, and the order for it. -/
def moveReq0 : MoveReq := ⟨0, 2, true⟩
def moveOrder : W64 := (2 <<< 16) + (1 <<< 40)
/-- A run of it. -/
def moveRun0 (p : MovePhase) (tile : Nat) : MoveRun := ⟨moveReq0, p, [0, 1, 2, 3, 4], tile, 1, 1, false, false, false, 0⟩
def moveAt (e : W64) (run : Option MoveRun) (l : List MoveReq) : State :=
  let s := raise (mapped0 e) Reg.tltCtrl 0; { s with xlt := { s.xlt with run := run, moves := l } }
theorem witness_SlabMoves_order : bitAt (mapEntry (moveAt entry1 none []) (bits moveOrder 13 0)) 0 = true ∧ slabFree (moveAt entry1 none []) (bits moveOrder 13 0) (bits moveOrder 39 16) = true
    ∧ bits moveOrder 39 16 ≠ bits entry1 31 8 ∧ (moveAt entry1 none (List.replicate 63 ⟨9, 3, false⟩)).xlt.moves.length < 64 ∧ (∀ m ∈ (moveAt entry1 none (List.replicate 63 ⟨9, 3, false⟩)).xlt.moves, m.slab ≠ bits moveOrder 13 0)
    ∧ 64 ≤ (moveAt entry1 none (List.replicate 64 ⟨9, 3, false⟩)).xlt.moves.length ∧ bitAt (mapEntry (moveAt 0 none []) (bits moveOrder 13 0)) 0 = false
    ∧ (moveAt entry1 none [moveReq0]).xlt.run = none ∧ flagR (moveAt entry1 none [moveReq0]) Reg.tltCtrl 0 = true ∧ (moveAt entry1 none [moveReq0]).err.phase = 0
    ∧ (moveAt entry1 none [moveReq0]).xlt.moves = [moveReq0] ∧ bitAt (mapEntry (moveAt entry1 none [moveReq0]) 0) 0 = true := by decide +kernel
/-- The run in each phase; its destination up, and down. -/
theorem witness_SlabMoves_run : running (moveAt moving1 none []) = true ∧ diesJoined (moveAt moving1 none []) [4, (5 : Fin 6).val] = true ∧ (5 : Fin 6).val ∉ (moveRun0 .mark 0).acks ∧ diesJoined (moveAt moving1 none []) (List.range 6) = true
    ∧ destUp (moveAt moving1 none []) (moveRun0 .copy 4095) = true ∧ destUp (lower (moveAt moving1 none []) (Reg.stkCtrl 0) 0) (moveRun0 .copy 0) = false ∧ 4096 ≤ (moveRun0 .copy 4096).tile
    ∧ (moveRun0 .switch 4096).overdue = false ∧ (moveRun0 .switch 4096).boundaries ≠ 0 ∧ MovePhase.copy ≠ .wipe ∧ 1 ≤ (4 : Byte).toNat ∧ (4 : Byte).toNat ≤ 4 := by decide +kernel
/-- The migration requests of Tilth have all been served, and the slabs can be reached. -/
theorem witness_SlabMoves_reach : tilthServed (moveAt moving1 none []) = true ∧ slabJoined (moveAt moving1 none []) 2 = true ∧ slabJoined (moveAt moving1 none []) 1 = true
    ∧ (moveRun0 .copy 0).badWrite = false ∧ { moveRun0 .copy 0 with badWrite := true }.badWrite = true ∧ 4096 ≤ { moveRun0 .copy 4096 with badWrite := true }.tile := by decide +kernel
/-- While the stacks are in self-refresh the copy waits. -/
theorem witness_SlabMoves_held : ∃ u, copyLines 1024 (let s := moveAt moving1 (some (moveRun0 .copy 0)) []; { s with err := { s.err with phase := 2 } }) ((poolBase + 0 * 2 ^ 28) / 64 + 1024 * 0) (2 * 2 ^ 28 + 65536 * 0) = (u, none) :=
  ⟨_, pair (by decide +kernel)⟩
/-- No cache holds a line of the slab, and no access to it is left. -/
theorem witness_SlabMoves_switch : ∀ l ∈ slabLines (recallSlab (drainSlab (moveAt moving1 (some (moveRun0 .copy 4096)) []) 0) 0) 0, quarAgents (recallSlab (drainSlab (moveAt moving1 (some (moveRun0 .copy 4096)) []) 0) 0) l = [] := by decide +kernel
theorem witness_SlabMoves_switched : (let u := recallSlab (drainSlab (moveAt moving1 (some (moveRun0 .copy 4096)) []) 0) 0
    u.xlt.run = some (moveRun0 .copy 4096) ∧ (moveRun0 .copy 4096).badWrite = false ∧ slabDone u 0 = true) := by decide +kernel
/-- C0's cache holds a quarantined line of the slab. -/
theorem witness_SlabMoves_quarantined : (let s := moveAt moving1 (some (moveRun0 .copy 4096)) []
    let line := poolBase / 64
    let u := recallSlab (drainSlab { s with coh := { s.coh with ways := [(wayKey 0 line 3, { valid := true, quarantined := true, line := line })], copies := [(128 * line + 80, { st := .s })] } } 0) 0
    ∃ l ∈ slabLines u 0, quarAgents u l ≠ []) := by decide +kernel
/-- A slab without a backing cannot be read. -/
theorem witness_SlabMoves_unreadable : ∃ u, copyLines 1024 (moveAt 0 (some (moveRun0 .copy 0)) []) ((poolBase + 0 * 2 ^ 28) / 64 + 1024 * 0) (2 * 2 ^ 28 + 65536 * 0) = (u, some 1) :=
  ⟨_, pair (by decide +kernel)⟩
/-- The move's first tile is to be copied from a backing whose contents are undefined; only the controllers, the memory and the lines written since differ. -/
def copying (c : SMap Ctrl) (m : List Host.Cell) (w : List LineNo) : State :=
  let s := moveAt moving1 (some (moveRun0 .copy 0)) []
  { s with ctrls := c, mem := m, xlt := { s.xlt with undef := [⟨1, 0, w⟩] } }
theorem copy_backed : ∀ i < 1024, backing (copying [] [] []) (64 * (poolBase / 64 + i)) = some (2 ^ 28 + 64 * i) := by decide +kernel
theorem copy_second : ∀ i < 1024, secondCopy (copying [] [] []) (64 * (poolBase / 64 + i)) = some (2 * 2 ^ 28 + 64 * i) := by decide +kernel
theorem copy_ctrl (i : Nat) (h : i < 1024) (k : Nat) (hk : k < 3) : directCtrl (k * 2 ^ 28 + 64 * i) = some 0 := by
  have e : (k * 2 ^ 28 + 64 * i) / 2 ^ 37 = 0 := by omega
  unfold directCtrl
  simp only [e, Nat.zero_lt_succ, ↓reduceDIte]
  rw [if_pos (by omega)]; rfl
theorem copy_dies (c : SMap Ctrl) (m : List Host.Cell) (w : List LineNo) (i : Nat) (h : i < 1024) : accessDies (copying c m w) 85 (poolBase / 64 + i) = accessDies (copying [] [] []) 85 (poolBase / 64) := by
  have e : backing (copying c m w) (64 * (poolBase / 64 + i)) = some (2 ^ 28 + 64 * i) := copy_backed i h
  have g : secondCopy (copying c m w) (64 * (poolBase / 64 + i)) = some (2 * 2 ^ 28 + 64 * i) := copy_second i h
  have e' : backing (copying [] [] []) (64 * (poolBase / 64)) = some (2 ^ 28 + 64 * 0) := copy_backed 0 (by omega)
  have g' : secondCopy (copying [] [] []) (64 * (poolBase / 64)) = some (2 * 2 ^ 28 + 64 * 0) := copy_second 0 (by omega)
  have hh : ∀ l, getHome (copying c m w) l = {} := fun _ => rfl
  have hd : ∀ l, getDir (copying c m w) l = {} := fun _ => rfl
  have hh' : ∀ l, getHome (copying [] [] []) l = {} := fun _ => rfl
  have hd' : ∀ l, getDir (copying [] [] []) l = {} := fun _ => rfl
  have k := copy_ctrl i h 1 (by omega)
  have k' := copy_ctrl 0 (by omega) 1 (by omega)
  have j := copy_ctrl i h 2 (by omega)
  have j' := copy_ctrl 0 (by omega) 2 (by omega)
  rw [Nat.one_mul] at k k'
  unfold accessDies
  simp only [hh, hd, hh', hd', e, e', g, g', lineHome, homeDie, Option.bind_some, k, k', j, j']
theorem copy_peek (c : SMap Ctrl) (m : List Host.Cell) (w : List LineNo) (i : Nat) (h : i < 1024) (hw : ∀ x ∈ w, 8388608 ≤ x) :
    ∃ c' v, peekLine (copying c m w) 85 .p2 (poolBase / 64 + i) = (copying c' m w, .inr v) := by
  have e : backing (copying c m w) (64 * (poolBase / 64 + i)) = some (2 ^ 28 + 64 * i) := copy_backed i h
  have hl : lineHeld (copying c m w) (85 : Agent).val (poolBase / 64 + i) = false := by
    change lineHeld (copying c m w) 85 _ = false
    unfold lineHeld
    rw [copy_dies c m w i h]
    have : diesJoined (copying c m w) (accessDies (copying [] [] []) 85 (poolBase / 64)) = diesJoined (copying [] [] []) (accessDies (copying [] [] []) 85 (poolBase / 64)) := rfl
    have d : diesJoined (copying [] [] []) (accessDies (copying [] [] []) 85 (poolBase / 64)) = true := by decide +kernel
    rw [this, d]; rfl
  have hc : ∀ ds, crossed (copying c m w) ds = copying c m w := fun ds => if_pos (by
    show (List.range 7).all (fun l => decide ((smGet {} (copying [] [] []).fab.links l).replays = 0)) = true
    decide +kernel)
  have hs : ∀ n, settleLine n (copying c m w) (poolBase / 64 + i) = copying c m w := by
    intro n
    cases n with
    | zero => rfl
    | succ n => exact if_neg (by intro h; exact Bool.false_ne_true h)
  have hq : quarAgents (copying c m w) (poolBase / 64 + i) = [] := by
    have : ∀ d, isQuar (copying c m w) d (poolBase / 64 + i) = false := by
      intro d
      have : findWay (copying c m w) d (poolBase / 64 + i) = none := by
        unfold findWay
        rw [List.find?_eq_none]
        intro x _ 
        exact Bool.false_ne_true
      unfold isQuar; rw [this]
    unfold quarAgents; simp [this]
  have hd : ∀ l, getDir (copying c m w) l = {} := fun _ => rfl
  have hm : mendDir 200 (copying c m w) (poolBase / 64 + i) = copying c m w := by
    have h1 : setRecalls (copying c m w) (poolBase / 64 + i) = [] := rfl
    have h2 : dirRead (copying c m w) (poolBase / 64 + i) = (copying c m w, true) := by unfold dirRead; simp only [h1, hd]; rfl
    unfold mendDir; rw [h1, h2]
  have hz : homeQuar (copying c m w) (poolBase / 64 + i) = false := by
    unfold homeQuar sysQuar; rw [e]
    have dp : isDeep (2 ^ 28 + 64 * i) = false := by unfold isDeep deepBase; simp; omega
    simp only [Option.map_some, Option.getD_some, dp]; rfl
  have k := copy_ctrl i h 1 (by omega)
  rw [Nat.one_mul] at k
  have ha : (agentsOf ({} : DirEntry).holders) = [] := by decide +kernel
  unfold peekLine
  rw [hl]
  simp only [Bool.false_eq_true, ↓reduceIte]
  simp only [hc, hs, hm, hq, hz, hd, ha, or_self, Bool.false_eq_true, ne_eq, not_true_eq_false, ↓reduceIte, List.find?_nil, memRead, e]
  have dp : isDeep (2 ^ 28 + 64 * i) = false := by unfold isDeep deepBase; simp; omega
  rw [dp]
  simp only [Bool.false_eq_true, ↓reduceIte, readRaw, decodeRaw, k]
  obtain ⟨c', hc'⟩ : ∃ c', askCtrl (copying c m w) .p2 (readKind 85) (2 ^ 28 + 64 * i) = copying c' m w := by
    unfold askCtrl; rw [k]; exact ⟨_, rfl⟩
  have hu : ∃ v, undefLine (copying c' m w) (2 ^ 28 + 64 * i) = some v := by
    have hx : (copying c' m w).xlt.undef.find? (fun u => slabUndef u (2 ^ 28 + 64 * i)) = some ⟨1, 0, w⟩ := by
      show List.find? _ [_] = _
      rw [List.find?_cons_of_pos]
      unfold slabUndef
      have : (2 ^ 28 + 64 * i) / 2 ^ 28 = 1 := by omega
      have hn : (2 ^ 28 + 64 * i) / 64 ∉ w := fun hm => by have q : 8388608 ≤ (2 ^ 28 + 64 * i) / 64 := hw _ hm; omega
      rw [this]
      simp only [decide_true, Bool.true_and, Bool.not_eq_true', List.contains_eq_mem, decide_eq_false_iff_not]
      exact hn
    unfold undefLine; rw [k, hx]
    cases hf : List.find? (fun u => rowUndef u (2 ^ 28 + 64 * i)) (getCtrl (copying c' m w) 0).undef with
    | none => exact ⟨Config.abandonedLine 0 ((2 ^ 28 + 64 * i) / 64), by simp only [hf]⟩
    | some u => exact ⟨Config.repairedLine u.draw ((2 ^ 28 + 64 * i) / 64), by simp only [hf]⟩
  obtain ⟨v, hv⟩ := hu
  exact ⟨c', v, by simp only [show (85 : Agent).val = 85 from rfl, hc', hv]⟩
theorem copy_put (c : SMap Ctrl) (m : List Host.Cell) (w : List LineNo) (v : Line) (i : Nat) (h : i < 1024) (hw : ∀ x ∈ w, 8388608 ≤ x) :
    ∃ c' m' w', (∀ x ∈ w', 8388608 ≤ x) ∧ putThrough (copying c m w) .migrate true (2 * 2 ^ 28 + 64 * i) v = (copying c' m' w', true) := by
  have j := copy_ctrl i h 2 (by omega)
  have dp : isDeep (2 * 2 ^ 28 + 64 * i) = false := by unfold isDeep deepBase; simp; omega
  obtain ⟨c1, h1⟩ : ∃ c1, askCtrl (copying c m w) .p2 .migrate (2 * 2 ^ 28 + 64 * i) = copying c1 m w := by
    unfold askCtrl; rw [j]; exact ⟨_, rfl⟩
  have h2 : ∃ c2, (if (getCtrl (copying c1 m w) 0).undef.isEmpty then copying c1 m w
      else setCtrl (copying c1 m w) 0 { getCtrl (copying c1 m w) 0 with undef := (getCtrl (copying c1 m w) 0).undef.map fun u : UndefRow => { u with written := u.written ++ [(2 * 2 ^ 28 + 64 * i) / 64] } })
      = copying c2 m w := by
    split
    · exact ⟨_, rfl⟩
    · exact ⟨_, rfl⟩
  obtain ⟨c2, h2⟩ := h2
  refine ⟨c2, (putRaw (copying c1 m w) (2 * 2 ^ 28 + 64 * i) v).mem, w ++ [(2 * 2 ^ 28 + 64 * i) / 64], ?_, ?_⟩
  · intro x hx
    rcases List.mem_append.mp hx with hx | hx
    · exact hw x hx
    · rw [List.mem_singleton.mp hx]; show 8388608 ≤ (2 * 2 ^ 28 + 64 * i) / 64; omega
  · unfold putThrough
    rw [dp, h1]
    simp only [Bool.not_false, ↓reduceIte, putRaw, j, h2]
    rfl
theorem copy_all : ∀ (n i : Nat), i + n = 1024 → ∀ c m w, (∀ x ∈ w, 8388608 ≤ x) →
    (copyLines n (copying c m w) (poolBase / 64 + i) (2 * 2 ^ 28 + 64 * i)).2 = some 0
  | 0, _, _, _, _, _, _ => rfl
  | n + 1, i, h, c, m, w, hw => by
    obtain ⟨c1, v, e⟩ := copy_peek c m w i (by omega) hw
    obtain ⟨c2, m2, w2, hw2, e2⟩ := copy_put c1 m w v i (by omega) hw
    unfold copyLines
    rw [e]
    simp only [e2]
    exact copy_all n (i + 1) (by omega) c2 m2 w2 hw2
theorem witness_SlabMoves_copied : ∃ u, copyLines 1024 (copying [] [] []) ((poolBase + 0 * 2 ^ 28) / 64 + 1024 * 0) (2 * 2 ^ 28 + 65536 * 0) = (u, some 0) :=
  ⟨_, pair (copy_all 1024 0 rfl [] [] [] (by simp))⟩

/-- S0 online, every Seam link up. -/
def joined0 : State := linked (raise State.reset (Reg.stkCtrl 0) 0)
/-- Its line 0 as hart 0 holds it. -/
def copied (st : CState) (written : Bool) : State := setCopy joined0 0 0 { st := st, written := written }
/-- A hart, a die cache and Tilth may ask for line 0; the line of an offline stack has no backing. -/
theorem witness_CoherenceRequests_ask : (∀ a ∈ [(0 : Agent), 83, 85], running joined0 = true ∧ noBuf joined0 a.val (0 : LineAddr).toNat = true ∧ ask.askAgent joined0 (0 : LineAddr).toNat a.val = false
      ∧ outstanding joined0 a.val < agentTags a.val ∧ lineOk joined0 (0 : LineAddr).toNat = true ∧ joined joined0 (0 : LineAddr).toNat a.val = true ∧ (a.val ≠ 85 → paused joined0 (64 * (0 : LineAddr).toNat) = false))
    ∧ (4 : Fin 64).val % (if false then 8 else 4) = 0 ∧ lineOk joined0 (2 ^ 31 : LineAddr).toNat = false := by decide +kernel
theorem witness_CoherenceRequests_evict : (∀ st ∈ [CState.m, .o, .e, .f, .s], (getCopy (copied st true) 0 (0 : LineAddr).toNat).st = st ∧ noBuf (copied st true) 0 (0 : LineAddr).toNat = true ∧ joined (copied st true) (0 : LineAddr).toNat 0 = true)
    ∧ isQuar joined0 0 0 = false ∧ (checkCopy (setCopy joined0 80 0 { st := .m }) 80 0).2 = true
    ∧ getBuf (goOn (setBuf joined0 0 0 (some ⟨true, 0, false, true, 0⟩)) 0) 0 (0 : LineAddr).toNat = some ⟨true, 0, false, true, 0⟩ := by decide +kernel
/-- Orfin is up, with the proxy's line as given. -/
def proxied (st : CState) : State := setProxy (setLink joined0 23 { phase := .up }) 0 { st := st }
theorem witness_CoherenceRequests_proxy : (∀ st ∈ [CState.i, .m, .o, .e, .f, .s], orfinUp (proxied st) = true ∧ running (proxied st) = true ∧ smGet none (proxied st).orf.proxyAsk (0 : LineAddr).toNat = none
    ∧ proxyBuf (proxied st) (0 : LineAddr).toNat = none ∧ (getProxy (proxied st) (0 : LineAddr).toNat).st = st) := by decide +kernel
/-- A directory set of C0 that waits for two agents, and for one. -/
def recalling (l : List Nat) : State := { joined0 with coh := { joined0.coh with dirErr := smSet [] [] (dirSetKey 0 0 0) l } }
theorem witness_CoherenceRequests_set : diesJoined (recalling [0, 1]) [agentDie (0 : Agent).val, (0 : Fin 6).val] = true
    ∧ smGet [] (recalling [0, 1]).coh.dirErr (dirSetKey (0 : Fin 6).val (0 : Fin 16).val (0 : Fin 16384).val) = [0, 1] ∧ [0, 1].erase 0 ≠ [] ∧ [0].erase 0 = ([] : List Nat) := by decide +kernel

/-- A transaction of hart 1 for line 0. -/
def txn0 : Txn := { req := { ask := .fetchX, agent := 1 } }
/-- Hart 0 holds the line as given, and the transaction waits for its answer to a probe. -/
def probing (p : Probe) (st : CState) (written : Bool) (held : Option Nat) : State := setTxn (copied st written) 0 (some { txn0 with probes := [⟨0, p, held⟩] })
theorem witness_CoherenceAnswers_probe : (∀ p ∈ [Probe.share, .take, .kill, .peek, .recall], ∀ st ∈ [CState.m, .o, .e, .f, .s, .i],
      joined (probing p st true none) (0 : LineAddr).toNat 0 = true ∧ let v := goOn (probing p st true none) 0
      (getHome v (0 : LineAddr).toNat).txn = some { txn0 with probes := [⟨0, p, none⟩] }
      ∧ v.coh.dones = [] ∧ probeTo v (0 : LineAddr).toNat 0 p = some ⟨0, p, none⟩ ∧ mustHold v (0 : LineAddr).toNat 0 p = false)
    ∧ (let v := goOn (probing .take .m false none) 0; mustHold v (0 : LineAddr).toNat 0 .take = true ∧ holdMax v 0 ≠ 0)
    ∧ probeTo (goOn (probing .take .m false (some 5)) 0) (0 : LineAddr).toNat 0 .take = some ⟨0, .take, some 5⟩ := by decide +kernel
/-- The transaction as given. -/
def inTxn (x : Txn) : State := setTxn joined0 0 (some x)
/-- It has an answer, waits for its DoneAck, has its data, or has failed. -/
theorem witness_CoherenceAnswers_end : (∀ x ∈ [{ txn0 with acks := [{ agent := 0, final := .i }] }, { txn0 with confirm := true }, { txn0 with line := some (.m, 0), granted := some .m }, { txn0 with fail := some (quarBad 0) }],
      (getHome (goOn (inTxn x) 0) (0 : LineAddr).toNat).txn = some x ∧ joined (inTxn x) (0 : LineAddr).toNat (1 : Agent).val = true ∧ x.req.agent = 1 ∧ x.recallFor = none ∧ x.probes = [])
    ∧ [({ agent := 0, final := .i } : AckIn)].find? (fun k => decide (k.agent = (0 : Agent).val)) = some { agent := 0, final := .i }
    ∧ (hartLines (goOn (inTxn { txn0 with line := some (.m, 0), granted := some .m }) 0) 1).length < 32768
    ∧ routeUp (goOn (inTxn { txn0 with line := some (.m, 0), granted := some .m }) 0) txn0.lineDie (agentDie (1 : Agent).val) = true := by decide +kernel
/-- A Claim and a ClaimZero of hart 1 are done. -/
def doneAt (k : Ask) : State := { joined0 with coh := { joined0.coh with dones := [⟨0, 1, k, 0, 0⟩] } }
theorem witness_CoherenceAnswers_done : (∀ k ∈ [Ask.claim, .claimZero], let v := goOn (doneAt k) 0
      (getCopy v 1 (0 : LineAddr).toNat).st = .i ∧ (hartLines v 1).length < 32768 ∧ v.coh.dones.find? (fun m => decide (m.line = (0 : LineAddr).toNat ∧ m.agent = (1 : Agent).val)) = some ⟨0, 1, k, 0, 0⟩
    ∧ joined (doneAt k) (0 : LineAddr).toNat (1 : Agent).val = true) ∧ (let v := goOn (setCopy (doneAt .claim) 1 0 { st := .s }) 0; (getCopy v 1 (0 : LineAddr).toNat).st ≠ .i
      ∧ v.coh.dones.find? (fun m => decide (m.line = (0 : LineAddr).toNat ∧ m.agent = (1 : Agent).val)) = some ⟨0, 1, .claim, 0, 0⟩) ∧ orfinUp (proxied .i) = true ∧ (84 : Agent).val = 84 := by decide +kernel

/-- Orfin is up, after READY; ring 0 of job 1 has four slots, is enabled or not, and holds what is given. -/
def ringAt (on : Bool) (g : Ring) : State :=
  let s := raise (raise (raise (setLink joined0 23 { phase := .up }) Reg.orfCtrl 0) Reg.teCtrl 0) Reg.orfStatus 0
  setRing (setR (setR s (Reg.orfRingCfg 0) (BitVec.ofNat 64 ((if on then 1 else 0) + 4 + 2 ^ 16 + 7 * 2 ^ 32))) (Reg.orfWin 0) (1 <<< 32)) 0 g
/-- A descriptor of a type, with the stamp of its lap and further fields. -/
def desc0 (ty rest : Nat) : BitVec 512 := BitVec.ofNat 512 (ty + 2 ^ 8 + rest)
def queuedDesc (d : BitVec 512) : Desc := { index := 0, raw := d }
theorem witness_RingsAndDoorbells_set : running (ringAt false {}) = true ∧ ringOn (ringAt false {}) (0 : RingId).val = false ∧ bitAt ((0x21 : W64) &&& 0x0000FFFFFFFF007F) 0 = true ∧ bits ((0x21 : W64) &&& 0x0000FFFFFFFF007F) 5 1 = 16
    ∧ 16 < bits ((0x23 : W64) &&& 0x0000FFFFFFFF007F) 5 1 ∧ ringActive {} = false ∧ ringActive { fetched := [queuedDesc (desc0 4 0)] } = true ∧ fieldR (ringAt false {}) (Reg.orfSqBase 0) 11 0 = 0 ∧ fieldR (ringAt false {}) (Reg.orfCqBase 0) 11 0 = 0
    ∧ ringOn (ringAt true {}) (0 : RingId).val = true ∧ (0 : W64) ≠ getR (ringAt true {}) (Reg.orfRingCfg 0) &&& ~~~(1#64) := by decide +kernel
/-- Doorbells that announce four descriptors, or five; and one that reports the one completion written. -/
theorem witness_RingsAndDoorbells_ring : bits (0x01020001 : W64) 31 25 = 0 ∧ bits (0x01020001 : W64) 63 57 = 0 ∧ bitAt (0x01020001 : W64) 24 = true ∧ bits (0x01020001 : W64) 23 16 ≠ 0 ∧ bitAt (0x01020001 : W64) 56 = false
    ∧ ringAhead (ringSize (ringAt true {}) 0) (bits (0x01020000 : W64) 23 16) (bits (0x01020000 : W64) 15 0) 0 = ringSize (ringAt true {}) 0
    ∧ ringSize (ringAt true {}) 0 < ringAhead (ringSize (ringAt true {}) 0) (bits (0x01020001 : W64) 23 16) (bits (0x01020001 : W64) 15 0) 0
    ∧ bitAt (0x0101000100000000 : W64) 24 = false ∧ bitAt (0x0101000100000000 : W64) 56 = true ∧ bits (0x0101000100000000 : W64) 55 48 ≠ 0
    ∧ cqConsumed (ringSize (ringAt true { written := 1 }) 0) (bits (0x0101000100000000 : W64) 55 48) (bits (0x0101000100000000 : W64) 47 32) 1 = some 1
    ∧ bits (0x02000000 : W64) 31 25 ≠ 0 ∧ bitAt (0x01000000 : W64) 24 = true ∧ bits (0x01000000 : W64) 23 16 = 0 := by decide +kernel
/-- A flush is on its way, or not. -/
theorem witness_RingsAndDoorbells_flush : (ringAt true {}).orf.flushSent = none ∧ orfinUp (ringAt true {}) = true ∧ { (ringAt true {}).orf with flushSent := some 3 }.flushSent = some 3 := by decide +kernel

/-- The next descriptor of ring 0 has been announced, and its first read was not stale, or was. -/
theorem witness_DescriptorsRun_fetch : (∀ st ∈ [none, some 0], mayFetch (ringAt true { announced := 1, staleAt := st }) (0 : RingId).val = true
      ∧ orfinUp (ringAt true { announced := 1, staleAt := st }) = true ∧ proxyBuf (ringAt true { announced := 1, staleAt := st }) (sqSlot (ringAt true { announced := 1, staleAt := st }) (0 : RingId).val 0 / 64) = none
      ∧ (getProxy (ringAt true { announced := 1, staleAt := st }) (sqSlot (ringAt true { announced := 1, staleAt := st }) (0 : RingId).val 0 / 64)).st = .i)
    ∧ dsStamp (desc0 4 0) = lapStamp (ringSize (ringAt true {}) 0) 0 ∧ dsType (desc0 4 0) ≠ 1 ∧ dsBad (desc0 4 0) = false ∧ dsBad (desc0 1 (2 ^ 64)) = false
    ∧ flagR (ringAt true {}) Reg.teCtrl 0 = true ∧ dsStamp (0 : BitVec 512) ≠ lapStamp (ringSize (ringAt true {}) 0) 0 := by decide +kernel
/-- Ring 0 holds a descriptor, partition 0 serves job 1 on engine 0. -/
def descAt (d : BitVec 512) : State := setPart (ringAt true { announced := 1, consumed := 1, fetched := [queuedDesc d] }) 0 (part0 1 1 + 2)
theorem witness_DescriptorsRun_launch : turnOf (descAt (desc0 4 0)) (0 : RingId).val 4 = some (queuedDesc (desc0 4 0)) ∧ turnOf (descAt (desc0 1 (2 ^ 64))) (0 : RingId).val 1 = some (queuedDesc (desc0 1 (2 ^ 64)))
    ∧ bits (desc0 1 (2 ^ 64)) 79 64 = fieldR (descAt (desc0 1 (2 ^ 64))) (Reg.orfRingCfg 0) 31 16 ∧ bits (desc0 1 (2 * 2 ^ 64)) 79 64 ≠ fieldR (descAt (desc0 1 (2 * 2 ^ 64))) (Reg.orfRingCfg 0) 31 16
    ∧ partOf (descAt (desc0 1 (2 ^ 64))) ((desc0 1 (2 ^ 64)).extractLsb' 64 16) = some 0 ∧ launchHome (descAt (desc0 1 (2 ^ 64))) 0 (bits (desc0 1 (2 ^ 64)) 111 96) = some 0
    ∧ fitsNever (descAt (desc0 1 (2 ^ 64))) 0 (launchOf (descAt (desc0 1 (2 ^ 64))) 0 (queuedDesc (desc0 1 (2 ^ 64))) 0 0) = none ∧ (getTe (descAt (desc0 1 (2 ^ 64))) 0).queue.length < 16
    ∧ routeUp (descAt (desc0 1 (2 ^ 64))) 4 (dieOf 0).val = true := by decide +kernel
/-- The same launch under affinity, with S0 online and the kernel's header there, where no slot has a share; and a full queue. -/
theorem witness_DescriptorsRun_unfit : (let d := desc0 1 (2 ^ 64)
    let s := putRaw (online (setPart (descAt d) 0 (part0 1 1))) 0 header0
    let l := launchOf s 0 (queuedDesc d) 0 0
    turnOf s (0 : RingId).val 1 = some (queuedDesc d) ∧ l.affinity = true ∧ headerHeld s 0 l = false ∧ fitsNever (setTe s 0 { getTe s 0 with slotcfg := 0 }) 0 l = some 6)
    ∧ 16 ≤ (getTe (setTe State.reset 0 { getTe State.reset 0 with queue := List.replicate 16 launch0 }) 0).queue.length := by decide +kernel
/-- One line is copied, in and out: inside the window, outside it, and where the stack is offline. -/
def copyDesc (ty dst : Nat) : BitVec 512 := desc0 ty (dst * 2 ^ 192 + 2 ^ 256)
theorem witness_DescriptorsRun_copy : turnOf (descAt (copyDesc 2 0)) (0 : RingId).val 2 = some (queuedDesc (copyDesc 2 0)) ∧ turnOf (descAt (copyDesc 3 0)) (0 : RingId).val 3 = some (queuedDesc (copyDesc 3 0))
    ∧ copyInWindow (startDesc (descAt (copyDesc 2 0)) 0 0) 0 (copyDesc 2 0) = true ∧ copyInWindow (startDesc (descAt (copyDesc 2 (2 ^ 28))) 0 0) 0 (copyDesc 2 (2 ^ 28)) = false
    ∧ (∃ u, copyInFrom (cpLines (copyDesc 2 0)) (cpFrom (copyDesc 2 0)) (cpTo (copyDesc 2 0)) [7] (startDesc (descAt (copyDesc 2 0)) 0 0) = (u, none))
    ∧ (∃ u, copyOutFrom (cpLines (copyDesc 3 0)) (cpFrom (copyDesc 3 0)) (cpTo (copyDesc 3 0)) (startDesc (descAt (copyDesc 3 0)) 0 0) = (u, none))
    ∧ (∃ u, copyOutFrom (cpLines (copyDesc 3 0)) (cpFrom (copyDesc 3 0)) (cpTo (copyDesc 3 0)) (startDesc (lower (descAt (copyDesc 3 0)) (Reg.stkCtrl 0) 0) 0 0) = (u, some (86, addrBad 0))) ∧ (addrBad 0).held = false :=
  ⟨by decide +kernel, by decide +kernel, by decide +kernel, by decide +kernel, pairN (by decide +kernel), pairN (by decide +kernel), ⟨_, pair (by decide +kernel)⟩, by decide⟩
theorem witness_DescriptorsRun_completion : (let d := { queuedDesc (desc0 4 0) with done := true }
    let s := ringAt true { announced := 1, consumed := 1, fetched := [d] }
    (getRing s (0 : RingId).val).fetched.find? (fun d => d.done && (!dsOrder d.raw || d.flushed)) = some d ∧ (getRing s (0 : RingId).val).cause ≠ 4 ∧ orfinUp s = true ∧ proxyBuf s (cqSlot s (0 : RingId).val 0 / 64) = none
      ∧ (getProxy s (cqSlot s (0 : RingId).val 0 / 64)).st = .i ∧ (getProxy (setProxy s (cqSlot s (0 : RingId).val 0 / 64) { st := .s }) (cqSlot s (0 : RingId).val 0 / 64)).st ≠ .i) := by decide +kernel
theorem witness_CompanionAccess : running (ringAt true {}) = true ∧ orfinUp (ringAt true {}) = true ∧ flagR (heard (ringAt true {}) 23) Reg.orfStatus 0 = true ∧ (0x10000 : BitVec 20).toNat % 8 = 0
    ∧ (viewAt (heard (ringAt true {}) 23) (ioPlace (0x10000 : BitVec 20).toNat)).isSome = true ∧ ¬ ((0x10000 : BitVec 20).toNat < 0x10000 ∧ (0x10000 : BitVec 20).toNat % 64 = 8) ∧ (viewAt (heard (ringAt true {}) 23) (ioPlace (8 : BitVec 20).toNat)).isSome = true
    ∧ flagR (heard (lower (ringAt true {}) Reg.orfStatus 0) 23) Reg.orfStatus 0 = false ∧ (4 : Byte).toNat ≠ 8 ∧ (4 : BitVec 20).toNat % 8 ≠ 0 := by decide +kernel

/-- The stitch as given, after the start-up. -/
def stitched (c : Stitch) : State := { State.reset with stc := c, boot := { State.reset.boot with phase := 8 } }
/-- Its period and its tolerance, and an edge a time after the last boundary. -/
def stP : Nat := periodT State.reset
def stW : Nat := tolT State.reset
def edgeAt (t : Nat) (c : Stitch) : State := stitched { c with edge := some t }
theorem witness_StitchEdges_edge : stitchRuns (edgeAt stP {}) = true ∧ (edgeAt stP {}).stc.edge = some stP ∧ periodT (edgeAt stP {}) = stP ∧ tolT (edgeAt stP {}) = stW ∧ (edgeAt stP {}).stc.last = 0
    ∧ (stP - stW - 1) - 0 < stP - stW ∧ stP - stW ≤ stP + stW ∧ stP - stW ≤ stP + stW + 1 ∧ stP + stW < stP + stW + 1
    ∧ (edgeAt stP { holdover := true }).stc.armed = none ∧ (edgeAt stP { holdover := true, armed := some 0 }).stc.armed = some 0 ∧ 0 ≤ stP ∧ stP ≤ 2 * ((stP + 1) / 2) ∧ 2 * (3 * stP / 2) ≤ 3 * stP
    ∧ (stitched {}).now ≤ (stitched {}).stc.last + nsT (125000 : W32).toNat := by decide +kernel
theorem witness_StitchEdges_boundary : stitchRuns (stitched {}) = true ∧ (stitched {}).stc.edge = none ∧ (stitched {}).stc.holdover = false ∧ stitchRuns (stitched { holdover := true, armed := some 0 }) = true
    ∧ (∀ t, (edgeAt (stP + stW + 1) {}).stc.edge = some t → (edgeAt (stP + stW + 1) {}).stc.last + periodT (stitched {}) + tolT (stitched {}) < t) ∧ (19 : W32).toNat < 20 ∧ ¬ (20 : W32).toNat < 20
    ∧ stitchAlone State.reset = true ∧ running (stitched {}) = true
    ∧ 2000 ≤ bits ((1 <<< 32) + 2000 : W64) 19 0 ∧ 1 ≤ bits ((1 <<< 32) + 2000 : W64) 48 32 ∧ 8 * bits ((250 <<< 32) + 2000 : W64) 48 32 ≤ bits ((250 <<< 32) + 2000 : W64) 19 0
    ∧ bits (1999 : W64) 19 0 < 2000 ∧ 1000000 < bits (1000001 : W64) 19 0 ∧ bits ((251 <<< 32) + 2000 : W64) 19 0 < 8 * bits ((251 <<< 32) + 2000 : W64) 48 32 := by decide +kernel

/-- Power as given. -/
def powered (p : Power) : State := { State.reset with pwr := p }
theorem witness_PowerLimits_package : 1200 ≤ bits (1200 : W64) 11 0 ∧ bits (3600 : W64) 11 0 ≤ 3600 ∧ bits (1200 : W64) 15 12 = 0 ∧ bits (1200 : W64) 63 33 = 0 ∧ bits (1199 : W64) 11 0 < 1200 ∧ 3600 < bits (3601 : W64) 11 0
    ∧ running (powered { run := 1000 }) = true ∧ (powered { run := 1000 }).pwr.excursion = false ∧ 1000 ≤ (powered { run := 1000 }).pwr.run
    ∧ (powered { run := 1000, excursion := true }).pwr.excursion = true
    ∧ ceilingE State.reset < (8191 : BitVec 13).toNat ∧ (0 : BitVec 13).toNat ≤ ceilingE State.reset ∧ (0 : BitVec 13).toNat ≤ budgetB State.reset := by decide +kernel
/-- A die that draws its budget, more than it, or less than 95% of it for the fifth time. -/
def dieAt0 (v : DiePower) (dealt : Bool) : State := powered { State.reset.pwr with dies := smSet {} [] 0 v, dealtYet := dealt }
theorem witness_PowerLimits_die : getDie (dieAt0 { stepping := some (3, 0) } true) (0 : Fin 6).val = { stepping := some (3, 0) }
    ∧ getDie (dieAt0 { dealt := 100, below := 4, point := some 3 } true) (0 : Fin 6).val = { dealt := 100, below := 4, point := some 3 } ∧ pointOf (dieAt0 { dealt := 100, below := 4, point := some 3 } true) (0 : Fin 6).val = 3
    ∧ (dieAt0 { dealt := 100, below := 4, point := some 3 } true).pwr.dealtYet = true ∧ 100 < (101 : BitVec 12).toNat ∧ (100 : BitVec 12).toNat ≤ 100 ∧ ¬ 100 * (95 : BitVec 12).toNat < 95 * 100
    ∧ 100 * (94 : BitVec 12).toNat < 95 * 100 ∧ 5 ≤ ({ dealt := 100, below := 4, point := some 3 } : DiePower).below + 1 ∧ (105 : Nat) ≤ (getDie (dieAt0 { temp := 105, point := some 1 } false) 0).temp := by decide +kernel
/-- A region with a budget, and one in a droop. -/
def regionPower0 (v : RegionPower) : State := powered { State.reset.pwr with regions := smSet {} [] 0 v, dealtYet := true }
theorem witness_PowerLimits_region : running (regionPower0 { dealt := 100, below := 4 }) = true ∧ getRegion (regionPower0 { dealt := 100, below := 4 }) (0 : Fin 24).val = { dealt := 100, below := 4 }
    ∧ (regionPower0 { dealt := 100, below := 4 }).pwr.dealtYet = true ∧ getRegion (regionPower0 { droop := some 0 }) (0 : Fin 24).val = { droop := some 0 } := by decide +kernel

/-- The engines of a region are out of service, in a region with power or without. -/
def regionOut (gated : Bool) : State := (regionTes 0).foldl (fun s te => setTe s te { getTe s te with svc := .out }) (regionPower0 { gated := gated })
theorem witness_GatesAndHeat_gates : running (regionOut false) = true ∧ (∀ te ∈ regionTes (0 : Byte).toNat, (getTe (regionOut false) te).svc = .out) ∧ (∃ te ∈ regionTes (0 : Byte).toNat, (getTe (served .inService) te).svc ≠ .out)
    ∧ 16 ≤ (16 : Byte).toNat ∧ (15 : Byte).toNat < 16 ∧ (getRegion (regionOut true) (0 : Byte).toNat).gated = true ∧ (79 : Byte).toNat < 80 ∧ 80 ≤ (80 : Byte).toNat := by decide +kernel
theorem witness_GatesAndHeat_sensor : pointOf (dieAt0 {} false) (0 : Fin 6).val ≤ (Config.bootPoint (0 : Fin 6).val).val ∧ (Config.bootPoint (0 : Fin 6).val).val < pointOf (dieAt0 { point := some 16 } false) (0 : Fin 6).val
    ∧ (getDie (dieAt0 {} false) (0 : Fin 6).val).sensorFailed = false ∧ bitAt State.reset.brd.clockLost (0 : Fin 6).val = false ∧ testState (testing {}) = true
    ∧ (getDie (dieAt0 { sensorFailed := true } false) (0 : Fin 6).val).sensorFailed = true ∧ bitAt ({ State.reset.brd with clockLost := 1 } : Board).clockLost (0 : Fin 6).val = true
    ∧ State.reset.brd.coolantOk = true ∧ { State.reset.brd with coolantOk := false }.coolantOk = false ∧ mgtSend State.reset [(0, 4)] 1 = none ∧ mgtSend (linked State.reset) [(0, 4)] 1 ≠ none
    ∧ testState { State.reset with sec := { State.reset.sec with lc := .field } } = false ∧ bitAt (1 : W64) 0 = true ∧ bitAt (0 : W64) 0 = false :=
  ⟨Nat.le_refl _, (Config.bootPoint 0).isLt, by decide +kernel⟩

/-- The error machinery as given. -/
def faulty (e : Recovery) : State := { State.reset with err := e }
theorem witness_ComputeReset_queue : running State.reset = true ∧ ((errQueue State.reset 0).prod - ((0 : W64).truncate 32 : W32)).toNat ≤ 1024 ∧ ((errQueue (faulty { queues := smSet {} [] 0 { prod := 1024 } }) 0).prod - ((0 : W64).truncate 32 : W32)).toNat = 1024
    ∧ 1024 < ((errQueue State.reset 0).prod - ((1 : W64).truncate 32 : W32)).toNat := by decide +kernel
/-- A context is resident, in a package with no key slot and with one of its job. -/
def keySlotted : State := { st0 with fab := { st0.fab with slots := [(0, { job := 1, valid := true })] } }
theorem witness_ComputeReset_stop : ctxAt (BitVec.ofNat 8 (bits (0 : W64) 9 2)).toFin (bits (0 : W64) 11 10) = c0 ∧ getCtx st0 c0 = some ctx0 ∧ ctx0.stop = none ∧ st0.err.phase = 0 ∧ getCtx State.reset c0 = none
    ∧ slotOfJob (capture st0 0x4) ((0x10000 : W64).extractLsb' 16 16) = none ∧ slotOfJob (capture keySlotted 0x4) ((0x10000 : W64).extractLsb' 16 16) = some 0 := by decide +kernel
theorem witness_ComputeReset_phases : errResetOk State.reset 0xA503 = true ∧ errResetOk State.reset 0xA500 = false ∧ (∀ p ∈ [1, 2, 3, 4], (faulty { phase := p }).err.phase = p ∧ running (faulty { phase := p }) = true) := by decide +kernel

/-- The board as given. -/
def board (b : Board) : State := { State.reset with brd := b }
theorem witness_PackageResets : (board {}).brd.resetN = true ∧ running (board {}) = true ∧ running (board { gated := true }) = false ∧ (board { resetN := false, resetCapture := true }).brd.pwrGood = true
    ∧ (board { resetN := false, inReset := true }).brd.railFail = false ∧ (board { pwrGood := false }).brd.pwrGood = false ∧ (board { resetN := false, inReset := true }).brd.inReset = true := by decide +kernel

/-- A start-up that stands as given. -/
def booting (b : StartUp) : State := { State.reset with boot := b, sec := { State.reset.sec with wipeBusy := true } }
theorem witness_StartUpPhases : (∀ p ∈ [1, 2, 3, 4, 5, 6, 7, 8], running (booting { phase := p }) = true ∧ starting (booting { phase := p }) = true ∧ (advanceTo (booting { phase := p }) ((booting { phase := p }).boot.phaseAt + usT (phaseMin p))).now ≤ phaseLimit (booting { phase := p }))
    ∧ phaseLimit { booting { phase := 2 } with now := usT 100000000 } < (advanceTo { booting { phase := 2 } with now := usT 100000000 } (0 + usT (phaseMin 2))).now
    ∧ (0 : BitVec 18) ≠ BitVec.allOnes 18 ∧ (booting { phase := 5, wipeDone := true }).boot.wipeDone = true := by decide +kernel
/-- Every part but one has been wiped; and all. -/
theorem witness_StartUpPhases_wipe : wipeRuns (booting { phase := 5, stackOk := 1 }) = true ∧ (11 : StackId).val = (11 : Fin 16).val ∧ (wipedStacks (booting { phase := 5, stackOk := 0x800 })).getLsbD (11 : Fin 16).val = true ∧ (3 : CDie).val + 12 = (15 : Fin 16).val
    ∧ (booting { phase := 5, stackOk := 1, wipedParts := 0xF001 }).boot.wipedParts &&& ((wipedStacks (booting { phase := 5, stackOk := 1, wipedParts := 0xF001 })).setWidth 16 ||| 0xF000) = (wipedStacks (booting { phase := 5, stackOk := 1, wipedParts := 0xF001 })).setWidth 16 ||| 0xF000 := by decide +kernel

/-- Thimble as given, after the start-up. -/
def thimble (t : Thimble) : State := { State.reset with sec := t, boot := { phase := 8, bootDone := true } }
/-- Its registers in a life-cycle state, with a command or without. -/
def sec0 (lc : LifeCycle) (c : Option ThimbleCmd) : Thimble := { State.reset.sec with lc := lc, cmd := c, sealBroken := false, debugUnlocked := false, aliasReady := true }
theorem witness_ThimbleCommands_verdict : running (thimble (sec0 .service none)) = true ∧ cmdVerdict (thimble (sec0 .service none)) 2 0 = 0 ∧ cmdVerdict (thimble (sec0 .service none)) 5 0 = 1 ∧ cmdVerdict (thimble (sec0 .field (some ⟨2, 0, 0, 0⟩))) 3 0 = 2
    ∧ cmdVerdict (thimble (sec0 .field (some ⟨2, 0, 0, 0⟩))) 5 0 = 0 ∧ cmdVerdict (thimble (sec0 .service none)) 1 5 = 0 := by decide +kernel
/-- A window is open for each command, and the button falls at the last moment that counts, or after it. -/
theorem witness_ThimbleCommands_presence : (∀ op ∈ [1, 2, 3, 4], (thimble (sec0 .manufacture (some ⟨op, 1, 0, 0⟩))).sec.cmd = some ⟨op, 1, 0, 0⟩) ∧ (29900000000 : BitVec 36) ≠ 0 ∧ (29900000000 : BitVec 36).toNat + 100000000 ≤ 30000000000
    ∧ 30000000000 < (29900000001 : BitVec 36).toNat + 100000000 ∧ (sec0 .manufacture (some ⟨1, 1, 0, 0⟩)).lc = .manufacture ∧ (thimble (sec0 .service none)).brd.pwrGood = true ∧ 1000 ≤ (1000 : W32).toNat
    ∧ (thimble { sec0 .service none with aliasReady := false }).sec.aliasReady = false ∧ (thimble (sec0 .service none)).boot.bootDone = true ∧ 8 ≤ bits (8 : W64) 3 0 ∧ bits (7 : W64) 3 0 < 8 := by decide +kernel
/-- SPDM before the end of BOOT, and after it in each state of its session. -/
theorem witness_SpdmAnswers : State.reset.boot.bootDone = false ∧ running (thimble (sec0 .field none)) = true ∧ (thimble (sec0 .field none)).boot.bootDone = true ∧ (sec0 .field none).lc ≠ .retired
    ∧ (thimble { sec0 .field none with spdmVersion := true, spdmCaps := true, spdmAlgs := true }).sec.spdmAlgs = true ∧ (thimble (sec0 .field none)).sec.spdmVersion = false ∧ (thimble (sec0 .field none)).sec.spdmCaps = false
    ∧ (thimble (sec0 .field none)).sec.spdmAlgs = false ∧ (thimble { sec0 .field none with aliasReady := false }).sec.aliasReady = false := by decide +kernel
/-- Either case of an offset; an index of each kind. -/
theorem witness_SpdmAnswers_parts : ((certChain (sec0 .field none)).length ≤ (0 : W16).toNat ∨ (0 : W16).toNat < (certChain (sec0 .field none)).length) ∧ (16 : Byte).toNat ≤ 16 ∧ (0xFF : Byte).toNat = 0xFF :=
  ⟨(Nat.lt_or_ge _ _).symm, by decide, by decide⟩

/-- An address in the register space of H0: a slot and an offset. -/
def regAddr (slot off : Nat) : BitVec 52 := BitVec.ofNat 52 (regBase 4 slot + off)
/-- Hart 0 may write ID_STATUS, read a counter of H0's coherence, and names no register of the identification block at 0x30; the clock of H0 goes; H0 is reached. -/
theorem witness_RegistersAndHostCores_access : running joined0 = true ∧ hartWaits joined0 (0 : Hart).val = false ∧ (getHart joined0 (0 : Hart).val).gated = false ∧ (getHart joined0 (0 : Hart).val).inReset = false
    ∧ placeOf (regAddr 0 0x18).toNat = some ⟨4, 0, 0x18⟩ ∧ ((getHart joined0 (0 : Hart).val).regWrites.all fun w => !sameRegion (regAddr 0 0x18).toNat w.1) = true ∧ (4 : Byte) ≠ 8 ∧ (regAddr 0 0x1C).toNat % 8 ≠ 0 ∧ (regAddr 0 0x18).toNat % 8 = 0
    ∧ deadDie joined0 ⟨4, 0, 0x18⟩ = false ∧ deadDie { joined0 with brd := { joined0.brd with clockLost := 16 } } ⟨4, 0, 0x18⟩ = true ∧ regStuck (setHart joined0 0 (getHart joined0 0)) 0 ⟨4, 0, 0x18⟩ (regAddr 0 0x18).toNat = false
    ∧ regBehind joined0 0 (regAddr 0 0x18).toNat = false ∧ viewAt joined0 ⟨4, 0, 0x18⟩ = held Reg.idStatus ∧ reservedFields ⟨4, 0, 0x18⟩ 3 = [] ∧ Reg.idStatus.rw ||| Reg.idStatus.w1c ≠ 0 ∧ Reg.idStatus.rc = 0
    ∧ placeOf (regAddr 1 2064).toNat = some ⟨4, 1, 2064⟩ ∧ viewAt joined0 ⟨4, 1, 2064⟩ = held (Reg.dieCohEvt (.h 0)) ∧ (Reg.dieCohEvt (.h 0)).rc ≠ 0 ∧ regStuck (setHart joined0 0 (getHart joined0 0)) 0 ⟨4, 1, 2064⟩ (regAddr 1 2064).toNat = false
    ∧ placeOf (regAddr 0 0x30).toNat = some ⟨4, 0, 0x30⟩ ∧ viewAt joined0 ⟨4, 0, 0x30⟩ = none ∧ viewAt (setHart joined0 0 (getHart joined0 0)) ⟨4, 0, 0x30⟩ = none := by decide +kernel
/-- A write that clears VALID of the first map entry while it stays valid, one that does not, and a write of XLT_INVAL. -/
theorem witness_RegistersAndHostCores_map : placeOf (regAddr 0xF 0x20000).toNat = some ⟨4, 0xF, 0x20000⟩ ∧ nth 0x20000 0x20000 8 16384 = some 0 ∧ (viewAt (mapped0 entry1) ⟨4, 0xF, 0x20000⟩).isSome = true
    ∧ clearsValid (mapped0 entry1) 0 (entry1 - 1) = true ∧ clearsValid (mapped0 entry1) 0 entry1 = false ∧ bitAt (mapEntry (mapped0 entry1) 0) 0 = true ∧ bitAt (mapEntry joined0 0) 0 = false
    ∧ placeOf (regAddr 0xE 0x1000).toNat = some ⟨4, 0xE, 0x1000⟩ ∧ (viewAt joined0 ⟨4, 0xE, 0x1000⟩).isSome = true := by decide +kernel
/-- A write that has waited for a link may go on. -/
theorem witness_RegistersAndHostCores_held : (let s := { joined0 with err := { joined0.err with held := [((0 : Hart).val, (regAddr 0 0x18).toNat, true, 3)] } }
    s.err.held = [((0 : Hart).val, (regAddr 0 0x18).toNat, true, 3)] ∧ s.err.phase = 0 ∧ regStuck s (0 : Hart).val ⟨4, 0, 0x18⟩ (regAddr 0 0x18).toNat = false) := by decide +kernel
/-- Hart 0 after the start-up, with line 0 in M. -/
def hosted (c : HartState) : State := setHart { copied .m true with boot := { State.reset.boot with phase := 8 } } 0 c
theorem witness_RegistersAndHostCores_hart : hartRuns (hosted {}) (0 : Hart).val = true ∧ hartWaits (hosted {}) (0 : Hart).val = false ∧ inRegSpace (56 : W64).toNat = false ∧ (getHart (hosted {}) (0 : Hart).val).loads = []
    ∧ (getHart (hosted {}) (0 : Hart).val).stores = [] ∧ (56 : W64).toNat % 64 + 2 ^ 3 ≤ 64 ∧ lineOk (hosted {}) ((56 : W64).toNat / 64) = true ∧ (getCopy (hosted {}) (0 : Hart).val ((56 : W64).toNat / 64)).st = .m
    ∧ (∀ q ∈ linePieces (60 : W64).toNat (2 ^ 3), lineOk (hosted {}) (q.1 / 64) = true) ∧ (getHart (hosted { reservation := some 1 }) (0 : Hart).val).reservation ≠ some ((56 : W64).toNat / 64)
    ∧ (List.replicate 127 ({ addr := 0, bytes := 8 } : LoadOut)).length < 128 := by decide +kernel
theorem witness_RegistersAndHostCores_tally : bitAt joined0.brd.clockLost (3 : CDie).val = false ∧ joined0.err.phase < 2 ∧ 2 ≤ (faulty { phase := 2 }).err.phase := by decide +kernel

end Sys2Proof.Tests
end

section
/-! PROOFS. The sequencer's scalar instructions and the ends of a context (R125 to R128): O6, O8 and O10. -/

namespace Sys2Proof.Machine

/-! ### The functions of SALU and the conditions of BR -/

theorem bits_low6 (b : W64) : bits b 5 0 = b.toNat % 64 := by
  simp [bits]

theorem not_slt_eq (a b : W64) : (!a.slt b) = decide (b.toInt ≤ a.toInt) := by
  rw [BitVec.slt_eq_decide, ← decide_not, decide_eq_decide, not_lt]

theorem not_lt_eq (a b : W64) : (!decide (a < b)) = decide (b.toNat ≤ a.toNat) := by
  rw [← decide_not, decide_eq_decide, BitVec.not_lt, BitVec.le_def]

/-- Where the two operands of a signed minimum or maximum are equal, either may be taken. -/
theorem ite_slt_eq_ite_toInt_le {a b x y : W64} (h : a = b → x = y) :
    (if a.slt b then x else y) = if a.toInt ≤ b.toInt then x else y := by
  rcases lt_trichotomy a.toInt b.toInt with hlt | heq | hgt
  · simp [BitVec.slt_eq_decide, hlt, hlt.le]
  · simp [h (BitVec.eq_of_toInt_eq heq)]
  · simp [BitVec.slt_eq_decide, not_lt.2 hgt.le, not_le.2 hgt]

/-- The same of an unsigned one. -/
theorem ite_lt_eq_ite_toNat_le {a b x y : W64} (h : a = b → x = y) :
    (if a < b then x else y) = if a.toNat ≤ b.toNat then x else y := by
  rcases lt_trichotomy a.toNat b.toNat with hlt | heq | hgt
  · simp [BitVec.lt_def, hlt, hlt.le]
  · simp [h (BitVec.eq_of_toNat_eq heq)]
  · simp [BitVec.lt_def, not_lt.2 hgt.le, not_le.2 hgt]

theorem alu_shifts (a b : W64) : alu 0x05 a b = some (a <<< bits b 5 0) ∧ alu 0x06 a b = some (a >>> bits b 5 0)
    ∧ alu 0x07 a b = some (a.sshiftRight (bits b 5 0)) := by
  rw [bits_low6]
  exact ⟨rfl, rfl, rfl⟩

theorem alu_products (a b : W64) : alu 0x08 a b = some (BitVec.ofNat 64 (a.toNat * b.toNat))
    ∧ alu 0x09 a b = some (BitVec.ofNat 64 (a.toNat * b.toNat / 2 ^ 64)) := by
  refine ⟨?_, rfl⟩
  rw [BitVec.ofNat_mul]
  simp [alu]

theorem alu_comparisons (a b : W64) : alu 0x0A a b = some (if a.toInt < b.toInt then 1 else 0)
    ∧ alu 0x0B a b = some (if a.toNat < b.toNat then 1 else 0) := by
  simp [alu, BitVec.slt_eq_decide, BitVec.lt_def]

theorem alu_extrema (a b : W64) : alu 0x0C a b = some (if a.toInt ≤ b.toInt then a else b)
    ∧ alu 0x0D a b = some (if a.toInt ≤ b.toInt then b else a)
    ∧ alu 0x0E a b = some (if a.toNat ≤ b.toNat then a else b)
    ∧ alu 0x0F a b = some (if a.toNat ≤ b.toNat then b else a) := by
  rw [← ite_slt_eq_ite_toInt_le id, ← ite_slt_eq_ite_toInt_le Eq.symm, ← ite_lt_eq_ite_toNat_le id, ← ite_lt_eq_ite_toNat_le Eq.symm]
  exact ⟨rfl, rfl, rfl, rfl⟩

/-- The model's scalar function agrees with every row of Table 5-4. -/
theorem alu_scalarTable (a b : W64) : ∀ e ∈ scalarTable a b, alu e.1 a b = some e.2 := by
  obtain ⟨sll, srl, sra⟩ := alu_shifts a b
  obtain ⟨mul, mulhu⟩ := alu_products a b
  obtain ⟨slt, sltu⟩ := alu_comparisons a b
  obtain ⟨min, max, minu, maxu⟩ := alu_extrema a b
  simp only [scalarTable, List.forall_mem_cons]
  exact ⟨rfl, rfl, rfl, rfl, rfl, sll, srl, sra, mul, mulhu, slt, sltu, min, max, minu, maxu, nofun⟩

/-- Whether a function code is reserved does not depend on the operands. -/
theorem alu_isNone_congr (fn : Nat) (a b a' b' : W64) : (alu fn a b).isNone = (alu fn a' b').isNone := by
  unfold alu
  split <;> simp only [Option.isNone_some, Option.isNone_none]

/-- The cause of a reserved function code does not apply where the function has a result (R125). -/
theorem alu_not_reserved {fn : Nat} {a b v : W64} (h : alu fn a b = some v) :
    ∀ e ∈ [((0x04 : Nat), (alu fn 0 0).isNone)], e.2 = false := by
  rw [alu_isNone_congr fn 0 0 a b, h]
  simp

/-- The model's condition agrees with every row of R126's list. -/
theorem branchHolds_branchTable (a b : W64) : ∀ e ∈ branchTable a b, branchHolds e.1 a b = some e.2 := by
  have ge : branchHolds 4 a b = some (decide (b.toInt ≤ a.toInt)) := congrArg some (not_slt_eq a b)
  have ltu : branchHolds 5 a b = some (decide (a.toNat < b.toNat)) := by simp [branchHolds, BitVec.lt_def]
  have geu : branchHolds 6 a b = some (decide (b.toNat ≤ a.toNat)) := congrArg some (not_lt_eq a b)
  simp only [branchTable, List.forall_mem_cons]
  exact ⟨rfl, rfl, rfl, rfl, ge, ltu, geu, nofun⟩

/-! ### A scalar write that issues -/

theorem destField_lt (w : W64) : bits w 13 9 < 32 := bits_lt w 13 9

/-- An instruction whose one effect is a scalar write leaves everything else but the books of issue (R120). -/
theorem hasIssued_setSreg {s : State} {c : CtxId} {ctx : Ctx} {r : Nat} (hx : getCtx s c = some ctx) (hr : r < 32) (v pc : W64) :
    SregIs s (hasIssued (setSreg s c r v) c pc) c r v ∧ Proceeds s (hasIssued (setSreg s c r v) c pc) c ctx pc
      ∧ OnlySregs s (hasIssued (setSreg s c r v) c pc) := by
  refine ⟨sregIs_of hr rfl, proceeds_of hx (fun e => by simp) (fun d => by simp) (by simp), ?_⟩
  rw [setSreg_eq]
  rfl

/-! ### What each instruction of a ready context answers -/

section
variable {s : State} {c : CtxId} {ctx : Ctx} {w x : W64}

theorem exec_salu_ready {v : W64} (hs : Ready s c ctx) (hl : Legal ctx w 0x08 false [rsv w 63 30])
    (hv : alu (bits w 29 24) (sreg s c (bits w 18 14)) (sreg s c (bits w 23 19)) = some v) :
    exec (.salu c w x) s = .next (hasIssued (setSreg s c (bits w 13 9) v) c (ctx.pc + 8)) := by
  rw [exec_salu, execSalu, clocked_running hs.clocks, issue_ready hs (hl.more (alu_not_reserved hv))]
  simp [settled, hv]

theorem exec_salui_ready {v : W64} (hs : Ready s c ctx) (hl : Legal ctx w 0x09 false [rsv w 31 25])
    (hv : alu (bits w 24 19) (sreg s c (bits w 18 14)) (immOf w) = some v) :
    exec (.salui c w x) s = .next (hasIssued (setSreg s c (bits w 13 9) v) c (ctx.pc + 8)) := by
  rw [exec_salui, execSalui, clocked_running hs.clocks, issue_ready hs (hl.more (alu_not_reserved hv))]
  simp [settled, hv]

theorem exec_nop_ready (hs : Ready s c ctx) (hl : Legal ctx w 0x01 false [rsv w 63 9]) :
    exec (.nop c w x) s = .next (hasIssued s c (ctx.pc + 8)) := by
  rw [exec_nop, execNop, clocked_running hs.clocks, issue_ready hs hl]
  rfl

theorem exec_br_ready {taken : Bool} (hs : Ready s c ctx)
    (hl : Legal ctx w 0x0C false [rsv w 31 22, (0x03, decide (bits w 11 9 = 0 ∧ bits w 21 12 ≠ 0)), (0x05, decide (bits w 34 32 ≠ 0))])
    (ht : branchHolds (bits w 11 9) (sreg s c (bits w 16 12)) (sreg s c (bits w 21 17)) = some taken) :
    exec (.br c w x) s = .next (hasIssued s c (if taken then ctx.pc + immOf w else ctx.pc + 8)) := by
  have hc : bits w 11 9 ≠ 7 := fun h => by simp [h, branchHolds] at ht
  have hl' : Legal ctx w 0x0C false [rsv w 31 22, (0x03, decide (bits w 11 9 = 0 ∧ bits w 21 12 ≠ 0)),
      (0x04, decide (bits w 11 9 = 7)), (0x05, decide (bits w 34 32 ≠ 0))] :=
    hl.of fun e he => by
      simp only [List.mem_cons, List.not_mem_nil, or_false] at he ⊢
      rcases he with rfl | rfl | rfl | rfl
      · exact .inl (.inl rfl)
      · exact .inl (.inr (.inl rfl))
      · exact .inr (decide_eq_false hc)
      · exact .inl (.inr (.inr rfl))
  rw [exec_br, execBr, clocked_running hs.clocks, issue_ready hs hl']
  cases taken <;> simp [settled, ht]

theorem exec_bdnz_ready (hs : Ready s c ctx) (hl : Legal ctx w 0x0D false [rsv w 31 14, (0x05, decide (bits w 34 32 ≠ 0))]) :
    exec (.bdnz c w x) s = .next (hasIssued (setSreg s c (bits w 13 9) (sreg s c (bits w 13 9) - 1)) c
      (if sreg s c (bits w 13 9) = 1 then ctx.pc + 8 else ctx.pc + immOf w)) := by
  rw [exec_bdnz, execBdnz, clocked_running hs.clocks, issue_ready hs hl]
  by_cases h : sreg s c (bits w 13 9) = 1
  · simp [settled, h]
  · have hz : sreg s c (bits w 13 9) - 1#64 ≠ 0#64 := sub_ne_zero.2 h
    rw [if_neg h]
    simp only [settled, BitVec.ofNat_eq_ofNat, hz, ne_eq, not_false_eq_true, if_true]

theorem exec_stopk_ready (hs : Ready s c ctx) (hl : Legal ctx w 0x03 false [rsv w 63 25]) :
    exec (.stopk c w x) s = .next (stopRec s c { cls := 0x0A, addr := ctx.pc, d0 := BitVec.ofNat 64 (bits w 24 9) }) := by
  rw [exec_stopk, execStopk, clocked_running hs.clocks, issue_ready hs hl]
  simp only [settled, stopAt, hs.resident, Option.map_some, Option.getD_some]

end

/-! ### The settled statements on scalar instructions and branches -/

/-- Settles O6: the model's scalar function is Table 5-4's, and the write is the one effect. -/
theorem scalarArithmetic : Obligations.ScalarArithmetic :=
  ⟨fun _ _ _ w _ v hs hl hv =>
    ⟨_, exec_salu_ready hs hl (alu_scalarTable _ _ _ hv), hasIssued_setSreg hs.resident (destField_lt w) v _⟩,
   fun _ _ _ w _ v hs hl hv =>
    ⟨_, exec_salui_ready hs hl (alu_scalarTable _ _ _ hv), hasIssued_setSreg hs.resident (destField_lt w) v _⟩⟩

/-- Settles O8: the model's condition is R126's, and the place where issue goes on is the one effect, but for BDNZ's write. -/
theorem branches : Obligations.Branches :=
  ⟨fun s c _ _ _ hs hl => ⟨_, exec_nop_ready hs hl, hasIssued_advances hs.resident, hasIssued_only s c _⟩,
   fun s c _ _ _ _ hs hl ht =>
    ⟨_, exec_br_ready hs hl (branchHolds_branchTable _ _ _ ht), hasIssued_advances hs.resident, hasIssued_only s c _⟩,
   fun _ _ _ w _ hs hl => ⟨_, exec_bdnz_ready hs hl, hasIssued_setSreg hs.resident (destField_lt w) _ _⟩⟩

/-! ### STOPK: a context that stops -/

theorem slotOfJob_place (s : State) (r : Rec) (job : W16) : slotOfJob (place s r) job = slotOfJob s job := by
  rw [place_only]; rfl

theorem slotOfJob_haltCtx (s : State) (c : CtxId) (info : StopInfo) (job : W16) :
    slotOfJob (haltCtx s c info) job = slotOfJob s job := by
  rw [haltCtx_only]; rfl

/-- A going context whose job has no key slot stops with its record placed and its work discarded; no abort follows (R443, R463). -/
theorem stopRec_noKeySlot {s : State} {c : CtxId} {ctx : Ctx} (r : Rec) (hx : getCtx s c = some ctx) (hs : ctx.stop = none)
    (hk : slotOfJob s ctx.launch.job = none) :
    stopRec s c r = haltCtx (place s { ctxRec c ctx.launch r with action := 1 }) c ⟨r.cls, r.cause, r.addr, r.d0, r.d1⟩ := by
  unfold stopRec
  rw [hx]
  simp only [hs, Option.isSome_none, Bool.false_eq_true, if_false]
  rw [autoAbort_none _ (by rw [slotOfJob_haltCtx, slotOfJob_place]; exact hk)]
  rfl

/-- The slot, the context and the rest of the state after such a stop (R442). -/
theorem haltCtx_place_spec {s : State} {c : CtxId} {ctx : Ctx} (r : Rec) (info : StopInfo) (hx : getCtx s c = some ctx) (hs : ctx.stop = none)
    (hh : ctx.hold = []) :
    (getSlot (haltCtx (place s r) c info) c).occ = .ending
      ∧ getCtx (haltCtx (place s r) c info) c = some { ctx with stop := some info, wait := 7 }
      ∧ haltCtx (place s r) c info = { s with
          eng := (haltCtx (place s r) c info).eng, err := (haltCtx (place s r) c info).err, rf := (haltCtx (place s r) c info).rf } := by
  have hslot := getSlot_haltCtx (s := place s r) info (by rw [getCtx_place]; exact hx) hs c
  rw [if_pos rfl] at hslot
  refine ⟨by rw [hslot], by rw [getCtx, hslot, ← hh], ?_⟩
  rw [haltCtx_only, place_only]

/-! ### END: a slot that empties -/

theorem mem_allSlots (k : SlotId) : k ∈ allSlots := by
  revert k; decide

/-- After one slot has emptied, its engine holds no context where no other slot of it does. -/
theorem slotsEmpty_of_emptied {s u : State} {c : CtxId} (hc : (getSlot u c).occ = .empty) (ho : ∀ d, d ≠ c → getSlot u d = getSlot s d) :
    slotsEmpty u c.te = true ↔ ∀ k, k ≠ c.slot → (getSlot s ⟨c.te, k⟩).occ = .empty := by
  have other : ∀ k, k ≠ c.slot → getSlot u ⟨c.te, k⟩ = getSlot s ⟨c.te, k⟩ :=
    fun k hk => ho _ fun h => hk (congrArg CtxId.slot h)
  simp only [slotsEmpty, List.all_eq_true, decide_eq_true_eq]
  constructor
  · intro h k hk
    rw [← other k hk]
    exact h k (mem_allSlots k)
  · intro h k _
    by_cases hk : k = c.slot
    · subst hk; exact hc
    · rw [other k hk]; exact h k hk

/-- END's state with its groups freed, its slot emptied, its launch complete and its lines dropped; the engine's service state is still to be checked (R127, R219, R328). -/
def slotFreed (s : State) (c : CtxId) (l : Launch) : State :=
  let u := (shareGroups s c).foldl (fun s g => setGroup s c.te g {}) s
  { setSlot u c { getSlot s c with occ := .empty, ctx := none, queue := [], progress := [], stalled := [] } with
    orf := (finishLaunch s l 0x00 0 c.te.val c.slot.val).orf
    fab := (finishLaunch s l 0x00 0 c.te.val c.slot.val).fab
    cl := { s.cl with
      lastLine := smErase s.cl.lastLine (ctxKey c)
      readAhead := smSet [] s.cl.readAhead (clusterOf c.te).val ((readAhead s (clusterOf c.te)).filter fun e => decide (e.1 ≠ c)) } }

theorem emptySlot_freedGroups {s : State} {c : CtxId} {ctx : Ctx} (hx : getCtx s c = some ctx) :
    emptySlot ((shareGroups s c).foldl (fun s g => setGroup s c.te g {}) s) c 0x00 0 = svcCheck (slotFreed s c ctx.launch) c.te := by
  have hu := foldGroups_only (shareGroups s c) c.te {} s
  have hx' : getCtx ((shareGroups s c).foldl (fun s g => setGroup s c.te g {}) s) c = some ctx := by
    rw [getCtx, getSlot_foldGroups]; exact hx
  unfold slotFreed
  rw [emptySlot_eq _ _ hx', getSlot_foldGroups, finishLaunch_of (s := s) (by rw [hu]) (by rw [hu])]
  dsimp only
  rw [hu]
  rfl

theorem exec_endKernel_ready {s : State} {c : CtxId} {ctx : Ctx} {w x : W64} (hs : Ready s c ctx)
    (hl : Legal ctx w 0x02 false [rsv w 63 9]) (hd : allDone s c = true) :
    exec (.endKernel c w x) s = .next (hasIssued (svcCheck (slotFreed s c ctx.launch) c.te) c (ctx.pc + 8)) := by
  rw [exec_endKernel, execEndKernel, clocked_running hs.clocks, issue_ready hs hl, ← emptySlot_freedGroups hs.resident]
  simp [settled, hd]

section
variable {s : State} {c : CtxId} (l : Launch)

theorem getSlot_slotFreed (d : CtxId) : getSlot (slotFreed s c l) d =
    if d = c then { getSlot s c with occ := .empty, ctx := none, queue := [], progress := [], stalled := [] } else getSlot s d := by
  rw [← getSlot_foldGroups (shareGroups s c) c.te {} s d]
  exact getSlot_setSlot _ c d _

theorem getTe_slotFreed (u : TeId) : getTe (slotFreed s c l) u = getTe s u := getTe_foldGroups ..

theorem getGroup_slotFreed (g : GroupId) :
    getGroup (slotFreed s c l) c.te g = if g ∈ shareGroups s c then {} else getGroup s c.te g := by
  have h := getGroup_foldGroups (shareGroups s c) c.te {} s c.te g
  simp only [true_and] at h
  exact h

theorem readAhead_slotFreed (cl : Fin 64) : readAhead (slotFreed s c l) cl =
    if cl = clusterOf c.te then (readAhead s cl).filter (fun e => decide (e.1 ≠ c)) else readAhead s cl := by
  have h : readAhead (slotFreed s c l) cl = if cl.val = (clusterOf c.te).val
      then (readAhead s (clusterOf c.te)).filter (fun e => decide (e.1 ≠ c)) else readAhead s cl := smGet_set ..
  rw [h]
  simp only [← Fin.ext_iff]
  split
  · rename_i e; rw [e]
  · rfl

theorem slotFreed_only : slotFreed s c l = { s with
    eng := (slotFreed s c l).eng, orf := (slotFreed s c l).orf, fab := (slotFreed s c l).fab
    cl := { s.cl with readAhead := (slotFreed s c l).cl.readAhead, lastLine := (slotFreed s c l).cl.lastLine } } := by
  unfold slotFreed
  rw [foldGroups_only]
  rfl

end

/-- The check for a drained engine, and the books of issue, change the engines' tables and the slots alone. -/
theorem hasIssued_svcCheck (u : State) (c : CtxId) (pc : W64) : ∃ te sl, hasIssued (svcCheck u c.te) c pc
    = { u with eng := { u.eng with te := te, slots := sl } } :=
  ⟨_, _, by rw [hasIssued, svcCheck_only]⟩

/-- What issue books on a slot without a context leaves it empty; other slots are as before, and so is the service state of every engine. -/
theorem hasIssued_vacant {u : State} {c : CtxId} (pc : W64) (ho : (getSlot u c).occ = .empty) (hx : (getSlot u c).ctx = none) :
    (getSlot (hasIssued u c pc) c).occ = .empty ∧ getCtx (hasIssued u c pc) c = none
      ∧ (∀ d, d ≠ c → getSlot (hasIssued u c pc) d = getSlot u d) ∧ ∀ e, (getTe (hasIssued u c pc) e).svc = (getTe u e).svc := by
  refine ⟨?_, ?_, fun d hd => ?_, fun e => ?_⟩
  · simp [getSlot_hasIssued, bookIssue, progressed, modCtx, getSlot_setSlot, ho]
  · simp [getCtx, getSlot_hasIssued, bookIssue, progressed, modCtx, getSlot_setSlot, hx]
  · simp [getSlot_hasIssued, bookIssue, progressed, modCtx, getSlot_setSlot, hd]
  · simp only [getTe_hasIssued, bookIssue, progressed, modCtx, getTe_setSlot, getTe_setTe, getTe_bookLost]
    split
    · rename_i h; rw [h]
    · rfl

/-- Settles O10: STOPK is a context stop with its record; END frees the slot, and the books of issue find no context in it. -/
theorem contextEnds : Obligations.ContextEnds := by
  refine ⟨fun s c ctx w x hs hl => ⟨_, exec_stopk_ready hs hl, rfl, fun hk => ?_⟩,
    fun s c ctx w x hs hl hd => ⟨_, exec_endKernel_ready hs hl hd, ?_⟩⟩
  · rw [stopRec_noKeySlot _ hs.resident hs.notStopped hk]
    exact haltCtx_place_spec _ _ hs.resident hs.notStopped hs.noHold
  · have hslot := getSlot_slotFreed (s := s) (c := c) ctx.launch
    have hcheck : ∀ d, getSlot (svcCheck (slotFreed s c ctx.launch) c.te) d = getSlot (slotFreed s c ctx.launch) d :=
      fun d => by rw [svcCheck_only]; rfl
    have hempty := slotsEmpty_of_emptied (s := s) (u := slotFreed s c ctx.launch) (c := c) (by rw [hslot, if_pos rfl])
      fun d hd => by rw [hslot, if_neg hd]
    obtain ⟨hocc, hctx, hother, hsvc⟩ := hasIssued_vacant (u := svcCheck (slotFreed s c ctx.launch) c.te) (c := c) (ctx.pc + 8)
      (by rw [hcheck, hslot, if_pos rfl]) (by rw [hcheck, hslot, if_pos rfl])
    obtain ⟨te, sl, hrest⟩ := hasIssued_svcCheck (slotFreed s c ctx.launch) c (ctx.pc + 8)
    refine ⟨hocc, hctx, fun g => ?_, fun d hd => ?_, ?_, ?_, ?_, fun cl => ?_, ?_⟩
    · rw [hrest]; exact getGroup_slotFreed ctx.launch g
    · rw [hother d hd, hcheck, hslot, if_neg hd]
    · rw [hsvc, getTe_svcCheck, getTe_slotFreed]
      simp only [true_and, hempty]
      split <;> rfl
    · rw [hrest]; rfl
    · rw [hrest]; rfl
    · rw [hrest]; exact readAhead_slotFreed ctx.launch cl
    · rw [hrest]
      conv => lhs; rw [slotFreed_only]

end Sys2Proof.Machine
end

section
/-! PROOFS. The package with its clocks stopped, and the trip that stops them (R431, R432, R24, spec/21): O3, O4 and O5. -/

namespace Sys2Proof.Machine

/-! ### Which commands act with the clocks stopped -/

/-- The commands of the tray's signals, which act on the package whether its clocks run or not (spec/21). -/
inductive TraySignal : Instr → Prop
  | coolantStop (ns : W32) : TraySignal (.coolantStop ns)
  | sealBreak (ns : W32) : TraySignal (.sealBreak ns)
  | resetNFall : TraySignal .resetNFall
  | resetNCaptureDone : TraySignal .resetNCaptureDone
  | resetNRelease : TraySignal .resetNRelease
  | pwrGoodRise : TraySignal .pwrGoodRise
  | pwrGoodFall : TraySignal .pwrGoodFall
  | railFail : TraySignal .railFail

/-- The commands of the stitch blocks that the tray's STITCH_IN and their own clocks bring, which go on under RESET_N (R24). -/
inductive StitchCommand : Instr → Prop
  | stitchEdge (ns : StitchPulse) : StitchCommand (.stitchEdge ns)
  | stitchEdgeAccept : StitchCommand .stitchEdgeAccept
  | substituteBoundary : StitchCommand .substituteBoundary
  | holdoverBoundary : StitchCommand .holdoverBoundary
  | relockTimeout : StitchCommand .relockTimeout

section
variable {s : State} {a : Agent} {line : LineAddr} {proxy f : State → State}

theorem orProxy_stopped (h : running s = false) : orProxy a line proxy f s = .next s := by
  unfold orProxy
  split <;> exact clocked_stopped h

theorem noticeOf_stopped (h : running s = false) : noticeOf a line proxy f s = .next s := by
  unfold noticeOf
  split <;> exact clocked_stopped h

end

/-- Every other command waits for the package's clocks: by the stitch's own guard, by the coherence message that carries it, or by `clocked`, which guards a die's engines and the SPDM requests too. -/
theorem exec_stopped {i : Instr} {s : State} (h : running s = false) (htray : ¬ TraySignal i)
    (hstitch : StitchCommand i → stitchRuns s = false) : exec i s = .next s := by
  cases i with
  | coolantStop ns => exact absurd (.coolantStop ns) htray
  | sealBreak ns => exact absurd (.sealBreak ns) htray
  | resetNFall => exact absurd .resetNFall htray
  | resetNCaptureDone => exact absurd .resetNCaptureDone htray
  | resetNRelease => exact absurd .resetNRelease htray
  | pwrGoodRise => exact absurd .pwrGoodRise htray
  | pwrGoodFall => exact absurd .pwrGoodFall htray
  | railFail => exact absurd .railFail htray
  | stitchEdge ns => apply stitching_stopped (hstitch (.stitchEdge ns))
  | stitchEdgeAccept => apply stitching_stopped (hstitch .stitchEdgeAccept)
  | substituteBoundary => apply stitching_stopped (hstitch .substituteBoundary)
  | holdoverBoundary => apply stitching_stopped (hstitch .holdoverBoundary)
  | relockTimeout => apply stitching_stopped (hstitch .relockTimeout)
  | evictDirty | evictClean => exact noticeOf_stopped h
  | evictAck | probeShare | probeTake | probeKill | probePeek | probeRecall | done | lineData | fail => exact orProxy_stopped h
  | _ => apply clocked_stopped h

/-! ### A tripped package -/

section
variable {s t : State}

theorem Tripped.clocksStopped (h : Tripped s) : running s = false := by
  simp [running, h.gated]

theorem Tripped.stitchStopped (h : Tripped s) : stitchRuns s = false := by
  simp [stitchRuns, stitchAlone, h.clocksStopped, h.gated]

/-- A trip is a matter of three lines of the board. -/
theorem Tripped.of_brd (h : Tripped s) (hg : t.brd.gated = s.brd.gated) (hl : t.brd.latched = s.brd.latched)
    (ht : t.brd.thermtripN = s.brd.thermtripN) : Tripped t :=
  ⟨hg.trans h.gated, hl.trans h.latched, ht.trans h.asserted⟩

theorem tripped_tripPackage (s : State) : Tripped (tripPackage s) := ⟨rfl, rfl, rfl⟩

/-- A reset under power spares the trip (R519). -/
theorem Tripped.after_resetHold (h : Tripped s) (keep : Bool) : Tripped (resetHold s keep false) :=
  h.of_brd (Bool.and_true _) (Bool.and_true _) (Bool.or_false _)

/-! ### What each of the tray's signals makes of a trip -/

theorem exec_coolantStop_latched (h : s.brd.latched = true) (ns : W32) : exec (.coolantStop ns) s = .next s := by
  rw [exec_coolantStop, execCoolantStop, if_pos h]

theorem Tripped.after_sealBreak {ns : W32} (h : Tripped s) (ht : exec (.sealBreak ns) s = .next t) : Tripped t := by
  rw [exec_sealBreak, execSealBreak] at ht
  split at ht
  · cases ht; exact h
  · cases ht; exact h.of_brd rfl rfl rfl

/-- With the clocks stopped there is no capture, and no reset follows (R461). -/
theorem Tripped.after_resetNFall (h : Tripped s) (ht : exec .resetNFall s = .next t) : Tripped t := by
  have hfell : Tripped (setR { s with brd := { s.brd with resetN := false } } Reg.thmCtrl 0) := h.of_brd rfl rfl rfl
  simp only [exec_resetNFall, execResetNFall, hfell.clocksStopped, Bool.not_false, if_true] at ht
  split at ht
  · cases ht; exact h
  · cases ht; exact hfell

theorem Tripped.after_resetNCaptureDone (h : Tripped s) (ht : exec .resetNCaptureDone s = .next t) : Tripped t := by
  rw [exec_resetNCaptureDone, execResetNCaptureDone] at ht
  split at ht
  · cases ht; exact h.after_resetHold true
  · cases ht; exact h

theorem Tripped.after_resetNRelease (h : Tripped s) (ht : exec .resetNRelease s = .next t) : Tripped t := by
  have hheld : Tripped (if s.brd.inReset then s else resetHold s true false) := by
    split
    · exact h
    · exact h.after_resetHold true
  rw [exec_resetNRelease, execResetNRelease] at ht
  split at ht
  · cases ht; exact h
  · cases ht; exact hheld.of_brd rfl rfl rfl

/-- PWR_GOOD that is high already cannot rise: power was not removed. -/
theorem exec_pwrGoodRise_high (h : s.brd.pwrGood = true) : exec .pwrGoodRise s = .next s := by
  rw [exec_pwrGoodRise, execPwrGoodRise, if_pos h]

theorem Tripped.after_pwrGoodFall (h : Tripped s) (ht : exec .pwrGoodFall s = .next t) : Tripped t := by
  rw [exec_pwrGoodFall, execPwrGoodFall] at ht
  split at ht
  · cases ht; exact h
  · cases ht; exact ⟨rfl, h.latched, h.asserted⟩

theorem Tripped.after_railFail (h : Tripped s) (ht : exec .railFail s = .next t) : Tripped t := by
  rw [exec_railFail, execRailFail] at ht
  split at ht
  · cases ht; exact h.of_brd rfl rfl rfl
  · cases ht; exact h

/-- No command ends a trip but PWR_GOOD's rise from low: power that was removed and returns (log entry 96). -/
theorem Tripped.after_exec {i : Instr} (h : Tripped s) (ht : exec i s = .next t) (hpower : i = .pwrGoodRise → s.brd.pwrGood = true) :
    Tripped t := by
  by_cases htray : TraySignal i
  · cases htray with
    | coolantStop ns => cases (exec_coolantStop_latched h.latched ns).symm.trans ht; exact h
    | sealBreak ns => exact h.after_sealBreak ht
    | resetNFall => exact h.after_resetNFall ht
    | resetNCaptureDone => exact h.after_resetNCaptureDone ht
    | resetNRelease => exact h.after_resetNRelease ht
    | pwrGoodRise => cases (exec_pwrGoodRise_high (hpower rfl)).symm.trans ht; exact h
    | pwrGoodFall => exact h.after_pwrGoodFall ht
    | railFail => exact h.after_railFail ht
  · cases (exec_stopped h.clocksStopped htray fun _ => h.stitchStopped).symm.trans ht
    exact h

end

/-! ### What stops the package -/

/-- COOLANT_OK low for 2 µs, armed and not latched yet (R431). -/
theorem exec_coolantStop_armed {s : State} {ns : W32} (hlatch : s.brd.latched = false) (harmed : flagR s Reg.thmCtrl 0 = true)
    (hlow : 2000 ≤ ns.toNat) :
    exec (.coolantStop ns) s = .next (tripPackage { s with brd := { s.brd with coolantOk := false } }) := by
  rw [exec_coolantStop, execCoolantStop, if_neg (Bool.eq_false_iff.1 hlatch)]
  simp only [decide_eq_true hlow, Bool.not_true, Bool.true_and]
  exact congrArg Host.Outcome.next (if_pos harmed)

/-- A die's comparator (R432). -/
theorem exec_thermalTrip_running {s : State} (d : Fin 6) (h : running s = true) : exec (.thermalTrip d) s = .next (tripPackage s) :=
  clocked_running h

/-! ### The settled statements on stopped clocks and trips -/

/-- Settles O3: a command that is no tray signal passes by a guard on the clocks, or by the stitch's own guard. -/
theorem stoppedClocksFreeze : Obligations.StoppedClocksFreeze := by
  intro i s hstop hstitch hcool hseal hfall hdone hrelease hrise hpfall hrail
  refine exec_stopped hstop (fun htray => ?_) fun hcmd => Bool.eq_false_iff.2 fun hruns => ?_
  · cases htray with
    | coolantStop ns => exact hcool ns rfl
    | sealBreak ns => exact hseal ns rfl
    | resetNFall => exact hfall rfl
    | resetNCaptureDone => exact hdone rfl
    | resetNRelease => exact hrelease rfl
    | pwrGoodRise => exact hrise rfl
    | pwrGoodFall => exact hpfall rfl
    | railFail => exact hrail rfl
  · obtain ⟨hedge, haccept, hsubst, hhold, hrelock⟩ := hstitch hruns
    cases hcmd with
    | stitchEdge ns => exact hedge ns rfl
    | stitchEdgeAccept => exact haccept rfl
    | substituteBoundary => exact hsubst rfl
    | holdoverBoundary => exact hhold rfl
    | relockTimeout => exact hrelock rfl

/-- Settles O4: the queue's front is a tray signal, each of which spares the trip, or a command that waits for the clocks. -/
theorem tripStaysLatched : Obligations.TripStaysLatched := by
  intro s t h ht hpower
  cases hq : s.pending with
  | nil =>
    simp only [step, hq] at ht
    cases ht
    exact h.of_brd rfl rfl rfl
  | cons i rest =>
    have hrest : Tripped { s with pending := rest } := h.of_brd rfl rfl rfl
    simp only [step, hq] at ht
    exact hrest.after_exec ht fun hi => hpower rest (hi ▸ hq)

/-- Settles O5: both commands are the package's trip, which changes its board alone. -/
theorem coolantAndHeatTrip : Obligations.CoolantAndHeatTrip :=
  ⟨fun _ _ hlatch harmed hlow => ⟨_, exec_coolantStop_armed hlatch harmed hlow, tripped_tripPackage _, rfl, rfl⟩,
   fun _ d h => ⟨_, exec_thermalTrip_running d h, tripped_tripPackage _, rfl⟩⟩

end Sys2Proof.Machine
end

section
/-! PROOFS. The key agreement of Thimble: binding, rotating and clearing job keys, and the messages of a job's key and of a port's (R474 to R477): O37. -/

namespace Sys2Proof.Machine

/-! ### What the shared operations of a key agreement leave -/

theorem getKey_endAgree (s : State) (result node k : Nat) : getKey (endAgree s result node) k = getKey s k := rfl
theorem getKey_kexSend (s : State) (kind slot dst k : Nat) (content : List Byte) : getKey (kexSend s kind slot dst content) k = getKey s k := rfl
theorem agree_setAgree (s : State) (b : Option KeyAgree) : (setAgree s b).fab.agree = b := rfl

/-- A key slot's new value changes the slots alone. -/
theorem setKey_frame (s : State) (k : Nat) (v : KeySlot) : ∃ sl, setKey s k v = { s with fab := { s.fab with slots := sl } } := ⟨_, rfl⟩

theorem kexBytes_setKey (s : State) (k kind slot : Nat) (v : KeySlot) (content : List Byte) :
    kexBytes (setKey s k v) kind slot content = kexBytes s kind slot content := rfl

/-- A leader that installs the key ends its agreement. -/
theorem installed_frame (s : State) (b : Option KeyAgree) (k : Nat) (v : KeySlot) : ∃ sl, endAgree (setKey (setAgree s b) k v) 0 0
    = { s with sec := { s.sec with keyResult := 0, keyNode := 0 }, fab := { s.fab with agree := none, slots := sl } } := by
  obtain ⟨sl, hset⟩ := setKey_frame (setAgree s b) k v
  rw [hset]
  exact ⟨sl, rfl⟩

/-- A peer that installs a key and acknowledges it ends its agreement. -/
theorem acknowledged_frame (s : State) (k dst : Nat) (v : KeySlot) : ∃ sl, endAgree (kexSend (setKey s k v) 3 k dst []) 0 0
    = { s with sec := { s.sec with keyResult := 0, keyNode := 0 }, fab := { s.fab with
        agree := none, slots := sl, kexOut := s.fab.kexOut ++ [⟨3, k, dst, kexBytes s 3 k []⟩] } } := by
  obtain ⟨sl, hset⟩ := setKey_frame s k v
  rw [kexSend, kexBytes_setKey, hset]
  exact ⟨sl, rfl⟩

/-- The two states differ in their links at most: what a packet that arrives right leaves of a state. -/
def LinksOnly (s u : State) : Prop := ∃ ls, u = { s with fab := { s.fab with links := ls } }

section
variable {s u : State} (h : LinksOnly s u)
include h

theorem LinksOnly.draws : u.draws = s.draws := by obtain ⟨ls, rfl⟩ := h; rfl
theorem LinksOnly.agree : u.fab.agree = s.fab.agree := by obtain ⟨ls, rfl⟩ := h; rfl
theorem LinksOnly.kexOut : u.fab.kexOut = s.fab.kexOut := by obtain ⟨ls, rfl⟩ := h; rfl
theorem LinksOnly.fieldR (r : Reg) (hi lo : Nat) : fieldR u r hi lo = fieldR s r hi lo := by obtain ⟨ls, rfl⟩ := h; rfl
theorem LinksOnly.myNode : myNode u = myNode s := by obtain ⟨ls, rfl⟩ := h; rfl
theorem LinksOnly.getKey (k : Nat) : getKey u k = getKey s k := by obtain ⟨ls, rfl⟩ := h; rfl
theorem LinksOnly.peersOf (k : Nat) : peersOf u k = peersOf s k := by obtain ⟨ls, rfl⟩ := h; rfl
theorem LinksOnly.leaderOf (peers : List Nat) : leaderOf u peers = leaderOf s peers := by obtain ⟨ls, rfl⟩ := h; rfl
theorem LinksOnly.kexGood (m : KexMsg) : kexGood u m = kexGood s m := by obtain ⟨ls, rfl⟩ := h; rfl
theorem LinksOnly.kexBytes (kind slot : Nat) (content : List Byte) : kexBytes u kind slot content = kexBytes s kind slot content := by
  obtain ⟨ls, rfl⟩ := h; rfl
theorem LinksOnly.wrappedKey (m : KexMsg) (secret : BitVec 512) : wrappedKey u m secret = wrappedKey s m secret := by
  obtain ⟨ls, rfl⟩ := h; rfl

end

theorem linksOnly_heardPacket (s : State) (l cls n : Nat) : LinksOnly s (heardPacket s l cls n) :=
  (heardPacket_frame s l cls n).imp fun _ h => h.1

/-! ### An agreement starts (R474, R476) -/

/-- The agreement that BIND or ROTATE begins, before its HELLO. -/
def freshAgree (s : State) (k : Nat) (job : W16) (rotate leader : Bool) (peers : List Nat) : KeyAgree :=
  { slot := k, job := job, rotate := rotate, leader := leader, peers := peers, hellos := [], acks := []
    key := Config.draw256 s.draws, since := s.now, helloSent := false }

section
variable {s : State} {k : Nat} {job : W16} {rotate leader : Bool} {peers : List Nat} {a : KeyAgree}

theorem startAgree_eq (hp : peersOf s k = peers) (hl : decide (leaderOf s peers = myNode s) = leader) : startAgree s k job rotate
    = leaderDone (sendHello (setAgree (draw s).2 (some (freshAgree s k job rotate leader peers)))) := by
  subst hp hl
  rfl

/-- A peer's HELLO goes to the leader, with a key of its own. -/
theorem sendHello_peer (hl : a.leader = false) (hh : a.helloSent = false) (hr : s.sec.aliasReady = true) :
    sendHello (setAgree s (some a)) = setAgree (kexSend (draw s).2 1 a.slot (leaderOf s a.peers)
      (helloContent s (Config.draw512 s.draws))) (some { a with helloSent := true, kem := Config.draw512 s.draws }) := by
  simp only [sendHello, setAgree, hh, hr, hl, Bool.not_true, Bool.or_self, Bool.false_eq_true, if_false]
  rfl

/-- The leader of a rotation asks every peer for a HELLO. -/
theorem sendHello_rotation (hl : a.leader = true) (hh : a.helloSent = false) (ht : a.rotate = true) (hr : s.sec.aliasReady = true) :
    sendHello (setAgree s (some a)) = setAgree { s with fab := { s.fab with
      kexOut := s.fab.kexOut ++ a.peers.map fun n => ⟨0, a.slot, n, kexBytes s 0 a.slot []⟩ } } (some { a with helloSent := true }) := by
  simp only [sendHello, setAgree, hh, hr, hl, ht, Bool.not_true, Bool.or_self, Bool.false_eq_true, if_false, if_true, foldl_kexSend]
  rfl

/-- A package without peers is its own leader and waits for nobody. -/
theorem startAgree_alone (hp : peersOf s k = []) : startAgree s k job false
    = endAgree (setKey (draw s).2 k { job := job, valid := true, key0 := Config.draw256 s.draws, has0 := true }) 0 0 := by
  obtain ⟨sent, hsent⟩ := sendHello_leader (draw s).2 (freshAgree s k job false true []) rfl rfl rfl
  rw [startAgree_eq hp (decide_eq_true rfl), hsent, leaderDone_bind (agree_setAgree ..) rfl (fun _ => id) rfl]
  rfl

theorem startAgree_peer (hp : peersOf s k = peers) (hl : leaderOf s peers ≠ myNode s) (hr : s.sec.aliasReady = true) :
    startAgree s k job rotate = setAgree (kexSend (draw (draw s).2).2 1 k (leaderOf s peers) (helloContent s (Config.draw512 (s.draws + 1))))
      (some { freshAgree s k job rotate false peers with helloSent := true, kem := Config.draw512 (s.draws + 1) }) := by
  rw [startAgree_eq hp (decide_eq_false hl), sendHello_peer (s := (draw s).2) rfl rfl hr, leaderDone_waits (agree_setAgree ..) (.inl rfl)]
  rfl

theorem startAgree_rotation (hp : peersOf s k = peers) (hl : leaderOf s peers = myNode s) (hr : s.sec.aliasReady = true) (hne : peers ≠ []) :
    startAgree s k job true = setAgree { (draw s).2 with fab := { s.fab with
      kexOut := s.fab.kexOut ++ peers.map fun n => ⟨0, k, n, kexBytes s 0 k []⟩ } } (some { freshAgree s k job true true peers with helloSent := true }) := by
  obtain ⟨n, hn⟩ := List.exists_mem_of_ne_nil _ hne
  rw [startAgree_eq hp (decide_eq_true hl), sendHello_rotation (s := (draw s).2) rfl rfl rfl hr,
    leaderDone_waits (agree_setAgree ..) (.inr ⟨n, hn, List.not_mem_nil⟩)]
  rfl

end

/-! ### The operations of SEC_KEYREQ, and the time limit -/

section
variable {s : State} {v : W64} {peers : List Nat} (h : running s = true) (hk : bits v 7 0 ≠ 255)
include h hk

theorem exec_bind_valid (ha : s.fab.agree = none) (hv : (getKey s (bits v 7 0)).valid = true) :
    exec (.bind v) s = .next (secRefuse { s with sec := { s.sec with keyResult := 3, keyNode := 0 } }) := by
  simp [execBind, clocked_running h, hk, ha, hv]

theorem exec_bind_free (ha : s.fab.agree = none) (hv : (getKey s (bits v 7 0)).valid = false) :
    exec (.bind v) s = .next (startAgree s (bits v 7 0) (v.extractLsb' 16 16) false) := by
  simp [execBind, clocked_running h, hk, ha, hv]

theorem exec_rotate_leader (ha : s.fab.agree = none) (hv : (getKey s (bits v 7 0)).valid = true)
    (hp : peersOf s (bits v 7 0) = peers) (hl : leaderOf s peers = myNode s) :
    exec (.rotate v) s = .next (startAgree s (bits v 7 0) (getKey s (bits v 7 0)).job true) := by
  simp [execRotate, clocked_running h, hk, ha, hv, hp, hl]

theorem exec_clear_slot : exec (.clear v) s
    = .next (setKey { s with fab := { s.fab with switches := s.fab.switches.filter fun w => decide (w.slot ≠ bits v 7 0) } } (bits v 7 0) {}) := by
  simp [execClear, clocked_running h, hk]

theorem bind_alone (ha : s.fab.agree = none) (hv : (getKey s (bits v 7 0)).valid = false) (hp : peersOf s (bits v 7 0) = []) :
    Answers (.bind v) s fun t =>
      (∀ j, getKey t j = if j = bits v 7 0 then { job := v.extractLsb' 16 16, valid := true, key0 := Config.draw256 s.draws, has0 := true } else getKey s j)
        ∧ t.sec = { s.sec with keyResult := 0, keyNode := 0 } ∧ t = { s with draws := s.draws + 1, sec := t.sec, fab := { s.fab with slots := t.fab.slots } } := by
  refine ⟨_, exec_bind_free h hk ha hv, ?_⟩
  rw [startAgree_alone hp, endAgree, setAgree, ← ha]
  exact ⟨(getKey_setKey (draw s).2 _ · _), rfl, rfl⟩

theorem bind_peer (ha : s.fab.agree = none) (hv : (getKey s (bits v 7 0)).valid = false) (hp : peersOf s (bits v 7 0) = peers)
    (hl : leaderOf s peers ≠ myNode s) (hr : s.sec.aliasReady = true) : Answers (.bind v) s fun t =>
      t.fab.agree = some ⟨bits v 7 0, v.extractLsb' 16 16, false, false, peers, [], [], Config.draw256 s.draws, s.now, true, Config.draw512 (s.draws + 1)⟩
        ∧ t.fab.kexOut = s.fab.kexOut ++ [⟨1, bits v 7 0, leaderOf s peers, kexBytes s 1 (bits v 7 0) (helloContent s (Config.draw512 (s.draws + 1)))⟩]
        ∧ t = { s with draws := s.draws + 2, fab := { s.fab with agree := t.fab.agree, kexOut := t.fab.kexOut } } := by
  refine ⟨_, exec_bind_free h hk ha hv, ?_⟩
  rw [startAgree_peer hp hl hr]
  exact ⟨rfl, rfl, rfl⟩

theorem rotate_leader (ha : s.fab.agree = none) (hv : (getKey s (bits v 7 0)).valid = true) (hp : peersOf s (bits v 7 0) = peers)
    (hl : leaderOf s peers = myNode s) (hr : s.sec.aliasReady = true) (hne : peers ≠ []) : Answers (.rotate v) s fun t =>
      t.fab.agree = some ⟨bits v 7 0, (getKey s (bits v 7 0)).job, true, true, peers, [], [], Config.draw256 s.draws, s.now, true, 0⟩
        ∧ t.fab.kexOut = s.fab.kexOut ++ peers.map (fun n => ⟨0, bits v 7 0, n, kexBytes s 0 (bits v 7 0) []⟩)
        ∧ t = { s with draws := s.draws + 1, fab := { s.fab with agree := t.fab.agree, kexOut := t.fab.kexOut } } := by
  refine ⟨_, exec_rotate_leader h hk ha hv hp hl, ?_⟩
  rw [startAgree_rotation hp hl hr hne]
  exact ⟨rfl, rfl, rfl⟩

theorem clear_slot : Answers (.clear v) s fun t =>
    (∀ j, getKey t j = if j = bits v 7 0 then {} else getKey s j) ∧ (∀ w ∈ t.fab.switches, w.slot ≠ bits v 7 0)
      ∧ t = { s with fab := { s.fab with slots := t.fab.slots, switches := t.fab.switches } } := by
  refine ⟨_, exec_clear_slot h hk, (getKey_setKey _ _ · _), fun w hw => of_decide_eq_true (List.mem_filter.1 hw).2, ?_⟩
  obtain ⟨sl, hframe⟩ := setKey_frame { s with fab := { s.fab with switches := s.fab.switches.filter fun w => decide (w.slot ≠ bits v 7 0) } } (bits v 7 0) {}
  rw [hframe]

end

/-- After 1 s the agreement is given up; what a peer misses is its leader. -/
theorem exec_bindTimeout_agree {s : State} {a : KeyAgree} (h : running s = true) (ha : s.fab.agree = some a) :
    ∃ missing, exec .bindTimeout s = .next (endAgree (advanceTo s (a.since + usT 1000000)) 1 missing)
      ∧ (a.leader = false → missing = leaderOf s a.peers) := by
  rw [exec_bindTimeout, execBindTimeout, clocked_running h]
  simp only [ha]
  exact ⟨_, rfl, fun hl => by rw [hl]; rfl⟩

/-! ### A message of class KEX arrives (R380, R390, R468) -/

section
variable {s : State} {m : KexMsg}

theorem kexArrives_elsewhere (hup : linkUp s (7 + m.port.val) = true) (hdst : m.dst.toNat ≠ myNode s) (kind : Nat) :
    kexArrives s kind m = xfRecord (countR (heardPacket s (7 + m.port.val) 3 (kexPayload m)) Reg.xfEvt 63 48 1) m.port 0x07
      (mkHdr m.dst.toNat m.src.toNat 3 false m.slot.toNat 0 0 0) := by
  unfold kexArrives
  simp only [hup, Bool.not_true, Bool.false_eq_true, if_false]
  exact if_pos hdst

theorem kexArrives_here (hup : linkUp s (7 + m.port.val) = true) (hdst : m.dst.toNat = myNode s) (kind : Nat) :
    kexArrives s kind m = kexMessage (heardPacket s (7 + m.port.val) 3 (kexPayload m)) kind m := by
  unfold kexArrives
  simp only [hup, Bool.not_true, Bool.false_eq_true, if_false]
  exact if_neg fun h => h hdst

theorem kexMessage_waits (h : s.sec.aliasReady = false) (kind : Nat) :
    kexMessage s kind m = { s with sec := { s.sec with kexWaiting := s.sec.kexWaiting ++ [(kind, m)] } } :=
  if_neg (Bool.eq_false_iff.1 h)

theorem kexMessage_ready (h : s.sec.aliasReady = true) (kind : Nat) : kexMessage s kind m = kexDo s kind m := if_pos h

end

/-- The commands of class KEX, each with the kind of its message. -/
def kexCommands (m : KexMsg) : List (Instr × Nat) := [(.helloReceive m, 1), (.wrapReceive m, 2), (.kexAckReceive m, 3), (.switchReceive m, 4)]

/-- They differ in that kind alone. -/
theorem exec_kexCommand (s : State) (m : KexMsg) : ∀ p ∈ kexCommands m, exec p.1 s = clocked s fun s => kexArrives s p.2 m := by
  simp only [kexCommands, List.forall_mem_cons]
  exact ⟨rfl, rfl, rfl, rfl, fun _ h => absurd h List.not_mem_nil⟩

section
variable {s u : State} {m : KexMsg} {c : Instr} {kind : Nat} (h : running s = true) (hup : linkUp s (7 + m.port.val) = true)
  (hu : u = heardPacket s (7 + m.port.val) 3 (kexPayload m))
  (hc : (c, kind) ∈ kexCommands m)
include h hup hu hc

theorem exec_kexCommand_elsewhere (hdst : m.dst.toNat ≠ myNode s) : exec c s = .next
    (xfRecord (countR u Reg.xfEvt 63 48 1) m.port 0x07 (mkHdr m.dst.toNat m.src.toNat 3 false m.slot.toNat 0 0 0)) := by
  rw [exec_kexCommand s m _ hc, clocked_running h, kexArrives_elsewhere hup hdst, hu]

theorem exec_kexCommand_here (hdst : m.dst.toNat = myNode s) : exec c s = .next (kexMessage u kind m) := by
  rw [exec_kexCommand s m _ hc, clocked_running h, kexArrives_here hup hdst, hu]

theorem exec_kexCommand_waits (hdst : m.dst.toNat = myNode s) (hr : s.sec.aliasReady = false) :
    exec c s = .next { u with sec := { u.sec with kexWaiting := u.sec.kexWaiting ++ [(kind, m)] } } := by
  rw [exec_kexCommand_here h hup hu hc hdst, kexMessage_waits (s := u) (by rw [hu]; exact hr)]

theorem exec_kexCommand_ready (hdst : m.dst.toNat = myNode s) (hr : s.sec.aliasReady = true) : exec c s = .next (kexDo u kind m) := by
  rw [exec_kexCommand_here h hup hu hc hdst, kexMessage_ready (s := u) (by rw [hu]; exact hr)]

end

/-! ### What Thimble makes of a message of the agreement in progress (R474, R475) -/

section
variable {s : State} {m : KexMsg} {a : KeyAgree}

theorem kexHello_awaited (ha : s.fab.agree = some a) (hslot : m.slot.toNat = a.slot) (hl : a.leader = true) (hj : m.job = a.job)
    (hp : m.src.toNat ∈ a.peers) (hh : m.src.toNat ∉ a.hellos) :
    kexHello s m = if kexGood s m then
        { s with draws := s.draws + 1, fab := { s.fab with
          agree := some { a with hellos := a.hellos ++ [m.src.toNat] }
          kexOut := s.fab.kexOut ++ [⟨2, a.slot, m.src.toNat, kexBytes s 2 a.slot (Config.kemCipher (m.body.take kemBytes) (Config.draw256 s.draws)
            ++ Config.sealKey (kekOf (Config.kemSecret (m.body.take kemBytes) (Config.draw256 s.draws)) (myNode s) m.src.toNat a.job a.slot) a.key)⟩] } }
      else endAgree s 2 m.src.toNat := by
  unfold kexHello
  cases kexGood s m <;> simp [ha, hl, hslot, hj, hp, hh, draw, setAgree, kexSend, kexBytes, myNode, fieldR, getR]

theorem kexWrap_awaited (ha : s.fab.agree = some a) (hslot : m.slot.toNat = a.slot) (hl : a.leader = false) (hh : a.helloSent = true)
    (hj : m.job = a.job) (hsrc : m.src.toNat = leaderOf s a.peers) (hgood : kexGood s m = true) :
    kexWrap s m = endAgree (kexSend (setKey s a.slot { job := a.job, valid := true, key0 := wrappedKey s m a.kem, has0 := true })
      3 a.slot m.src.toNat []) 0 0 := by
  unfold kexWrap
  simp [ha, hslot, hl, hh, hj, ← hsrc, hgood, installKey]

theorem kexAck_awaited (ha : s.fab.agree = some a) (hslot : m.slot.toNat = a.slot) (hl : a.leader = true) (hh : m.src.toNat ∈ a.hellos)
    (hn : m.src.toNat ∉ a.acks) (hgood : kexGood s m = true) :
    kexAck s m = leaderDone (setAgree s (some { a with acks := a.acks ++ [m.src.toNat] })) := by
  unfold kexAck
  simp [ha, hslot, hl, hh, hn, hgood]

theorem kexSwitch_leader (hk : m.slot.toNat ≠ 255) (hv : (getKey s m.slot.toNat).valid = true)
    (hhas : (if (getKey s m.slot.toNat).epoch then (getKey s m.slot.toNat).has0 else (getKey s m.slot.toNat).has1) = true)
    (hp : m.src.toNat ∈ peersOf s m.slot.toNat) (hl : m.src.toNat = leaderOf s (peersOf s m.slot.toNat)) (hgood : kexGood s m = true) :
    kexSwitch s m = { s with fab := { s.fab with switches := s.fab.switches ++ [⟨m.slot.toNat, m.stitch, false⟩] } } := by
  unfold kexSwitch
  simp [hk, hv, hhas, hp, ← hl, hgood]

end

section
variable {s u : State} {m : KexMsg} {a : KeyAgree} (hu : LinksOnly s u) (ha : s.fab.agree = some a) (hslot : m.slot.toNat = a.slot)
include hu

section
include ha hslot

theorem kexHello_heard (hl : a.leader = true) (hj : m.job = a.job) (hp : m.src.toNat ∈ a.peers) (hh : m.src.toNat ∉ a.hellos) :
    kexHello u m = if kexGood s m then
        { u with draws := s.draws + 1, fab := { u.fab with
          agree := some { a with hellos := a.hellos ++ [m.src.toNat] }
          kexOut := u.fab.kexOut ++ [⟨2, a.slot, m.src.toNat, kexBytes s 2 a.slot (Config.kemCipher (m.body.take kemBytes) (Config.draw256 s.draws)
            ++ Config.sealKey (kekOf (Config.kemSecret (m.body.take kemBytes) (Config.draw256 s.draws)) (myNode s) m.src.toNat a.job a.slot) a.key)⟩] } }
      else { u with sec := { u.sec with keyResult := 2, keyNode := m.src.toNat }, fab := { u.fab with agree := none } } := by
  rw [← hu.kexGood, ← hu.draws, ← hu.kexBytes, ← hu.myNode]
  exact kexHello_awaited (hu.agree.trans ha) hslot hl hj hp hh

theorem kexWrap_heard (hl : a.leader = false) (hh : a.helloSent = true) (hj : m.job = a.job) (hsrc : m.src.toNat = leaderOf s a.peers)
    (hgood : kexGood s m = true) :
    (∀ j, getKey (kexWrap u m) j = if j = a.slot then { job := a.job, valid := true, key0 := wrappedKey s m a.kem, has0 := true } else getKey s j)
      ∧ (kexWrap u m).fab.kexOut = s.fab.kexOut ++ [⟨3, a.slot, m.src.toNat, kexBytes s 3 a.slot []⟩]
      ∧ kexWrap u m = { u with sec := { u.sec with keyResult := 0, keyNode := 0 }, fab := { u.fab with
          agree := none, slots := (kexWrap u m).fab.slots, kexOut := (kexWrap u m).fab.kexOut } } := by
  rw [kexWrap_awaited (hu.agree.trans ha) hslot hl hh hj (hsrc.trans (hu.leaderOf _).symm) ((hu.kexGood m).trans hgood),
    ← hu.kexOut, ← hu.kexBytes, hu.wrappedKey]
  generalize ({ job := a.job, valid := true, key0 := wrappedKey s m a.kem, has0 := true } : KeySlot) = key
  obtain ⟨sl, hframe⟩ := acknowledged_frame u a.slot m.src.toNat key
  refine ⟨fun j => ?_, ?_, ?_⟩
  · rw [getKey_endAgree, getKey_kexSend, getKey_setKey, hu.getKey]
  · rw [hframe]
  · rw [hframe]

section
variable (hl : a.leader = true) (hh : m.src.toNat ∈ a.hellos) (hn : m.src.toNat ∉ a.acks) (hgood : kexGood s m = true)
include hl hh hn hgood

theorem kexAck_counts (hwait : ∃ n ∈ a.peers, n ∉ a.acks ++ [m.src.toNat]) :
    kexAck u m = { u with fab := { u.fab with agree := some { a with acks := a.acks ++ [m.src.toNat] } } } := by
  rw [kexAck_awaited (hu.agree.trans ha) hslot hl hh hn ((hu.kexGood m).trans hgood), leaderDone_waits (agree_setAgree ..) (.inr hwait)]
  rfl

theorem kexAck_last (hall : ∀ n ∈ a.peers, n ∈ a.acks ++ [m.src.toNat]) (hrot : a.rotate = false) :
    (∀ j, getKey (kexAck u m) j = if j = a.slot then { job := a.job, valid := true, key0 := a.key, has0 := true } else getKey s j)
      ∧ kexAck u m = { u with sec := { u.sec with keyResult := 0, keyNode := 0 }, fab := { u.fab with
          agree := none, slots := (kexAck u m).fab.slots } } := by
  rw [kexAck_awaited (hu.agree.trans ha) hslot hl hh hn ((hu.kexGood m).trans hgood),
    leaderDone_bind (agree_setAgree u (some { a with acks := a.acks ++ [m.src.toNat] })) hl hall hrot]
  obtain ⟨sl, hframe⟩ := installed_frame u (some { a with acks := a.acks ++ [m.src.toNat] }) a.slot
    { job := a.job, valid := true, key0 := a.key, has0 := true }
  refine ⟨fun j => ?_, ?_⟩
  · rw [getKey_endAgree, getKey_setKey, ← hu.getKey]
    rfl
  · rw [hframe]

end
end

theorem kexSwitch_heard (hk : m.slot.toNat ≠ 255) (hv : (getKey s m.slot.toNat).valid = true)
    (hhas : (if (getKey s m.slot.toNat).epoch then (getKey s m.slot.toNat).has0 else (getKey s m.slot.toNat).has1) = true)
    (hp : m.src.toNat ∈ peersOf s m.slot.toNat) (hl : m.src.toNat = leaderOf s (peersOf s m.slot.toNat)) (hgood : kexGood s m = true) :
    kexSwitch u m = { u with fab := { u.fab with switches := u.fab.switches ++ [⟨m.slot.toNat, m.stitch, false⟩] } } := by
  rw [← hu.getKey] at hv hhas
  rw [← hu.peersOf] at hp hl
  rw [← hu.leaderOf] at hl
  exact kexSwitch_leader hk hv hhas hp hl ((hu.kexGood m).trans hgood)

end

/-! ### The key of a mirror port (R394, R477) -/

/-- A step that leaves a mirror port's link with the given words on its key, and every other link as it was: it may draw, send flits and start the port's sequence numbers anew, and changes nothing else. -/
structure PortKeyed (s t : State) (l : Nat) (hello valid : Bool) (key : BitVec 256) : Prop where
  hello : (getLink t l).keyHello = hello
  valid : (getLink t l).keyValid = valid
  key : (getLink t l).portKey = key
  others : ∀ j, j ≠ l → getLink t j = getLink s j
  frame : ∃ d ls sl w, t = { s with draws := d, fab := { s.fab with links := ls, slots := sl, wire := w } }

theorem pkeySend_eq_sendFlits (s : State) (n kind : Nat) (content : List Byte) : pkeySend s n kind content
    = sendFlits s (24 + n) 2 ((areas 1000 (kexBytes s kind 255 content)).map (controlBody 5)) := by
  rw [sendFlits, List.foldl_map]
  rfl

theorem getLink_heardFlits (s : State) (l n : Nat) : getLink (heardFlits s l n) l
    = { getLink s l with lastGood := s.now, nak := false, got := (getLink s l).got + BitVec.ofNat 12 n } := by
  rw [heardFlits, getLink_setLink, if_pos rfl]

section
variable {s t : State} {l n : Nat} {hello valid : Bool} {key : BitVec 256}

theorem portKeyed_setLink (s : State) (l d : Nat) (v : Link) :
    PortKeyed s (setLink { s with draws := d } l v) l v.keyHello v.keyValid v.portKey := by
  have h := getLink_setLink { s with draws := d } l l v
  rw [if_pos rfl] at h
  exact ⟨by rw [h], by rw [h], by rw [h], fun j hj => (getLink_setLink _ l j v).trans (if_neg hj), _, _, _, _, rfl⟩

theorem PortKeyed.setKey (h : PortKeyed s t l hello valid key) (k : Nat) (v : KeySlot) : PortKeyed s (setKey t k v) l hello valid key := by
  obtain ⟨hhello, hvalid, hkey, hothers, d, ls, sl, w, rfl⟩ := h
  exact ⟨hhello, hvalid, hkey, hothers, _, _, _, _, rfl⟩

theorem PortKeyed.pkeySend (h : PortKeyed s t (24 + n) hello valid key) (kind : Nat) (content : List Byte) :
    PortKeyed s (pkeySend t n kind content) (24 + n) hello valid key := by
  rw [pkeySend_eq_sendFlits]
  generalize (areas 1000 (kexBytes t kind 255 content)).map (controlBody 5) = bodies
  obtain ⟨a, r, b, hlink⟩ := getLink_sendFlits t (24 + n) (24 + n) 2 bodies
  refine ⟨?_, ?_, ?_, fun j hj => ?_, ?_⟩
  · rw [hlink]; exact h.hello
  · rw [hlink]; exact h.valid
  · rw [hlink]; exact h.key
  · rw [getLink_sendFlits_ne t hj]; exact h.others j hj
  · obtain ⟨ls, w, hsent⟩ := sendFlits_frame t (24 + n) 2 bodies
    obtain ⟨d, ls₀, sl, w₀, rfl⟩ := h.frame
    exact ⟨_, _, _, _, hsent⟩

/-- The flits that brought the message count on the port's own link. -/
theorem PortKeyed.of_heardFlits {f : Nat} (h : PortKeyed (heardFlits s l f) t l hello valid key) : PortKeyed s t l hello valid key :=
  { h with
    others := fun j hj => (h.others j hj).trans ((getLink_setLink s l j _).trans (if_neg hj))
    frame := h.frame }

end

section
variable {s : State} {m : KexMsg} {n : Nat} (hup : linkUp s (24 + n) = true) (hv : (getLink s (24 + n)).keyValid = false)
  (hsent : (getLink s (24 + n)).helloSent = true) (hsrc : m.src.toNat = fieldR s (Reg.mirPort n) 15 0) (hgood : kexGood s m = true)
include hup hv hsent hsrc hgood

/-- No check refuses the message: the partner signed it, and the port awaits one. -/
theorem pkey_checked : ¬ ((getLink s (24 + n)).phase ≠ .up ∨ (getLink s (24 + n)).keyValid ∨ !(getLink s (24 + n)).helloSent
    ∨ m.src.toNat ≠ fieldR s (Reg.mirPort n) 15 0 ∨ !kexGood s m) := by
  simp [of_decide_eq_true hup, hv, hsent, hsrc, hgood]

/-- The partner's HELLO: the end of lower node ID encapsulates to its key, and the other waits for the ciphertext. -/
theorem pkeyTake_hello (hh : (getLink s (24 + n)).keyHello = false) : PortKeyed s (pkeyTake s n m) (24 + n) true false
    (if myNode s < fieldR s (Reg.mirPort n) 15 0
      then portKeyOf (Config.kemSecret (m.body.take kemBytes) (Config.draw256 s.draws)) (myNode s) (fieldR s (Reg.mirPort n) 15 0)
      else (getLink s (24 + n)).portKey) := by
  unfold pkeyTake
  simp only [if_neg (pkey_checked hup hv hsent hsrc hgood), hh, Bool.not_false, if_true]
  split
  · rw [← hv]
    exact (portKeyed_setLink s (24 + n) (s.draws + 1) _).pkeySend 2 _
  · rw [← hv]
    exact portKeyed_setLink s (24 + n) s.draws _

/-- The message after it: the key is valid, and the end of higher node ID says so. -/
theorem pkeyTake_key (hh : (getLink s (24 + n)).keyHello = true) : PortKeyed s (pkeyTake s n m) (24 + n) true true
    (if myNode s < fieldR s (Reg.mirPort n) 15 0 then (getLink s (24 + n)).portKey
      else portKeyOf (Config.kemOpen (getLink s (24 + n)).kem (m.body.take kemBytes)) (myNode s) (fieldR s (Reg.mirPort n) 15 0)) := by
  unfold pkeyTake
  simp only [if_neg (pkey_checked hup hv hsent hsrc hgood), hh, Bool.not_true, Bool.false_eq_true, if_false]
  rw [← hh]
  split
  · exact (portKeyed_setLink s (24 + n) s.draws _).setKey (256 + n) {}
  · exact ((portKeyed_setLink s (24 + n) s.draws _).setKey (256 + n) {}).pkeySend 3 []

/-- What `pkeyTake_hello` and `pkeyTake_key` say of the message, told of the port before its flits. -/
theorem pkeyTake_heard (f : Nat) : PortKeyed s (pkeyTake (heardFlits s (24 + n) f) n m) (24 + n) true (getLink s (24 + n)).keyHello
    (if (getLink s (24 + n)).keyHello then
      if myNode s < fieldR s (Reg.mirPort n) 15 0 then (getLink s (24 + n)).portKey
      else portKeyOf (Config.kemOpen (getLink s (24 + n)).kem (m.body.take kemBytes)) (myNode s) (fieldR s (Reg.mirPort n) 15 0)
    else
      if myNode s < fieldR s (Reg.mirPort n) 15 0
      then portKeyOf (Config.kemSecret (m.body.take kemBytes) (Config.draw256 s.draws)) (myNode s) (fieldR s (Reg.mirPort n) 15 0)
      else (getLink s (24 + n)).portKey) := by
  have hlink := getLink_heardFlits s (24 + n) f
  have hu : LinksOnly s (heardFlits s (24 + n) f) := ⟨_, rfl⟩
  have hup' : linkUp (heardFlits s (24 + n) f) (24 + n) = true := by rw [linkUp, hlink]; exact hup
  have hv' : (getLink (heardFlits s (24 + n) f) (24 + n)).keyValid = false := by rw [hlink]; exact hv
  have hsent' : (getLink (heardFlits s (24 + n) f) (24 + n)).helloSent = true := by rw [hlink]; exact hsent
  have hsrc' := hsrc.trans (hu.fieldR _ _ _).symm
  have hgood' := (hu.kexGood m).trans hgood
  cases hh : (getLink s (24 + n)).keyHello
  · have hkeyed := (pkeyTake_hello hup' hv' hsent' hsrc' hgood' (by rw [hlink]; exact hh)).of_heardFlits
    rw [hu.myNode, hu.fieldR, hu.draws, hlink] at hkeyed
    exact hkeyed
  · have hkeyed := (pkeyTake_key hup' hv' hsent' hsrc' hgood' (by rw [hlink]; exact hh)).of_heardFlits
    rw [hu.myNode, hu.fieldR, hlink] at hkeyed
    exact hkeyed

end

theorem kexDo_port (s : State) (m : KexMsg) : ∀ n : Fin 2, kexDo s (5 + n.val) m = pkeyTake s n.val m
  | 0 => rfl
  | 1 => rfl

theorem exec_pkeyReceive_ready {s : State} {n : Fin 2} {m : KexMsg} (h : running s = true) (hup : linkUp s (24 + n.val) = true)
    (hr : s.sec.aliasReady = true) :
    exec (.pkeyReceive n m) s = .next (pkeyTake (heardFlits s (24 + n.val) (ceilDiv' (kexPayload m) 1000)) n.val m) := by
  rw [exec_pkeyReceive, execPkeyReceive, clocked_running h, if_pos hup, kexMessage_ready (s := heardFlits s _ _) hr, kexDo_port]

/-- Settles O37: each command is rewritten to what Thimble makes of it, and the state so named is the one that the statement describes. -/
theorem keyAgreement : Obligations.KeyAgreement := by
  refine ⟨?request, ?clear, ?timeout, ?message, ?port⟩
  case request =>
    rintro s v k h rfl hk ha
    exact ⟨fun hv => exec_bind_valid h hk ha hv, fun hv hp => bind_alone h hk ha hv hp,
      fun hv hl hr => bind_peer h hk ha hv rfl hl hr, fun hv hl hr hp => rotate_leader h hk ha hv rfl hl hr hp⟩
  case clear => exact fun s v h hk => clear_slot h hk
  case timeout =>
    intro s a h ha
    obtain ⟨missing, hexec, hmissing⟩ := exec_bindTimeout_agree h ha
    exact ⟨_, hexec, rfl, rfl, rfl, hmissing, rfl⟩
  case message =>
    rintro s u m src h hup hu rfl
    have hlinks : LinksOnly s u := hu ▸ linksOnly_heardPacket ..
    have hexec := fun c kind hc => exec_kexCommand_ready (c := c) (kind := kind) h hup hu hc
    refine ⟨fun c kind hc => ⟨exec_kexCommand_elsewhere h hup hu hc, exec_kexCommand_waits h hup hu hc⟩,
      fun a hdst hr ha hslot => ⟨fun hl hj hp hh => ?hello, fun hl hh hj hsrc hgood => ?wrap, fun hl hh hn hgood => ⟨fun hwait => ?ack, fun hall hrot => ?last⟩⟩,
      ?switch⟩
    case hello => exact (hexec _ 1 (by simp [kexCommands]) hdst hr).trans (congrArg _ (kexHello_heard hlinks ha hslot hl hj hp hh))
    case wrap => exact ⟨_, hexec _ 2 (by simp [kexCommands]) hdst hr, kexWrap_heard hlinks ha hslot hl hh hj hsrc hgood⟩
    case ack => exact (hexec _ 3 (by simp [kexCommands]) hdst hr).trans (congrArg _ (kexAck_counts hlinks ha hslot hl hh hn hgood hwait))
    case last => exact ⟨_, hexec _ 3 (by simp [kexCommands]) hdst hr, kexAck_last hlinks ha hslot hl hh hn hgood hall hrot⟩
    case switch =>
      rintro k hdst hr rfl hk hv hhas hp hl hgood
      exact (hexec _ 4 (by simp [kexCommands]) hdst hr).trans (congrArg _ (kexSwitch_heard hlinks hk hv hhas hp hl hgood))
  case port =>
    rintro s n m l partner v h rfl rfl hup rfl hv hsent hr hsrc hgood
    obtain ⟨hhello, hvalid, hkey, hothers, d, ls, sl, w, hframe⟩ := pkeyTake_heard hup hv hsent hsrc hgood (ceilDiv' (kexPayload m) 1000)
    refine ⟨_, exec_pkeyReceive_ready h hup hr, hhello, hvalid, hothers, fun hh hlt => ?_, fun hh => ?_, ?_⟩
    · rw [hkey, hh, if_neg Bool.false_ne_true, if_pos hlt]
    · rw [hkey, hh, if_pos rfl]
    · rw [hframe]

end Sys2Proof.Machine
end

section
/-! PROOFS. The machine as a whole, and the sequencer's constants, loads and stores (R120, R121, R124, R126): O1, O2, O7, O9 and O60. -/

namespace Sys2Proof.Machine

/-! ### Every command answers -/

/-- A meaning that is a next state. -/
def Answered (r : Res) : Prop := ∃ t, r = .next t

theorem answered_next (t : State) : Answered (.next t) := ⟨t, rfl⟩

theorem answered_ite {p : Prop} [Decidable p] {a b : Res} (ha : Answered a) (hb : Answered b) : Answered (if p then a else b) := by
  split
  · exact ha
  · exact hb

theorem answered_clocked (s : State) (f : State → State) : Answered (clocked s f) := answered_next _

theorem answered_stitching (s : State) (f : State → State) : Answered (stitching s f) :=
  answered_next _

theorem answered_orProxy (a : Agent) (line : LineAddr) (proxy f : State → State) (s : State) : Answered (orProxy a line proxy f s) :=
  answered_ite (answered_clocked ..) (answered_clocked ..)

theorem answered_noticeOf (a : Agent) (line : LineAddr) (proxy f : State → State) (s : State) : Answered (noticeOf a line proxy f s) :=
  answered_ite (answered_clocked ..) (answered_clocked ..)

/-- Each of the tray's signals acts, or finds nothing to do; the rest wait for the clocks, or for the stitch's own. -/
theorem answered_exec (i : Instr) (s : State) : Answered (exec i s) := by
  cases i with
  | coolantStop ns => exact answered_ite (answered_next _) (answered_next _)
  | sealBreak ns => exact answered_ite (answered_next _) (answered_next _)
  | resetNFall => exact answered_ite (answered_next _) (answered_ite (answered_next _) (answered_next _))
  | resetNCaptureDone => exact answered_next _
  | resetNRelease => exact answered_ite (answered_next _) (answered_next _)
  | pwrGoodRise => exact answered_ite (answered_next _) (answered_next _)
  | pwrGoodFall => exact answered_ite (answered_next _) (answered_next _)
  | railFail => exact answered_next _
  | stitchEdge | stitchEdgeAccept | substituteBoundary | holdoverBoundary | relockTimeout => apply answered_stitching
  | evictDirty | evictClean => exact answered_noticeOf ..
  | evictAck | probeShare | probeTake | probeKill | probePeek | probeRecall | done | lineData | fail => exact answered_orProxy ..
  | _ => apply answered_clocked

/-- Settles O2: whatever guard a command passes by, what stands behind it is a next state. -/
theorem everyCommandAnswers : Obligations.EveryCommandAnswers := by
  intro i s
  obtain ⟨t, ht⟩ := answered_exec i s
  exact ⟨t, ht, trivial⟩

/-- Settles O1. -/
theorem stepRunsFront : Obligations.StepRunsFront :=
  ⟨fun _ _ _ h => by rw [step, h], fun _ h => by rw [step, h]⟩

/-- Settles O60: nothing is stored at reset, so that every register and every table reads as its unlisted entries do. -/
theorem resetValues : Obligations.ResetValues :=
  ⟨rfl, rfl, rfl, smWf_nil, fun _ => rfl, fun _ _ => rfl, fun _ => rfl, fun _ => ⟨rfl, rfl⟩, rfl, fun _ => ⟨rfl, rfl⟩, fun _ => rfl, rfl,
    fun _ => rfl, rfl, rfl, rfl, fun _ => ⟨rfl, rfl⟩, rfl, rfl, rfl, rfl, rfl⟩

/-! ### LI and SRD -/

/-- The model's selector agrees with every row of Table 5-5. -/
theorem srdValue_table (s : State) (c : CtxId) (ctx : Ctx) :
    ∀ e ∈ [((0x00 : Nat), BitVec.ofNat 64 c.te.val), (0x01, ctx.launch.cid.setWidth 64), (0x02, BitVec.ofNat 64 (tsShare s c).1),
      (0x03, BitVec.ofNat 64 (tsShare s c).2), (0x04, BitVec.ofNat 64 (grpShare s c).1), (0x05, BitVec.ofNat 64 (grpShare s c).2),
      (0x06, s.stc.count.setWidth 64), (0x07, BitVec.ofNat 64 (cycleNow s - ctx.firstIssue.getD (cycleNow s))), (0x08, 0x100),
      (0x09, BitVec.ofNat 64 (getTe s c.te).current.code)], srdValue s c ctx e.1 = some e.2 := by
  have cid : srdValue s c ctx 0x01 = some (ctx.launch.cid.setWidth 64) := congrArg some (BitVec.ofNat_toNat ..)
  have count : srdValue s c ctx 0x06 = some (s.stc.count.setWidth 64) := congrArg some (BitVec.ofNat_toNat ..)
  simp only [List.forall_mem_cons]
  exact ⟨rfl, cid, rfl, rfl, rfl, rfl, count, rfl, rfl, rfl, nofun⟩

/-- A legal instruction of a ready context that runs to its end has issued (R63). -/
theorem issue_done {s u : State} {c : CtxId} {ctx : Ctx} {w x : W64} {op : Nat} {needX : Bool} {k : Kind} {own : Ctx → List (Nat × Bool)}
    {run : State → Ctx → Issued} (hs : Ready s c ctx) (hl : Legal ctx w op needX (own ctx)) (hr : run s ctx = .done u) :
    issue s c w x op needX k own run = hasIssued u c (ctx.pc + (if needX then 16 else 8)) := by
  rw [issue_ready hs hl, hr]
  rfl

section
variable {s : State} {c : CtxId} {ctx : Ctx} {w x : W64}

theorem exec_li_ready (hs : Ready s c ctx) (hl : Legal ctx w 0x0A true [rsv w 63 14]) :
    exec (.li c w x) s = .next (hasIssued (setSreg s c (bits w 13 9) x) c (ctx.pc + 16)) := by
  rw [exec_li, execLi, clocked_running hs.clocks, issue_done hs hl rfl]
  rfl

theorem exec_srd_ready {v : W64} (hs : Ready s c ctx) (hl : Legal ctx w 0x04 false [rsv w 63 22])
    (hv : srdValue s c ctx (bits w 21 14) = some v) :
    exec (.srd c w x) s = .next (hasIssued (setSreg s c (bits w 13 9) v) c (ctx.pc + 8)) := by
  have hl' : Legal ctx w 0x04 false ([rsv w 63 22] ++ [(0x04, (srdValue s c ctx (bits w 21 14)).isNone)]) := hl.more (by simp [hv])
  rw [exec_srd, execSrd, clocked_running hs.clocks, issue_done hs hl' (by rw [hv])]
  rfl

end

/-- Settles O7: the word, or the value of Table 5-5, is the one write. -/
theorem scalarConstants : Obligations.ScalarConstants :=
  ⟨fun _ _ _ w x hs hl => ⟨_, exec_li_ready hs hl, hasIssued_setSreg hs.resident (destField_lt w) x _⟩,
   fun s c ctx w _ v hs hl hv =>
    ⟨_, exec_srd_ready hs hl (srdValue_table s c ctx _ hv), hasIssued_setSreg hs.resident (destField_lt w) v _⟩⟩

/-! ### SLD and SST -/

section
variable {s u : State} {c : CtxId} {ctx : Ctx} {w x : W64} {n a : Nat} {bs : List Byte}

theorem exec_sld_ready (hs : Ready s c ctx) (hl : Legal ctx w 0x10 false [rsv w 31 22]) (hn : n = 2 ^ bits w 20 19)
    (ha : a = (sreg s c (bits w 18 14) + immOf w).toNat) (hsh : inShare s c a n = true) (hal : a % n = 0)
    (hm : mustWait s c [(a, a + n)] [] = false) (hload : tsLoad s c.te a n = (u, .inr bs)) :
    exec (.sld c w x) s = .next (hasIssued (setSreg u c (bits w 13 9)
      (if bitAt w 21 then (BitVec.ofNat (8 * n) (leNat bs)).signExtend 64 else (BitVec.ofNat (8 * n) (leNat bs)).setWidth 64)) c (ctx.pc + 8)) := by
  rw [exec_sld, execSld, clocked_running hs.clocks, issue_done hs hl]
  · rfl
  · subst hn
    simp [← ha, hsh, hal, hm, hload]

theorem exec_sst_ready (hs : Ready s c ctx) (hl : Legal ctx w 0x11 false [rsv w 31 21]) (hn : n = 2 ^ bits w 20 19)
    (ha : a = (sreg s c (bits w 18 14) + immOf w).toNat) (hsh : inShare s c a n = true) (hal : a % n = 0)
    (hm : mustWait s c [] [(a, a + n)] = false) :
    exec (.sst c w x) s = .next (hasIssued (tsWrite s c.te a (bytesOf n (sreg s c (bits w 13 9)).toNat)) c (ctx.pc + 8)) := by
  rw [exec_sst, execSst, clocked_running hs.clocks, issue_done hs hl]
  · rfl
  · simp [← hn, ← ha, hsh, hal, hm]

end

theorem leNat_lt (bs : List Byte) : leNat bs < 2 ^ (8 * bs.length) := by
  induction bs with
  | nil => simp [leNat]
  | cons b t ih =>
    have hb := b.isLt
    simp only [leNat, List.length_cons, Nat.mul_add, pow_add]
    omega

/-- The number that a run of bytes spells, zero-extended. -/
theorem setWidth_ofNat_leNat (bs : List Byte) {n : Nat} (hn : bs.length = n) :
    (BitVec.ofNat (8 * n) (leNat bs)).setWidth 64 = BitVec.ofNat 64 (leNat bs) := by
  apply BitVec.eq_of_toNat_eq
  rw [BitVec.toNat_setWidth, BitVec.toNat_ofNat, BitVec.toNat_ofNat, Nat.mod_eq_of_lt (show leNat bs < 2 ^ (8 * n) from hn ▸ leNat_lt bs)]

/-- Each byte of a register's low bytes is its own eight bits. -/
theorem bytesOf_getD (v : W64) {n i : Nat} (hi : i < n) : (bytesOf n v.toNat).getD i 0 = v.extractLsb' (8 * i) 8 := by
  apply BitVec.eq_of_toNat_eq
  rw [List.getD_eq_getElem _ _ (by simpa [bytesOf] using hi)]
  simp [bytesOf, BitVec.extractLsb'_toNat, Nat.shiftRight_eq_div_pow, pow_mul]

/-- A byte of a tile store after a write (R64). -/
theorem tsRead_tsWrite (s : State) (te u : TeId) {a b : Nat} {v : List Byte} (ha : a + v.length ≤ 2097152) (hb : b < 2097152) :
    tsRead (tsWrite s te a v) u b 1 = if u = te ∧ a ≤ b ∧ b < a + v.length then [v.getD (b - a) 0] else tsRead s u b 1 := by
  simp only [tsRead, tsWrite, smGetRange, List.range_one, List.map_cons, List.map_nil, Nat.add_zero, smGet_setRange]
  by_cases h : u = te ∧ a ≤ b ∧ b < a + v.length
  · obtain ⟨rfl, hlo, hhi⟩ := h
    rw [if_pos (by omega), if_pos ⟨rfl, hlo, hhi⟩, Nat.add_sub_add_left]
  · rw [if_neg h, if_neg]
    rintro ⟨hlo, hhi⟩
    exact h ⟨Fin.ext (by omega), by omega⟩

/-- Settles O9: a load writes its register after the read's corrections, a store its run of bytes. -/
theorem scalarLoadsAndStores : Obligations.ScalarLoadsAndStores := by
  refine ⟨fun s c ctx w x n a u bs hs hl hn ha hsh hal hm hload => ⟨_, exec_sld_ready hs hl hn ha hsh hal hm hload, ?_⟩,
    fun s c ctx w x n a hs hl hn ha hsh hend hal hm => ⟨_, exec_sst_ready hs hl hn ha hsh hal hm, ?_⟩⟩
  · obtain ⟨hbs, hlen, hclean, tiles, errs, rfl⟩ := tsLoad_ok hload
    rw [setWidth_ofNat_leNat bs hlen]
    refine ⟨sregIs_of (destField_lt w) ?_, proceeds_of hs.resident (fun e => ?_) (fun d => ?_) ?_, fun hnone => ⟨hclean hnone, ?_⟩, ?_⟩
    · rw [setSreg_eq, setSreg_eq]; rfl
    · rw [getTe_setSreg]; rfl
    · rw [getSlot_setSreg]; rfl
    · rw [setSreg_now]
    · rw [hbs, hclean hnone]
    · rw [setSreg_eq]; rfl
  · have hlen : (bytesOf n (sreg s c (bits w 13 9)).toNat).length = n := by simp [bytesOf]
    refine ⟨fun te b hb => ?_, proceeds_of hs.resident (fun e => by simp) (fun d => by simp) (by simp), rfl⟩
    refine (tsRead_tsWrite s c.te te (by omega) hb).trans ?_
    rw [hlen]
    split
    · rw [bytesOf_getD _ (by omega)]
    · rfl

end Sys2Proof.Machine
end

section
/-! PROOFS. Tile moves, GATHER and SCATTER, KVGATHER and KVAPPEND, and how an outstanding operation completes (R129 to R135, R154 to R157, R165 to R172, R331): O11 to O14. -/

namespace Sys2Proof.Machine

/-! ### TMOV -/

/-- A tally that an instruction asks for stops no context where its handle is valid (R150). -/
theorem asks_valid {asks : Bool} {h : W64} (hv : asks = true → badHandle h = false) : (asks && badHandle h) = false := by
  cases asks
  · rfl
  · exact hv rfl

theorem exec_tmov_ready {s u v z : State} {c : CtxId} {ctx : Ctx} {w x : W64} {m : Move} {src : List (List Nat × List Nat)} {sr : Option Nat}
    (hs : Ready s c ctx) (hl : Legal ctx w 0x20 true (tmovCauses w x)) (hm : m = moveOf s c w x) (hshape : moveShapeBad m = false)
    (hsb : spaceBounds s c ctx.launch.job m.ssp (moveElems m ++ moveScales m) = none) (hdb : spaceBounds s c ctx.launch.job m.dsp (moveDst m) = none)
    (hsa : m.sa % 64 = 0) (hda : m.da % 64 = 0) (hssa : m.fs.isCw = true → m.ssa % 64 = 0) (hw : mustWait s c (moveReads m) (moveWrites m) = false)
    (hh : bitAt w 28 = true → badHandle (sreg s c (bits x 24 20)) = false) (hsrc : moveSource s c ctx.launch m = (u, .inr src))
    (hdr : drawsFor u (bitAt w 27) (roundUp m.cols 32 * m.rows) = (sr, v))
    (hwr : writeRuns v c ctx.launch.seg ctx.opCount m.dsp (moveOut m sr src) = (z, none)) :
    exec (.tmov c w x) s = .next (hasIssued (addOp (moveAhead z c ctx.launch m) c
      ⟨.tmov (!(decide (m.ssp = .tile) && decide (m.dsp = .tile))), if bitAt w 28 then some ((sreg s c (bits x 24 20)).truncate 32) else none,
        moveCount m, moveReads m, moveWrites m, ctx.launch.seg, ctx.opCount, (moveAhead z c ctx.launch m).now, decide (m.ssp ≠ .tile), false⟩) c (ctx.pc + 16)) := by
  have hcw : ¬ (m.fs.isCw = true ∧ m.ssa % 64 ≠ 0) := fun h => h.2 (hssa h.1)
  rw [exec_tmov, execTmov, clocked_running hs.clocks, issue_done hs hl]
  · rfl
  · simp only [← hm, hshape, hsb, hdb, hsa, hda, hcw, hw, hsrc, asks_valid hh, hdr, hwr, Bool.false_eq_true, if_false, ne_eq, not_true_eq_false]
    rfl

/-- Settles O11: the move that issues is the operation; what it writes to a tile store lies in its runs. -/
theorem tileMove : Obligations.TileMove := by
  intro s c ctx w x m u v z src sr hs hl hm hshape hsb hdb hsa hda hssa hw hh hsrc hdr hwr
  refine ⟨_, exec_tmov_ready hs hl hm hshape hsb hdb hsa hda hssa hw hh hsrc hdr hwr, rfl, fun htile b hb => ?_⟩
  rw [htile, writeRuns] at hwr
  cases hwr
  exact tiles_writes_out c.te _ v b hb

/-! ### Completions -/

section
variable {s u : State} {c : CtxId} {o : Op}

/-- With every write at its home, an operation has finished (R135, R157). -/
theorem finishOut_drained (hd : drainWrites (moverMoved s c o.kind) c o.number = (u, [])) : finishOut s c o = (u, true) := by
  rw [finishOut, hd]
  rfl

theorem exec_tmovComplete_drained (h : running s = true) (hc : bitAt s.brd.clockLost (dieOf c.te).val = false)
    (ho : oldestOp s c (fun k => decide (k = .tmov true) || decide (k = .tmov false)) = some o)
    (hd : drainWrites (moverMoved s c o.kind) c o.number = (u, [])) : exec (.tmovComplete c) s = .next (performOp u c o.number) := by
  simp only [exec_tmovComplete, execTmovComplete, onDie_running h hc, ho, finishOp, finishOut_drained hd]

theorem exec_dispatchInstrComplete_drained (h : running s = true) (hc : bitAt s.brd.clockLost (dieOf c.te).val = false)
    (ho : oldestOp s c dispatchKind = some o) (hd : drainWrites (moverMoved s c o.kind) c o.number = (u, [])) :
    exec (.dispatchInstrComplete c) s = .next (performOp (queueMirror u o.kind) c o.number) := by
  simp only [exec_dispatchInstrComplete, execDispatchInstrComplete, onDie_running h hc, ho, finishOut_drained hd]

end

/-- A performed operation whose tally is within reach leaves with its addition (R331). -/
theorem flushOps_only {up : W32 → Bool} {o : Op} {h : W32} (hp : o.performed = true) (ht : o.tally = some h) (hu : up h = true) :
    flushOps up [o] = ([], [(h, o.count)]) := by
  simp [flushOps, hp, ht, hu]

theorem getCtx_modCtx (s : State) (c : CtxId) (f : Ctx → Ctx) : getCtx (modCtx s c f) c = (getCtx s c).map f := by
  rw [getCtx, modCtx, getSlot_setSlot, if_pos rfl]
  rfl

theorem getCtx_handleAdd (s : State) (c : CtxId) (h : Option W32) (v : W32) : getCtx (handleAdd s h v) c = getCtx s c := by
  rw [handleAdd_only]
  rfl

/-- A context whose only operation has been performed: it leaves, and its count is added (R331, R332). -/
theorem settleOps_single {s : State} {c : CtxId} {x : Ctx} {o : Op} {h : W32} (hx : getCtx s c = some x) (hops : x.ops = [o])
    (hp : o.performed = true) (ht : o.tally = some h) (hu : tallyUp s (dieOf c.te).val h = true) :
    settleOps s c = handleAdd (modCtx s c fun x => { x with ops := [] }) (some h) (BitVec.ofNat 32 o.count) := by
  unfold settleOps
  rw [hx]
  simp only [hops, flushOps_only hp ht hu, List.foldl_cons, List.foldl_nil]

/-- A context's only operation is performed: it leaves, and its count is added (R135, R331, R332). -/
theorem performOp_single {u : State} {c : CtxId} {x : Ctx} {o : Op} {h : W32} (hx : getCtx u c = some x) (hops : x.ops = [o])
    (ht : o.tally = some h) (hu : tallyUp u (dieOf c.te).val h = true) :
    (∀ j, tally (performOp u c o.number) j = if handleKey h = some j then tally u j + BitVec.ofNat 32 o.count else tally u j)
      ∧ getCtx (performOp u c o.number) c = some { x with ops := [] } := by
  unfold performOp
  rw [settleOps_single (s := modCtx u c _) (x := { x with ops := [{ o with performed := true, reads := [], writes := [] }] }) ?_ rfl rfl ht hu]
  · refine ⟨fun j => by rw [tally_handleAdd]; rfl, ?_⟩
    rw [getCtx_handleAdd, getCtx_modCtx, getCtx_modCtx, hx]
    rfl
  · rw [getCtx_modCtx, hx, Option.map_some, hops]
    simp

/-- Only a KVAPPEND asks for a copy at the partner (R395). -/
theorem queueMirror_other {u : State} {k : OpKind} (hk : ∀ a b d e f, k ≠ .append a b d e f) : queueMirror u k = u := by
  cases k with
  | append a b d e f => exact absurd rfl (hk a b d e f)
  | _ => rfl

/-- Settles O12: with its writes at their homes the operation is performed, and alone it leaves with its addition. -/
theorem operationsComplete : Obligations.OperationsComplete := by
  refine ⟨fun s c o u h hc ho hd => ⟨_, exec_tmovComplete_drained h hc ho hd, rfl, fun x hd k hx hops ht hk hu => ?_⟩,
    fun s c o u h hc ho hd => ⟨_, exec_dispatchInstrComplete_drained h hc ho hd, rfl, fun hk => by rw [queueMirror_other hk]⟩⟩
  obtain ⟨htally, hctx⟩ := performOp_single hx hops ht hu
  refine ⟨by rw [htally, if_pos hk], fun j hj => ?_, hctx⟩
  rw [htally, if_neg fun hkj => hj (Option.some.inj (hkj.symm.trans hk))]

/-! ### GATHER and SCATTER -/

/-- A map over a numbered run is one over the numbers. -/
theorem map_zipIdx_range {α β : Type} (f : Nat → α) (g : α × Nat → β) (n : Nat) :
    (((List.range n).map f).zipIdx.map g) = (List.range n).map fun r => g (f r, r) := by
  apply List.ext_getElem
  · simp
  · simp

theorem getLastD_map_range {α : Type} (f : Nat → α) (d : α) {n : Nat} (hn : n ≠ 0) : ((List.range n).map f).getLastD d = f (n - 1) := by
  obtain ⟨k, rfl⟩ := Nat.exists_eq_succ_of_ne_zero hn
  simp [List.range_succ]

section
variable {s u v z : State} {c : CtxId} {ctx : Ctx} {w x : W64} {rt rb ri n row iw : Nat} {ix : List Byte}
  (hs : Ready s c ctx) (hrt : rt = (sreg s c (bits w 13 9)).toNat) (hrb : rb = (sreg s c (bits w 18 14)).toNat) (hri : ri = (sreg s c (bits w 23 19)).toNat)
  (hn : n = bits w 40 29) (hrow : row = 64 * bits w 56 41) (hiw : iw = if bitAt w 57 then 8 else 4) (hn0 : n ≠ 0) (hrow0 : row ≠ 0)
  (hsh : outOfShare s c [(rt, rt + n * row), (ri, ri + n * iw)] = none) (hat : rt % 64 = 0) (hab : rb % 64 = 0) (hai : ri % iw = 0)
  (hh : bits w 28 24 ≠ 0 → badHandle (sreg s c (bits w 28 24)) = false) (hload : tsLoad s c.te ri (n * iw) = (u, .inr ix))
include hs hrt hrb hri hn hrow hiw hn0 hrow0 hsh hat hab hai hh hload

theorem exec_gather_ready (hl : Legal ctx w 0x70 false [rsv w 63 58]) (hw : mustWait s c [(ri, ri + n * iw)] [(rt, rt + n * row)] = false)
    {rows : List (List Byte)} (hr : readRuns u c ctx.launch.seg (launchClass ctx.launch) .memory
      ((List.range n).map fun r => ((rb + leNat ((ix.drop (iw * r)).take iw) * row) % 2 ^ 64, row)) = (v, .inr rows))
    (hz : z = if sequential v c then prefetch v c ctx.launch.seg (launchClass ctx.launch)
      ((rb + leNat ((ix.drop (iw * (n - 1))).take iw) * row) % 2 ^ 64 + row + 63) else v) :
    exec (.gather c w x) s = .next (hasIssued (addOp (tsWrite z c.te rt rows.flatten) c
      ⟨.copy 1, if bits w 28 24 ≠ 0 then some ((sreg s c (bits w 28 24)).truncate 32) else none, 1, [(ri, ri + n * iw)], [(rt, rt + n * row)],
        ctx.launch.seg, ctx.opCount, u.now, true, false⟩) c (ctx.pc + 8)) := by
  have hask : (decide (bits w 28 24 ≠ 0) && badHandle (sreg s c (bits w 28 24))) = false := asks_valid fun h => hh (of_decide_eq_true h)
  rw [exec_gather, execGather, clocked_running hs.clocks, issue_done hs hl]
  · rfl
  · simp only [indexed, ← hrt, ← hrb, ← hri, ← hn, ← hrow, ← hiw, hn0, hrow0, hsh, hat, hab, hai, hask, hw, hload, or_self, Bool.false_eq_true, if_false,
      if_true, ne_eq, not_true_eq_false, List.cons_append, List.nil_append, rowAddrs, List.map_map, Function.comp_def, decide_eq_true_eq, hr, getLastD_map_range _ _ hn0]
    rw [hz]

theorem exec_scatter_ready (hl : Legal ctx w 0x71 false [rsv w 63 58]) (hw : mustWait s c [(rt, rt + n * row), (ri, ri + n * iw)] [] = false)
    {bs : List Byte} (hr : tsLoad u c.te rt (n * row) = (v, .inr bs))
    (hz : ctxWrite v c ctx.launch.seg ctx.opCount ((List.range n).map fun r =>
      ((rb + leNat ((ix.drop (iw * r)).take iw) * row) % 2 ^ 64, (bs.drop (row * r)).take row)) = (z, none)) :
    exec (.scatter c w x) s = .next (hasIssued (addOp z c
      ⟨.copy 2, if bits w 28 24 ≠ 0 then some ((sreg s c (bits w 28 24)).truncate 32) else none, 1,
        [(rt, rt + n * row), (ri, ri + n * iw)], [], ctx.launch.seg, ctx.opCount, u.now, false, false⟩) c (ctx.pc + 8)) := by
  have hask : (decide (bits w 28 24 ≠ 0) && badHandle (sreg s c (bits w 28 24))) = false := asks_valid fun h => hh (of_decide_eq_true h)
  rw [exec_scatter, execScatter, clocked_running hs.clocks, issue_done hs hl]
  · rfl
  · simp only [indexed, ← hrt, ← hrb, ← hri, ← hn, ← hrow, ← hiw, hn0, hrow0, hsh, hat, hab, hai, hask, hw, hload, or_self, Bool.false_eq_true, if_false,
      ne_eq, not_true_eq_false, List.cons_append, List.nil_append, rowAddrs, map_zipIdx_range, decide_eq_true_eq, hr, hz]

end

/-- Settles O13: the rows that the index list names are those of the statement, taken one by one. -/
theorem gatherAndScatter : Obligations.GatherAndScatter := by
  intro s c ctx w x rt rb ri n row iw u ix hs hrt hrb hri hn hrow hiw hn0 hrow0 hsh hat hab hai hh hload
  exact ⟨fun hl hw v rows hr z hz => exec_gather_ready hs hrt hrb hri hn hrow hiw hn0 hrow0 hsh hat hab hai hh hload hl hw hr hz,
    fun hl hw v bs z hr hz => exec_scatter_ready hs hrt hrb hri hn hrow hiw hn0 hrow0 hsh hat hab hai hh hload hl hw hr hz⟩

/-! ### KVGATHER and KVAPPEND -/

section
variable {s : State} {c : CtxId} {ctx : Ctx} {w x : W64} {part nblk rt n el : Nat} {rs rp : W64}
  (hs : Ready s c ctx) (hpart : part = bits w 40 37) (hnblk : nblk = bits w 36 29) (hrs : rs = sreg s c (bits w 13 9))
  (hrt : rt = (sreg s c (bits w 18 14)).toNat) (hrp : rp = sreg s c (bits w 23 19)) (hnblk0 : nblk ≠ 0)
  (hfit : 8 ≤ part ∨ part < 4 ∨ 64 * nblk ≤ (FoldForm.ofCode (part % 4)).np)
  (hl : Legal ctx w 0x72 false [rsv w 63 41, (0x04, decide (part = 3 ∨ 0xC ≤ part)), (0x05, decide (8 ≤ part) && (decide (bits w 23 19 ≠ 0) || decide (nblk ≠ 1)))])
  (hcause : kvCause s rs rp ctx.launch.job (!decide (8 ≤ part)) = none) (hel : sesElem (getSes s (bits rs 15 0)) = some el)
  (htree : 8 ≤ part → treeValid (getSes s (bits rs 15 0)) = true)
  (hn : n = gatherBytes part nblk el (treeNodes (getSes s (bits rs 15 0)))) (hsh : outOfShare s c [(rt, rt + n)] = none)
  (hpos : part < 8 → bits rp 31 0 % 64 = 0) (hh : bits w 28 24 ≠ 0 → badHandle (sreg s c (bits w 28 24)) = false)
  (hw : mustWait s c [] [(rt, rt + n)] = false)
include hs hpart hnblk hrs hrt hrp hnblk0 hfit hl hcause hel htree hn hsh hpos hh hw

omit hfit hpos in
theorem exec_kvgather_tree (h8 : 8 ≤ part) :
    exec (.kvgather c w x) s = .next (hasIssued (addOp (tsWrite s c.te rt (treeBias (FoldForm.ofCode (part % 4)) (getSes s (bits rs 15 0)))) c
      ⟨.copy 3, if bits w 28 24 ≠ 0 then some ((sreg s c (bits w 28 24)).truncate 32) else none, 1, [], [(rt, rt + n)], 0,
        ctx.opCount, s.now, true, false⟩) c (ctx.pc + 8)) := by
  have hask : (decide (bits w 28 24 ≠ 0) && badHandle (sreg s c (bits w 28 24))) = false := asks_valid fun h => hh (of_decide_eq_true h)
  have hcause' : kvCause s rs rp ctx.launch.job false = none := by simpa [h8] using hcause
  rw [hpart, hnblk] at hl
  rw [exec_kvgather, execKvgather, clocked_running hs.clocks]
  dsimp only
  rw [issue_done hs hl]
  · rfl
  · simp only [← hpart, ← hnblk, ← hrs, ← hrt, ← hrp, decide_eq_true h8, Bool.not_true, Bool.true_and, hcause', hel, htree h8, hnblk0, hask, Option.isNone_none,
      true_or, if_true, Option.getD_some, Bool.not_false, and_self, false_and, or_self, if_false, ← hn, hsh, hw, Bool.false_eq_true, decide_eq_true_eq]

theorem exec_kvgather_rows (h8 : part < 8) {u v z : State} {ws : List W64} {ks vs : List Byte}
    (hb : blockEntries s (dieOf c.te) .p0 (getSes s (bits rs 15 0)) (gatherBlocks (bits rp 31 0) nblk (sesLen (getSes s (bits rs 15 0)))) = (u, .inr ws))
    (hbc : blockCause (getSes s (bits rs 15 0)) el ws = none)
    (hks : gatherHalf u c (getSes s (bits rs 15 0)) el (bits rp 39 32) (bits rp 47 40) (bits rp 31 0 / 64) nblk false ws (decide (part ≠ 1)) = (v, .inr ks))
    (hvs : gatherHalf v c (getSes s (bits rs 15 0)) el (bits rp 39 32) (bits rp 47 40) (bits rp 31 0 / 64) nblk true ws (decide (part = 1 ∨ part = 2)) = (z, .inr vs)) :
    exec (.kvgather c w x) s = .next (hasIssued (addOp (tsWrite z c.te rt (if 4 ≤ part then transposeK (FoldForm.ofCode (part % 4)) el ks else ks ++ vs)) c
      ⟨.copy 3, if bits w 28 24 ≠ 0 then some ((sreg s c (bits w 28 24)).truncate 32) else none, 1, [], [(rt, rt + n)], 0,
        ctx.opCount, s.now, true, false⟩) c (ctx.pc + 8)) := by
  have hask : (decide (bits w 28 24 ≠ 0) && badHandle (sreg s c (bits w 28 24))) = false := asks_valid fun h => hh (of_decide_eq_true h)
  have hd8 : decide (8 ≤ part) = false := decide_eq_false (by omega)
  have hcause' : kvCause s rs rp ctx.launch.job true = none := by simpa [hd8] using hcause
  have hfit' : ¬ (nblk = 0 ∨ (True ∧ 4 ≤ part ∧ (FoldForm.ofCode (part % 4)).np < 64 * nblk)) := by omega
  rw [hpart, hnblk] at hl
  rw [exec_kvgather, execKvgather, clocked_running hs.clocks]
  dsimp only
  rw [issue_done hs hl]
  · rfl
  · simp only [← hpart, ← hnblk, ← hrs, ← hrt, ← hrp, hd8, Bool.not_false, Bool.false_and, hcause', hel, hfit', hask, Option.isNone_none,
      true_or, if_true, Option.getD_some, and_self, if_false, ← hn, hsh, hw, Bool.false_eq_true, decide_eq_true_eq, hpos h8, ne_eq, not_true_eq_false, and_false,
      hb, hbc, hks, hvs]

end

theorem exec_kvappend_ready {s u v : State} {c : CtxId} {ctx : Ctx} {w x : W64} {ra ntok pos n el : Nat} {rs rp : W64} {ws : List W64} {bs : List Byte}
    (hs : Ready s c ctx) (hl : Legal ctx w 0x73 false [rsv w 63 36]) (hntok : ntok = bits w 35 29) (hrs : rs = sreg s c (bits w 13 9))
    (hra : ra = (sreg s c (bits w 18 14)).toNat) (hrp : rp = sreg s c (bits w 23 19)) (hpos : pos = bits rp 31 0) (h1 : 1 ≤ ntok) (h64 : ntok ≤ 64)
    (hcause : kvCause s rs rp ctx.launch.job true = none) (hel : sesElem (getSes s (bits rs 15 0)) = some el) (hn : n = 2 * ntok * 128 * el)
    (hsh : outOfShare s c [(ra, ra + n)] = none) (hh : bits w 28 24 ≠ 0 → badHandle (sreg s c (bits w 28 24)) = false)
    (hw : mustWait s c [(ra, ra + n)] [] = false)
    (hb : blockEntries s (dieOf c.te) .p1 (getSes s (bits rs 15 0)) (if pos / 64 = (pos + ntok - 1) / 64 then [pos / 64] else [pos / 64, pos / 64 + 1]) = (u, .inr ws))
    (hbc : blockCause (getSes s (bits rs 15 0)) el ws = none) (hlen : sesLen (getSes s (bits rs 15 0)) ≤ pos) (hload : tsLoad u c.te ra n = (v, .inr bs))
    (hok : ∀ r ∈ appendRuns (getSes s (bits rs 15 0)) el (bits rp 39 32) (bits rp 47 40) pos ntok ws bs, ∀ p ∈ writePieces r.1 r.2, lineOk v (p.1 / 64) = true) :
    exec (.kvappend c w x) s = .next (hasIssued (addOp
      (setWriteBuf v (clusterOf c.te) (writeBuf v (clusterOf c.te) ++
        (appendRuns (getSes s (bits rs 15 0)) el (bits rp 39 32) (bits rp 47 40) pos ntok ws bs).map fun p =>
          { ctx := c, number := ctx.opCount, addr := p.1, data := p.2, index := 16 })) c
      ⟨.append (bits rs 15 0) (bits rp 39 32) (bits rp 47 40) pos ntok,
        if bits w 28 24 ≠ 0 then some ((sreg s c (bits w 28 24)).truncate 32) else none, 1, [(ra, ra + n)], [], 0, ctx.opCount, v.now, false, false⟩) c (ctx.pc + 8)) := by
  have hask : (decide (bits w 28 24 ≠ 0) && badHandle (sreg s c (bits w 28 24))) = false := asks_valid fun h => hh (of_decide_eq_true h)
  have htok : ¬ (ntok = 0 ∨ 64 < ntok) := by omega
  have hlines : (((appendRuns (getSes s (bits rs 15 0)) el (bits rp 39 32) (bits rp 47 40) pos ntok ws bs).map fun r => writePieces r.1 r.2).flatten).find?
      (fun p => !lineOk v (p.1 / 64)) = none := by
    rw [List.find?_eq_none]
    intro p hp
    obtain ⟨l, hl, hpl⟩ := List.mem_flatten.1 hp
    obtain ⟨r, hr, rfl⟩ := List.mem_map.1 hl
    simp [hok r hr p hpl]
  rw [exec_kvappend, execKvappend, clocked_running hs.clocks, issue_done hs hl]
  · rfl
  · simp only [← hntok, ← hrs, ← hra, ← hrp, ← hpos, htok, hcause, hel, hask, hw, Option.isNone_none, true_or, if_true, Option.getD_some, ← hn, hsh, if_false,
      Bool.false_eq_true, hb, hbc, Nat.not_lt.2 hlen, hload, hlines, decide_eq_true_eq]
    rfl

/-- Settles O14: bias, rows and appended rows are what the instruction itself writes or hands over. -/
theorem keyValueInstructions : Obligations.KeyValueInstructions := by
  refine ⟨?_, ?_⟩
  · intro s c ctx w x part nblk rt n rs rp el hs hpart hnblk hrs hrt hrp h0 hfit hl hcause hel htree hn hsh hpos hh hw
    exact ⟨exec_kvgather_tree hs hpart hnblk hrs hrt hrp h0 hl hcause hel htree hn hsh hh hw,
      fun h8 u v z ws ks vs => exec_kvgather_rows hs hpart hnblk hrs hrt hrp h0 hfit hl hcause hel htree hn hsh hpos hh hw h8⟩
  · intro s c ctx w x ra ntok pos n el rs rp u v ws bs hs hl hntok hrs hra hrp hpos h1 h64 hcause hel hn hsh hh hw hb hbc hlen hload rows hok
    exact exec_kvappend_ready hs hl hntok hrs hra hrp hpos h1 h64 hcause hel hn hsh hh hw hb hbc hlen hload hok

end Sys2Proof.Machine
end

section
/-! PROOFS. The matrix array: MMAs that join their slot, the array that takes one, re-forms, loads weights, takes rows and lands results (R63, R65 to R80, R85 to R97, R136 to R139): O15 to O20. -/

namespace Sys2Proof.Machine

/-! ### MMA -/

/-- Settles O15: the MMA joins its slot's queue, and issue books the rest. -/
theorem matrixIssue : Obligations.MatrixIssue := by
  intro s c ctx w x g op hs hl hop hm1 hm2 hn1 hn2 hk1 hk2 hg hsh hst hpair hring hw
  have hready : ¬ (op.ring ≠ 0 ∧ (handleKey (op.ready.truncate 32)).isNone) := fun h => by
    have hsome := (hring h.1).1
    rw [Option.isSome_iff_ne_none] at hsome
    exact hsome (Option.isNone_iff_eq_none.1 h.2)
  have hfreed : ¬ (op.ring ≠ 0 ∧ badHandle (sreg s c (2 * bits x 63 60 + 1)) = true) := fun h => by
    rw [(hring h.1).2] at h
    exact absurd h.2 Bool.false_ne_true
  have hshape : ¬ (op.m = 0 ∨ 128 < op.m ∨ op.n = 0 ∨ 1024 < op.n ∨ op.k = 0 ∨ 65536 < op.k) := by omega
  have hopen : ¬ ((getGroup s c.te g).st ≠ .opened ∨ heldByPair s c.te g = true) := by simp [hst, hpair]
  have hexec : exec (.mma c w x) s = .next (hasIssued (setSlot s c { getSlot s c with queue := (getSlot s c).queue ++ [op] }) c (ctx.pc + 16)) := by
    rw [exec_mma, execMma, clocked_running hs.clocks, issue_done hs hl]
    · rfl
    · subst hop
      dsimp only at hready hfreed hshape hsh hw ⊢
      simp only [hshape, hg, hsh, hopen, hready, hfreed, hw, if_false, Bool.false_eq_true]
  refine ⟨_, hexec, advances_of hs.resident rfl (fun e => rfl) (fun d => getSlot_setSlot ..) rfl, onlyIssue_of c _ rfl⟩

/-! ### The array takes an MMA -/

theorem cycleNow_accountArray (s : State) (te : TeId) : cycleNow (accountArray s te) = cycleNow s := by
  obtain ⟨tm, sl, h⟩ := accountArray_only s te
  rw [h]
  rfl

theorem loadBound_accountArray (s : State) (te u : TeId) : loadBound (getTe (accountArray s te) u) = loadBound (getTe s u) := by
  obtain ⟨o, h⟩ := getTe_accountArray s te u
  rw [h]
  rfl

theorem getGroup_accountArray (s : State) (te u : TeId) (g : GroupId) : getGroup (accountArray s te) u g = getGroup s u g := by
  obtain ⟨tm, sl, h⟩ := accountArray_only s te
  rw [h]
  rfl

/-- The first pass's load begins at once where no ring holds it (R73, R139). -/
theorem beginLoad_first (m : Mma) (f : FoldForm) (n cyc : Nat) :
    beginLoad ⟨m, f, n, 0, none, none, 0, none⟩ cyc = ⟨m, f, n, 0, if 0 < n ∧ m.ring = 0 then some cyc else none, none, 0, none⟩ := by
  unfold beginLoad ringGated
  by_cases hn : 0 < n <;> by_cases hr : m.ring = 0 <;> simp [hn, hr]

/-- The array has taken an MMA of a slot, whose queue goes on with the rest, and has bound its group to a form (R68, R80). -/
def arrayTaken (s : State) (te : TeId) (m : Mma) (k : SlotId) (rest : List Mma) (f : FoldForm) (r : Running) : State :=
  let s := setSlot s ⟨te, k⟩ { getSlot s ⟨te, k⟩ with queue := rest }
  let s := setGroup s te m.g { getGroup s te m.g with form := some f }
  setTe s te { getTe s te with running := some r, lastTaken := k, occupiedBy := some k, occupiedFrom := cycleNow s }

section
variable {s : State} {te : TeId} {k : SlotId} {m : Mma} {rest : List Mma} {f : FoldForm}
  (h : running s = true) (hr : (getTe s te).running = none) (hp : tePowered s te = true) (hk : nextSlot s te = some k)
  (hq : (getSlot s ⟨te, k⟩).queue = m :: rest)
include h hr hp hk hq

theorem exec_arrayTakeMma_bound (hd : m.dropped = false) (hf : resolveForm (boundForm s te m) m.hint (getTe s te).current m.m m.n = some f)
    (hsh : outOfShare s ⟨te, k⟩ (bRanges m f) = none) :
    exec (.arrayTakeMma te) s = .next (arrayTaken (accountArray s te) te m k rest f
      ⟨m, f, passCount f (rateOf (mmaFmts m).1 (mmaFmts m).2) m.k, 0,
        if f = (getTe s te).form ∧ 0 < passCount f (rateOf (mmaFmts m).1 (mmaFmts m).2) m.k ∧ m.ring = 0 then some (max (cycleNow s) (loadBound (getTe s te))) else none,
        none, 0, none⟩) := by
  have hcyc : ∀ g v, cycleNow (setGroup (setSlot (accountArray s te) ⟨te, k⟩ { getSlot (accountArray s te) ⟨te, k⟩ with queue := rest }) te g v) = cycleNow s :=
    fun g v => cycleNow_accountArray s te
  rw [exec_arrayTakeMma, execArrayTakeMma, clocked_running h]
  simp only [hr, hp, hk, hq, hf, hsh, hd, Option.isSome_none, Bool.not_true, Bool.or_self, Bool.false_eq_true, if_false, beginLoad_first, arrayTaken, hcyc]
  by_cases hform : f = (getTe s te).form
  · simp only [hform, true_and]
    rfl
  · simp only [hform, false_and, if_false]

theorem exec_arrayTakeMma_shapeless (hf : resolveForm (boundForm s te m) m.hint (getTe s te).current m.m m.n = none) :
    exec (.arrayTakeMma te) s = .next (stopRec s ⟨te, k⟩ { cls := 0x03, cause := 0x02, addr := m.addr, d0 := m.word, d1 := m.ext }) := by
  rw [exec_arrayTakeMma, execArrayTakeMma, clocked_running h]
  simp only [hr, hp, hk, hq, hf, Option.isSome_none, Bool.not_true, Bool.or_self, Bool.false_eq_true, if_false]

end

/-- Settles O16: the books of stalled cycles aside, the array, the slot's queue and the group's form are what changes. -/
theorem arrayTakes : Obligations.ArrayTakes := by
  refine ⟨fun s te k m rest f h hr hp hk hq hd hf hsh => ⟨_, exec_arrayTakeMma_bound h hr hp hk hq hd hf hsh, ?_⟩,
    fun s te k m rest h hr hp hk hq hf => exec_arrayTakeMma_shapeless h hr hp hk hq hf⟩
  have hgroup : ∀ u g, u ≠ te ∨ g ≠ m.g → ¬ (u = te ∧ g = m.g) := fun u g hne he => hne.elim (· he.1) (· he.2)
  unfold arrayTaken
  refine ⟨?_, ?_, ?_, ?_, fun u g hne => ?_, ?_⟩
  · rw [getTe_setTe, if_pos rfl]
    rfl
  · rw [getTe_setTe, if_pos rfl]
  · simp only [getSlot_setTe, getSlot_setGroup, getSlot_setSlot, if_true]
  · simp only [getGroup_setTe, getGroup_setGroup, and_self, if_true]
  · simp only [getGroup_setTe, getGroup_setGroup, hgroup u g hne, if_false, getGroup_setSlot, getGroup_accountArray]
  · obtain ⟨tm, sl, hacc⟩ := accountArray_only s te
    rw [hacc]
    rfl

/-! ### A re-form, and the ready tally of a ring -/

section
variable {s : State} {te : TeId} {r : Running}

/-- The books of a re-form: the eight cycles have gone by, and the context that it re-forms for has stood in them (R79, R233). -/
def reformBooks (s : State) (te : TeId) (k : SlotId) : State :=
  let u := advanceCycle (accountArray s te) (cycleNow s + 8)
  accountArray (stalledFor u ⟨te, k⟩ (cycleNow u - 8) (cycleNow u)) te

theorem cycleNow_reformBooks (k : SlotId) : cycleNow (reformBooks s te k) = cycleNow s + 8 := by
  unfold reformBooks
  rw [cycleNow_accountArray]
  exact cycleNow_advanceCycle _ _ (by rw [cycleNow_accountArray]; omega)

theorem getTe_reformBooks_ne (k : SlotId) {u : TeId} (hu : u ≠ te) : getTe (reformBooks s te k) u = getTe s u := by
  unfold reformBooks
  rw [getTe_accountArray_ne _ hu]
  exact getTe_accountArray_ne s hu

theorem getSlot_reformBooks (k : SlotId) (c : CtxId) : ∃ l, getSlot (reformBooks s te k) c = { getSlot s c with stalled := l } := by
  obtain ⟨l₁, h₁⟩ := getSlot_accountArray s te c
  obtain ⟨l₂, h₂⟩ := (onlyStalled_stalledFor (advanceCycle (accountArray s te) (cycleNow s + 8)) ⟨te, k⟩
    (cycleNow (advanceCycle (accountArray s te) (cycleNow s + 8)) - 8) (cycleNow (advanceCycle (accountArray s te) (cycleNow s + 8)))).slots c
  obtain ⟨l₃, h₃⟩ := getSlot_accountArray (stalledFor (advanceCycle (accountArray s te) (cycleNow s + 8)) ⟨te, k⟩
    (cycleNow (advanceCycle (accountArray s te) (cycleNow s + 8)) - 8) (cycleNow (advanceCycle (accountArray s te) (cycleNow s + 8)))) te c
  refine ⟨(getSlot s c).stalled ++ l₁ ++ l₂ ++ l₃, ?_⟩
  rw [reformBooks, h₃, h₂, show getSlot (advanceCycle (accountArray s te) (cycleNow s + 8)) c = getSlot (accountArray s te) c from rfl, h₁]

theorem stalled_reformBooks (k : SlotId) : (cycleNow s, cycleNow s + 8) ∈ (getSlot (reformBooks s te k) ⟨te, k⟩).stalled := by
  have hcyc : cycleNow (advanceCycle (accountArray s te) (cycleNow s + 8)) = cycleNow s + 8 :=
    cycleNow_advanceCycle _ _ (by rw [cycleNow_accountArray]; omega)
  apply stalled_accountArray
  rw [stalledFor, getSlot_setSlot, if_pos rfl, hcyc, Nat.add_sub_cancel]
  exact List.mem_append_right _ (List.mem_singleton.2 rfl)

theorem reformBooks_only (k : SlotId) : ∃ n tm sl, reformBooks s te k = { s with now := n, eng := { s.eng with te := tm, slots := sl } } := by
  obtain ⟨tm, sl, h⟩ := accountArray_only s te
  obtain ⟨tm', sl', h'⟩ := accountArray_only (stalledFor (advanceCycle (accountArray s te) (cycleNow s + 8)) ⟨te, k⟩
    (cycleNow (advanceCycle (accountArray s te) (cycleNow s + 8)) - 8) (cycleNow (advanceCycle (accountArray s te) (cycleNow s + 8)))) te
  refine ⟨(reformBooks s te k).now, tm', sl', ?_⟩
  rw [reformBooks, h', h]
  rfl

theorem exec_arrayReform_empty (h : running s = true) (hc : bitAt s.brd.clockLost (dieOf te).val = false) (hr : (getTe s te).running = some r)
    (hf : r.form ≠ (getTe s te).form) (hfl : (getTe s te).flights = []) :
    exec (.arrayReform te) s = .next (setTe (reformBooks s te r.mma.slot) te { getTe (reformBooks s te r.mma.slot) te with
      form := r.form, reformEnd := cycleNow s + 8
      mustExercise := decide (s.boot.phase = 8) && decide ((getTe s te).exercised.getD r.form.code 0 + 12000000 < cycleNow s + 8)
      running := some (beginLoad r (cycleNow s + 9)) }) := by
  obtain ⟨n, tm, sl, hbooks⟩ := reformBooks_only (s := s) (te := te) r.mma.slot
  have hboot : (reformBooks s te r.mma.slot).boot = s.boot := by rw [hbooks]
  have hcyc := cycleNow_reformBooks (s := s) (te := te) r.mma.slot
  have hskip : ¬ (r.form = (getTe s te).form ∨ (getTe s te).flights ≠ []) := by simp [hf, hfl]
  rw [exec_arrayReform, execArrayReform, onDie_running h hc]
  simp only [hr, if_neg hskip]
  conv_rhs => rw [← hboot, show cycleNow s + 9 = cycleNow s + 8 + 1 from rfl, ← hcyc]
  rfl

/-- The ready tally of a ring has reached what a pass needs where it lies less than 2^31 ahead of it (R139, R151). -/
theorem ringHolds_of {m : Mma} {seg key : Nat} (hkey : handleKey (m.ready.truncate 32) = some key)
    (hreach : (tally s key - (BitVec.ofNat 32 (bits m.ready 63 32) + BitVec.ofNat 32 (seg + 1))).toNat < 2 ^ 31) : ringHolds s m seg = true :=
  (tallyReached_iff hkey).trans (decide_eq_true hreach)

theorem exec_ringReady_reached {key : Nat} (h : running s = true) (hc : bitAt s.brd.clockLost (dieOf te).val = false) (hr : (getTe s te).running = some r)
    (hf : r.form = (getTe s te).form) (hls : r.loadStart = none) (hen : r.enterNext = r.loadNext) (hlt : r.loadNext < r.passes) (hring : r.mma.ring ≠ 0)
    (hrt : rateOf (mmaFmts r.mma).1 (mmaFmts r.mma).2 ≠ .fp32) (hkey : handleKey (r.mma.ready.truncate 32) = some key)
    (hreach : (tally s key - (BitVec.ofNat 32 (bits r.mma.ready 63 32) + BitVec.ofNat 32 (r.loadNext + 1))).toNat < 2 ^ 31) :
    exec (.ringReady te) s = .next (setTe s te { getTe s te with running := some { r with loadStart := some (max (cycleNow s) (loadBound (getTe s te))) } }) := by
  have hseg : passSeg (rateOf (mmaFmts r.mma).1 (mmaFmts r.mma).2) r.loadNext = r.loadNext := by rw [passSeg, if_neg hrt]
  have hgated : ringGated r r.loadNext = true := by simp [ringGated, hring, hrt]
  have hskip : ¬ (r.form ≠ (getTe s te).form ∨ r.loadStart.isSome = true ∨ r.passes ≤ r.loadNext ∨ r.enterNext ≠ r.loadNext ∨ (!ringGated r r.loadNext) = true
      ∨ (!ringHolds s r.mma (passSeg (rateOf (mmaFmts r.mma).1 (mmaFmts r.mma).2) r.loadNext)) = true) := by
    simp [hf, hls, hen, hlt, hgated, hseg, ringHolds_of hkey hreach]
  rw [exec_ringReady, execRingReady, onDie_running h hc]
  simp only [hr, if_neg hskip]

end

/-- Settles O17: a re-form's books are those of its eight cycles; a ring's tally only sets the cycle in which the load begins. -/
theorem arrayReformsAndRings : Obligations.ArrayReformsAndRings := by
  refine ⟨fun s te r h hc hr hf hfl => ⟨_, exec_arrayReform_empty h hc hr hf hfl, ?_⟩,
    fun s te r key h hc hr hf hls hen hlt hring hrt hkey hreach => ⟨_, exec_ringReady_reached h hc hr hf hls hen hlt hring hrt hkey hreach, ?_⟩⟩
  · obtain ⟨n, tm, sl, hbooks⟩ := reformBooks_only (s := s) (te := te) r.mma.slot
    have hte := getTe_setTe (reformBooks s te r.mma.slot) te te { getTe (reformBooks s te r.mma.slot) te with
      form := r.form, reformEnd := cycleNow s + 8
      mustExercise := decide (s.boot.phase = 8) && decide ((getTe s te).exercised.getD r.form.code 0 + 12000000 < cycleNow s + 8)
      running := some (beginLoad r (cycleNow s + 9)) }
    rw [if_pos rfl] at hte
    refine ⟨by rw [hte], cycleNow_reformBooks r.mma.slot, by rw [hte], by rw [hte], by rw [hte], stalled_reformBooks r.mma.slot,
      getSlot_reformBooks r.mma.slot, fun u hu => ?_, ?_⟩
    · rw [getTe_setTe, if_neg hu, getTe_reformBooks_ne _ hu]
    · conv => lhs; rw [hbooks]
      rw [hbooks]
      rfl
  · refine ⟨by rw [getTe_setTe, if_pos rfl]; rfl, fun u hu => by rw [getTe_setTe, if_neg hu], rfl⟩

/-! ### A weight load completes -/

/-- A pass's load has completed: the shadow registers hold its tile (R73, R74). -/
def weightsLoaded (u : State) (te : TeId) (r : Running) (bs : List Byte) (cyc : Nat) : State :=
  setTe u te { getTe u te with shadowW := bs, running := some { r with loaded := some cyc } }

section
variable {s u : State} {te : TeId} {r : Running} {c0 lam : Nat} {rt : Rate} {bs : List Byte}

theorem exec_weightLoadDone_loaded (h : running s = true) (hc : bitAt s.brd.clockLost (dieOf te).val = false) (hex : (getTe s te).mustExercise = false)
    (hr : (getTe s te).running = some r) (hls : r.loadStart = some c0) (hld : r.loaded = none) (hrt : rt = rateOf (mmaFmts r.mma).1 (mmaFmts r.mma).2)
    (hlam : lam = loadCycles r.form rt (mmaFmts r.mma).2)
    (hload : tsLoad (progressed (advanceCycle s (c0 + lam)) ⟨te, r.mma.slot⟩ c0 (c0 + lam)) te (tileAt r.mma (passSeg rt r.loadNext))
      (tileElems r.form rt (mmaFmts r.mma).2 + tileScales r.form rt (mmaFmts r.mma).2) = (u, .inr bs)) :
    exec (.weightLoadDone te) s = .next (if r.mma.ring ≠ 0 ∧ (rt ≠ .fp32 ∨ r.loadNext % 3 = 2)
      then ringFreed (weightsLoaded u te r bs (c0 + lam - 1)) r.mma ⟨te, r.mma.slot⟩ else weightsLoaded u te r bs (c0 + lam - 1)) := by
  rw [exec_weightLoadDone, execWeightLoadDone, onDie_running h hc]
  simp only [hex, Bool.false_eq_true, if_false, hr, hls, hld, ← hrt, ← hlam, hload, weightsLoaded]

/-- What the load leaves: time has moved on, and only the engines' state differs. -/
theorem weightsLoaded_only {k : SlotId} {a n cyc : Nat} (hload : tsLoad (progressed (advanceCycle s (c0 + lam)) ⟨te, k⟩ c0 (c0 + lam)) te a n = (u, .inr bs)) :
    weightsLoaded u te r bs cyc = { s with now := (advanceCycle s (c0 + lam)).now, eng := (weightsLoaded u te r bs cyc).eng } := by
  obtain ⟨-, -, -, m, e, rfl⟩ := tsLoad_ok hload
  rfl

theorem getCtx_weightsLoaded {k : SlotId} {a n cyc : Nat} (hload : tsLoad (progressed (advanceCycle s (c0 + lam)) ⟨te, k⟩ c0 (c0 + lam)) te a n = (u, .inr bs)) :
    getCtx (weightsLoaded u te r bs cyc) ⟨te, k⟩ = (getCtx s ⟨te, k⟩).map fun x => { x with idle := 0, hangReported := false } := by
  obtain ⟨-, -, -, m, e, rfl⟩ := tsLoad_ok hload
  exact (congrArg Slot.ctx (getSlot_setSlot (advanceCycle s (c0 + lam)) ⟨te, k⟩ ⟨te, k⟩ _)).trans (by rw [if_pos rfl]; rfl)

end

/-- Adding to a ring's freed tally, where its pass does, leaves everything but slots, tallies and the counter of additions (R139, R331). -/
theorem ringFreed_where (p : Prop) [Decidable p] (z : State) (m : Mma) (c : CtxId) :
    ∃ sl ts st, (if p then ringFreed z m c else z) = { z with eng := { z.eng with slots := sl }, tallies := ts, stc := st } := by
  split
  · exact ringFreed_only z m c
  · exact ⟨z.eng.slots, z.tallies, z.stc, rfl⟩

/-- Settles O18: the tile is read once the load's cycles are over; the ring's addition, where it is due, finds no other before it. -/
theorem weightLoads : Obligations.WeightLoads := by
  intro s te r c0 lam rt u bs h hc hex hr hls hld hrt hlam hload
  refine ⟨_, exec_weightLoadDone_loaded h hc hex hr hls hld hrt hlam hload, ?_⟩
  have honly := weightsLoaded_only (r := r) (cyc := c0 + lam - 1) hload
  have hctx := getCtx_weightsLoaded (r := r) (cyc := c0 + lam - 1) hload
  have hte : getTe (weightsLoaded u te r bs (c0 + lam - 1)) te = { getTe u te with shadowW := bs, running := some { r with loaded := some (c0 + lam - 1) } } := by
    rw [weightsLoaded, getTe_setTe, if_pos rfl]
  generalize weightsLoaded u te r bs (c0 + lam - 1) = z at honly hctx hte ⊢
  have htally : ∀ k, tally z k = tally s k := fun k => by rw [honly]; rfl
  obtain ⟨sl, ts, st, hfreed⟩ := ringFreed_where (r.mma.ring ≠ 0 ∧ (rt ≠ .fp32 ∨ r.loadNext % 3 = 2)) z r.mma ⟨te, r.mma.slot⟩
  refine ⟨?_, ?_, ?_, ⟨z, htally, by rw [honly], rfl⟩, fun hidle hsome => ⟨fun k => ?_, ?_⟩⟩
  · rw [hfreed]
    exact congrArg Te.shadowW hte
  · rw [hfreed]
    exact congrArg Te.running hte
  · rw [hfreed, honly]
    exact cycleNow_advanceCycle_max s _
  · obtain ⟨x, hx⟩ := Option.isSome_iff_exists.1 hsome
    obtain ⟨hops, hup⟩ := hidle x hx
    have hup' : tallyUp z (dieOf te).val r.mma.freed = true := by rw [honly]; exact hup
    rw [hx, Option.map_some] at hctx
    by_cases hring : r.mma.ring ≠ 0 ∧ (rt ≠ .fp32 ∨ r.loadNext % 3 = 2)
    · rw [if_pos hring, ringFreed_idle hctx hops hup', htally]
      simp only [hring, not_false_eq_true, ne_eq, true_and]
    · rw [if_neg hring, if_neg fun hk => hring ⟨hk.1, hk.2.1⟩, htally]
  · conv => lhs; rw [hfreed, honly]
    rw [hfreed, honly]

/-! ### The rows of a pass enter -/

section
variable {s u : State} {te : TeId} {r : Running} {ld t0 : Nat} {rt : Rate} {rows : List (Array Nat × Array Byte)}

/-- A pass's rows have entered the array: its results are under way, the weights that it runs on are live, and its group covers its tile (R73, R75 to R77, R87). -/
def rowsEntered (u : State) (te : TeId) (t : Te) (r : Running) (rt : Rate) (t0 : Nat) (adds : List (Nat × List W32)) : State :=
  let next := { r with enterNext := r.enterNext + 1, loadNext := r.loadNext + 1, heldFrom := none }
  let s := progressed u ⟨te, r.mma.slot⟩ t0 (t0 + r.mma.m * rt.r)
  let s := setTe s te { getTe s te with
    liveW := t.shadowW, current := r.form, running := if next.enterNext < r.passes then some (beginLoad next t0) else none
    flights := t.flights ++ [⟨r.mma.g, r.mma.slot, t0 + (r.mma.m - 1) * rt.r + r.form.latency, r.mma.m, r.mma.n, adds⟩]
    rowsFree := t0 + r.mma.m * rt.r }
  setGroup s te r.mma.g { getGroup s te r.mma.g with
    m := max (getGroup s te r.mma.g).m r.mma.m, n := max (getGroup s te r.mma.g).n r.mma.n }

theorem exec_passRowsEnter_enters {v : State} (h : running s = true) (hc : bitAt s.brd.clockLost (dieOf te).val = false) (hr : (getTe s te).running = some r)
    (hld : r.loaded = some ld) (hheld : r.heldFrom = none) (hd : r.mma.dropped = false) (hsc : scalingFirst s te r.mma = false)
    (hroom : inProgress s te r.mma.g = true ∨ (othersInProgress s te r.mma.g).length < 2) (hrt : rt = rateOf (mmaFmts r.mma).1 (mmaFmts r.mma).2)
    (hv : v = advanceCycle s (max (max (max (ld + 1) (getTe s te).rowsFree) (scalingBound s te r.mma r.form)) (turnoverBound s te r.mma.g)))
    (ht0 : t0 = cycleNow v)
    (hrows : passRows v te r.mma (mmaFmts r.mma).1 (passSeg rt r.enterNext * passK r.form rt)
      (min ((passSeg rt r.enterNext + 1) * passK r.form rt) r.mma.k) (List.range r.mma.m) = (u, .inr rows)) :
    ∃ adds, exec (.passRowsEnter te) s = .next (rowsEntered u te (getTe s te) r rt t0 adds) := by
  have hgo : ¬ ((!inProgress s te r.mma.g) = true ∧ 2 ≤ (othersInProgress s te r.mma.g).length) := by
    rintro ⟨hin, hmany⟩
    rcases hroom with hin' | hfew
    · simp [hin'] at hin
    · omega
  rw [exec_passRowsEnter, execPassRowsEnter, onDie_running h hc]
  simp only [hr, hld, hsc, Bool.false_eq_true, if_false, if_neg hgo, hheld, ← hrt, ← hv, ← ht0, hrows, hd, rowsEntered]
  exact ⟨_, rfl⟩

end

/-- Settles O19: once the rows are read, the pass is a flight more, its weights are the live ones, and the group's extent grows. -/
theorem passEnters : Obligations.PassEnters := by
  intro s te r ld t0 rt u rows h hc hr hld hheld hd hsc hroom hrt ht0 hrows hgroups hte
  obtain ⟨adds, hexec⟩ := exec_passRowsEnter_enters h hc hr hld hheld hd hsc hroom hrt rfl ht0 hrows
  have hgroup : getGroup u te r.mma.g = getGroup s te r.mma.g := by rw [getGroup, hgroups, getGroup]
  refine ⟨_, hexec, ?_⟩
  unfold rowsEntered
  simp only [getTe_setGroup, getTe_setTe, getGroup_setGroup, getGroup_setTe, and_self, if_true]
  refine ⟨⟨_, rfl, rfl, rfl, rfl, rfl, rfl⟩, trivial, trivial, trivial, ?_, ?_, ?_⟩
  · by_cases hlast : r.enterNext + 1 < r.passes
    · simp [hlast]
    · simpa [hlast] using Nat.not_lt.1 hlast
  · rw [show getGroup (progressed u ⟨te, r.mma.slot⟩ t0 (t0 + r.mma.m * rt.r)) te r.mma.g = getGroup u te r.mma.g from rfl, hgroup]
  · rw [show getGroup (progressed u ⟨te, r.mma.slot⟩ t0 (t0 + r.mma.m * rt.r)) te r.mma.g = getGroup u te r.mma.g from rfl, hgroup]

/-! ### The results of a group land -/

/-- Every block value of a group's passes has been added into its element, in order (R92). -/
def blocksAdded (s : State) (te : TeId) (g : GroupId) (mine : List Flight) : State :=
  mine.foldl (fun s f => f.adds.foldl (fun s a => a.2.foldl (addBlock false te g.val a.1) s) s) s

/-- The results of a group have landed: its flights are over, and it leaves progress with the landing (R76, R77). -/
def resultsLanded (u : State) (te : TeId) (g : GroupId) (gr : Group) (rest : List Flight) (o : Option SlotId) (e : Nat) : State :=
  let s := setGroup u te g (if gr.discard then {} else { gr with landedAt := e })
  setTe s te { getTe s te with
    flights := rest
    leaving := ((getTe s te).leaving.filter fun l => decide (e ≤ l.2)) ++ [(g, e)]
    occupiedBy := o }

/-- No more passes of a group are to come where the array runs none into it that has passes behind it. -/
theorem morePasses_false {t : Te} {g : GroupId} (hr : ∀ r, t.running = some r → r.mma.g ≠ g ∨ r.enterNext = 0) : morePasses t g = false := by
  unfold morePasses
  cases hrun : t.running with
  | none => rfl
  | some r =>
    rw [decide_eq_false_iff_not]
    rintro ⟨hg, hpos⟩
    exact (hr r hrun).elim (fun h => h hg) fun h => absurd h (Nat.ne_of_gt hpos)

section
variable {s : State} {te : TeId} {g : GroupId} {mine : List Flight}

theorem exec_groupLanding_lands (h : running s = true) (hc : bitAt s.brd.clockLost (dieOf te).val = false)
    (hmine : mine = (getTe s te).flights.filter (fun f => decide (f.g = g))) (hne : mine ≠ [])
    (hr : ∀ r, (getTe s te).running = some r → r.mma.g ≠ g ∨ r.enterNext = 0) (hcomp : (getGroup s te g).comp = false) :
    ∃ o, exec (.groupLanding te g) s = .next (resultsLanded
      (blocksAdded (accountArray (advanceCycle s ((mine.map (·.landing)).foldl max 0)) te) te g mine) te g (getGroup s te g)
      ((getTe s te).flights.filter fun f => decide (f.g ≠ g)) o ((mine.map (·.landing)).foldl max 0)) := by
  have hempty : mine.isEmpty = false := by simpa using hne
  have hgroup : getGroup (accountArray (advanceCycle s ((mine.map (·.landing)).foldl max 0)) te) te g = getGroup s te g := getGroup_accountArray ..
  rw [exec_groupLanding, execGroupLanding, onDie_running h hc]
  simp only [← hmine, hempty, morePasses_false hr, Bool.or_self, Bool.false_eq_true, if_false, hgroup, hcomp, resultsLanded, blocksAdded]
  exact ⟨_, rfl⟩

/-- What the landed values leave: the elements of the group hold their sums, and nothing but accumulators differs (R92). -/
theorem blocksAdded_spec (s : State) (hadds : ∀ f ∈ mine, ∀ a ∈ f.adds, a.1 < 16384) :
    (∀ i, i < 16384 → accAt (blocksAdded s te g mine) te g.val i =
      (((mine.map (·.adds)).flatten.filter fun a => decide (a.1 = i)).map (·.2)).flatten.foldl fadd (accAt s te g.val i))
    ∧ (∀ u h i, i < 16384 → h < 8 → (u ≠ te ∨ h ≠ g.val) → accAt (blocksAdded s te g mine) u h i = accAt s u h i)
    ∧ ∃ a, blocksAdded s te g mine = { s with eng := { s.eng with acc := a } } := by
  have hall : ∀ a ∈ (mine.map (·.adds)).flatten, a.1 < 16384 := fun a ha => by
    obtain ⟨l, hl, hal⟩ := List.mem_flatten.1 ha
    obtain ⟨f, hf, rfl⟩ := List.mem_map.1 hl
    exact hadds f hf a hal
  obtain ⟨hacc, honly⟩ := accAt_addFlight te g.val g.isLt _ hall s
  rw [blocksAdded, addFlights_accepted te g.val g.isLt mine hadds]
  refine ⟨fun i hi => ?_, fun u h i hi hh hne => ?_, honly⟩
  · rw [hacc te g.val i g.isLt hi, if_pos ⟨rfl, rfl⟩]
  · rw [hacc u h i hh hi, if_neg fun he => hne.elim (· he.1) (· he.2)]

end

/-- Settles O20: the values that land are the one change to accumulators; the flights of the group are over, and time stands at the landing. -/
theorem resultsLand : Obligations.ResultsLand := by
  intro s te g mine h hc hmine hne hr hcomp hadds
  obtain ⟨o, hexec⟩ := exec_groupLanding_lands h hc hmine hne hr hcomp
  obtain ⟨hown, hother, a, honly⟩ := blocksAdded_spec (te := te) (g := g) (accountArray (advanceCycle s ((mine.map (·.landing)).foldl max 0)) te) hadds
  obtain ⟨tm, sl, hbooks⟩ := accountArray_only (advanceCycle s ((mine.map (·.landing)).foldl max 0)) te
  have hacc : ∀ u k i, accAt (accountArray (advanceCycle s ((mine.map (·.landing)).foldl max 0)) te) u k i = accAt s u k i := fun u k i => by rw [hbooks]; rfl
  refine ⟨_, hexec, fun i hi => ?_, fun u k i hi hk hne' => ?_, ?_, ?_, ?_⟩
  · exact (hown i hi).trans (by rw [hacc])
  · exact (hother u k i hi hk hne').trans (hacc u k i)
  · rw [resultsLanded, getTe_setTe, if_pos rfl]
  · rw [honly]
    exact (cycleNow_accountArray ..).trans (cycleNow_advanceCycle_max s _)
  · rw [honly, hbooks]
    rfl

end Sys2Proof.Machine
end

section
/-! PROOFS. Accumulation groups (R84 to R88, R96 to R110, R140 to R142): O21 and O22. -/

namespace Sys2Proof.Machine

/-! ### OPEN -/

theorem getGroup_hasIssued (s : State) (c : CtxId) (pc : W64) (te : TeId) (g : GroupId) : getGroup (hasIssued s c pc) te g = getGroup s te g := rfl
theorem accAt_hasIssued (s : State) (c : CtxId) (pc : W64) (te : TeId) (g i : Nat) : accAt (hasIssued s c pc) te g i = accAt s te g i := rfl

/-- The group that a field names has the field's number (R84). -/
theorem groupOf_val {s : State} {c : CtxId} {n : Nat} {g : GroupId} (h : groupOf s c n = some g) : g.val = n := by
  have := List.find?_some h
  exact of_decide_eq_true this
/-- An effect on slots, engines and groups, once issued, is one on those tables alone. -/
theorem issued_groups {s u : State} (c : CtxId) (pc : W64) (h : ∃ tm sl gs, u = { s with eng := { s.eng with te := tm, slots := sl, groups := gs } }) :
    hasIssued u c pc = { s with eng := { s.eng with
      te := (hasIssued u c pc).eng.te, slots := (hasIssued u c pc).eng.slots, groups := (hasIssued u c pc).eng.groups } } := by
  obtain ⟨tm, sl, gs, rfl⟩ := h
  rfl
/-- So is one that changes accumulators besides. -/
theorem issued_groupsAcc {s u : State} (c : CtxId) (pc : W64)
    (h : ∃ tm sl gs ac, u = { s with eng := { s.eng with te := tm, slots := sl, groups := gs, acc := ac } }) :
    hasIssued u c pc = { s with eng := { s.eng with
      te := (hasIssued u c pc).eng.te, slots := (hasIssued u c pc).eng.slots, groups := (hasIssued u c pc).eng.groups, acc := (hasIssued u c pc).eng.acc } } := by
  obtain ⟨tm, sl, gs, ac, rfl⟩ := h
  rfl
theorem getGroup_clearAcc (s : State) (te u : TeId) (a n : Nat) (g : GroupId) : getGroup (clearAcc s te a n) u g = getGroup s u g := rfl

section
variable {s : State} {c : CtxId} {ctx : Ctx} {w x : W64} {g g' : GroupId}

theorem exec_openGroup_free (hs : Ready s c ctx) (hl : Legal ctx w 0x38 false [rsv w 63 14, (0x06, ctx.shadow)]) (hg : groupOf s c (bits w 12 9) = some g)
    (hg' : if bitAt w 13 then bits w 12 9 % 2 = 0 ∧ groupOf s c (bits w 12 9 + 1) = some g' else g' = g)
    (hfree : ∀ k ∈ [g, g'], heldByPair s c.te k = false ∧ (getGroup s c.te k).st = .free) :
    exec (.openGroup c w x) s = .next (hasIssued
      (setGroup (clearAcc s c.te (bits w 12 9) (if bitAt w 13 then 2 else 1)) c.te g { st := .opened, comp := bitAt w 13 }) c (ctx.pc + 8)) := by
  have hblock : ∀ k ∈ [g, g'], openBlocked s c.te k = none := fun k hk => openBlocked_none (hfree k hk).1 (hfree k hk).2
  have hb := hblock g (by simp)
  have hb' := hblock g' (by simp)
  rw [exec_openGroup, execOpenGroup, clocked_running hs.clocks, issue_done hs hl]
  · rfl
  · cases hcmp : bitAt w 13
    · simp only [hg, hb, Bool.false_eq_true, false_and, if_false]
    · rw [hcmp, if_pos rfl] at hg'
      have hodd : ¬ bits w 12 9 % 2 = 1 := by omega
      simp only [hg, hg'.2, hb, hb', hodd, and_false, if_false, if_true]

/-- The elements that OPEN clears are those of the group, and of its successor in a compensated pair (R85, R96). -/
theorem accAt_opened (hg : groupOf s c (bits w 12 9) = some g)
    (hg' : if bitAt w 13 then bits w 12 9 % 2 = 0 ∧ groupOf s c (bits w 12 9 + 1) = some g' else g' = g) (u : TeId) {h i : Nat} (hh : h < 8) (hi : i < 16384) :
    accAt (clearAcc s c.te (bits w 12 9) (if bitAt w 13 then 2 else 1)) u h i = if u = c.te ∧ (h = g.val ∨ h = g'.val) then 0 else accAt s u h i := by
  have hv := groupOf_val hg
  cases hcmp : bitAt w 13
  · rw [hcmp, if_neg Bool.false_ne_true] at hg'
    rw [if_neg Bool.false_ne_true, accAt_clear _ _ _ _ (by have := g.isLt; omega) _ _ _ hh hi]
    have : (bits w 12 9 ≤ h ∧ h < bits w 12 9 + 1) ↔ (h = g.val ∨ h = g'.val) := by rw [hg']; omega
    simp only [this]
  · rw [hcmp, if_pos rfl] at hg'
    have hv' := groupOf_val hg'.2
    rw [if_pos rfl, accAt_clear _ _ _ _ (by have := g'.isLt; omega) _ _ _ hh hi]
    have : (bits w 12 9 ≤ h ∧ h < bits w 12 9 + 2) ↔ (h = g.val ∨ h = g'.val) := by omega
    simp only [this]

end

/-! ### DISCARD -/

/-- An MMA of a group that is discarded: marked dropped, once (R85). -/
def droppedIn (gr : Group) (g : GroupId) (m : Mma) : Mma :=
  if m.g = g ∧ !m.dropped then { m with dropped := true, bound := gr.form } else m

theorem droppedIn_dropped {gr : Group} {g : GroupId} {m : Mma} (h : (droppedIn gr g m).g = g) : (droppedIn gr g m).dropped = true := by
  unfold droppedIn at h ⊢
  split
  · rfl
  next hm =>
    rw [if_neg hm] at h
    simpa [h] using hm

/-- A group that DISCARD leaves: free, or marked where results of a closed one are in flight (R85, Table 4-2). -/
def discarded (s : State) (te : TeId) (g : GroupId) : Group :=
  if (getGroup s te g).st = .closed ∧ (∃ f ∈ (getTe s te).flights, f.g = g) then { getGroup s te g with discard := true, reqs := [] } else {}

section
variable {s : State} {c : CtxId} {ctx : Ctx} {w x : W64} {g : GroupId}

theorem getSlot_dropResults (d : CtxId) : getSlot (dropResults s c g) d =
    if d = c then { getSlot s c with queue := (getSlot s c).queue.map (droppedIn (getGroup s c.te g) g) } else getSlot s d := getSlot_setSlot ..

theorem getTe_dropResults (u : TeId) : getTe (dropResults s c g) u = if u = c.te then { getTe s c.te with
    running := (getTe s c.te).running.map fun r => if r.mma.slot = c.slot then { r with mma := droppedIn (getGroup s c.te g) g r.mma } else r
    flights := (getTe s c.te).flights.map fun f => if f.g = g then { f with adds := [] } else f } else getTe s u := getTe_setTe ..

variable (hs : Ready s c ctx) (hl : Legal ctx w 0x3C false [rsv w 63 13, (0x06, ctx.shadow)]) (hg : groupOf s c (bits w 12 9) = some g)
  (hpair : heldByPair s c.te g = false)
include hs hl hg hpair

theorem exec_discard_free (hst : (getGroup s c.te g).st = .free) : exec (.discard c w x) s = .next (hasIssued s c (ctx.pc + 8)) := by
  rw [exec_discard, execDiscard, clocked_running hs.clocks, issue_done hs hl]
  · rfl
  · simp only [hg, hpair, hst, Bool.false_eq_true, if_false]

theorem exec_discard_discards (hst : (getGroup s c.te g).st = .opened ∨ (getGroup s c.te g).st = .closed) :
    exec (.discard c w x) s = .next (hasIssued (setGroup (dropResults s c g) c.te g (discarded s c.te g)) c (ctx.pc + 8)) := by
  rw [exec_discard, execDiscard, clocked_running hs.clocks, issue_done hs hl]
  · rfl
  · rcases hst with hst | hst
    · simp only [hg, hpair, hst, Bool.false_eq_true, if_false, discarded, reduceCtorEq, false_and]
    · have hany : ((getTe s c.te).flights.any fun f => decide (f.g = g)) = true ↔ ∃ f ∈ (getTe s c.te).flights, f.g = g := by simp
      have hkept : getGroup (dropResults s c g) c.te g = getGroup s c.te g := rfl
      simp only [hg, hpair, hst, Bool.false_eq_true, if_false, discarded, true_and, hany, hkept]

end

/-- Settles O21: what OPEN clears are its groups' elements; DISCARD marks the MMAs, empties the flights and frees or marks the group. -/
theorem groupsOpen : Obligations.GroupsOpen := by
  refine ⟨fun s c ctx w x g g' hs hl hg hg' hfree => ⟨_, exec_openGroup_free hs hl hg hg' hfree, fun u h i hh hi => accAt_opened hg hg' u hh hi,
      fun u h => by rw [getGroup_hasIssued, getGroup_setGroup]; rfl, proceeds_of hs.resident (fun _ => rfl) (fun _ => rfl) rfl,
      issued_groupsAcc c _ ⟨_, _, _, _, rfl⟩⟩,
    fun s c ctx w x g hs hl hg hpair => ⟨fun hst => ⟨_, exec_discard_free hs hl hg hpair hst, hasIssued_advances hs.resident, hasIssued_only ..⟩,
      fun hst => ⟨_, exec_discard_discards hs hl hg hpair hst, ?_⟩⟩⟩
  generalize hu : setGroup (dropResults s c g) c.te g (discarded s c.te g) = u
  have hslot : ∀ d, getSlot u d = getSlot (dropResults s c g) d := fun d => by rw [← hu]; rfl
  have hte : ∀ e, getTe u e = getTe (dropResults s c g) e := fun e => by rw [← hu]; rfl
  have hres : getCtx u c = some ctx := by rw [getCtx, hslot, getSlot_dropResults, if_pos rfl]; exact hs.resident
  have hadv := hasIssued_advances (pc := ctx.pc + 8) hres
  have hqueue : (getSlot (hasIssued u c (ctx.pc + 8)) c).queue = (getSlot s c).queue.map (droppedIn (getGroup s c.te g) g) := by
    rw [hadv.slot, if_pos rfl, issuedSlot, hslot, getSlot_dropResults, if_pos rfl]
  refine ⟨fun u' h => ?_, fun m hm hmg => ?_, ?_, fun f hf hfg => ?_, fun r hr hrs hrg => ?_, fun d hd => ?_, fun e he => ?_, fun y hy => ?_, ?_⟩
  · rw [getGroup_hasIssued, ← hu, getGroup_setGroup]
    rfl
  · rw [hqueue] at hm
    obtain ⟨m', -, rfl⟩ := List.mem_map.1 hm
    exact droppedIn_dropped hmg
  · rw [hqueue, List.length_map]
  · rw [hadv.te, if_pos rfl, hte, getTe_dropResults, if_pos rfl] at hf
    obtain ⟨f', -, rfl⟩ := List.mem_map.1 hf
    by_cases h : f'.g = g
    · rw [if_pos h]
    · rw [if_neg h] at hfg
      exact absurd hfg h
  · rw [hadv.te, if_pos rfl, hte, getTe_dropResults, if_pos rfl] at hr
    obtain ⟨r', -, rfl⟩ := Option.map_eq_some_iff.1 hr
    by_cases h : r'.mma.slot = c.slot
    · rw [if_pos h] at hrg ⊢
      exact droppedIn_dropped hrg
    · rw [if_neg h] at hrs
      exact absurd hrs h
  · rw [hadv.slot, if_neg hd, hslot, getSlot_dropResults, if_neg hd]
  · rw [hadv.te, if_neg he, hte, getTe_dropResults, if_neg he]
  · rw [getCtx, hadv.slot, if_pos rfl] at hy
    exact (Option.some.inj hy) ▸ rfl
  · obtain ⟨tm, sl, honly⟩ := dropResults_only s c g
    exact issued_groups c _ ⟨tm, sl, _, by rw [← hu, honly]; rfl⟩

/-! ### CLOSE, SCALE_ROWS and SWAP -/

section
variable {s : State} {c : CtxId} {ctx : Ctx} {w x : W64} {g g' : GroupId} {e : Nat × Nat}

theorem exec_close_ready (hs : Ready s c ctx) (hl : Legal ctx w 0x39 (closeExt w) (closeCauses w x false ctx)) (hg : groupOf s c (bits w 12 9) = some g)
    (he : e = extentOf s c g) (hsh : outOfShare s c (drainReadsFrom (drainOf s c w x) e.1 e.2 ++ drainWritesTo (drainOf s c w x) e.1 e.2) = none)
    (hd : (getGroup s c.te g).discard = false) (ha : closeAccepted s c.te g = true) (hp : heldByPair s c.te g = false)
    (hw : closeMustWait s c (drainOf s c w x) e.1 e.2 = false) :
    exec (.close c w x) s = .next (hasIssued (setGroup s c.te g { getGroup s c.te g with
      st := if (getGroup s c.te g).st = .opened then .closed else (getGroup s c.te g).st
      retain := bitAt w 27
      reqs := (getGroup s c.te g).reqs ++ [drainOf s c w x] }) c (ctx.pc + (if closeExt w then 16 else 8))) := by
  rw [exec_close, execClose, clocked_running hs.clocks, issue_done hs hl]
  simp only [hg, ← he, hsh, hd, ha, hp, hw, Bool.not_true, Bool.or_self, Bool.false_eq_true, if_false]
  rfl

theorem exec_swap_ready (hs : Ready s c ctx) (hl : Legal ctx w 0x3A (closeExt w) (closeCauses w x true ctx)) (hg : bankOf s c ctx.liveBank = some g)
    (hg' : bankOf s c (1 - ctx.liveBank) = some g') (he : e = extentOf s c g)
    (hsh : outOfShare s c (drainReadsFrom (drainOf s c w x) e.1 e.2 ++ drainWritesTo (drainOf s c w x) e.1 e.2) = none)
    (hst : (getGroup s c.te g').st = .free) (hw : closeMustWait s c (drainOf s c w x) e.1 e.2 = false) :
    exec (.swap c w x) s = .next (hasIssued (modCtx (setGroup (clearAcc
      (setGroup s c.te g { getGroup s c.te g with st := .closed, retain := false, reqs := (getGroup s c.te g).reqs ++ [drainOf s c w x] })
      c.te g'.val 1) c.te g' { st := .opened }) c fun y => { y with liveBank := 1 - y.liveBank }) c (ctx.pc + (if closeExt w then 16 else 8))) := by
  rw [exec_swap, execSwap, clocked_running hs.clocks, issue_done hs hl]
  simp only [hg, hg', ← he, hsh, hst, hw, ne_eq, not_true_eq_false, Bool.false_eq_true, if_false]

variable {d : Drain} (hs : Ready s c ctx) (hl : Legal ctx w 0x3B false [rsv w 63 29, (0x06, ctx.shadow)]) (hg : groupOf s c (bits w 12 9) = some g)
  (he : e = extentOf s c g) (hdef : d = ⟨c.slot, true, w, 0, 0, 64 * bits w 28 13, cycleNow s⟩) (hsh : outOfShare s c (drainReadsFrom d e.1 e.2) = none)
  (hd : (getGroup s c.te g).discard = false) (hst : (getGroup s c.te g).st = .opened) (hp : heldByPair s c.te g = false)
include hs hl hg he hdef hsh hd hst hp

theorem exec_scaleRows_empty (h0 : e.1 = 0) : exec (.scaleRows c w x) s = .next (hasIssued s c (ctx.pc + 8)) := by
  rw [exec_scaleRows, execScaleRows, clocked_running hs.clocks, issue_done hs hl]
  · rfl
  · rw [h0] at hsh
    simp only [hg, ← he, ← hdef, hsh, hd, hst, hp, h0, ne_eq, not_true_eq_false, or_self, Bool.false_eq_true, if_false, if_true]

theorem exec_scaleRows_ready (h0 : e.1 ≠ 0) (hw : mustWait s c (drainReadsFrom d e.1 e.2) [] = false) :
    exec (.scaleRows c w x) s = .next (hasIssued (setGroup s c.te g { getGroup s c.te g with reqs := (getGroup s c.te g).reqs ++ [d] }) c (ctx.pc + 8)) := by
  rw [exec_scaleRows, execScaleRows, clocked_running hs.clocks, issue_done hs hl]
  · rfl
  · simp only [hg, ← he, ← hdef, hsh, hd, hst, hp, h0, hw, ne_eq, not_true_eq_false, or_self, Bool.false_eq_true, if_false]

end

/-- Settles O22: each adds its request to its own group; SWAP opens the other bank besides, its elements +0. -/
theorem groupsClose : Obligations.GroupsClose := by
  refine ⟨fun s c ctx w x g e hs hl hg he hsh hd ha hp hw => ⟨_, exec_close_ready hs hl hg he hsh hd ha hp hw, fun u h => by rw [getGroup_hasIssued, getGroup_setGroup],
      proceeds_of hs.resident (fun _ => rfl) (fun _ => rfl) rfl, issued_groups c _ ⟨_, _, _, rfl⟩⟩,
    fun s c ctx w x g d e hs hl hg he hdef hsh hd hst hp => ⟨fun h0 =>
        ⟨_, exec_scaleRows_empty hs hl hg he hdef hsh hd hst hp h0, hasIssued_advances hs.resident, hasIssued_only ..⟩,
      fun h0 hw => ⟨_, exec_scaleRows_ready hs hl hg he hdef hsh hd hst hp h0 hw, fun u h => by rw [getGroup_hasIssued, getGroup_setGroup],
        proceeds_of hs.resident (fun _ => rfl) (fun _ => rfl) rfl, issued_groups c _ ⟨_, _, _, rfl⟩⟩⟩,
    fun s c ctx w x g g' e hs hl hg hg' hne he hsh hst hw => ⟨_, exec_swap_ready hs hl hg hg' he hsh hst hw, fun u h => ?_, fun u h i hh hi => ?_, ?_, ?_⟩⟩
  · rw [getGroup_hasIssued, show ∀ (v : State) f, getGroup (modCtx v c f) u h = getGroup v u h from fun _ _ => rfl, getGroup_setGroup]
    by_cases hu : u = c.te ∧ h = g'
    · have : ¬ (u = c.te ∧ h = g) := fun hc => hne (hc.2.symm.trans hu.2)
      rw [if_pos hu, if_neg this, if_pos hu]
    · rw [if_neg hu, if_neg hu]
      rw [getGroup_clearAcc, getGroup_setGroup]
  · refine (accAt_clear _ _ _ _ g'.isLt _ _ _ hh hi).trans ?_
    have : (u = c.te ∧ g'.val ≤ h ∧ h < g'.val + 1) ↔ u = c.te ∧ h = g'.val := and_congr_right fun _ => by omega
    simp only [this]
    rfl
  · exact proceeds_modCtx hs.resident (fun _ => rfl) (fun d => getSlot_modCtx hs.resident _ d) rfl rfl rfl
  · exact issued_groupsAcc c _ ⟨_, _, _, _, rfl⟩

end Sys2Proof.Machine
end

section
/-! PROOFS. The drain path: rows that are scaled, drains that start and end (R78, R86, R87, R98 to R107, R233, R256): O23. -/

namespace Sys2Proof.Machine

/-! ### The drain path scales rows -/

/-- An element is multiplied, and its partner in a compensated pair (R99). -/
def scaleAt (te : TeId) (g : Nat) (comp : Bool) (f : W32) (i : Nat) (s : State) : State :=
  let s := setAcc s te g i (fmul (accAt s te g i) f)
  if comp then setAcc s te (g + 1) i (fmul (accAt s te (g + 1) i) f) else s

/-- A row's elements are multiplied by its factor (R99). -/
def scaleRow (te : TeId) (g : Nat) (comp : Bool) (np n : Nat) (s : State) (f : W32 × Nat) : State :=
  (List.range n).foldl (fun s j => scaleAt te g comp f.1 (f.2 * np + j) s) s

/-- The group, or its partner in a compensated pair, has the number (R96). -/
abbrev InPair (g : Nat) (comp : Bool) (h : Nat) : Prop := h = g ∨ (comp = true ∧ h = g + 1)

theorem quotient_of_row {np n i r : Nat} (hn : n ≤ np) : (r * np ≤ i ∧ i < r * np + n) ↔ (i / np = r ∧ i % np < n) := by
  have hdm := Nat.div_add_mod i np
  rw [Nat.mul_comm np] at hdm
  constructor
  · rintro ⟨hlo, hhi⟩
    have hq : i / np = r := Nat.div_eq_of_lt_le hlo (by rw [Nat.succ_mul]; omega)
    rw [hq] at hdm
    exact ⟨hq, by omega⟩
  · rintro ⟨rfl, hm⟩
    omega

section
variable {te : TeId} {g : Nat} {comp : Bool} (hg : g < 8) (hpair : comp = true → g + 1 < 8)
include hg hpair

theorem accAt_scaleAt (f : W32) (s : State) (v : TeId) {i h j : Nat} (hi : i < 16384) (hh : h < 8) (hj : j < 16384) :
    accAt (scaleAt te g comp f i s) v h j = if v = te ∧ InPair g comp h ∧ j = i then fmul (accAt s te h i) f else accAt s v h j := by
  unfold scaleAt InPair
  cases hc : comp
  · simp only [Bool.false_eq_true, if_false, false_and, or_false, accAt_setAcc _ _ _ _ _ v h j hg hh hi hj]
    by_cases he : v = te ∧ h = g ∧ j = i
    · rw [if_pos he, if_pos he, he.2.1]
    · rw [if_neg he, if_neg he]
  · have hg1 := hpair hc
    simp only [if_true, true_and, accAt_setAcc _ _ _ _ _ v h j hg1 hh hi hj, accAt_setAcc _ _ _ _ _ v h j hg hh hi hj, accAt_setAcc _ _ _ _ _ te (g + 1) i hg hg1 hi hi]
    by_cases hv : v = te ∧ j = i
    · obtain ⟨rfl, rfl⟩ := hv
      by_cases h1 : h = g + 1
      · simp [h1]
      · by_cases h0 : h = g
        · simp [h0]
        · simp [h0, h1]
    · have hn : ∀ p : Prop, ¬ (v = te ∧ p ∧ j = i) := fun p he => hv ⟨he.1, he.2.2⟩
      simp only [hn, if_false]

theorem accAt_scaleRow (f : W32) (np r : Nat) (n : Nat) (s : State) (v : TeId) {h i : Nat} (hfit : r * np + n ≤ 16384) (hh : h < 8) (hi : i < 16384) :
    accAt (scaleRow te g comp np n s (f, r)) v h i =
      if v = te ∧ InPair g comp h ∧ r * np ≤ i ∧ i < r * np + n then fmul (accAt s te h i) f else accAt s v h i := by
  unfold scaleRow
  dsimp only
  induction n generalizing v with
  | zero =>
    have : ¬ (r * np ≤ i ∧ i < r * np + 0) := by omega
    rw [List.range_zero, List.foldl_nil, if_neg fun h => this h.2.2]
  | succ n ih =>
    rw [List.range_succ, List.foldl_append, List.foldl_cons, List.foldl_nil, accAt_scaleAt hg hpair f _ v (by omega) hh hi]
    by_cases he : i = r * np + n
    · have hold : ∀ v, accAt ((List.range n).foldl (fun s j => scaleAt te g comp f (r * np + j) s) s) v h i = accAt s v h i :=
        fun v => (ih v (by omega)).trans (if_neg fun hc => by omega)
      have hnow : (r * np ≤ i ∧ i < r * np + (n + 1)) = True := eq_true (by omega)
      simp only [← he, hold, hnow, and_true]
    · have hsame : (r * np ≤ i ∧ i < r * np + (n + 1)) ↔ (r * np ≤ i ∧ i < r * np + n) := by omega
      simp only [ih v (by omega), he, and_false, if_false, hsame]

theorem accAt_scaleRows (np n : Nat) (hn : n ≤ np) (fs : List W32) (k : Nat) (s : State) (v : TeId) {h i : Nat}
    (hfit : (k + fs.length) * np ≤ 16384) (hh : h < 8) (hi : i < 16384) :
    accAt ((fs.zipIdx k).foldl (scaleRow te g comp np n) s) v h i =
      if v = te ∧ InPair g comp h ∧ (k ≤ i / np ∧ i / np < k + fs.length) ∧ i % np < n then fmul (accAt s te h i) (fs.getD (i / np - k) 0)
      else accAt s v h i := by
  induction fs generalizing k s with
  | nil =>
    have : ¬ (k ≤ i / np ∧ i / np < k + 0) := by omega
    exact (if_neg fun h => this h.2.2.1).symm
  | cons f fs ih =>
    have hrow : k * np + n ≤ 16384 := by
      have : (k + 1) * np ≤ (k + (fs.length + 1)) * np := Nat.mul_le_mul_right _ (by omega)
      rw [Nat.succ_mul] at this
      rw [List.length_cons] at hfit
      omega
    rw [List.zipIdx_cons, List.foldl_cons, ih (k + 1) _ (by rw [List.length_cons] at hfit; rwa [Nat.add_assoc, Nat.add_comm 1])]
    simp only [accAt_scaleRow hg hpair f np k n s _ hrow hh hi, quotient_of_row hn, List.length_cons]
    by_cases hk : i / np = k
    · have hlater : (k + 1 ≤ i / np ∧ i / np < k + 1 + fs.length) = False := eq_false (by omega)
      have hnow : (k ≤ i / np ∧ i / np < k + (fs.length + 1)) = True := eq_true (by omega)
      simp only [hlater, hnow, false_and, and_false, if_false, true_and]
      simp only [hk, true_and, Nat.sub_self, List.getD_cons_zero]
    · have hsame : (k ≤ i / np ∧ i / np < k + (fs.length + 1)) ↔ (k + 1 ≤ i / np ∧ i / np < k + 1 + fs.length) := by omega
      simp only [hk, false_and, and_false, if_false, hsame]
      by_cases hin : v = te ∧ InPair g comp h ∧ (k + 1 ≤ i / np ∧ i / np < k + 1 + fs.length) ∧ i % np < n
      · rw [if_pos hin, if_pos hin, show i / np - k = i / np - (k + 1) + 1 by omega, List.getD_cons_succ]
      · rw [if_neg hin, if_neg hin]

end

theorem scaleAt_only (te : TeId) (g : Nat) (comp : Bool) (f : W32) (i : Nat) (s : State) :
    ∃ a, scaleAt te g comp f i s = { s with eng := { s.eng with acc := a } } := by
  unfold scaleAt
  cases comp
  · exact ⟨_, rfl⟩
  · exact ⟨_, rfl⟩

/-- Steps that change accumulators alone change, one behind another, accumulators alone. -/
theorem foldl_acc {α : Type} {f : State → α → State} (hf : ∀ s x, ∃ a, f s x = { s with eng := { s.eng with acc := a } }) (l : List α) (s : State) :
    ∃ a, l.foldl f s = { s with eng := { s.eng with acc := a } } := by
  induction l generalizing s with
  | nil => exact ⟨s.eng.acc, rfl⟩
  | cons x l ih =>
    obtain ⟨a, ha⟩ := hf s x
    obtain ⟨b, hb⟩ := ih (f s x)
    exact ⟨b, by rw [List.foldl_cons, hb, ha]⟩

theorem scaleRow_only (te : TeId) (g : Nat) (comp : Bool) (np n : Nat) (s : State) (f : W32 × Nat) :
    ∃ a, scaleRow te g comp np n s f = { s with eng := { s.eng with acc := a } } :=
  foldl_acc (f := fun s j => scaleAt te g comp f.1 (f.2 * np + j) s) (fun s j => scaleAt_only te g comp f.1 (f.2 * np + j) s) (List.range n) s

/-- The drain path has taken a request of a group, and is busy with it from the present on (R78, R98). -/
def pathBusy (u : State) (te : TeId) (g : GroupId) (gr : Group) (d : Drain) (t0 cycles rc : Nat) (undo : List (List (Nat × Byte))) : State :=
  let s := progressed u ⟨te, d.slot⟩ t0 (t0 + cycles)
  let s := setGroup s te g gr
  setTe s te { getTe s te with drain := some ⟨g, d, t0, cycles, rc, undo⟩, drainFrom := t0, drainOwner := some d.slot }

section
variable (u : State) (te : TeId) (g : GroupId) (gr : Group) (d : Drain) (t0 cycles rc : Nat) (undo : List (List (Nat × Byte)))

theorem accAt_pathBusy (v : TeId) (h i : Nat) : accAt (pathBusy u te g gr d t0 cycles rc undo) v h i = accAt u v h i := rfl
theorem cycleNow_pathBusy : cycleNow (pathBusy u te g gr d t0 cycles rc undo) = cycleNow u := rfl
theorem tiles_pathBusy : (pathBusy u te g gr d t0 cycles rc undo).eng.tiles = u.eng.tiles := rfl
theorem getGroup_pathBusy (v : TeId) (h : GroupId) : getGroup (pathBusy u te g gr d t0 cycles rc undo) v h = if v = te ∧ h = g then gr else getGroup u v h := by
  rw [pathBusy, getGroup_setTe, getGroup_setGroup]
  rfl
theorem drain_pathBusy : (getTe (pathBusy u te g gr d t0 cycles rc undo) te).drain = some ⟨g, d, t0, cycles, rc, undo⟩ := by
  rw [pathBusy, getTe_setTe, if_pos rfl]
theorem drainOwner_pathBusy : (getTe (pathBusy u te g gr d t0 cycles rc undo) te).drainOwner = some d.slot := by
  rw [pathBusy, getTe_setTe, if_pos rfl]
theorem pathBusy_only : ∃ e, pathBusy u te g gr d t0 cycles rc undo = { u with eng := e } := ⟨_, rfl⟩

end

section
variable {s u : State} {te : TeId} {g : GroupId} {d : Drain} {gr : Group}

theorem getGroup_takePath (v : TeId) (h : GroupId) : getGroup (takePath s te g d) v h = getGroup s v h := by
  obtain ⟨sl, hpath⟩ := takePath_eq s te g d
  rw [hpath]
  rfl

theorem getTe_takePath (v : TeId) : getTe (takePath s te g d) v = getTe s v := by
  obtain ⟨sl, hpath⟩ := takePath_eq s te g d
  rw [hpath]
  rfl

/-- The rows of a group that are to be scaled, in the state in which the drain path takes them. -/
def rowsScaled (u : State) (te : TeId) (g : GroupId) (gr : Group) (bs : List Byte) : State :=
  (words32 bs).zipIdx.foldl (scaleRow te g.val gr.comp (gr.form.getD .f128).np gr.n) u

theorem rowsScaled_only (bs : List Byte) : ∃ a, rowsScaled u te g gr bs = { u with eng := { u.eng with acc := a } } :=
  foldl_acc (f := scaleRow te g.val gr.comp (gr.form.getD .f128).np gr.n) (fun _ _ => scaleRow_only ..) _ u

theorem exec_scaleRowsBegin_takes {bs : List Byte} (hrun : running s = true) (hd : canDrain s te g = some d) (hsc : d.scaleRows = true)
    (hidle : (getTe s te).drain = none) (hf : firstReady s te g d = true) (hp : tePowered s te = true) (hgr : gr = getGroup s te g)
    (hload : tsLoad (takePath s te g d) te d.factors (4 * gr.m) = (u, .inr bs)) :
    exec (.scaleRowsBegin te g) s = .next (pathBusy (rowsScaled u te g gr bs) te g { gr with reqs := gr.reqs.drop 1 } d
      (cycleNow (rowsScaled u te g gr bs)) (gr.m * ceilDiv' gr.n 128) (ceilDiv' gr.n 128) []) := by
  rw [exec_scaleRowsBegin, execScaleRowsBegin, clocked_running hrun]
  simp only [hd, hsc, hidle, hf, hp, ← hgr, hload, Option.isSome_none, Bool.not_true, Bool.or_self, Bool.false_eq_true, if_false, pathBusy]
  rfl

theorem exec_drainStart_takes {v z : State} {sr : Option Nat} {undo : List (List (Nat × Byte))} (hrun : running s = true) (hd : canDrain s te g = some d)
    (hsc : d.scaleRows = false) (hidle : (getTe s te).drain = none) (hf : firstReady s te g d = true) (hp : tePowered s te = true) (hgr : gr = getGroup s te g)
    (hload : drainLoads (takePath s te g d) te (drainReadsFrom d gr.m gr.n) = (u, none)) (hsr : drawsFor u (drSr d) (roundUp gr.n 32 * gr.m) = (sr, v))
    (hrows : drainRows te g gr d (if drScale d = 2 then words32 (tsRead u te (drVec d) (4 * gr.n)) else [])
      (if drScale d = 3 then words32 (tsRead u te (drVec d) (4 * gr.m)) else [])
      (if drBias d = 1 then words32 (tsRead u te (drBiasVec d) (4 * gr.n)) else []) sr (List.range gr.m) v [] = (z, undo)) :
    exec (.drainStart te g) s = .next (pathBusy z te g { gr with st := .draining, reqs := gr.reqs.drop 1 } d (cycleNow v)
      (if gr.m = 0 then 1 else gr.m * ceilDiv' gr.n 128) (ceilDiv' gr.n 128) undo) := by
  rw [exec_drainStart, execDrainStart, clocked_running hrun]
  simp only [hd, hsc, hidle, hf, hp, getGroup_takePath, ← hgr, hload, hsr, decide_eq_true_eq, hrows, Option.isSome_none, Bool.not_true, Bool.or_self,
    Bool.false_eq_true, if_false, pathBusy]

end

/-! ### The drain path is free again -/

/-- The drain path is free from a cycle on; what its drains have written shows from the cycles that are noted (R98, R107). -/
def pathFree (u : State) (te : TeId) (t : Te) (last : Nat) (fresh freshRows : List (Nat × Nat × Nat)) : State :=
  setTe u te { t with drain := none, drainFree := last, fresh := fresh, freshRows := freshRows }

/-- The state at a drain's last cycle: time has gone by, and the ready drains of other contexts have stood (R233). -/
def drainBooks (s : State) (te : TeId) (last : Nat) : State := drainsStand (advanceCycle s last) te last

section
variable {s : State} {te : TeId} {r : DrainRun}

theorem onlyStalled_drainBooks (last : Nat) : OnlyStalled (advanceCycle s last) (drainBooks s te last) := onlyStalled_drainsStand ..

theorem getGroup_drainBooks (last : Nat) (v : TeId) (h : GroupId) : getGroup (drainBooks s te last) v h = getGroup s v h := by
  obtain ⟨sl, hb⟩ := (onlyStalled_drainBooks (s := s) (te := te) last).rest
  rw [hb]
  rfl

theorem tileErr_drainBooks (last : Nat) : (drainBooks s te last).eng.tileErr = s.eng.tileErr := by
  obtain ⟨sl, hb⟩ := (onlyStalled_drainBooks (s := s) (te := te) last).rest
  rw [hb]
  rfl

/-- The check bytes of what a drain overwrote are those of the new lines (R256). -/
def linesHealed (u : State) (undo : List (List (Nat × Byte))) : State := { u with eng := { u.eng with tileErr := undo.foldl healRow u.eng.tileErr } }

/-- The state in which the end of a drain or of a scaling leaves the machine, its group aside. -/
def drainOver (s : State) (te : TeId) (undo : List (List (Nat × Byte))) (last : Nat) (fresh freshRows : List (Nat × Nat × Nat)) : State :=
  pathFree (linesHealed (drainBooks s te last) undo) te (getTe s te) last fresh freshRows

variable (h : running s = true) (hc : bitAt s.brd.clockLost (dieOf te).val = false) (hr : (getTe s te).drain = some r)
include h hc hr

theorem exec_drainEnd_scaling (hsc : r.drain.scaleRows = true) :
    ∃ fresh freshRows, exec (.drainEnd te) s = .next (drainOver s te [] (r.start + r.cycles) fresh freshRows) := by
  rw [exec_drainEnd, execDrainEnd, onDie_running h hc]
  simp only [hr, hsc, if_true]
  exact ⟨_, _, rfl⟩

theorem exec_drainEnd_drain (hsc : r.drain.scaleRows = false) :
    ∃ fresh freshRows,
      exec (.drainEnd te) s = .next (setGroup (drainOver s te r.undo (r.start + r.cycles) fresh freshRows) te r.g
        (if bitAt r.drain.base 27 = true ∨ (getGroup s te r.g).reqs ≠ [] then { getGroup s te r.g with st := .closed } else {}))
      ∧ (∀ o ∈ drainWritesTo r.drain (getGroup s te r.g).m (getGroup s te r.g).n,
        (o.1, o.2, r.start + r.cycles - 1 + (if (getGroup s te r.g).comp = true ∧ (getGroup s te r.g).m ≠ 0 then 6 else 4)) ∈ fresh)
      ∧ ∀ o ∈ drRowRange r.drain (getGroup s te r.g).m,
        (o.1, o.2, r.start + r.cycles - 1 + (if (getGroup s te r.g).comp = true ∧ (getGroup s te r.g).m ≠ 0 then 6 else 4)) ∈ freshRows := by
  rw [exec_drainEnd, execDrainEnd, onDie_running h hc]
  simp only [hr, hsc, Bool.false_eq_true, if_false]
  rw [show drainsStand (advanceCycle s (r.start + r.cycles)) te (r.start + r.cycles) = drainBooks s te (r.start + r.cycles) from rfl, getGroup_drainBooks]
  generalize getGroup s te r.g = gr
  refine ⟨_, _, (congrArg Host.Outcome.next (apply_ite (setGroup _ te r.g) (drRetain r.drain = true ∨ gr.reqs ≠ []) _ _)).symm,
    fun o ho => List.mem_append_right _ ?_, fun o ho => List.mem_append_right _ (List.mem_map.2 ⟨o, ho, rfl⟩)⟩
  have hne : drainWritesTo r.drain gr.m gr.n ≠ [] := List.ne_nil_of_mem ho
  rw [if_neg (by simpa using hne)]
  exact List.mem_map.2 ⟨o, ho, rfl⟩

end

section
variable (s : State) (te : TeId) (undo : List (List (Nat × Byte))) (last : Nat) (fresh freshRows : List (Nat × Nat × Nat))

theorem drainOver_only : ∃ n tm sl, drainOver s te undo last fresh freshRows =
    { s with now := n, eng := { s.eng with te := tm, slots := sl, tileErr := undo.foldl healRow s.eng.tileErr } } := by
  obtain ⟨sl, hrest⟩ := (onlyStalled_drainBooks (s := s) (te := te) last).rest
  rw [drainOver, hrest]
  exact ⟨_, _, _, rfl⟩

theorem cycleNow_drainOver : cycleNow (drainOver s te undo last fresh freshRows) = max (cycleNow s) last := by
  obtain ⟨sl, hrest⟩ := (onlyStalled_drainBooks (s := s) (te := te) last).rest
  rw [drainOver, hrest]
  exact cycleNow_advanceCycle_max s last

theorem getTe_drainOver (v : TeId) : getTe (drainOver s te undo last fresh freshRows) v =
    if v = te then { getTe s te with drain := none, drainFree := last, fresh := fresh, freshRows := freshRows } else getTe s v := by
  obtain ⟨sl, hrest⟩ := (onlyStalled_drainBooks (s := s) (te := te) last).rest
  rw [drainOver, hrest]
  exact getTe_setTe ..

theorem getSlot_drainOver (c : CtxId) : ∃ l, getSlot (drainOver s te undo last fresh freshRows) c = { getSlot s c with stalled := (getSlot s c).stalled ++ l } :=
  (onlyStalled_drainBooks (s := s) (te := te) last).slots c

theorem getGroup_drainOver (v : TeId) (h : GroupId) : getGroup (drainOver s te undo last fresh freshRows) v h = getGroup s v h := getGroup_drainBooks ..

end

/-- Settles O23: what a scaling or a drain does is done when the path takes it; at its end the path, the group and the accounts are settled. -/
theorem drainPath : Obligations.DrainPath := by
  refine ⟨?_, ?_, ?_⟩
  · intro s te g d gr np u bs hrun hd hsc hidle hf hp hgr hnp hn hfit hodd hload
    refine ⟨_, exec_scaleRowsBegin_takes hrun hd hsc hidle hf hp hgr hload, ?_⟩
    obtain ⟨-, hlen, -, m, e, hu⟩ := tsLoad_ok hload
    obtain ⟨a, ha⟩ := rowsScaled_only (u := u) (te := te) (g := g) (gr := gr) bs
    obtain ⟨sl, hpath⟩ := takePath_eq s te g d
    have hacc : ∀ v h i, accAt u v h i = accAt s v h i := fun v h i => by rw [hu, hpath]; rfl
    have hgroup : ∀ v h, getGroup (rowsScaled u te g gr bs) v h = getGroup s v h := fun v h => by rw [ha, hu, hpath]; rfl
    have hwords : (words32 bs).length = gr.m := words32_length bs gr.m hlen
    have hpair : gr.comp = true → g.val + 1 < 8 := fun hc => by have := hodd hc; have := g.isLt; omega
    have hcyc : cycleNow (rowsScaled u te g gr bs) = max (cycleNow s) (max (readyAt gr d + 1) (getTe s te).drainFree) := by
      rw [ha, hu, hpath, hgr]
      exact cycleNow_advanceCycle_max s _
    obtain ⟨e', hbusy⟩ := pathBusy_only (rowsScaled u te g gr bs) te g { gr with reqs := gr.reqs.drop 1 } d (cycleNow (rowsScaled u te g gr bs))
      (gr.m * ceilDiv' gr.n 128) (ceilDiv' gr.n 128) []
    refine ⟨fun v h i hh hi => ?_, fun v h => by rw [getGroup_pathBusy, hgroup], by rw [cycleNow_pathBusy, hcyc], by rw [drain_pathBusy, cycleNow_pathBusy],
      drainOwner_pathBusy .., ?_⟩
    · have hrows := accAt_scaleRows (te := te) g.isLt hpair np gr.n hn (words32 bs) 0 u v (by rwa [Nat.zero_add, hwords]) hh hi
      simp only [Nat.zero_le, true_and, Nat.zero_add, Nat.sub_zero, hwords, hacc] at hrows
      rw [accAt_pathBusy, rowsScaled, ← hnp, hrows]
      by_cases hin : v = te ∧ InPair g.val gr.comp h ∧ i / np < gr.m ∧ i % np < gr.n
      · rw [if_pos hin, if_pos hin, words32_getD bs gr.m _ hlen hin.2.2.1]
      · rw [if_neg hin, if_neg hin]
    · rw [hbusy, ha, hu, hpath]
      rfl
  · intro s te g d gr u v z sr undo hrun hd hsc hidle hf hp hgr hload hgu hsr hrows
    exact ⟨_, exec_drainStart_takes hrun hd hsc hidle hf hp hgr hload hsr hrows, tiles_pathBusy .., by rw [getGroup_pathBusy, if_pos ⟨rfl, rfl⟩],
      drain_pathBusy .., drainOwner_pathBusy ..⟩
  · intro s te r hrun hc hr
    cases hsc : r.drain.scaleRows
    · obtain ⟨fresh, freshRows, hexec, hfr, hrows⟩ := exec_drainEnd_drain hrun hc hr hsc
      have hte := getTe_drainOver s te r.undo (r.start + r.cycles) fresh freshRows
      have hcyc := cycleNow_drainOver s te r.undo (r.start + r.cycles) fresh freshRows
      have hslot := getSlot_drainOver s te r.undo (r.start + r.cycles) fresh freshRows
      have hgroup := getGroup_drainOver s te r.undo (r.start + r.cycles) fresh freshRows
      obtain ⟨n, tm, sl, honly⟩ := drainOver_only s te r.undo (r.start + r.cycles) fresh freshRows
      refine ⟨_, hexec, ?_, ?_, ?_, nofun, fun _ => ⟨fun v h => ?_, ?_, ?_, ?_⟩, fun u hu => ?_, fun c => ?_, ?_⟩
      · rw [getTe_setGroup, hte, if_pos rfl]
      · rw [getTe_setGroup, hte, if_pos rfl]
      · rw [← hcyc]
        rfl
      · rw [getGroup_setGroup, hgroup]
      · rw [getTe_setGroup, hte, if_pos rfl]
        exact hfr
      · rw [getTe_setGroup, hte, if_pos rfl]
        exact hrows
      · rw [honly]
        rfl
      · rw [getTe_setGroup, hte, if_neg hu]
      · rw [getSlot_setGroup]
        exact hslot c
      · rw [honly]
        rfl
    · obtain ⟨fresh, freshRows, hexec⟩ := exec_drainEnd_scaling hrun hc hr hsc
      have hte := getTe_drainOver s te [] (r.start + r.cycles) fresh freshRows
      have hcyc := cycleNow_drainOver s te [] (r.start + r.cycles) fresh freshRows
      have hslot := getSlot_drainOver s te [] (r.start + r.cycles) fresh freshRows
      obtain ⟨n, tm, sl, honly⟩ := drainOver_only s te [] (r.start + r.cycles) fresh freshRows
      refine ⟨_, hexec, ?_, ?_, hcyc, fun _ v h => getGroup_drainOver s te [] (r.start + r.cycles) fresh freshRows v h, nofun, fun u hu => ?_, hslot, ?_⟩
      · rw [hte, if_pos rfl]
      · rw [hte, if_pos rfl]
      · rw [hte, if_neg hu]
      · rw [honly]

end Sys2Proof.Machine
end

section
/-! PROOFS. Vector instructions (R32, R43, R81 to R83, R143 to R148, R177): O24 to O26. -/

namespace Sys2Proof.Machine

/-! ### An instruction whose effect is one vector register or one mask -/

section
variable {i : Instr} {s : State} {c : CtxId} {ctx : Ctx} {r : Nat} {pc : W64}

theorem answers_lanes {v : List W32} {f : Nat → W32} (hx : getCtx s c = some ctx) (hr : r < 32) (hv : v.length = 256) (hf : ∀ i, i < 256 → laneOf v i = f i)
    (hexec : exec i s = .next (hasIssued (setVreg s c r v) c pc)) :
    Answers i s fun t => LanesAre s t c r f ∧ Proceeds s t c ctx pc ∧ OnlyVregs s t :=
  ⟨_, hexec, lanesAre_of hr hv rfl hf, proceeds_of hx (fun _ => rfl) (fun _ => rfl) rfl, rfl⟩

theorem answers_mask {v : BitVec 256} {f : Nat → Bool} (hx : getCtx s c = some ctx) (hr : r < 8) (h0 : r ≠ 0) (hf : ∀ i, i < 256 → v.getLsbD i = f i)
    (hexec : exec i s = .next (hasIssued (setVmask s c r v) c pc)) :
    Answers i s fun t => MaskIs s t c r f ∧ Proceeds s t c ctx pc ∧ OnlyMasks s t :=
  ⟨_, hexec, maskIs_of hr h0 rfl hf, proceeds_of hx (fun _ => rfl) (fun _ => rfl) rfl, rfl⟩

end

/-- An effect on vector registers and draws, once issued, is one on those and the tables of issue alone. -/
theorem issued_vregs {s u : State} {n : Nat} (c : CtxId) (pc : W64) (h : ∃ vr, u = { s with draws := n, eng := { s.eng with vregs := vr } }) :
    hasIssued u c pc = { s with draws := n, eng := { s.eng with
      te := (hasIssued u c pc).eng.te, slots := (hasIssued u c pc).eng.slots, vregs := (hasIssued u c pc).eng.vregs } } := by
  obtain ⟨vr, rfl⟩ := h
  rfl

theorem vregs_issued_draws (s : State) (c : CtxId) (pc : W64) (n r : Nat) (v : List W32) :
    (hasIssued (setVreg { s with draws := n } c r v) c pc).eng.vregs = (setVreg s c r v).eng.vregs := rfl

/-- Lanes that are written under a mask: masked lanes keep the register's (R143). -/
theorem laneOf_masked (s : State) (c : CtxId) (r : Nat) (new : List W32) (m : BitVec 256) {i : Nat} (hi : i < 256) :
    laneOf (maskLanes (vreg s c r) new m) i = if m.getLsbD i then laneOf new i else vlane s c r i := by
  rw [laneOf_maskLanes _ _ _ hi, laneOf_vreg s c r hi]

/-! ### VALU -/

/-- The mask field of a comparison or a mask operation names no hardwired mask (Table 5-15). -/
theorem maskField_ne_zero {ctx : Ctx} {w : W64} (hl : Legal ctx w 0x40 false (valuCauses w))
    (hfn : (8 ≤ bits w 37 32 ∧ bits w 37 32 ≤ 0x0B) ∨ (0x10 ≤ bits w 37 32 ∧ bits w 37 32 ≤ 0x13)) : bits w 41 39 ≠ 0 := by
  have huse : (valuUses (bits w 37 32)).getD 5 false = true := by simpa [valuUses] using hfn
  have hle : ¬ 0x13 < bits w 37 32 := by omega
  have hmem : (0x05, (valuUses (bits w 37 32)).getD 5 false && decide (bits w 41 39 = 0)) ∈ valuCauses w := by
    unfold valuCauses
    rw [if_neg hle]
    exact List.mem_append_left _ (by simp only [List.mem_cons, true_or, or_true])
  have := firstCause_none.1 hl _ (List.mem_append_right _ hmem)
  rw [huse, Bool.true_and] at this
  exact of_decide_eq_false this

theorem laneFn_table {fn : Nat} {f : W32 → W32 → W32 → W32} (h : (fn, f) ∈ laneTable) : fn ≤ 7 ∧ ∀ a b c, laneFn fn a b c = f a b c := by
  have key : ∀ e ∈ laneTable, e.1 ≤ 7 ∧ ∀ a b c, laneFn e.1 a b c = e.2 a b c := by
    simp only [laneTable, List.forall_mem_cons]
    simp [laneFn]
  exact key _ h

theorem laneCmp_table {fn : Nat} {p : W32 → W32 → Bool} (h : (fn, p) ∈ compareTable) : 8 ≤ fn ∧ fn ≤ 0x0B ∧ ∀ a b, laneCmp fn a b = p a b := by
  have key : ∀ e ∈ compareTable, 8 ≤ e.1 ∧ e.1 ≤ 0x0B ∧ ∀ a b, laneCmp e.1 a b = e.2 a b := by
    simp only [compareTable, List.forall_mem_cons]
    simp [laneCmp]
  exact key _ h

theorem maskFn_table {fn : Nat} {p : Bool → Bool → Bool} (h : (fn, p) ∈ maskTable) :
    0x10 ≤ fn ∧ fn ≤ 0x13 ∧ ∀ (a b : BitVec 256) (i : Nat), i < 256 → (maskFn fn a b).getLsbD i = p (a.getLsbD i) (b.getLsbD i) := by
  have key : ∀ e ∈ maskTable, 0x10 ≤ e.1 ∧ e.1 ≤ 0x13 ∧ ∀ (a b : BitVec 256) (i : Nat), i < 256 → (maskFn e.1 a b).getLsbD i = e.2 (a.getLsbD i) (b.getLsbD i) := by
    simp only [maskTable, List.forall_mem_cons]
    simp +contextual [maskFn]
  exact key _ h

/-- The second operand of VALU: a register's lanes, or the scalar in each (R143). -/
def valuB (s : State) (c : CtxId) (w : W64) : List W32 :=
  if bitAt w 38 then lanes256 fun _ => canon ((sreg s c (bits w 23 19)).truncate 32) else vreg s c (bits w 23 19)

theorem laneOf_valuB (s : State) (c : CtxId) (w : W64) {i : Nat} (hi : i < 256) :
    laneOf (valuB s c w) i = (if bitAt w 38 then fun _ => canon ((sreg s c (bits w 23 19)).truncate 32) else vlane s c (bits w 23 19)) i := by
  unfold valuB
  cases bitAt w 38
  · exact laneOf_vreg s c _ hi
  · exact laneOf_lanes256 _ hi

section
variable {s : State} {c : CtxId} {ctx : Ctx} {w x : W64} (hs : Ready s c ctx) (hl : Legal ctx w 0x40 false (valuCauses w))
include hs hl

theorem exec_valu_lanes (h : bits w 37 32 ≤ 7) : exec (.valu c w x) s = .next (hasIssued (setVreg s c (bits w 13 9) (maskLanes (vreg s c (bits w 13 9))
    (lanes256 fun i => laneFn (bits w 37 32) (laneOf (vreg s c (bits w 18 14)) i) (laneOf (valuB s c w) i) (laneOf (vreg s c (bits w 28 24)) i))
    (vmask s c (bits w 31 29)))) c (ctx.pc + 8)) := by
  rw [exec_valu, execValu, clocked_running hs.clocks, issue_done hs hl]
  · rfl
  · simp only [h, if_true]
    rfl

theorem exec_valu_compare (h : 8 ≤ bits w 37 32) (h' : bits w 37 32 ≤ 0x0B) :
    exec (.valu c w x) s = .next (hasIssued (setVmask s c (bits w 41 39) (maskOf fun i =>
      (vmask s c (bits w 31 29)).getLsbD i && laneCmp (bits w 37 32) (laneOf (vreg s c (bits w 18 14)) i) (laneOf (valuB s c w) i))) c (ctx.pc + 8)) := by
  have h7 : ¬ bits w 37 32 ≤ 7 := by omega
  rw [exec_valu, execValu, clocked_running hs.clocks, issue_done hs hl]
  · rfl
  · simp only [h7, h', if_false, if_true]
    rfl

theorem exec_valu_select (h : bits w 37 32 = 0x0C) : exec (.valu c w x) s = .next (hasIssued (setVreg s c (bits w 13 9) (lanes256 fun i =>
    canon (if (vmask s c (bits w 31 29)).getLsbD i then laneOf (vreg s c (bits w 18 14)) i else laneOf (valuB s c w) i))) c (ctx.pc + 8)) := by
  rw [exec_valu, execValu, clocked_running hs.clocks, issue_done hs hl]
  · rfl
  · simp only [h, reduceIte, Nat.reduceLeDiff]
    rfl

theorem exec_valu_convert (h : bits w 37 32 = 0x0D) {f : Fmt} (hf : Fmt.ofCode (bits w 46 42) = some f) :
    exec (.valu c w x) s = .next (hasIssued (setVreg { s with draws := if bitAt w 47 then s.draws + 256 else s.draws } c (bits w 13 9)
      (maskLanes (vreg s c (bits w 13 9)) (cvtLanes f (if bitAt w 47 then some s.draws else none) (vreg s c (bits w 18 14)) (vmask s c (bits w 31 29)))
        (vmask s c (bits w 31 29)))) c (ctx.pc + 8)) := by
  rw [exec_valu, execValu, clocked_running hs.clocks, issue_done hs hl]
  · rfl
  · simp only [h, hf, reduceIte, Nat.reduceLeDiff, Nat.reduceEqDiff, drawsFor]
    cases bitAt w 47
    · rfl
    · rfl

theorem exec_valu_laneNumber (h : bits w 37 32 = 0x0E) : exec (.valu c w x) s = .next (hasIssued (setVreg s c (bits w 13 9)
    (maskLanes (vreg s c (bits w 13 9)) (lanes256 fun i => rne32 (.fin false i 0)) (vmask s c (bits w 31 29)))) c (ctx.pc + 8)) := by
  rw [exec_valu, execValu, clocked_running hs.clocks, issue_done hs hl]
  · rfl
  · simp only [h, reduceIte, Nat.reduceLeDiff, Nat.reduceEqDiff]

theorem exec_valu_broadcast (h : bits w 37 32 = 0x0F) : exec (.valu c w x) s = .next (hasIssued (setVreg s c (bits w 13 9)
    (maskLanes (vreg s c (bits w 13 9)) (lanes256 fun _ => canon ((sreg s c (bits w 23 19)).truncate 32)) (vmask s c (bits w 31 29)))) c (ctx.pc + 8)) := by
  rw [exec_valu, execValu, clocked_running hs.clocks, issue_done hs hl]
  · rfl
  · simp only [h, reduceIte, Nat.reduceLeDiff, Nat.reduceEqDiff]

theorem exec_valu_mask (h : 0x10 ≤ bits w 37 32) : exec (.valu c w x) s = .next (hasIssued (setVmask s c (bits w 41 39)
    (maskFn (bits w 37 32) (vmask s c (bits w 16 14)) (vmask s c (bits w 21 19)))) c (ctx.pc + 8)) := by
  have h7 : ¬ bits w 37 32 ≤ 7 := by omega
  have h11 : ¬ bits w 37 32 ≤ 0x0B := by omega
  have h12 : bits w 37 32 ≠ 0x0C ∧ bits w 37 32 ≠ 0x0D ∧ bits w 37 32 ≠ 0x0E ∧ bits w 37 32 ≠ 0x0F := by omega
  rw [exec_valu, execValu, clocked_running hs.clocks, issue_done hs hl]
  · rfl
  · simp only [h7, h11, h12, if_false]

end

/-- Settles O24: each row of Table 5-15 writes one register or one mask, lane by lane. -/
theorem vectorArithmetic : Obligations.VectorArithmetic := by
  intro s c ctx w x fn vd md m a b v k hs hl hfn hvd hmd hm hk ha hb hv
  subst hfn hvd hmd hm ha hb hv hk
  have hvd : bits w 13 9 < 32 := bits_lt w 13 9
  have hmd : bits w 41 39 < 8 := bits_lt w 41 39
  refine ⟨fun f hf => ?_, fun p hp => ?_, fun h => ?_, fun f h hf => ?_, fun h => ?_, fun h => ?_, fun p hp => ?_⟩
  · obtain ⟨h7, hlane⟩ := laneFn_table hf
    refine answers_lanes hs.resident hvd (length_maskLanes ..) (fun i hi => ?_) (exec_valu_lanes hs hl h7)
    rw [laneOf_masked _ _ _ _ _ hi, laneOf_lanes256 _ hi, hlane, laneOf_vreg _ _ _ hi, laneOf_valuB _ _ _ hi, laneOf_vreg _ _ _ hi]
  · obtain ⟨h8, h11, hcmp⟩ := laneCmp_table hp
    refine answers_mask hs.resident hmd (maskField_ne_zero hl (Or.inl ⟨h8, h11⟩)) (fun i hi => ?_) (exec_valu_compare hs hl h8 h11)
    rw [getLsbD_maskOf _ hi, hcmp, laneOf_vreg _ _ _ hi, laneOf_valuB _ _ _ hi]
  · refine answers_lanes hs.resident hvd (length_lanes256 _) (fun i hi => ?_) (exec_valu_select hs hl h)
    rw [laneOf_lanes256 _ hi, laneOf_vreg _ _ _ hi, laneOf_valuB _ _ _ hi]
  · refine ⟨_, exec_valu_convert hs hl h hf, ?_, proceeds_of hs.resident (fun _ => rfl) (fun _ => rfl) rfl, issued_vregs c _ ⟨_, rfl⟩⟩
    exact lanesAre_of (s := s) hvd (length_maskLanes _ _ _) (vregs_issued_draws ..) fun i hi => laneOf_masked _ _ _ _ _ hi
  · exact answers_lanes hs.resident hvd (length_maskLanes ..) (fun i hi => by rw [laneOf_masked _ _ _ _ _ hi, laneOf_lanes256 _ hi]) (exec_valu_laneNumber hs hl h)
  · exact answers_lanes hs.resident hvd (length_maskLanes ..) (fun i hi => by rw [laneOf_masked _ _ _ _ _ hi, laneOf_lanes256 _ hi]) (exec_valu_broadcast hs hl h)
  · obtain ⟨h16, h19, hmask⟩ := maskFn_table hp
    exact answers_mask hs.resident hmd (maskField_ne_zero hl (Or.inr ⟨h16, h19⟩)) (fun i hi => hmask _ _ i hi) (exec_valu_mask hs hl h16)

/-! ### Reductions, sorts, scans, the generator and the special functions -/

theorem reduceLanes_defined {fn : Nat} (h : fn < 5) : (reduceLanes fn [] 0).isNone = false := by
  match fn, h with
  | 0, _ | 1, _ | 2, _ | 3, _ | 4, _ => rfl

/-- A register whose number is even has a successor (R146). -/
theorem succ_field_lt {w : W64} (h : bitAt w 9 = false) : bits w 13 9 + 1 < 32 := by
  have hlt : bits w 13 9 < 32 := bits_lt w 13 9
  have heven : (bits w 13 9).testBit 0 = false := by
    rw [testBit_bits]
    simpa [bitAt] using h
  rw [Nat.testBit_zero, decide_eq_false_iff_not] at heven
  omega

section
variable {s : State} {c : CtxId} {ctx : Ctx} {w x : W64} (hs : Ready s c ctx)
include hs

theorem exec_vred_ready {r : W32} (hl : Legal ctx w 0x41 false [rsv w 28 19, rsv w 63 36])
    (hr : reduceLanes (bits w 35 32) (vreg s c (bits w 18 14)) (vmask s c (bits w 31 29)) = some r) (h5 : bits w 35 32 < 5) :
    exec (.vred c w x) s = .next (hasIssued (setSreg s c (bits w 13 9) (r.setWidth 64)) c (ctx.pc + 8)) := by
  have hl' : Legal ctx w 0x41 false ([rsv w 28 19, rsv w 63 36] ++ [(0x04, (reduceLanes (bits w 35 32) [] 0).isNone)]) :=
    hl.more fun e he => by rw [List.mem_singleton.1 he]; exact reduceLanes_defined h5
  rw [exec_vred, execVred, clocked_running hs.clocks, issue_done hs hl']
  · rfl
  · simp only [hr, Option.getD_some]

theorem exec_vsort_ready (hl : Legal ctx w 0x44 false [rsv w 28 19, rsv w 63 32, (0x04, bitAt w 9)]) :
    exec (.vsort c w x) s = .next (hasIssued (setVreg
      (setVreg s c (bits w 13 9) ((sortLanes (vreg s c (bits w 18 14)) (vmask s c (bits w 31 29))).map (·.1))) c (bits w 13 9 + 1)
      ((sortLanes (vreg s c (bits w 18 14)) (vmask s c (bits w 31 29))).map fun p => rne32 (.fin false p.2 0))) c (ctx.pc + 8)) := by
  rw [exec_vsort, execVsort, clocked_running hs.clocks, issue_done hs hl rfl]
  rfl

theorem exec_vscan_ready (hl : Legal ctx w 0x45 false [rsv w 28 19, rsv w 63 32]) :
    exec (.vscan c w x) s = .next (hasIssued (setVreg s c (bits w 13 9) (maskLanes (vreg s c (bits w 13 9))
      (scanLanes (vreg s c (bits w 18 14)) (vmask s c (bits w 31 29))) (vmask s c (bits w 31 29)))) c (ctx.pc + 8)) := by
  rw [exec_vscan, execVscan, clocked_running hs.clocks, issue_done hs hl rfl]
  rfl

theorem exec_vrng_ready (hl : Legal ctx w 0x46 false [rsv w 28 25, rsv w 63 32, (0x04, bitAt w 14)]) :
    exec (.vrng c w x) s = .next (hasIssued (setVreg s c (bits w 13 9) (maskLanes (vreg s c (bits w 13 9))
      (lanes256 (rngLane (sreg s c (bits w 18 14)) (sreg s c (bits w 18 14 + 1)) (sreg s c (bits w 23 19)) (bitAt w 24)))
      (vmask s c (bits w 31 29)))) c (ctx.pc + 8)) := by
  rw [exec_vrng, execVrng, clocked_running hs.clocks, issue_done hs hl rfl]
  rfl

theorem exec_sfn_ready (hl : Legal ctx w 0x48 false [rsv w 28 19, rsv w 63 34, (0x04, decide (bits w 33 32 = 3))]) :
    exec (.sfn c w x) s = .next (hasIssued (setVreg s c (bits w 13 9) (maskLanes (vreg s c (bits w 13 9))
      ((vreg s c (bits w 18 14)).map (specialFn (bits w 33 32))) (vmask s c (bits w 31 29)))) c (ctx.pc + 8)) := by
  rw [exec_sfn, execSfn, clocked_running hs.clocks, issue_done hs hl rfl]
  rfl

theorem exec_vact_ready (hl : Legal ctx w 0x49 false [rsv w 28 19, rsv w 63 34, (0x04, decide (2 ≤ bits w 33 32))]) :
    exec (.vact c w x) s = .next (hasIssued (setVreg s c (bits w 13 9) (maskLanes (vreg s c (bits w 13 9))
      ((vreg s c (bits w 18 14)).map (activationFn (bits w 33 32))) (vmask s c (bits w 31 29)))) c (ctx.pc + 8)) := by
  rw [exec_vact, execVact, clocked_running hs.clocks, issue_done hs hl rfl]
  rfl

end

theorem specialFn_table {k : Nat} {f : W32 → W32} (h : (k, f) ∈ [(0, fexp), (1, frcp), (2, frsqrt)]) : specialFn k = f := by
  simp only [List.mem_cons, Prod.mk.injEq, List.not_mem_nil, or_false] at h
  rcases h with ⟨rfl, rfl⟩ | ⟨rfl, rfl⟩ | ⟨rfl, rfl⟩ <;> rfl

theorem activationFn_table {k : Nat} {f : W32 → W32} (h : (k, f) ∈ [(0, fsilu), (1, fgelu)]) : activationFn k = f := by
  simp only [List.mem_cons, Prod.mk.injEq, List.not_mem_nil, or_false] at h
  rcases h with ⟨rfl, rfl⟩ | ⟨rfl, rfl⟩ <;> rfl

/-- A lane of a sorted list that is mapped (R146). -/
theorem laneOf_sorted (a : List W32) (m : BitVec 256) (f : W32 × Nat → W32) {i : Nat} (hi : i < 256) :
    laneOf ((sortLanes a m).map f) i = f ((sortLanes a m).getD i (0, 0)) := by
  have hlen : i < (sortLanes a m).length := by rwa [sortLanes_length]
  rw [laneOf, List.getD_eq_getElem _ _ (by rwa [List.length_map]), List.getElem_map, List.getD_eq_getElem _ _ hlen]

/-- A lane of a register that is mapped under a mask (R81). -/
theorem laneOf_masked_map (s : State) (c : CtxId) (r q : Nat) (f : W32 → W32) (m : BitVec 256) {i : Nat} (hi : i < 256) :
    laneOf (maskLanes (vreg s c r) ((vreg s c q).map f) m) i = if m.getLsbD i then f (vlane s c q i) else vlane s c r i := by
  rw [laneOf_masked _ _ _ _ _ hi, laneOf_map f (by rwa [length_vreg]), laneOf_vreg s c q hi]

/-- Settles O25: each writes its function of the lanes; a sort's lane numbers are a permutation. -/
theorem vectorReductions : Obligations.VectorReductions := by
  intro s c ctx w x vd m a hs hvd hm ha
  subst hvd hm ha
  have hvd : bits w 13 9 < 32 := bits_lt w 13 9
  refine ⟨fun r hl hr h5 => ⟨_, exec_vred_ready hs hl hr h5, hasIssued_setSreg hs.resident hvd _ _⟩,
    fun hl => ⟨sortLanes_perm .., ⟨_, exec_vsort_ready hs hl, fun d q i hq hi => ?_, proceeds_of hs.resident (fun _ => rfl) (fun _ => rfl) rfl, rfl⟩⟩,
    fun hl => answers_lanes hs.resident hvd (length_maskLanes ..) (fun i hi => laneOf_masked _ _ _ _ _ hi) (exec_vscan_ready hs hl),
    fun hl => answers_lanes hs.resident hvd (length_maskLanes ..) (fun i hi => ?_) (exec_vrng_ready hs hl),
    fun f hl hf => answers_lanes hs.resident hvd (length_maskLanes ..) (fun i hi => ?_) (exec_sfn_ready hs hl),
    fun f hl hf => answers_lanes hs.resident hvd (length_maskLanes ..) (fun i hi => ?_) (exec_vact_ready hs hl)⟩
  · have hodd : bits w 13 9 + 1 < 32 := succ_field_lt (firstCause_none.1 hl (0x04, bitAt w 9) (by simp))
    have hvals := lanesAre_setVreg s c hvd ((sortLanes (vreg s c (bits w 18 14)) (vmask s c (bits w 31 29))).map (·.1)) (by rw [List.length_map, sortLanes_length])
    have hnums := lanesAre_setVreg (setVreg s c (bits w 13 9) ((sortLanes (vreg s c (bits w 18 14)) (vmask s c (bits w 31 29))).map (·.1))) c hodd
      ((sortLanes (vreg s c (bits w 18 14)) (vmask s c (bits w 31 29))).map fun p => rne32 (.fin false p.2 0)) (by rw [List.length_map, sortLanes_length])
    refine (hnums d q i hq hi).trans ?_
    rw [hvals d q i hq hi]
    dsimp only
    rw [laneOf_sorted _ _ _ hi, laneOf_sorted _ _ _ hi]
    by_cases hd : d = c ∧ q = bits w 13 9 + 1
    · have hne : ¬ (d = c ∧ q = bits w 13 9) := fun h => by omega
      rw [if_pos hd, if_neg hne, if_pos hd]
    · rw [if_neg hd, if_neg hd]
  · rw [laneOf_masked _ _ _ _ _ hi, laneOf_lanes256 _ hi]
    rfl
  · rw [laneOf_masked_map _ _ _ _ _ _ hi, specialFn_table hf]
  · rw [laneOf_masked_map _ _ _ _ _ _ hi, activationFn_table hf]

end Sys2Proof.Machine
end

section
/-! PROOFS. Vector loads and stores (R37, R144, R258): O26. -/

namespace Sys2Proof.Machine

theorem length_bytesOf (n v : Nat) : (bytesOf n v).length = n := by simp [bytesOf]

/-- A state that differs in tile stores and their check bytes alone. -/
def OnlyTiles (s u : State) : Prop := ∃ m e, u = { s with eng := { s.eng with tiles := m, tileErr := e } }

section
variable {s u : State} (c : CtxId) (pc : W64) (h : OnlyTiles s u)
include h

theorem OnlyTiles.vlane (q i : Nat) : vlane u c q i = vlane s c q i := by
  obtain ⟨m, e, rfl⟩ := h
  rfl

theorem OnlyTiles.vregs (r : Nat) (v : List W32) : (hasIssued (setVreg u c r v) c pc).eng.vregs = (setVreg s c r v).eng.vregs := by
  obtain ⟨m, e, rfl⟩ := h
  rfl

theorem OnlyTiles.proceeds_load {ctx : Ctx} (hx : getCtx s c = some ctx) (r : Nat) (v : List W32) : Proceeds s (hasIssued (setVreg u c r v) c pc) c ctx pc := by
  obtain ⟨m, e, rfl⟩ := h
  exact proceeds_of hx (fun _ => rfl) (fun _ => rfl) rfl

theorem OnlyTiles.issued_load (r : Nat) (v : List W32) : hasIssued (setVreg u c r v) c pc = { s with eng := { s.eng with
    te := (hasIssued (setVreg u c r v) c pc).eng.te, slots := (hasIssued (setVreg u c r v) c pc).eng.slots,
    vregs := (hasIssued (setVreg u c r v) c pc).eng.vregs, tiles := u.eng.tiles, tileErr := u.eng.tileErr } } := by
  obtain ⟨m, e, rfl⟩ := h
  rfl

theorem OnlyTiles.proceeds_store {ctx : Ctx} (hx : getCtx s c = some ctx) (n : Nat) : Proceeds s (hasIssued { u with draws := n } c pc) c ctx pc := by
  obtain ⟨m, e, rfl⟩ := h
  exact proceeds_of hx (fun _ => rfl) (fun _ => rfl) rfl

theorem OnlyTiles.issued_store (n : Nat) : hasIssued { u with draws := n } c pc = { s with draws := n, eng := { s.eng with
    te := (hasIssued { u with draws := n } c pc).eng.te, slots := (hasIssued { u with draws := n } c pc).eng.slots,
    tiles := (hasIssued { u with draws := n } c pc).eng.tiles, tileErr := (hasIssued { u with draws := n } c pc).eng.tileErr } } := by
  obtain ⟨m, e, rfl⟩ := h
  rfl

end

/-! ### VLD -/

/-- Reading ranges of a tile store corrects wrong symbols there, where there are any, and changes nothing else (R258). -/
theorem tsLoadAll_only {s u : State} {te : TeId} {rs : List (Nat × Nat)} (h : tsLoadAll s te rs = (u, none)) :
    (s.eng.tileErr = [] → u = s) ∧ OnlyTiles s u := by
  induction rs generalizing s with
  | nil =>
    cases h
    exact ⟨fun _ => rfl, u.eng.tiles, u.eng.tileErr, rfl⟩
  | cons r rs ih =>
    unfold tsLoadAll at h
    split at h
    · cases h
    next v bs hload =>
      obtain ⟨-, -, hsame, m, e, hv⟩ := tsLoad_ok hload
      obtain ⟨hrest, m', e', hu⟩ := ih h
      refine ⟨fun hnone => ?_, m', e', by rw [hu, hv]⟩
      have hvs := hsame hnone
      rw [hvs] at hrest
      exact hrest hnone

/-- The lanes that VLD writes: the values of its elements, and the register's own beside them (R144). -/
def loadedLanes (u : State) (c : CtxId) (f : Fmt) (m : BitVec 256) (n a sa vd : Nat) : List W32 := lanes256 fun i => if i < n ∧ m.getLsbD i then
  laneOf (lanes256 fun i => rne32 (f.value (leNat (tsRead u c.te (a + f.width * i / 8) 5) / 2 ^ (f.width * i % 8) % 2 ^ f.width)
    (if f.isMx then leNat (tsRead u c.te (sa + i / 32) 1) else 0))) i else vlane u c vd i

/-! ### VST -/

/-- What VST stores: the elements and scales of an MX format, or each unmasked lane's element (R144). -/
def lanesStored (s : State) (c : CtxId) (f : Fmt) (a sa : Nat) (on : List Nat) (r : List Nat × List Nat) : State :=
  if f.isMx then tsWrite (tsWrite s c.te a (packCodes f.width r.1)) c.te sa (r.2.map (BitVec.ofNat 8))
  else on.foldl (fun s i => storeCode s c.te f a i (r.1.getD i 0)) s

section
variable {s : State} {c : CtxId} {f : Fmt} {a sa : Nat} {on : List Nat} {r : List Nat × List Nat}

theorem storeCode_only (s : State) (te : TeId) (f : Fmt) (a i code : Nat) :
    OnlyTiles s (storeCode s te f a i code) := by
  unfold storeCode
  split
  · exact ⟨_, _, rfl⟩
  · exact ⟨_, _, rfl⟩

theorem storeCode_draws (s : State) (n : Nat) (te : TeId) (f : Fmt) (a i code : Nat) :
    storeCode { s with draws := n } te f a i code = { storeCode s te f a i code with draws := n } := by
  unfold storeCode
  split
  · rfl
  · rfl

/-- What is stored takes no notice of the draws. -/
theorem lanesStored_draws (n : Nat) : lanesStored { s with draws := n } c f a sa on r = { lanesStored s c f a sa on r with draws := n } := by
  unfold lanesStored
  split
  · rfl
  · induction on generalizing s with
    | nil => rfl
    | cons i on ih => rw [List.foldl_cons, List.foldl_cons, storeCode_draws, ih]

theorem lanesStored_only : OnlyTiles s (lanesStored s c f a sa on r) := by
  unfold lanesStored
  split
  · exact ⟨_, _, rfl⟩
  · induction on generalizing s with
    | nil => exact ⟨s.eng.tiles, s.eng.tileErr, rfl⟩
    | cons i on ih =>
      obtain ⟨m, e, hstep⟩ := storeCode_only s c.te f a i (r.1.getD i 0)
      obtain ⟨m', e', hrest⟩ := ih (s := storeCode s c.te f a i (r.1.getD i 0))
      exact ⟨m', e', by rw [List.foldl_cons, hrest, hstep]⟩

theorem tsWrite_outside (s : State) (te : TeId) (a : Nat) (v : List Byte) {b : Nat} (h : b < 2097152 * te.val + a ∨ 2097152 * te.val + a + v.length ≤ b) :
    smGet 0 (tsWrite s te a v).eng.tiles b = smGet 0 s.eng.tiles b := by
  rw [tsWrite, smGet_setRange, if_neg (by omega)]

/-- An element's bytes lie in its lane's span (R144). -/
theorem storeCode_outside (hmx : f.isMx = false) (s : State) (te : TeId) (a i code : Nat) {b : Nat}
    (h : b < 2097152 * te.val + (laneSpan f a i).1 ∨ 2097152 * te.val + (laneSpan f a i).2 ≤ b) :
    smGet 0 (storeCode s te f a i code).eng.tiles b = smGet 0 s.eng.tiles b := by
  have hwidth : f.width = 4 ∨ f.width = 8 ∨ f.width = 16 ∨ f.width = 32 := by cases f <;> simp_all [Fmt.width, Fmt.isMx]
  unfold storeCode
  unfold laneSpan at h
  rcases hwidth with hw | hw | hw | hw
  all_goals
    simp only [hw, reduceIte, Nat.reduceEqDiff, Nat.reduceDiv] at h ⊢
    refine tsWrite_outside _ _ _ _ ?_
    rw [length_bytesOf]
    omega

/-- Outside what is stored every byte reads as before. -/
theorem lanesStored_outside {b : Nat} (h : if f.isMx then (b < 2097152 * c.te.val + a ∨ 2097152 * c.te.val + a + (packCodes f.width r.1).length ≤ b)
      ∧ (b < 2097152 * c.te.val + sa ∨ 2097152 * c.te.val + sa + r.2.length ≤ b)
    else ∀ i ∈ on, b < 2097152 * c.te.val + (laneSpan f a i).1 ∨ 2097152 * c.te.val + (laneSpan f a i).2 ≤ b) :
    smGet 0 (lanesStored s c f a sa on r).eng.tiles b = smGet 0 s.eng.tiles b := by
  unfold lanesStored
  cases hmx : f.isMx
  · rw [hmx, if_neg Bool.false_ne_true] at h
    rw [if_neg Bool.false_ne_true]
    induction on generalizing s with
    | nil => rfl
    | cons i on ih =>
      rw [List.foldl_cons, ih fun j hj => h j (List.mem_cons_of_mem _ hj)]
      exact storeCode_outside hmx s c.te a i _ (h i (List.mem_cons_self ..))
  · rw [hmx, if_pos rfl] at h
    rw [if_pos rfl, tsWrite_outside _ _ _ _ (by rw [List.length_map]; exact h.2), tsWrite_outside _ _ _ _ h.1]

end

section
variable {s : State} {c : CtxId} {ctx : Ctx} {w x : W64} {n a sa : Nat} {f : Fmt} {m : BitVec 256} {on : List Nat} {spans : List (Nat × Nat)}
  (hs : Ready s c ctx) (hn : n = bits w 45 37) (h1 : 1 ≤ n) (h256 : n ≤ 256) (hf : Fmt.ofCode (bits w 36 32) = some f)
  (ha : a = (sreg s c (bits w 18 14)).toNat) (hsa : sa = (sreg s c (bits w 23 19)).toNat) (hm : m = vmask s c (bits w 31 29))
  (hon : on = (List.range n).filter (fun i => m.getLsbD i)) (hspans : spans = lanesSpan f a on ++ scalesSpan f sa on)
  (hsh : outOfShare s c spans = none) (hal : a % vmemAlign f = 0)
include hs hn h1 h256 hf ha hsa hm hon hspans hsh hal

theorem exec_vld_ready {u : State} (hl : Legal ctx w 0x42 false ([rsv w 28 24, rsv w 63 46] ++ vmemCauses w)) (hw : mustWait s c spans [] = false)
    (hload : tsLoadAll s c.te spans = (u, none)) :
    exec (.vld c w x) s = .next (hasIssued (setVreg u c (bits w 13 9) (loadedLanes u c f m n a sa (bits w 13 9))) c (ctx.pc + 8)) := by
  have hshape : ¬ (n = 0 ∨ 256 < n) := by omega
  rw [exec_vld, execVld, clocked_running hs.clocks, issue_done hs hl]
  · rfl
  · simp only [hf, Option.getD_some, ← hn, ← ha, ← hsa, ← hm, ← hon, ← hspans, hshape, hsh, hal, hw, hload, if_false, ne_eq, not_true_eq_false, Bool.false_eq_true]
    rfl

theorem exec_vst_ready {r : List Nat × List Nat} (hl : Legal ctx w 0x43 false ([rsv w 28 24, rsv w 63 47] ++ vmemCauses w ++ fmtCauses (bits w 36 32) (bitAt w 46)
      ++ [(0x05, f.isMx && decide (bits w 31 29 ≠ 0))])) (hw : mustWait s c [] spans = false)
    (hr : r = f.encodeRow (if bitAt w 46 then some s.draws else none) ((List.range n).map fun i => dec32 (vlane s c (bits w 13 9) i))) :
    exec (.vst c w x) s = .next (hasIssued (lanesStored { s with draws := if bitAt w 46 then s.draws + 256 else s.draws } c f a sa on r) c (ctx.pc + 8)) := by
  have hshape : ¬ (n = 0 ∨ 256 < n) := by omega
  have hl' : Legal ctx w 0x43 false ([rsv w 28 24, rsv w 63 47] ++ vmemCauses w ++ fmtCauses (bits w 36 32) (bitAt w 46)
      ++ [(0x05, ((Fmt.ofCode (bits w 36 32)).map Fmt.isMx).getD false && decide (bits w 31 29 ≠ 0))]) := by
    rw [hf]
    exact hl
  rw [exec_vst, execVst, clocked_running hs.clocks, issue_done hs hl']
  · rfl
  · simp only [hf, Option.getD_some, ← hn, ← ha, ← hsa, ← hm, ← hon, ← hspans, hshape, hsh, hal, hw, if_false, ne_eq, not_true_eq_false, Bool.false_eq_true, drawsFor]
    rw [hr, lanesStored]
    cases bitAt w 46 <;> cases f.isMx <;> rfl

end

/-- Settles O26: what is loaded is the elements' values, what is stored lies in the spans. -/
theorem vectorLoadsAndStores : Obligations.VectorLoadsAndStores := by
  intro s c ctx w x n a sa f m on spans hs hn h1 h256 hf ha hsa hm hon hspans hsh hal
  have hvd : bits w 13 9 < 32 := bits_lt w 13 9
  refine ⟨fun u hl hw hload => ⟨_, exec_vld_ready hs hn h1 h256 hf ha hsa hm hon hspans hsh hal hl hw hload, ?_⟩,
    fun r hl hw hr => ⟨_, exec_vst_ready hs hn h1 h256 hf ha hsa hm hon hspans hsh hal hl hw hr, ?_⟩⟩
  · obtain ⟨hsame, honly⟩ := tsLoadAll_only hload
    refine ⟨lanesAre_of hvd (length_lanes256 _) (honly.vregs ..) fun i hi => ?_, hsame, honly.proceeds_load _ _ hs.resident .., honly.issued_load ..⟩
    rw [laneOf_lanes256 _ hi, laneOf_lanes256 _ hi, honly.vlane]
  · have honly := lanesStored_only (s := s) (c := c) (f := f) (a := a) (sa := sa) (on := on) (r := r)
    rw [lanesStored_draws]
    refine ⟨?_, fun b hb => lanesStored_outside hb, honly.proceeds_store _ _ hs.resident _, honly.issued_store ..⟩
    refine Eq.trans (b := (lanesStored s c f a sa on r).eng.tiles) rfl ?_
    rw [lanesStored]
    exact apply_ite (fun v : State => v.eng.tiles) _ _ _

end Sys2Proof.Machine
end

section
/-! PROOFS. Synchronisation: TWAIT and TSIG, BAR, ACQ and REL, ATOM and DC.ZERO (R18, R150 to R153, R314, R323, R327, R331, R332): O27 to O29. -/

namespace Sys2Proof.Machine

/-! ### An instruction that changes its context -/

/-- An instruction whose one effect is on its own context leaves everything else but the books of issue. -/
theorem issued_modCtx {s : State} {c : CtxId} {ctx y : Ctx} {f : Ctx → Ctx} (pc : W64) (hx : getCtx s c = some ctx) (hy : f ctx = y) (hpc : y.pc = ctx.pc)
    (hfirst : y.firstIssue = ctx.firstIssue) : Proceeds s (hasIssued (modCtx s c f) c pc) c y pc ∧ OnlyIssue s (hasIssued (modCtx s c f) c pc) := by
  subst hy
  exact ⟨proceeds_modCtx hx (fun _ => rfl) (fun d => getSlot_modCtx hx f d) rfl hpc hfirst, onlyIssue_of c pc rfl⟩

theorem tally_hasIssued (s : State) (c : CtxId) (pc : W64) (j : Nat) : tally (hasIssued s c pc) j = tally s j := rfl
theorem tally_modCtx (s : State) (c : CtxId) (f : Ctx → Ctx) (j : Nat) : tally (modCtx s c f) j = tally s j := rfl

/-! ### TWAIT and TSIG -/

theorem badHandle_key {h : W64} {k : Nat} (hhi : bits h 63 32 = 0) (hk : handleKey (h.truncate 32) = some k) : badHandle h = false := by
  simp [badHandle, hhi, hk]

/-- A tally's value has been reached, and its die can be (R18, R151). -/
def waitOver (s : State) (c : CtxId) (h v : W32) : Bool := tallyUp s (dieOf c.te).val h && tallyReached s h v

theorem waitOver_iff {s : State} {c : CtxId} {h v : W32} {k : Nat} (hk : handleKey h = some k) :
    waitOver s c h v = true ↔ tallyUp s (dieOf c.te).val h = true ∧ (tally s k - v).toNat < 2 ^ 31 := by
  rw [waitOver, tallyReached_iff hk, Bool.and_eq_true, decide_eq_true_eq]

section
variable {s : State} {c : CtxId} {ctx : Ctx} {w x h : W64} {v : W32} {k : Nat} (hs : Ready s c ctx) (hhi : bits h 63 32 = 0)
  (hk : handleKey (h.truncate 32) = some k)
include hs hhi hk

theorem exec_twait_over (hl : Legal ctx w 0x60 false [rsv w 63 19]) (hh : h = sreg s c (bits w 13 9)) (hv : v = (sreg s c (bits w 18 14)).truncate 32)
    (hover : waitOver s c (h.truncate 32) v = true) : exec (.twait c w x) s = .next (hasIssued s c (ctx.pc + 8)) := by
  rw [waitOver] at hover
  rw [exec_twait, execTwait, clocked_running hs.clocks, issue_done hs hl]
  · rfl
  · simp only [← hh, ← hv, badHandle_key hhi hk, hover, Bool.false_eq_true, if_false, if_true]

theorem exec_twait_waits (hl : Legal ctx w 0x60 false [rsv w 63 19]) (hh : h = sreg s c (bits w 13 9)) (hv : v = (sreg s c (bits w 18 14)).truncate 32)
    (hover : waitOver s c (h.truncate 32) v = false) :
    exec (.twait c w x) s = .next (hasIssued (modCtx s c fun x => { x with hold := x.hold ++ [.twait (h.truncate 32) v] }) c (ctx.pc + 8)) := by
  rw [waitOver] at hover
  rw [exec_twait, execTwait, clocked_running hs.clocks, issue_done hs hl]
  · rfl
  · simp only [← hh, ← hv, badHandle_key hhi hk, hover, Bool.false_eq_true, if_false]

theorem exec_tsig_signals (hl : Legal ctx w 0x61 false [rsv w 63 19]) (hh : h = sreg s c (bits w 13 9)) {n : Nat} (hn : n = bits (sreg s c (bits w 18 14)) 31 0) :
    exec (.tsig c w x) s = .next (hasIssued (settleOps (addOp s c ⟨.signal, some (h.truncate 32), n, [], [], 0, ctx.opCount, s.now, false, true⟩) c) c (ctx.pc + 8)) := by
  have hnext : nextOp s c = ctx.opCount := by rw [nextOp, hs.resident]; rfl
  rw [exec_tsig, execTsig, clocked_running hs.clocks, issue_done hs hl]
  · rfl
  · simp only [← hh, ← hn, badHandle_key hhi hk, hnext, Bool.false_eq_true, if_false]

end

/-- A hold stays, but for a TWAIT whose wait is over (R151). -/
def holdStays (s : State) (c : CtxId) : Hold → Bool
  | .twait t v => !waitOver s c t v
  | _ => true

theorem filter_holdStays (s : State) (c : CtxId) (h v : W32) :
    [Hold.twait h v].filter (holdStays s c) = if waitOver s c h v = true then [] else [.twait h v] := by
  rw [List.filter_singleton, holdStays]
  cases waitOver s c h v <;> rfl

/-- A held TWAIT goes exactly where its wait is over (R151). -/
theorem exec_twaitSatisfied_hold {s : State} {c : CtxId} (h : running s = true) (hc : bitAt s.brd.clockLost (dieOf c.te).val = false) :
    exec (.twaitSatisfied c) s = .next (modCtx s c fun x => { x with hold := x.hold.filter (holdStays s c) }) := by
  have hstays : holdStays s c = fun h => match h with
      | .twait t v => !(tallyUp s (dieOf c.te).val t && tallyReached s t v)
      | _ => true := by
    funext h
    cases h <;> rfl
  rw [exec_twaitSatisfied, execTwaitSatisfied, onDie_running h hc, hstays] <;> rfl

theorem getSlot_modCtx_twice {s : State} {c : CtxId} {ctx : Ctx} (hx : getCtx s c = some ctx) (f g : Ctx → Ctx) (d : CtxId) :
    getSlot (modCtx (modCtx s c f) c g) d = if d = c then { getSlot s c with ctx := some (g (f ctx)) } else getSlot s d := by
  have hx' : getCtx (modCtx s c f) c = some (f ctx) := by rw [getCtx_modCtx, hx]; rfl
  rw [getSlot_modCtx hx', getSlot_modCtx hx, getSlot_modCtx hx, if_pos rfl]
  by_cases hd : d = c
  · rw [if_pos hd, if_pos hd]
  · rw [if_neg hd, if_neg hd, if_neg hd]

/-- A tally addition leaves tallies and the stitch block's mark of a margin alone (R331). -/
theorem handleAdd_tallies {s : State} {h : W32} {k : Nat} (v : W32) (hk : handleKey h = some k) :
    handleAdd s (some h) v = { s with tallies := (handleAdd s (some h) v).tallies, stc := { s.stc with marginAt := (handleAdd s (some h) v).stc.marginAt } } := by
  rw [show handleAdd s (some h) v = tallyAdd s k v by simp [handleAdd, hk]]
  exact tallyAdd_only s k v

/-- A context begins to await a signal (R331). -/
def signalAdded (s : State) (c : CtxId) (o : Op) : State := modCtx s c fun x => { x with ops := x.ops ++ [o], opCount := x.opCount + 1 }

/-- What a signal that has its turn leaves: its tally risen, its context one operation on (R331). -/
def signalled (s : State) (c : CtxId) (o : Op) (h : W32) : State :=
  handleAdd (modCtx (signalAdded s c o) c fun x => { x with ops := [] }) (some h) (BitVec.ofNat 32 o.count)

theorem addOp_signal {s : State} {c : CtxId} {o : Op} (hk : o.kind = .signal) : addOp s c o = signalAdded s c o := by
  rw [addOp, hk]
  rfl

section
variable {s : State} {c : CtxId} {ctx : Ctx} {o : Op} (hx : getCtx s c = some ctx)
include hx

theorem getCtx_signalAdded : getCtx (signalAdded s c o) c = some { ctx with ops := ctx.ops ++ [o], opCount := ctx.opCount + 1 } := by
  rw [signalAdded, getCtx_modCtx, hx]
  rfl

theorem settleOps_signal {h : W32} (hops : ctx.ops = []) (hp : o.performed = true) (ht : o.tally = some h) (hu : tallyUp s (dieOf c.te).val h = true) :
    settleOps (signalAdded s c o) c = signalled s c o h :=
  settleOps_single (getCtx_signalAdded hx) (by rw [hops]; rfl) hp ht hu

/-- Behind an operation that will add to a tally a signal waits its turn (R331). -/
theorem settleOps_behind {p : Op} (hops : ctx.ops = [p]) (hp : p.performed = false) (ht : p.tally.isSome = true) (ho : o.tally.isSome = true) :
    settleOps (signalAdded s c o) c = modCtx (signalAdded s c o) c fun x => { x with ops := [p, o] } := by
  have hkept : ∀ up, flushOps up [p, o] = ([p, o], []) := fun up => by
    have hsome : p.tally.isNone = false := by cases hq : p.tally <;> simp_all
    simp [flushOps, hp, hsome, ho]
  unfold settleOps
  rw [getCtx_signalAdded hx]
  simp only [hops, List.cons_append, List.nil_append, hkept, List.foldl_nil]

end

section
variable {s : State} {c : CtxId} {o : Op} {h : W32} {k : Nat}

theorem tally_signalled (hk : handleKey h = some k) (j : Nat) :
    tally (signalled s c o h) j = if j = k then tally s k + BitVec.ofNat 32 o.count else tally s j := by
  rw [signalled, tally_handleAdd, hk, signalAdded, tally_modCtx, tally_modCtx]
  by_cases hj : j = k
  · rw [if_pos hj, if_pos (congrArg some hj.symm), hj]
  · rw [if_neg hj, if_neg fun he => hj (Option.some.inj he).symm]

theorem signalled_only (hk : handleKey h = some k) :
    ∃ sl ts ma, signalled s c o h = { s with eng := { s.eng with slots := sl }, tallies := ts, stc := { s.stc with marginAt := ma } } := by
  rw [signalled, handleAdd_tallies _ hk]
  exact ⟨_, _, _, rfl⟩

theorem getSlot_signalled {ctx : Ctx} (hx : getCtx s c = some ctx) (hk : handleKey h = some k) (hops : ctx.ops = []) (d : CtxId) :
    getSlot (signalled s c o h) d = if d = c then { getSlot s c with ctx := some { ctx with opCount := ctx.opCount + 1 } } else getSlot s d := by
  rw [signalled, handleAdd_tallies _ hk]
  refine (getSlot_modCtx_twice hx _ _ d).trans ?_
  rw [← hops]

end

/-- An effect on a context, the tallies and the mark of a margin leaves everything else but the books of issue. -/
theorem issued_tallies {s u : State} {c : CtxId} {ctx y : Ctx} (pc : W64) (hx : getCtx s c = some ctx) (hpc : y.pc = ctx.pc) (hfirst : y.firstIssue = ctx.firstIssue)
    (hslot : ∀ d, getSlot u d = if d = c then { getSlot s c with ctx := some y } else getSlot s d)
    (h : ∃ sl ts ma, u = { s with eng := { s.eng with slots := sl }, tallies := ts, stc := { s.stc with marginAt := ma } }) :
    Proceeds s (hasIssued u c pc) c y pc ∧ hasIssued u c pc = { s with
      eng := { s.eng with te := (hasIssued u c pc).eng.te, slots := (hasIssued u c pc).eng.slots }
      tallies := (hasIssued u c pc).tallies
      stc := { s.stc with marginAt := (hasIssued u c pc).stc.marginAt } } := by
  obtain ⟨sl, ts, ma, rfl⟩ := h
  exact ⟨proceeds_modCtx hx (fun _ => rfl) hslot rfl hpc hfirst, rfl⟩

/-- Two effects on the same context, one behind the other. -/
theorem issued_modCtx_twice {s : State} {c : CtxId} {ctx y : Ctx} {f g : Ctx → Ctx} (pc : W64) (hx : getCtx s c = some ctx) (hy : g (f ctx) = y) (hpc : y.pc = ctx.pc)
    (hfirst : y.firstIssue = ctx.firstIssue) :
    Proceeds s (hasIssued (modCtx (modCtx s c f) c g) c pc) c y pc ∧ OnlyIssue s (hasIssued (modCtx (modCtx s c f) c g) c pc) := by
  subst hy
  exact ⟨proceeds_modCtx hx (fun _ => rfl) (fun d => getSlot_modCtx_twice hx f g d) rfl hpc hfirst, onlyIssue_of c pc rfl⟩

/-- Settles O27: a wait that is over passes, one that is not holds; a signal adds at once or takes its turn. -/
theorem tallyInstructions : Obligations.TallyInstructions := by
  refine ⟨fun s c ctx w x h v k hs hl hh hv hhi hk => ⟨fun hover => ⟨_, exec_twait_over hs hhi hk hl hh hv ((waitOver_iff hk).2 hover),
      hasIssued_advances hs.resident, hasIssued_only ..⟩, fun hnot => ?_⟩,
    fun s c y h v k hrun hc hy hhold hk => ⟨_, exec_twaitSatisfied_hold hrun hc, fun d => ?_, rfl⟩,
    fun s c ctx w x h v k hs hl hh hv hhi hk => ⟨fun hops hup => ?_, fun o hops hp ht => ?_⟩⟩
  · have hover : waitOver s c (h.truncate 32) v = false := by
      rw [Bool.eq_false_iff, ne_eq, waitOver_iff hk]
      rintro ⟨hup, hlt⟩
      rcases hnot with hdown | hge
      · simp [hup] at hdown
      · omega
    exact ⟨_, exec_twait_waits hs hhi hk hl hh hv hover, issued_modCtx _ hs.resident (by rw [hs.noHold]; rfl) rfl rfl⟩
  · rw [getSlot_modCtx hy, hhold]
    simp only [filter_holdStays, waitOver_iff hk]
  · have hexec := exec_tsig_signals (x := x) hs hhi hk hl hh hv
    rw [addOp_signal rfl, settleOps_signal hs.resident hops rfl rfl hup] at hexec
    exact ⟨_, hexec, fun j => by rw [tally_hasIssued, tally_signalled hk], issued_tallies _ hs.resident rfl rfl (getSlot_signalled hs.resident hk hops) (signalled_only hk)⟩
  · have hexec := exec_tsig_signals (x := x) hs hhi hk hl hh hv
    rw [addOp_signal rfl, settleOps_behind hs.resident hops hp ht rfl] at hexec
    exact ⟨_, hexec, issued_modCtx_twice _ hs.resident rfl rfl rfl⟩

/-! ### BAR, ACQ and REL -/

theorem scopeOf_table {w : W64} {sc : Scope} (h : (bits w 11 9, sc) ∈ [(0, Scope.te), (1, Scope.cluster), (4, Scope.package)]) : scopeOf w = some sc := by
  simp only [List.mem_cons, Prod.mk.injEq, List.not_mem_nil, or_false] at h
  unfold scopeOf
  rcases h with ⟨hb, rfl⟩ | ⟨hb, rfl⟩ | ⟨hb, rfl⟩
  all_goals
    rw [hb]
    rfl

theorem readAhead_setReadAhead (s : State) (cl : Fin 64) (l : List (CtxId × Nat × Line)) : readAhead (setReadAhead s cl l) cl = l.drop (l.length - 256) := by
  simp only [readAhead, setReadAhead, smGet_set_self]

/-- Discarding stale copies beyond scope S leaves none of the context's, and what the buffer holds of the others' (R327, Table 12-4). -/
theorem readAhead_discardStale (s : State) (c : CtxId) (sc : Scope) :
    (∀ e ∈ readAhead (discardStale s c sc) (clusterOf c.te), sc = .te ∨ e.1 ≠ c)
    ∧ ((readAhead s (clusterOf c.te)).length ≤ 256 →
      ∀ e ∈ readAhead s (clusterOf c.te), (sc = .te ∨ e.1 ≠ c) → e ∈ readAhead (discardStale s c sc) (clusterOf c.te)) := by
  have hkept : sc ≠ .te → readAhead (discardStale s c sc) (clusterOf c.te) =
      ((readAhead s (clusterOf c.te)).filter fun e => decide (e.1 ≠ c)).drop (((readAhead s (clusterOf c.te)).filter fun e => decide (e.1 ≠ c)).length - 256) := by
    intro hsc
    cases sc with
    | te => exact absurd rfl hsc
    | cluster | package => exact readAhead_setReadAhead ..
  by_cases hsc : sc = .te
  · subst hsc
    exact ⟨fun _ _ => Or.inl rfl, fun _ _ he _ => he⟩
  · rw [hkept hsc]
    refine ⟨fun e he => Or.inr ?_, fun hlen e he hother => ?_⟩
    · exact of_decide_eq_true (List.mem_filter.1 (List.mem_of_mem_drop he)).2
    · have hfew : ((readAhead s (clusterOf c.te)).filter fun e => decide (e.1 ≠ c)).length ≤ 256 := (List.length_filter_le ..).trans hlen
      rw [Nat.sub_eq_zero_of_le hfew, List.drop_zero]
      exact List.mem_filter.2 ⟨he, decide_eq_true (hother.resolve_left hsc)⟩

/-- An effect on the clusters alone leaves everything else but the books of issue. -/
theorem issued_clusters {s u : State} {c : CtxId} {ctx : Ctx} (pc : W64) (hx : getCtx s c = some ctx) (h : ∃ v, u = { s with cl := v }) :
    Proceeds s (hasIssued u c pc) c ctx pc ∧ hasIssued u c pc = { s with
      eng := { s.eng with te := (hasIssued u c pc).eng.te, slots := (hasIssued u c pc).eng.slots }
      cl := (hasIssued u c pc).cl } := by
  obtain ⟨v, rfl⟩ := h
  exact ⟨proceeds_of hx (fun _ => rfl) (fun _ => rfl) rfl, rfl⟩

/-- An effect of issue alone leaves the clusters alone. -/
theorem onlyIssue_clusters {s t : State} (h : OnlyIssue s t) : t = { s with eng := { s.eng with te := t.eng.te, slots := t.eng.slots }, cl := t.cl } := by
  unfold OnlyIssue at h
  conv => lhs; rw [h]
  rw [h]

theorem readAhead_hasIssued (s : State) (c : CtxId) (pc : W64) (cl : Fin 64) : readAhead (hasIssued s c pc) cl = readAhead s cl := rfl

section
variable {i : Instr} {s : State} {c : CtxId} {ctx : Ctx} {w x : W64} {sc : Scope}

/-- A hold whose end discards stale copies: its effect at once where it is over already, else it is left on the context (R327). -/
theorem takeHold_discards {hd : Hold} {p : Prop} [Decidable p] {pc : W64} (hx : getCtx s c = some ctx) (hno : ctx.hold = [])
    (hover : holdOver s c hd = true ↔ p) (hends : holdEnds s c hd = discardStale s c sc)
    (hexec : exec i s = .next (hasIssued (takeHold s c hd) c pc)) :
    Answers i s fun t =>
      (if p then Proceeds s t c ctx pc ∧
          (∀ e ∈ readAhead t (clusterOf c.te), sc = .te ∨ e.1 ≠ c)
          ∧ ((readAhead s (clusterOf c.te)).length ≤ 256 → ∀ e ∈ readAhead s (clusterOf c.te), (sc = .te ∨ e.1 ≠ c) → e ∈ readAhead t (clusterOf c.te))
        else Proceeds s t c { ctx with hold := [hd] } pc ∧ OnlyIssue s t)
      ∧ t = { s with eng := { s.eng with te := t.eng.te, slots := t.eng.slots }, cl := t.cl } := by
  refine ⟨_, hexec, ?_⟩
  unfold takeHold
  by_cases ho : p
  · obtain ⟨hproc, honly⟩ := issued_clusters pc hx (discardStale_eq s c sc)
    rw [if_pos ho, if_pos (hover.2 ho), hends]
    exact ⟨⟨hproc, readAhead_discardStale s c sc⟩, honly⟩
  · obtain ⟨hproc, honly⟩ := issued_modCtx (f := fun x => { x with hold := x.hold ++ [hd] }) (y := { ctx with hold := [hd] }) pc hx (by rw [hno]; rfl) rfl rfl
    rw [if_neg ho, if_neg fun h => ho (hover.1 h)]
    exact ⟨⟨hproc, honly⟩, onlyIssue_clusters honly⟩

variable (hs : Ready s c ctx) (hsc : scopeOf w = some sc)
include hs hsc

omit hs in
theorem legal_scope {op : Nat} (hl : Legal ctx w op false [rsv w 63 12]) : Legal ctx w op false (scopeCauses w) :=
  hl.more (more := [(0x04, (scopeOf w).isNone)]) fun e he => by rw [List.mem_singleton.1 he, hsc]; rfl

theorem exec_bar_ready (hl : Legal ctx w 0x62 false [rsv w 63 12]) : exec (.bar c w x) s = .next (hasIssued (takeHold s c (.bar sc)) c (ctx.pc + 8)) := by
  rw [exec_bar, execBar, clocked_running hs.clocks, issue_done hs (legal_scope hsc hl) rfl, hsc]
  rfl

theorem exec_acq_ready (hl : Legal ctx w 0x63 false [rsv w 63 12]) : exec (.acq c w x) s = .next (hasIssued (takeHold s c (.acq sc)) c (ctx.pc + 8)) := by
  rw [exec_acq, execAcq, clocked_running hs.clocks, issue_done hs (legal_scope hsc hl) rfl, hsc]
  rfl

theorem exec_rel_ready (hl : Legal ctx w 0x64 false [rsv w 63 12]) :
    exec (.rel c w x) s = .next (hasIssued (takeHold s c (.rel sc (cycleNow s))) c (ctx.pc + 8)) := by
  rw [exec_rel, execRel, clocked_running hs.clocks, issue_done hs (legal_scope hsc hl) rfl, hsc]
  rfl

end

/-- Settles O28: each takes its hold, or the hold's effect. -/
theorem barriers : Obligations.Barriers := by
  intro s c ctx w x sc hs hmem
  have hsc := scopeOf_table hmem
  refine ⟨fun hl => takeHold_discards hs.resident hs.noHold (Bool.and_eq_true ..).to_iff rfl (exec_bar_ready hs hsc hl),
    fun hl => takeHold_discards hs.resident hs.noHold Iff.rfl rfl (exec_acq_ready hs hsc hl), fun hl => ⟨_, exec_rel_ready hs hsc hl, ?_⟩⟩
  unfold takeHold
  by_cases ho : performedAt s c sc (some (cycleNow s)) = true
  · rw [if_pos ho, if_pos (show holdOver s c (.rel sc (cycleNow s)) = true from ho), ← hs.noHold]
    exact ⟨hasIssued_advances hs.resident, hasIssued_only ..⟩
  · rw [if_neg ho, if_neg (show ¬ holdOver s c (.rel sc (cycleNow s)) = true from ho)]
    exact issued_modCtx _ hs.resident (by rw [hs.noHold]; rfl) rfl rfl

/-! ### ATOM and DC.ZERO -/

section
variable {s : State} {c : CtxId} {ctx : Ctx} {w x a b p : W64} {op : AtomOp} (hs : Ready s c ctx) (hop : atomOp (bits w 31 29) = some op)
  (hl : Legal ctx w 0x65 false [rsv w 63 34, (0x03, decide (bits w 31 29 ≠ 4 ∧ bits w 28 24 ≠ 0)), (0x05, bitAt w 33 && bitAt w 32)])
  (ha : a = sreg s c (bits w 18 14)) (hb : b = sreg s c (bits w 23 19)) (hp : p = sreg s c (bits w 28 24))
include hs hop hl ha hb hp

/-- The tally after an atomic operation: an addition is one to the tally, any other a new value (R152, R332). -/
def tallyAtom (s : State) (k : Nat) (op : AtomOp) (b p : W64) : State :=
  if op = .add then tallyAdd s k (b.truncate 32)
  else { s with tallies := smSet 0 s.tallies k ((atomResult op false ((tally s k).setWidth 64) b p).truncate 32) }

omit hs ha hb hp in
theorem legal_atom : Legal ctx w 0x65 false [rsv w 63 34, (0x04, (atomOp (bits w 31 29)).isNone), (0x03, decide (bits w 31 29 ≠ 4 ∧ bits w 28 24 ≠ 0)),
    (0x05, bitAt w 33 && bitAt w 32)] :=
  hl.of fun e he => by
    simp only [List.mem_cons, List.not_mem_nil, or_false] at he ⊢
    rcases he with he | he | he | he
    · exact Or.inl (Or.inl he)
    · rw [he, hop]
      exact Or.inr rfl
    · exact Or.inl (Or.inr (Or.inl he))
    · exact Or.inl (Or.inr (Or.inr he))

theorem exec_atom_tally {k : Nat} (ht : bitAt w 33 = true) (hhi : bits a 63 32 = 0) (hk : handleKey (a.truncate 32) = some k) (hops : ∀ o ∈ ctx.ops, o.tally = none)
    (hup : tallyUp s (dieOf c.te).val (a.truncate 32) = true) :
    exec (.atom c w x) s = .next (hasIssued (setSreg (tallyAtom s k op b p) c (bits w 13 9) ((tally s k).setWidth 64)) c (ctx.pc + 8)) := by
  have hnone : ctx.ops.any (fun o => o.tally.isSome) = false := by
    rw [List.any_eq_false]
    intro o ho
    simp [hops o ho]
  rw [exec_atom, execAtom, clocked_running hs.clocks, issue_done hs (legal_atom hop hl)]
  · rfl
  · simp only [hop, Option.getD_some, ← ha, ← hb, ← hp, ht, hnone, hup, badHandle_key hhi hk, hk, if_true, Bool.false_eq_true, if_false, Bool.not_true, tallyAtom]

theorem exec_atom_memory {u v z : State} {sa : Nat} {old : W64} (ht : bitAt w 33 = false) (hal : a.toNat % (if bitAt w 32 then 8 else 4) = 0)
    (htr : translate s c.te ctx.launch.seg a.toNat = (u, .inr sa)) (hd : drainTo u c ctx.opCount [sa / 64] = (v, []))
    (hat : dieAtomic v (dieOf c.te) sa op (bitAt w 32) b p = (z, .inr old)) :
    exec (.atom c w x) s = .next (hasIssued (setSreg (patchAhead z c (sa / 64) (sa % 64)
      (bytesOf (if bitAt w 32 then 8 else 4) (atomResult op (bitAt w 32) old b p).toNat)) c (bits w 13 9) old) c (ctx.pc + 8)) := by
  rw [exec_atom, execAtom, clocked_running hs.clocks, issue_done hs (legal_atom hop hl)]
  · rfl
  · simp only [hop, Option.getD_some, ← ha, ← hb, ← hp, ht, hal, htr, hd, hat, Bool.false_eq_true, if_false, ne_eq, not_true_eq_false]

end

theorem tally_tallyAtom (s : State) (k : Nat) (op : AtomOp) (b p : W64) (j : Nat) :
    tally (tallyAtom s k op b p) j = if j = k then (atomResult op false ((tally s k).setWidth 64) b p).truncate 32 else tally s j := by
  unfold tallyAtom
  by_cases hop : op = .add
  · rw [if_pos hop, hop, atomResult_add_word, tally_tallyAdd]
  · rw [if_neg hop]
    exact smGet_set ..

theorem tallyAtom_only (s : State) (k : Nat) (op : AtomOp) (b p : W64) :
    ∃ ts ma, tallyAtom s k op b p = { s with tallies := ts, stc := { s.stc with marginAt := ma } } := by
  unfold tallyAtom
  split
  · exact ⟨_, _, tallyAdd_only ..⟩
  · exact ⟨_, s.stc.marginAt, rfl⟩

/-- An effect on the tallies, and a scalar write behind it, leave everything else but the books of issue. -/
theorem issued_tallies_sreg {s u : State} {c : CtxId} {ctx : Ctx} {r : Nat} (v pc : W64) (hx : getCtx s c = some ctx) (hr : r < 32)
    (h : ∃ ts ma, u = { s with tallies := ts, stc := { s.stc with marginAt := ma } }) :
    SregIs s (hasIssued (setSreg u c r v) c pc) c r v ∧ Proceeds s (hasIssued (setSreg u c r v) c pc) c ctx pc
      ∧ (∀ j, tally (hasIssued (setSreg u c r v) c pc) j = tally u j)
      ∧ hasIssued (setSreg u c r v) c pc = { s with
        eng := { s.eng with te := (hasIssued (setSreg u c r v) c pc).eng.te, slots := (hasIssued (setSreg u c r v) c pc).eng.slots,
                            sregs := (hasIssued (setSreg u c r v) c pc).eng.sregs }
        tallies := (hasIssued (setSreg u c r v) c pc).tallies
        stc := { s.stc with marginAt := (hasIssued (setSreg u c r v) c pc).stc.marginAt } } := by
  obtain ⟨ts, ma, rfl⟩ := h
  rw [setSreg_eq]
  refine ⟨sregIs_of hr (by rw [setSreg_eq]; rfl), proceeds_of hx (fun _ => rfl) (fun _ => rfl) rfl, fun _ => rfl, rfl⟩

section
variable {s u v z : State} {c : CtxId} {ctx : Ctx} {w x : W64} {a : Nat} {ls : List Nat}

theorem exec_dcZero_ready (hs : Ready s c ctx) (hl : Legal ctx w 0x66 false [rsv w 63 22]) (ha : a = (sreg s c (bits w 13 9)).toNat) (hn : bits w 21 14 ≠ 0)
    (hal : a % 64 = 0) (hpl : placeLines s c ctx.launch.seg a (bits w 21 14) = (u, .inr ls)) (hd : drainTo u c ctx.opCount ls = (v, []))
    (hz : zeroLines v c ls = (z, none)) : exec (.dcZero c w x) s = .next (hasIssued z c (ctx.pc + 8)) := by
  rw [exec_dcZero, execDcZero, clocked_running hs.clocks, issue_done hs hl]
  · rfl
  · simp only [← ha, hn, hal, hpl, hd, hz, if_false, ne_eq, not_true_eq_false]

end

/-- Settles O29: a tally's atomic changes it and RD; one on memory answers what its home does; DC.ZERO zeroes the lines it has placed. -/
theorem atomsAndZeroing : Obligations.AtomsAndZeroing := by
  refine ⟨fun s c ctx w x a b p op hs hop hl ha hb hp => ⟨fun k ht hhi hk hops hup => ?_, fun u v z sa old ht hal htr hd hat => ?_⟩,
    fun s c ctx w x a u v z ls hs hl ha hn hal hpl hd hz => ⟨placeLines_length hpl, ⟨_, exec_dcZero_ready hs hl ha hn hal hpl hd hz, rfl⟩⟩⟩
  · obtain ⟨hreg, hproc, htal, honly⟩ := issued_tallies_sreg ((tally s k).setWidth 64) (ctx.pc + 8) hs.resident (destField_lt w) (tallyAtom_only s k op b p)
    exact ⟨_, exec_atom_tally hs hop hl ha hb hp ht hhi hk hops hup, hreg, fun j => by rw [htal, tally_tallyAtom], hproc, honly⟩
  · refine ⟨_, exec_atom_memory hs hop hl ha hb hp ht hal htr hd hat, sregIs_of (destField_lt w) ?_, rfl⟩
    rw [setSreg_eq, setSreg_eq]
    rfl

end Sys2Proof.Machine
end

section
/-! PROOFS. The four kinds of ROUTE: DISPATCH, RETURN, VERIFY and COMMIT (R156, R175, R176, R192 to R198, R204, R207, R212): O30 and O31. -/

namespace Sys2Proof.Machine

/-! ### A ROUTE that comes to its descriptor -/

/-- What the engines do with an accepted descriptor, by its KIND (R156, R196). -/
def handleRoute (u : State) (c : CtxId) (ctx : Ctx) (desc : RDesc) (ra : Nat) (tl : Option W32) : Issued :=
  match rdKind desc with
  | 1 => runDispatch u c ctx desc ra tl
  | 2 => runReturn u c ctx desc ra tl
  | 3 => runVerify u c ctx desc ra tl
  | _ => runCommit u c ctx desc ra tl

section
variable {s u : State} {c : CtxId} {ctx : Ctx} {w x : W64} {desc : RDesc} {tl : Option W32} (h : RouteReady s c ctx w u desc tl)
include h

theorem runRoute_ready : runRoute s c ctx w = handleRoute u c ctx desc (sreg s c (bits w 13 9)).toNat tl := by
  obtain ⟨bs, hload, hdesc⟩ := h.line
  have hwin : ¬ (rdKind desc = 1 ∧ (!inWindow u ctx.launch.job (rdStage desc) (rdRows desc * rdK desc * rdRl desc * 64)) = true) := fun hk => by
    simp [h.window hk.1] at hk
  have hh : (decide (bits w 18 14 ≠ 0) && badHandle (sreg s c (bits w 18 14))) = false := by
    by_cases hz : bits w 18 14 = 0
    · simp [hz]
    · simp [h.handle hz]
  simp only [runRoute, h.share, h.aligned, h.free, hload, ← hdesc, h.ranges, hh, h.accepted, h.enabled, h.clear, ne_eq, not_true_eq_false,
    Bool.false_eq_true, if_false, Bool.not_true]
  rw [if_neg hwin, ← show tl = if decide (¬ bits w 18 14 = 0) = true then some ((sreg s c (bits w 18 14)).truncate 32) else none by
    rw [h.asks]
    simp only [ne_eq, decide_eq_true_eq]]
  rfl

/-- A descriptor that is handled at once: issue goes on behind the word. -/
theorem route_done {v : State} (hv : handleRoute u c ctx desc (sreg s c (bits w 13 9)).toNat tl = .done v) :
    clocked s (issueRoute c w x) = .next (hasIssued v c (ctx.pc + 8)) := by
  rw [clocked_running h.ready.clocks, issueRoute, issue_done h.ready h.legal]
  · rfl
  · rw [runRoute_ready h, hv]

theorem RouteReady.onlyStore : ∃ m e, u = { s with eng := { s.eng with tiles := m, tileErr := e } } := by
  obtain ⟨bs, hload, -⟩ := h.line
  exact (tsLoad_ok hload).2.2.2

theorem RouteReady.resident : getCtx u c = some ctx := by
  obtain ⟨m, e, rfl⟩ := h.onlyStore
  exact h.ready.resident

theorem RouteReady.routes (d : CDie) : getRoutes u d = getRoutes s d := by
  obtain ⟨m, e, rfl⟩ := h.onlyStore
  rfl

theorem RouteReady.sessions (n : Nat) : getSes u n = getSes s n := by
  obtain ⟨m, e, rfl⟩ := h.onlyStore
  rfl
end

/-! ### DISPATCH -/

/-- An operation of the dispatch engine or the session unit that its context begins to await moves no mover. -/
theorem addOp_route {s : State} {c : CtxId} {o : Op} (hk : o.kind = .route) :
    addOp s c o = modCtx s c fun x => { x with ops := x.ops ++ [o], opCount := x.opCount + 1 } := by
  unfold addOp moverMoved
  rw [hk]

theorem getRoutes_setRoutes (s : State) (d e : CDie) (l : List Route) : getRoutes (setRoutes s d l) e = if e = d then l else getRoutes s e := by
  simp only [getRoutes, setRoutes, smGet_set, Fin.val_inj]

theorem getRoutes_hasIssued (s : State) (c : CtxId) (pc : W64) (d : CDie) : getRoutes (hasIssued s c pc) d = getRoutes s d := rfl
theorem getRoutes_modCtx (s : State) (c : CtxId) (f : Ctx → Ctx) (d : CDie) : getRoutes (modCtx s c f) d = getRoutes s d := rfl
theorem getCtx_setRoutes (s : State) (d : CDie) (l : List Route) (c : CtxId) : getCtx (setRoutes s d l) c = getCtx s c := rfl

/-- A DISPATCH whose route waits for a tag: its route stands last in its engine's, and the context awaits its operation. -/
theorem dispatch_queued {u : State} {c : CtxId} {ctx : Ctx} {o : Op} {d : CDie} {r : Route} (pc : W64) (hx : getCtx u c = some ctx) (hk : o.kind = .route) :
    (∀ e, getRoutes (hasIssued (addOp (setRoutes u d (getRoutes u d ++ [r])) c o) c pc) e = if e = d then getRoutes u d ++ [r] else getRoutes u e)
      ∧ Proceeds u (hasIssued (addOp (setRoutes u d (getRoutes u d ++ [r])) c o) c pc) c { ctx with ops := ctx.ops ++ [o], opCount := ctx.opCount + 1 } pc := by
  rw [addOp_route hk]
  refine ⟨fun e => ?_, proceeds_modCtx hx (fun _ => rfl) (fun e => ?_) rfl rfl rfl⟩
  · rw [getRoutes_hasIssued, getRoutes_modCtx, getRoutes_setRoutes]
  · exact getSlot_modCtx (s := setRoutes u d (getRoutes u d ++ [r])) hx _ e

section
variable {u : State} {c : CtxId} {ctx : Ctx} {desc : RDesc} {tl : Option W32} {d : CDie} {r : Route} {at_ : Nat} (hd : d = dieOf c.te)
  (hr : r = ⟨c, ctx.launch.job, ctx.launch.cid, ctx.launch.seg, desc, tl, ctx.opCount, u.stc.count.toNat, deadlineOf u d, none, [], [], [],
      List.replicate (rdRows desc * rdK desc) .unsent, none, false, at_⟩)
include hd hr

/-- The operation of a DISPATCH. -/
def dispatchOp (u : State) (ctx : Ctx) (desc : RDesc) (tl : Option W32) : Op :=
  ⟨.route, tl, 1, descReads desc, descWrites desc, ctx.launch.seg, ctx.opCount, u.now, true, false⟩

theorem runDispatch_queued (hfull : 1024 ≤ taggedCount u d) : runDispatch u c ctx desc at_ tl
    = .done (addOp (setRoutes u d (getRoutes u d ++ [r])) c (dispatchOp u ctx desc tl)) := by
  subst hd hr
  exact if_pos hfull

theorem runDispatch_opened {v : State} (hroom : taggedCount u d < 1024)
    (ho : openRoute (addOp (setRoutes u d (getRoutes u d ++ [r])) c (dispatchOp u ctx desc tl)) d r = (v, none)) :
    runDispatch u c ctx desc at_ tl = .done v := by
  subst hd
  unfold runDispatch
  simp only [dispatchOp] at ho
  simp only [← hr, ho, Nat.not_le.2 hroom, if_false]
end

section
variable {u : State} {c : CtxId} {ctx : Ctx} {desc : RDesc} {at_ : Nat} {tl : Option W32}

theorem handleRoute_dispatch (hk : rdKind desc = 1) : handleRoute u c ctx desc at_ tl = runDispatch u c ctx desc at_ tl := by
  simp only [handleRoute, hk]
theorem handleRoute_return (hk : rdKind desc = 2) : handleRoute u c ctx desc at_ tl = runReturn u c ctx desc at_ tl := by
  simp only [handleRoute, hk]
theorem handleRoute_verify (hk : rdKind desc = 3) : handleRoute u c ctx desc at_ tl = runVerify u c ctx desc at_ tl := by
  simp only [handleRoute, hk]
theorem handleRoute_commit (hk : rdKind desc = 4) : handleRoute u c ctx desc at_ tl = runCommit u c ctx desc at_ tl := by
  simp only [handleRoute, hk]
end

/-! ### RETURN -/

/-- What a RETURN leaves once Seam has taken its packets: its operation, performed where none of them still waits (R207, R212). -/
def returned (sent : State) (c : CtxId) (ctx : Ctx) (tl : Option W32) : State :=
  let held := addOp sent c ⟨.route, tl, 1, [], [], 0, ctx.opCount, sent.now, false, false⟩
  if ownsQueued held c ctx.opCount then held else performOp held c ctx.opCount

theorem runReturn_sent {u v y z sent : State} {c : CtxId} {ctx : Ctx} {desc : RDesc} {at_ : Nat} {tl : Option W32} {e : BitVec 128}
    {hs : List (BitVec 512)} {f : Fmt} {spans : List (Nat × Nat)} {bodies : List (List Byte)}
    (hf : f = (if bits desc 164 160 = 0 then .fp32 else .bf16)) (he : inboxEntry u (dieOf c.te) (bits desc 27 16) = (v, .inr e))
    (hrows : bits desc 41 30 + rdRows desc ≤ inboxRows e)
    (hheads : inboxHeads v (dieOf c.te) e (bits desc 28 28) ((List.range (rdRows desc)).map (bits desc 41 30 + ·)) = (y, .inr hs))
    (hspans : spans = hs.zipIdx.map (fun t => (bits desc 148 128 + t.2 * resLines f (bits t.1 222 208) * 64, bits desc 148 128 + (t.2 + 1) * resLines f (bits t.1 222 208) * 64)))
    (hshare : outOfShare y c spans = none) (hfree : mustWait y c spans [] = false)
    (hread : readRuns y c 0 .p1 .tile (spans.map fun r => (r.1, r.2 - r.1)) = (z, .inr bodies))
    (hsend : sendResults z (dieOf c.te) (some (c, ctx.opCount)) ((hs.zip bodies).map fun p =>
      (p.1, bytesOf 64 (resultHead z (dieOf c.te) p.1 0 (bits desc 164 160) (resLines f (bits p.1 222 208))).toNat ++ p.2)) = some sent) :
    runReturn u c ctx desc at_ tl = .done (returned sent c ctx tl) := by
  subst hf hspans
  simp only [runReturn, he, Nat.not_lt.2 hrows, hheads, hshare, hfree, hread, hsend, if_false, Bool.false_eq_true, returned]

/-! ### VERIFY -/

/-- The operation of a VERIFY or COMMIT, at its engine's session unit. -/
def sessionOp (u : State) (c : CtxId) (ctx : Ctx) (id : Nat) (tl : Option W32) (writes : List (Nat × Nat)) : State :=
  addOp (noteSession u (id % 65536)) c ⟨.route, tl, 1, [], writes, 0, ctx.opCount, u.now, false, false⟩

theorem sessionOp_eq (u : State) (c : CtxId) (ctx : Ctx) (id : Nat) (tl : Option W32) (writes : List (Nat × Nat)) :
    sessionOp u c ctx id tl writes = modCtx (noteSession u (id % 65536)) c fun x =>
      { x with ops := x.ops ++ [⟨.route, tl, 1, [], writes, 0, ctx.opCount, u.now, false, false⟩], opCount := x.opCount + 1 } := addOp_route rfl

theorem getSes_sessionOp (u : State) (c : CtxId) (ctx : Ctx) (id : Nat) (tl : Option W32) (writes : List (Nat × Nat)) (n : Nat) :
    getSes (sessionOp u c ctx id tl writes) n = getSes u n := by
  rw [sessionOp_eq]
  rfl

/-- Whether a session's use breaks a cause of Table 7-4 looks at the table, the registers and the mirror's commits, none of which an operation touches. -/
theorem sesCause_sessionOp (u : State) (c : CtxId) (ctx : Ctx) (id k : Nat) (tl : Option W32) (writes : List (Nat × Nat)) (job : W16) :
    sesCause (sessionOp u c ctx id tl writes) k job = sesCause u k job := by
  rw [sessionOp_eq]
  rfl

section
variable {u v : State} {c : CtxId} {ctx : Ctx} {desc : RDesc} {at_ : Nat} {tl : Option W32} {rec : List Byte} {held : State}
  (hload : tsLoad u c.te (bits desc 148 128) 512 = (v, .inr rec)) (hheld : held = sessionOp v c ctx (bits desc 47 24) tl [])
include hload hheld

theorem runVerify_accepted (hc : sesCause held (bits desc 47 24) ctx.launch.job = none) (ht : treeValid (getSes held (bits desc 47 24 % 65536)) = true) :
    runVerify u c ctx desc at_ tl = .done (performOp (tsWrite (tsWrite held c.te (bits desc 180 160)
      (acceptResult (acceptPath (getSes held (bits desc 47 24 % 65536)) rec 64 0) rec)) c.te (bits desc 212 192) (bytesOf 8 0)) c ctx.opCount) := by
  subst hheld
  rw [getSes_sessionOp] at ht ⊢
  simp only [sessionOp] at hc ⊢
  simp only [runVerify, hload, hc, ht, if_true]

theorem runVerify_refused {k : Nat} (hc : sesCause held (bits desc 47 24) ctx.launch.job = some k ∨ (sesCause held (bits desc 47 24) ctx.launch.job = none
      ∧ treeValid (getSes held (bits desc 47 24 % 65536)) = false ∧ k = 0x09)) :
    runVerify u c ctx desc at_ tl = .done (refuseSession held c ctx.opCount at_ (bits desc 212 192) (bits desc 47 24) 0 k) := by
  subst hheld
  rw [getSes_sessionOp] at hc
  simp only [sessionOp] at hc ⊢
  rcases hc with hc | ⟨hc, ht, rfl⟩
  · simp only [runVerify, hload, hc]
  · simp only [runVerify, hload, hc, ht, Bool.false_eq_true, if_false]
end

/-- Settles O30. -/
theorem routeInstructions : Obligations.RouteInstructions := by
  refine ⟨?dispatch, ?return_, ?verify⟩
  case dispatch =>
    intro s c ctx w x u desc tl d r h hk hd hr
    refine ⟨fun hfull => ⟨_, route_done h ((handleRoute_dispatch hk).trans (runDispatch_queued hd hr hfull)), ?_⟩, fun v hroom ho => ⟨_, route_done h ((handleRoute_dispatch hk).trans (runDispatch_opened hd hr hroom ho)), rfl⟩⟩
    have ht := dispatch_queued (o := dispatchOp u ctx desc tl) (d := d) (r := r) (ctx.pc + 8) (RouteReady.resident h) rfl
    exact ⟨fun e => by rw [ht.1 e, RouteReady.routes h, RouteReady.routes h], ht.2⟩
  case return_ =>
    intro s c ctx w x u v y z desc tl e hs f spans bodies sent h hk hf he hrows hheads hspans hshare hfree hread hsend
    exact ⟨_, route_done h ((handleRoute_return hk).trans (runReturn_sent hf he hrows hheads hspans hshare hfree hread hsend)), rfl⟩
  case verify =>
    intro s c ctx w x u v desc tl rec h hk hload
    exact ⟨fun hc ht => ⟨_, route_done h ((handleRoute_verify hk).trans (runVerify_accepted hload rfl hc ht)), rfl⟩,
      fun k hc => ⟨_, route_done h ((handleRoute_verify hk).trans (runVerify_refused hload rfl hc)), rfl⟩⟩

/-! ### COMMIT -/

theorem getSes_hasIssued (s : State) (c : CtxId) (pc : W64) (n : Nat) : getSes (hasIssued s c pc) n = getSes s n := rfl
theorem getSes_performOp (s : State) (c : CtxId) (k n : Nat) : getSes (performOp s c k) n = getSes s n := by
  rw [getSes, getSes, ses_performOp]
theorem getSes_refuseSession (s : State) (c : CtxId) (number at_ stat id : Nat) (d1 : W64) (cause n : Nat) :
    getSes (refuseSession s c number at_ stat id d1 cause) n = getSes s n := by
  rw [getSes, getSes, ses_refuse]
theorem getSes_tsWrite (s : State) (te : TeId) (a : Nat) (bs : List Byte) (n : Nat) : getSes (tsWrite s te a bs) n = getSes s n := rfl

section
variable {e new : BitVec 2048} {accepted root : Nat} {stitch : BitVec 48} (hnew : new = committed e accepted root stitch)
include hnew

/-- A COMMIT leaves MIRROR as it is. -/
theorem sesMirror_committed : sesMirror new = sesMirror e := by
  subst hnew
  unfold committed
  dsimp only
  split <;> simp only [sesMirror, bitAt_setBits_ne _ _ (Or.inl (show 8 < 32 by omega)), bitAt_setBits_ne _ _ (Or.inl (show 8 < 64 by omega)),
    bitAt_setBits_ne _ _ (Or.inl (show 8 < 1024 by omega)), bitAt_setBits_ne _ _ (Or.inl (show 8 < 448 by omega)),
    bitAt_setBits_ne _ _ (Or.inl (show 8 < 640 by omega))]

/-- But for MIR_SEQ, a COMMIT changes LEN, ROOT, the tree and STITCH alone (R194, R195). -/
theorem bits_committed {hi lo : Nat} (h : hi < 640 ∨ 671 < lo) : bits new hi lo
    = bits (setBits (setBits (setBits (setBits e 63 32 (sesLen e + accepted)) 87 64 root) 1031 1024 0) 495 448 stitch.toNat) hi lo := by
  subst hnew
  unfold committed
  dsimp only
  split
  · exact bits_setBits_ne _ _ h
  · rfl

/-- What a COMMIT sets in an entry: LEN, ROOT, the tree's node count and STITCH (R194). -/
theorem committed_fields (hroot : root < 2 ^ 24) : sesLen new = (sesLen e + accepted) % 2 ^ 32 ∧ bits new 87 64 = root ∧ bits new 1031 1024 = 0
    ∧ bits new 495 448 = stitch.toNat := by
  refine ⟨?len, ?root, ?tree, ?stitch⟩
  case len =>
    rw [sesLen, bits_committed hnew (by omega), bits_setBits_ne _ _ (by omega), bits_setBits_ne _ _ (by omega), bits_setBits_ne _ _ (by omega),
      bits_setBits_same _ _ (by omega) (by omega)]
  case root =>
    rw [bits_committed hnew (by omega), bits_setBits_ne _ _ (by omega), bits_setBits_ne _ _ (by omega), bits_setBits_same _ _ (by omega) (by omega),
      Nat.mod_eq_of_lt hroot]
  case tree => rw [bits_committed hnew (by omega), bits_setBits_ne _ _ (by omega), bits_setBits_same _ _ (by omega) (by omega), Nat.zero_mod]
  case stitch => rw [bits_committed hnew (by omega), bits_setBits_same _ _ (by omega) (by omega), Nat.mod_eq_of_lt stitch.isLt]

/-- A mirrored session's MIR_SEQ rises by 1 (R195). -/
theorem mirSeq_committed (hm : sesMirror e = true) : bits new 671 640 = (bits e 671 640 + 1) % 2 ^ 32 := by
  have h := sesMirror_committed hnew
  subst hnew
  unfold committed at h ⊢
  dsimp only at h ⊢
  rw [hm] at h
  split at h <;> rename_i hs
  · rw [if_pos hs, bits_setBits_same _ _ (by omega) (by omega), bits_setBits_ne _ _ (by omega), bits_setBits_ne _ _ (by omega),
      bits_setBits_ne _ _ (by omega), bits_setBits_ne _ _ (by omega)]
  · exact absurd h hs
end

section
variable {u : State} {c : CtxId} {ctx : Ctx} {desc : RDesc} {at_ id stat expect : Nat} {tl : Option W32} {e new : BitVec 2048} {held : State}
  (hid : id = bits desc 47 24) (hstat : stat = bits desc 212 192) (hexp : expect = bits desc 159 128) (he : e = getSes u (id % 65536))
  (hheld : held = sessionOp u c ctx id tl [(stat, stat + 8)])
include hid hstat hexp he hheld

/-- A refused COMMIT: a cause of Table 7-4, or a LEN that is not the one expected (R192). -/
theorem runCommit_refused {k : Nat} (hc : sesCause u id ctx.launch.job = some k ∨ (sesCause u id ctx.launch.job = none ∧ sesLen e ≠ expect ∧ k = 0x0A)) :
    runCommit u c ctx desc at_ tl = .done (refuseSession held c ctx.opCount at_ stat id (BitVec.ofNat 64 expect) k) := by
  have hs := sesCause_sessionOp u c ctx id id tl [(stat, stat + 8)] ctx.launch.job
  subst hid hstat hexp he hheld
  simp only [sessionOp] at hs ⊢
  rcases hc with hc | ⟨hc, hlen, rfl⟩
  · simp only [runCommit, hs, hc]
  · simp only [runCommit, hs, hc, hlen, if_false]

/-- What a mirrored COMMIT leaves: the entry's copy on its way unless rows must go first, and its wait, or its refusal where the first copy had failed (R195, R395). -/
def mirrorCommit (held : State) (c : CtxId) (ctx : Ctx) (id stat expect at_ : Nat) (new : BitVec 2048) : State :=
  let free := held.mir.reqs.all fun q => decide (q.session ≠ id)
  let v := if free then sendMent (setSes held id new) id new else setSes held id new
  let late := smGet false v.mir.failedInit id
  let wait : CommitWait := ⟨id, BitVec.ofNat 32 (bits new 671 640), c, ctx.opCount, stat, 0, new, free, v.now, at_, BitVec.ofNat 32 expect, late⟩
  let y := if late && free then v else { v with mir := { v.mir with commits := v.mir.commits ++ [wait] } }
  if late then refuseSession { y with mir := { y.mir with failedInit := smSet false y.mir.failedInit id false } } c ctx.opCount at_ stat id (BitVec.ofNat 64 expect) 0x0B
  else y

variable (hnew : new = committed e (bits desc 70 64) (bits desc 95 72) u.stc.count) (hc : sesCause u id ctx.launch.job = none) (hlen : sesLen e = expect)
include hnew hc hlen

theorem runCommit_unmirrored (hm : sesMirror e = false) : runCommit u c ctx desc at_ tl
    = .done (performOp (tsWrite (setSes held id new) c.te stat (bytesOf 8 0)) c ctx.opCount) := by
  have hs := sesCause_sessionOp u c ctx id id tl [(stat, stat + 8)] ctx.launch.job
  have hk : (sessionOp u c ctx id tl [(stat, stat + 8)]).stc = u.stc := by rw [sessionOp_eq]; rfl
  have hmir := sesMirror_committed hnew
  subst hid hstat hexp he hheld hnew
  simp only [sessionOp] at hs hk ⊢
  simp only [runCommit, hs, hk, hc, hlen, if_true, hmir, hm, Bool.not_false]

theorem runCommit_mirrored (hm : sesMirror e = true) : runCommit u c ctx desc at_ tl = .done (mirrorCommit held c ctx id stat expect at_ new) := by
  have hs := sesCause_sessionOp u c ctx id id tl [(stat, stat + 8)] ctx.launch.job
  have hk : (sessionOp u c ctx id tl [(stat, stat + 8)]).stc = u.stc := by rw [sessionOp_eq]; rfl
  have hmir := sesMirror_committed hnew
  subst hid hstat hexp he hheld hnew
  simp only [sessionOp] at hs hk ⊢
  simp only [runCommit, hs, hk, hc, hlen, if_true, hmir, hm, Bool.not_true, Bool.false_eq_true, if_false, mirrorCommit]
  exact (apply_ite Issued.done _ _ _).symm
end

/-- Settles O31. -/
theorem commitAdvances : Obligations.CommitAdvances := by
  intro s c ctx w x u desc tl id stat expect e new held h hk hid hstat hexp he hnew hheld
  have hstc : s.stc = u.stc := by obtain ⟨m, er, rfl⟩ := RouteReady.onlyStore h; rfl
  rw [← RouteReady.sessions h] at he
  rw [hstc] at hnew ⊢
  have hkeep : ∀ n, getSes held n = getSes s n := fun n => by
    rw [hheld, ← RouteReady.sessions h]
    exact getSes_sessionOp ..
  refine ⟨fun hc => ⟨fun hlen hm => ?plain, fun hlen hm => ?mirrored, fun hlen => ?unexpected⟩, fun hm => ?sequence, fun k hc => ?refused⟩
  case plain =>
    refine ⟨_, route_done h ((handleRoute_commit hk).trans (runCommit_unmirrored hid hstat hexp he hheld hnew hc hlen hm)), rfl, ?_⟩
    obtain ⟨hl, hr, ht, hst⟩ := committed_fields hnew (bits_lt desc 95 72)
    simp only [getSes_hasIssued, getSes_performOp, getSes_tsWrite, getSes_setSes, if_true]
    refine ⟨hl, hr, ht, hst, fun n hn => ?_⟩
    rw [if_neg hn, hkeep]
  case mirrored => exact ⟨_, route_done h ((handleRoute_commit hk).trans (runCommit_mirrored hid hstat hexp he hheld hnew hc hlen hm)), rfl⟩
  case unexpected =>
    refine ⟨_, route_done h ((handleRoute_commit hk).trans (runCommit_refused hid hstat hexp he hheld (Or.inr ⟨hc, hlen, rfl⟩))), rfl, fun n => ?_⟩
    rw [getSes_hasIssued, getSes_refuseSession, hkeep]
  case sequence => exact ⟨(sesMirror_committed hnew).trans hm, mirSeq_committed hnew hm⟩
  case refused =>
    refine ⟨_, route_done h ((handleRoute_commit hk).trans (runCommit_refused hid hstat hexp he hheld (Or.inl hc))), rfl, fun n => ?_⟩
    rw [getSes_hasIssued, getSes_refuseSession, hkeep]

end Sys2Proof.Machine
end

section
/-! PROOFS. The dispatch engines' own events and the packets that reach them (R199 to R212): O32 and O33. -/

namespace Sys2Proof.Machine

/-- The combine of a route that never had a tag, where its rows can be written. -/
theorem finishUntagged_done {s u : State} {d : CDie} {r : Route}
    (hrows : combineRows { r with pairs := r.pairs.map fun _ => .zero, weights := [] } (List.range (rdRows r.desc)) s = (u, none)) :
    finishUntagged s d r = performOp (dropRoute u d r) r.ctx r.opNumber := by
  unfold finishUntagged finishRoute
  dsimp only
  rw [hrows]
  rfl

section
variable {s u : State} {d : CDie} {r : Route} {tag : Fin 1024} (hrun : running s = true) (hclk : bitAt s.brd.clockLost d.val = false)
include hrun hclk

/-! ### Tags -/

theorem exec_routeTagAssign_opened (hr : (getRoutes s d).find? (fun r => r.tag.isNone) = some r) (hopen : r.closedAt = none) (hroom : taggedCount s d < 1024)
    (ho : openRoute s d r = (u, none)) : exec (.routeTagAssign d) s = .next u := by
  rw [exec_routeTagAssign, execRouteTagAssign, onDie_running hrun hclk]
  simp only [hr, hopen, Option.isSome_none, Bool.false_eq_true, if_false, Nat.not_le.2 hroom, ho]

theorem exec_routeTagAssign_shut {t0 : Nat} (hr : (getRoutes s d).find? (fun r => r.tag.isNone) = some r) (hshut : r.closedAt = some t0)
    (hrows : combineRows { r with pairs := r.pairs.map fun _ => .zero, weights := [] } (List.range (rdRows r.desc)) s = (u, none)) :
    exec (.routeTagAssign d) s = .next (performOp (dropRoute u d r) r.ctx r.opNumber) := by
  rw [exec_routeTagAssign, execRouteTagAssign, onDie_running hrun hclk]
  simp only [hr, finishUntagged_done hrows]
  rw [if_pos (by rw [hshut]; rfl)]

/-! ### TOKENs -/

section
variable {i : Nat} {h : BitVec 128} (hr : (getRoutes s d).find? (fun r => decide (r.tag = some tag.val) && r.closedAt.isNone) = some r)
  (hdue : s.now < r.deadline) (hi : r.pairs.findIdx? (fun p => decide (p = .unsent)) = some i) (hh : h = r.homes.getD i 0)
include hr hdue hi hh

theorem exec_tokenSend_absent (hno : chooseHome s d h (i / rdK r.desc) = none) :
    exec (.tokenSend d tag) s = .next (resolvePair (dspCount s d .absent 1) d r i .zero) := by
  subst hh
  rw [exec_tokenSend, execTokenSend, onDie_running hrun hclk]
  simp only [hr, Nat.not_le.2 hdue, if_false, hi, hno]

/-- The TOKEN of a pair: its header and its activation row, filled up with zeros (R203). -/
def tokenPacket (u : State) (d : CDie) (tag : Fin 1024) (r : Route) (i node die slot : Nat) (bs : List Byte) : List Byte :=
  let used := (rdAfmt r.desc).bytes (rdH r.desc) + (if (rdAfmt r.desc).isMx then ceilDiv' (rdH r.desc) 32 else 0)
  let head := mkPacket 1 (myNode u) d.val node die r.job.toNat r.stitch (rdLayer r.desc) (r.experts.getD i 0) slot 0 tag.val (i / rdK r.desc) (i % rdK r.desc)
    (bits r.desc 284 280) (rdH r.desc) (rdAl r.desc) (r.weights.getD i 0)
  bytesOf 64 head.toNat ++ (bs.take used ++ List.replicate (rdAl r.desc * 64 - used) 0)

theorem exec_tokenSend_home {node die slot : Nat} {bs : List Byte} (hhome : chooseHome s d h (i / rdK r.desc) = some (node, die, slot, false))
    (hload : tsLoad s r.ctx.te (bits r.desc 180 160 + i / rdK r.desc * rdAl r.desc * 64) (rdAl r.desc * 64) = (u, .inr bs)) :
    exec (.tokenSend d tag) s = .next (if dispRoom u d node die r.job (tokenPacket u d tag r i node die slot bs) = true then
      modRoute (noteProgress (sendDisp u d node die r.job (tokenPacket u d tag r i node die slot bs) none) 4 d.val) d r
        fun q => { q with pairs := q.pairs.set i .sent } else u) := by
  subst hh
  rw [exec_tokenSend, execTokenSend, onDie_running hrun hclk]
  simp only [hr, Nat.not_le.2 hdue, if_false, hi, hhome, hload, Bool.false_eq_true, Bool.not_eq_true', ← Bool.not_eq_true, ite_not]
  rfl
end

/-! ### Deadlines and combines -/

theorem exec_dispatchDeadline_tagged (hr : r ∈ getRoutes s d) (hopen : r.closedAt = none) (htag : r.tag.isSome = true)
    (hleast : ∀ q ∈ getRoutes s d, q.closedAt = none → q ≠ r → r.deadline < q.deadline) :
    exec (.dispatchDeadline d) s = .next (closeRoute (advanceTo s r.deadline) d r) := by
  have hfold : ((getRoutes s d).filter fun r => r.closedAt.isNone).foldl earlierRoute none = some r :=
    earlierRoute_least _ r (List.mem_filter.2 ⟨hr, by rw [hopen]; rfl⟩) fun q hq =>
      hleast q (List.mem_filter.1 hq).1 (Option.isNone_iff_eq_none.1 (List.mem_filter.1 hq).2)
  rw [exec_dispatchDeadline, execDispatchDeadline, onDie_running hrun hclk]
  simp only [hfold, htag, if_true]

theorem exec_combineDone_closed {t0 : Nat} (hr : (getRoutes s d).find? (fun r => decide (r.tag = some tag.val)) = some r) (hclosed : r.closedAt = some t0)
    (hrows : combineRows r (List.range (rdRows r.desc)) (advanceTo s (t0 + cycT (combineCycles r.desc))) = (u, none)) :
    exec (.combineDone d tag) s = .next (performOp (dropRoute u d r) r.ctx r.opNumber) := by
  rw [exec_combineDone, execCombineDone, onDie_running hrun hclk]
  simp only [hr, finishRoute]
  rw [hclosed]
  simp only [hrows]
end

/-- A route that has been dropped stands in its engine's routes no more. -/
theorem dropped_gone (s : State) (d : CDie) (r : Route) (c : CtxId) (n : Nat) :
    ∀ q ∈ getRoutes (performOp (dropRoute s d r) c n) d, ¬ (q.ctx = r.ctx ∧ q.opNumber = r.opNumber) := by
  intro q hq
  rw [getRoutes, dsp_performOp, ← getRoutes, dropRoute, getRoutes_setRoutes, if_pos rfl] at hq
  simpa [← not_and_or] using (List.mem_filter.1 hq).2

/-- Settles O32. -/
theorem dispatchEngines : Obligations.DispatchEngines := by
  refine ⟨?assign, ?shut, ?send, ?deadline, ?combine⟩
  case assign =>
    intro s d r u hrun hclk hr hopen hroom ho
    exact ⟨(freeTag_spec hroom).1, (freeTag_spec hroom).2, exec_routeTagAssign_opened hrun hclk hr hopen hroom ho⟩
  case shut =>
    intro s d r u t0 hrun hclk hr hshut hrows
    exact exec_routeTagAssign_shut hrun hclk hr hshut hrows
  case send =>
    intro s d tag r i h hrun hclk hr hdue hi hh
    refine ⟨exec_tokenSend_absent hrun hclk hr hdue hi hh, fun node die slot u bs hhome hload => ⟨fun hroom => ?_, fun hroom => ?_⟩⟩
    · exact (exec_tokenSend_home hrun hclk hr hdue hi hh hhome hload).trans (congrArg _ (if_pos hroom))
    · exact (exec_tokenSend_home hrun hclk hr hdue hi hh hhome hload).trans (congrArg _ (if_neg (Bool.not_eq_true _ ▸ hroom)))
  case deadline =>
    intro s d r hrun hclk hr hopen htag hleast
    obtain ⟨hroutes, hnow⟩ := closeRoute_spec (advanceTo s r.deadline) d r
    exact ⟨_, exec_dispatchDeadline_tagged hrun hclk hr hopen htag hleast, hnow, by rw [hnow]; exact hroutes⟩
  case combine =>
    intro s d tag r t0 u hrun hclk hr hclosed hrows
    exact ⟨_, exec_combineDone_closed hrun hclk hr hclosed hrows, rfl, dropped_gone _ _ _ _ _⟩

/-! ### Arriving TOKENs -/

/-- A TOKEN stands in the next row of its bank, and the bank's fill count has risen (R205). -/
def tokenPlaced (v : State) (d : CDie) (e : BitVec 128) (bank key : Nat) (p : XfPacket) : State :=
  let s := csWrite v (inboxCluster d e) (inboxRow e bank (smGet 0 v.dsp.fill key)) (p.payload.take (64 * (1 + inboxLines e)))
  noteProgress { s with dsp := { s.dsp with fill := smSet 0 s.dsp.fill key (smGet 0 v.dsp.fill key + 1) } } 4 d.val

section
variable {s u : State} {d : CDie} {port : Option XfPort} {p : XfPacket} {hd : BitVec 512} (hrun : running s = true) (hclk : bitAt s.brd.clockLost d.val = false)
  (hacc : acceptDisp s d port p = (u, true)) (hhd : hd = innerHead p)
include hrun hclk hacc hhd

theorem exec_tokenArrive_stray (hnow : bits hd 127 80 ≠ u.stc.count.toNat) (hlast : bits hd 127 80 ≠ (u.stc.count.toNat + 2 ^ 48 - 1) % 2 ^ 48) :
    exec (.tokenArrive d port p) s = .next (dspCount u d .stray 1) := by
  subst hhd
  rw [exec_tokenArrive, execTokenArrive, onDie_running hrun hclk]
  simp only [hacc]
  rw [if_pos ⟨hnow, hlast⟩]

section
variable {v : State} {slot bank key : Nat} {e : BitVec 128} (hslot : slot = bits hd 163 152) (hbank : bank = bits hd 127 80 % 2)
  (hkey : key = (4096 * d.val + slot) * 2 + bank)
  (hst : bits hd 127 80 = u.stc.count.toNat ∨ bits hd 127 80 = (u.stc.count.toNat + 2 ^ 48 - 1) % 2 ^ 48)
  (he : inboxEntry u d slot = (v, .inr e)) (hup : tallyUp v d.val (BitVec.ofNat 32 (bits e 127 96)) = true)
include hslot hbank hkey hst he hup

theorem exec_tokenArrive_placed {k : Nat} (hz : tokenStatus v d hd e bank key = 0) (hk : handleKey (BitVec.ofNat 32 (bits e 127 96)) = some k) :
    exec (.tokenArrive d port p) s = .next (handleAdd (tokenPlaced v d e bank key p) (some (BitVec.ofNat 32 (bits e 127 96))) 1) := by
  subst hhd hslot hbank hkey
  rw [exec_tokenArrive, execTokenArrive, onDie_running hrun hclk]
  simp only [hacc]
  rw [if_neg fun h => hst.elim h.1 h.2]
  simp only [he, hup, hz, hk, Option.isSome_some, Bool.not_true, Bool.false_eq_true, if_false, if_true]
  rfl

theorem exec_tokenArrive_refused {k : Nat} (hk : tokenStatus v d hd e bank key = k + 1) :
    exec (.tokenArrive d port p) s = .next (refuseToken v d hd (k + 1)) := by
  subst hhd hslot hbank hkey
  rw [exec_tokenArrive, execTokenArrive, onDie_running hrun hclk]
  simp only [hacc]
  rw [if_neg fun h => hst.elim h.1 h.2]
  simp only [he, hup, hk, Bool.not_true, Bool.false_eq_true, if_false]
end

end

theorem tokenPlaced_fill (v : State) (d : CDie) (e : BitVec 128) (bank key : Nat) (p : XfPacket) :
    smGet 0 (tokenPlaced v d e bank key p).dsp.fill key = smGet 0 v.dsp.fill key + 1 := by
  simp only [tokenPlaced, noteProgress, csWrite, smGet_set_self]

theorem tokenPlaced_cl (v : State) (d : CDie) (e : BitVec 128) (bank key : Nat) (p : XfPacket) : (tokenPlaced v d e bank key p).cl
    = (csWrite v (inboxCluster d e) (inboxRow e bank (smGet 0 v.dsp.fill key)) (p.payload.take (64 * (1 + inboxLines e)))).cl := rfl

/-- A placed TOKEN changes cluster stores, fill counts and the notes of progress alone. -/
theorem tokenPlaced_only (v : State) (d : CDie) (e : BitVec 128) (bank key : Nat) (p : XfPacket) :
    ∃ c f pr, tokenPlaced v d e bank key p = { v with cl := c, dsp := { v.dsp with fill := f }, err := { v.err with progress := pr } } := ⟨_, _, _, rfl⟩

/-- The tally that an inbox entry names rises by 1 with a placed TOKEN; nothing else changes with it (R205). -/
theorem tokenPlaced_tallied {v : State} {d : CDie} {e : BitVec 128} {bank key k : Nat} {p : XfPacket} {h : W32} (hk : handleKey h = some k) :
    let t := handleAdd (tokenPlaced v d e bank key p) (some h) 1
    smGet 0 t.dsp.fill key = smGet 0 v.dsp.fill key + 1 ∧ (∀ j, tally t j = if j = k then tally v k + 1 else tally v j)
      ∧ t.cl = (csWrite v (inboxCluster d e) (inboxRow e bank (smGet 0 v.dsp.fill key)) (p.payload.take (64 * (1 + inboxLines e)))).cl
      ∧ t = { v with cl := t.cl, dsp := { v.dsp with fill := t.dsp.fill }, err := { v.err with progress := t.err.progress }, tallies := t.tallies,
                     stc := { v.stc with marginAt := t.stc.marginAt } } := by
  intro t
  have ht : t = _ := handleAdd_tallies 1 hk
  obtain ⟨c, f, pr, hv⟩ := tokenPlaced_only v d e bank key p
  refine ⟨?fill, fun j => ?tally, ?store, ?frame⟩
  case fill => rw [ht]; exact tokenPlaced_fill v d e bank key p
  case tally =>
    rw [tally_handleAdd, hk, show ∀ j, tally (tokenPlaced v d e bank key p) j = tally v j from fun _ => rfl]
    by_cases hj : j = k
    · rw [if_pos (by rw [hj]), if_pos hj, hj]
    · rw [if_neg (fun h => hj (Option.some.inj h).symm), if_neg hj]
  case store => rw [ht]; exact tokenPlaced_cl v d e bank key p
  case frame =>
    rw [hv] at ht
    rw [ht]

/-! ### Arriving RESULTs -/

section
variable {s u : State} {d : CDie} {port : Option XfPort} {p : XfPacket} {hd : BitVec 512} (hrun : running s = true) (hclk : bitAt s.brd.clockLost d.val = false)
  (hacc : acceptDisp s d port p = (u, true)) (hhd : hd = innerHead p)
include hrun hclk hacc hhd

theorem exec_resultArrive_stray (hno : (getRoutes u d).find? (fun r => decide (r.tag = some (bits hd 183 168))) = none) :
    exec (.resultArrive d port p) s = .next (dspCount u d .stray 1) := by
  subst hhd
  rw [exec_resultArrive, execResultArrive, onDie_running hrun hclk]
  simp only [hacc, hno]

variable {r : Route} (hr : (getRoutes u d).find? (fun r => decide (r.tag = some (bits hd 183 168))) = some r)
include hr

theorem exec_resultArrive_late (hst : bits hd 127 80 = r.stitch) (hclosed : r.closedAt.isSome = true) :
    exec (.resultArrive d port p) s = .next (dspCount u d .lateDiscard 1) := by
  subst hhd
  rw [exec_resultArrive, execResultArrive, onDie_running hrun hclk]
  simp only [hacc, hr]
  rw [if_pos ⟨hst, hclosed⟩]

variable {i : Nat} (hi : i = bits hd 191 184 * rdK r.desc + bits hd 195 192) (hopen : r.closedAt = none) (hfits : resultFits r hd = true)
include hi hopen hfits

theorem exec_resultArrive_fits : exec (.resultArrive d port p) s = .next (if bits hd 167 164 = 0 then
      resolvePair (csWrite u (clusterOf r.ctx.te) (rdStage r.desc + i * rdRl r.desc * 64) ((p.payload.drop 64).take (rdRl r.desc * 64))) d r i .result
    else resolvePair (dspCount u d .refused 1) d r i .zero) := by
  subst hhd hi
  rw [exec_resultArrive, execResultArrive, onDie_running hrun hclk]
  simp only [hacc, hr]
  rw [if_neg (fun h => by simp [hopen] at h)]
  simp only [hfits, Bool.not_true, Bool.false_eq_true, if_false, ne_eq, ite_not]
end

/-- Settles O33. -/
theorem dispatchArrivals : Obligations.DispatchArrivals := by
  refine ⟨?token, ?result⟩
  case token =>
    intro s d port p u hd now slot bank key hrun hclk hacc hhd hnow hslot hbank hkey
    subst hnow
    refine ⟨exec_tokenArrive_stray hrun hclk hacc hhd, fun v e hst he hup => ⟨fun k hk hh => ?_, fun k hk => ?_⟩⟩
    · exact ⟨_, exec_tokenArrive_placed hrun hclk hacc hhd hslot hbank hkey hst he hup hk hh, tokenPlaced_tallied hh⟩
    · exact exec_tokenArrive_refused hrun hclk hacc hhd hslot hbank hkey hst he hup hk
  case result =>
    intro s d port p u hd hrun hclk hacc hhd
    refine ⟨exec_resultArrive_stray hrun hclk hacc hhd, fun r i hr hi =>
      ⟨exec_resultArrive_late hrun hclk hacc hhd hr, fun hopen hfits hz => ?_, fun hopen hfits hz => ?_⟩⟩
    · rw [exec_resultArrive_fits hrun hclk hacc hhd hr hi hopen hfits, if_pos hz]
    · rw [exec_resultArrive_fits hrun hclk hacc hhd hr hi hopen hfits, if_neg hz]

end Sys2Proof.Machine
end

section
/-! PROOFS. The mirror ports: rows, entries, acknowledgements and the takeover set (R195, R395 to R399): O34. -/

namespace Sys2Proof.Machine

/-! ### Rows -/

theorem exec_mkvSend_rows {s u v : State} {q : MirReq} {e : BitVec 2048} {el n : Nat} {ws : List W64} {bs : List Byte} (hrun : running s = true)
    (hserved : mirrorServed s = true)
    (hq : s.mir.reqs.find? (fun q => !sesMirror (getSes s q.session) || (mirrorPort s (bits (getSes s q.session) 687 672)).isSome) = some q)
    (he : e = getSes s q.session) (hm : sesMirror e = true) (hel : sesElem e = some el)
    (hblocks : mirrorBlocks { s with mir := { s.mir with reqs := s.mir.reqs.erase q } } e q.pos q.tokens = (u, .inr ws))
    (hread : collect (fun s (p : Nat × List Byte) => portRead s p.1 p.2.length) (appendRuns e el q.layer q.head q.pos q.tokens ws (List.replicate (2 * q.tokens * 128 * el) 0)) u = (v, .inr bs))
    (hport : mirrorPort v (bits e 687 672) = some n) :
    exec .mkvSend s = .next (sendCommits (sendMirror v n 0 (mirrorHead q.session q.layer q.head q.pos q.tokens ++ bs)) q.session) := by
  subst he
  rw [exec_mkvSend, execMkvSend, clocked_running hrun]
  simp only [hserved, hq, hm, hel, Option.getD_some, hblocks, hread, hport, Bool.not_true, Bool.false_eq_true, if_false]

section
variable {s u : State} {n : Fin 2} {p : XfPacket} {session layer hd pos tokens : Nat} {e : BitVec 2048} (hrun : running s = true)
  (hacc : acceptMirror s n.val 0 p = (u, true)) (hses : session = leNat (p.payload.take 64) % 2 ^ 32) (he : e = getSes u session)
include hrun hacc hses he

theorem exec_mkvReceive_stale (h : 65536 ≤ session ∨ sesState e ≠ 3) : exec (.mkvReceive n p) s = .next (mirrorStale u session) := by
  subst hses he
  rw [exec_mkvReceive, execMkvReceive, clocked_running hrun]
  simp only [hacc]
  rw [if_pos h]

variable {v : State} {el : Nat} {ws : List W64} (hlayer : layer = leNat (p.payload.take 64) / 2 ^ 32 % 2 ^ 16)
  (hhd : hd = leNat (p.payload.take 64) / 2 ^ 48 % 2 ^ 16) (hpos : pos = leNat (p.payload.take 64) / 2 ^ 64 % 2 ^ 64)
  (htok : tokens = leNat (p.payload.take 64) / 2 ^ 128 % 2 ^ 16)
include hlayer hhd hpos htok

/-- What a port comes to that writes the pieces of mirrored rows, one after another (R396). -/
def piecesWritten (v : State) (session : Nat) (pieces : List (Nat × List Byte)) : State :=
  let r := pieces.foldl (fun (a : State × Bool) q => ((portWrite a.1 q.1 q.2).1, a.2 || (portWrite a.1 q.1 q.2).2.isSome)) (v, false)
  if r.2 then mirrorRefused r.1 session else r.1

/-- Rows that fit their STANDBY session's entry are written through it, line piece by line piece (R396 to R398). -/
theorem exec_mkvReceive_written (hlt : session < 65536) (hstandby : sesState e = 3) (hel : sesElem e = some el) (hlayers : layer < sesLayers e)
    (hheads : hd < sesHeads e) (hmin : 1 ≤ tokens) (hmax : tokens ≤ 64) (hlen : (p.payload.drop 64).length = 2 * tokens * 128 * el)
    (hblocks : mirrorBlocks u e pos tokens = (v, .inr ws)) (hcause : blockCause e el ws = none)
    (hok : ∀ q ∈ ((appendRuns e el layer hd pos tokens ws (p.payload.drop 64)).map fun r => writePieces r.1 r.2).flatten, lineOk v (q.1 / 64) = true)
    (hfree : ∀ q ∈ ((appendRuns e el layer hd pos tokens ws (p.payload.drop 64)).map fun r => writePieces r.1 r.2).flatten, lineHeld v 87 (q.1 / 64) = false) :
    exec (.mkvReceive n p) s = .next
      (piecesWritten v session ((appendRuns e el layer hd pos tokens ws (p.payload.drop 64)).map fun r => writePieces r.1 r.2).flatten) := by
  have hstate : ¬ (65536 ≤ session ∨ sesState e ≠ 3) := fun h => h.elim (by omega) fun h => h hstandby
  have hfit : ¬ (sesLayers e ≤ layer ∨ sesHeads e ≤ hd ∨ tokens = 0 ∨ 64 < tokens ∨ (p.payload.drop 64).length ≠ 2 * tokens * 128 * el) := by omega
  have hany : (((appendRuns e el layer hd pos tokens ws (p.payload.drop 64)).map fun r => writePieces r.1 r.2).flatten).any (fun q => !lineOk v (q.1 / 64)) = false := by
    rw [List.any_eq_false]
    exact fun q hq => by rw [hok q hq]; decide
  have hheld : (((appendRuns e el layer hd pos tokens ws (p.payload.drop 64)).map fun r => writePieces r.1 r.2).flatten).any (fun q => lineHeld v 87 (q.1 / 64)) = false := by
    rw [List.any_eq_false]
    exact fun q hq => by rw [hfree q hq]; decide
  subst hses he hlayer hhd hpos htok
  rw [exec_mkvReceive, execMkvReceive, clocked_running hrun]
  simp only [hacc]
  rw [if_neg hstate]
  simp only [hel]
  rw [if_neg hfit]
  simp only [hblocks, hcause, hany, hheld, Option.isSome_none, Bool.false_eq_true, if_false]
  rfl
end

/-! ### Entries -/

/-- A mirrored entry is applied as STANDBY (R396). -/
def entryApplied (u : State) (session : Nat) (e : BitVec 2048) : State :=
  let s := setSes (noteSession u session) session (setBits e 3 0 3)
  { s with mir := { s.mir with refuseNext := smSet false s.mir.refuseNext session false } }

theorem getSes_entryApplied (u : State) (session k : Nat) (e : BitVec 2048) :
    getSes (entryApplied u session e) k = if k = session then setBits e 3 0 3 else getSes u k :=
  getSes_setSes (noteSession u session) session k _

theorem refuseNext_entryApplied (u : State) (session : Nat) (e : BitVec 2048) : smGet false (entryApplied u session e).mir.refuseNext session = false := by
  simp only [entryApplied, smGet_set_self]

theorem getSes_sendMack (s : State) (n session seq k : Nat) (refused : Bool) : getSes (sendMack s n session seq refused) k = getSes s k := by
  rw [sendMack, getSes, ses_sendMirror, ← getSes]

section
variable {s u : State} {n : Fin 2} {p : XfPacket} {session : Nat} {e : BitVec 2048} (hrun : running s = true)
  (hacc : acceptMirror s n.val 2 p = (u, true)) (hses : session = leNat (p.payload.take 4))
include hrun hacc hses

theorem exec_mentReceive_applied (he : e = BitVec.ofNat 2048 (leNat ((p.payload.drop 64).take 256))) (hlt : session < 65536)
    (hst : sesState (getSes u session) = 0 ∨ sesState (getSes u session) = 3) :
    exec (.mentReceive n p) s = .next (sendMack (entryApplied u session e) n.val session (bits e 671 640) (smGet false u.mir.refuseNext session)) := by
  have hno : ¬ (65536 ≤ session ∨ sesState (getSes u session) = 1 ∨ sesState (getSes u session) = 2) := by omega
  subst hses he
  rw [exec_mentReceive, execMentReceive, clocked_running hrun]
  simp only [hacc]
  rw [if_neg hno]
  rfl

/-- An entry of a session that is LIVE or HELD here is answered, and changes none (R398). -/
theorem exec_mentReceive_refused (hst : sesState (getSes u session) = 1 ∨ sesState (getSes u session) = 2) :
    ∃ v seq, exec (.mentReceive n p) s = .next (sendMack v n.val session seq true) ∧ ∀ k, getSes v k = getSes u k := by
  subst hses
  rw [exec_mentReceive, execMentReceive, clocked_running hrun]
  simp only [hacc]
  rw [if_pos (Or.inr hst)]
  exact ⟨_, _, rfl, fun k => rfl⟩
end

/-! ### Acknowledgements -/

section
variable {s u : State} {n : Fin 2} {p : XfPacket} {session : Nat} {w : CommitWait}

theorem exec_mackReceive_commit (hrun : running s = true) (hacc : acceptMirror s n.val 3 p = (u, true)) (hses : session = leNat (p.payload.take 4))
    (hseq : leNat ((p.payload.drop 4).take 4) ≠ 0)
    (hw : u.mir.commits.find? (fun w => decide (w.session = session) && decide (w.seq.toNat = leNat ((p.payload.drop 4).take 4)) && w.sent) = some w) :
    exec (.mackReceive n p) s = .next (
      let v := noteSession { u with mir := { u.mir with commits := u.mir.commits.erase w } } session
      if leNat ((p.payload.drop 8).take 1) % 2 = 1 then refuseSession v w.ctx w.opNumber w.at_ w.stat session (w.expect.setWidth 64) 0x0B
      else performOp (tsWrite v w.ctx.te w.stat (bytesOf 8 0)) w.ctx w.opNumber) := by
  subst hses
  rw [exec_mackReceive, execMackReceive, clocked_running hrun]
  simp only [hacc]
  rw [if_neg hseq]
  simp only [hw, decide_eq_true_eq]
end

section
variable {s : State} {session : Session} (hrun : running s = true)
include hrun

theorem exec_mirrorAckTimeout_commit {w : CommitWait} {x : Ctx}
    (hw : s.mir.commits.find? (fun w => decide (w.session = session.val) && decide (1 ≤ w.boundaries) && !w.failed) = some w) (hx : getCtx s w.ctx = some x) :
    exec (.mirrorAckTimeout session) s = .next (performOp (tsWrite (place { s with mir := { s.mir with
        commits := if w.sent then s.mir.commits.filter (fun q => decide (q ≠ w)) else s.mir.commits.map (fun q => if q = w then { q with failed := true } else q) } }
        (ctxRec w.ctx x.launch { cls := 0x0B, action := if x.stop.isSome then 0 else 3, cause := 0x0B, addr := BitVec.ofNat 64 w.at_, d0 := BitVec.ofNat 64 session.val, d1 := w.expect.setWidth 64 }))
      w.ctx.te w.stat (bytesOf 8 0x0B)) w.ctx w.opNumber) := by
  have hx' : ∀ m, getCtx { s with mir := m } w.ctx = some x := fun _ => hx
  rw [exec_mirrorAckTimeout, execMirrorAckTimeout, clocked_running hrun]
  simp only [hw, refuseSession, hx']

/-- A first copy that its partner has not acknowledged has failed (R395). -/
def copyFailed (s : State) (session : Session) (i : FirstCopy) : State :=
  { s with mir := { s.mir with initial := s.mir.initial.filter fun q => decide (q ≠ i), failedInit := smSet false s.mir.failedInit session.val true } }

theorem exec_mirrorAckTimeout_copy {i : FirstCopy}
    (hno : s.mir.commits.find? (fun w => decide (w.session = session.val) && decide (1 ≤ w.boundaries) && !w.failed) = none)
    (hi : s.mir.initial.find? (fun i => decide (i.session = session.val) && decide (1 ≤ i.boundaries)) = some i) :
    exec (.mirrorAckTimeout session) s = .next (copyFailed s session i) := by
  rw [exec_mirrorAckTimeout, execMirrorAckTimeout, clocked_running hrun]
  simp only [hno, hi]
  rfl

/-! ### The takeover set -/

theorem exec_mirTakeover_running (v : W64) : exec (.mirTakeover v) s = .next (
    if s.mir.takeover.any (fun t => decide (t.1 = v.extractLsb' 0 16)) then s
    else if 8 ≤ s.mir.takeover.length then raise s Reg.mirStatus 3
    else { s with mir := { s.mir with takeover := s.mir.takeover ++ [(v.extractLsb' 0 16, s.now)] } }) := by
  rw [exec_mirTakeover, execMirTakeover, clocked_running hrun]
end

/-- Settles O34. -/
theorem mirrorPorts : Obligations.MirrorPorts := by
  refine ⟨?send, ?rows, ?entry, ?ack, ?timeout, ?copy, ?takeover⟩
  case send =>
    intro s q e el u v ws bs n hrun hserved hq he hm hel hblocks hread hport
    exact exec_mkvSend_rows hrun hserved hq he hm hel hblocks hread hport
  case rows =>
    intro s u v n p session layer hd pos tokens el e ws hrun hacc hses hlayer hhd hpos htok he
    refine ⟨exec_mkvReceive_stale hrun hacc hses he, fun hlt hstandby hel hlayers hheads hmin hmax hlen hblocks hcause => ?_⟩
    intro pieces hok hfree
    exact exec_mkvReceive_written hrun hacc hses he hlayer hhd hpos htok hlt hstandby hel hlayers hheads hmin hmax hlen hblocks hcause hok hfree
  case entry =>
    intro s u n p session e hrun hacc hses he hlt
    refine ⟨fun hst => ⟨_, exec_mentReceive_applied hrun hacc hses he hlt hst, ?_, fun hi lo hlo => ?_, fun k hk => ?_, ?_⟩, fun hst => ?_⟩
    · rw [getSes_sendMack, getSes_entryApplied, if_pos rfl, sesState, bits_setBits_same _ _ (by omega) (by omega), Nat.mod_eq_of_lt (by omega)]
    · rw [getSes_sendMack, getSes_entryApplied, if_pos rfl, bits_setBits_ne _ _ (Or.inr hlo)]
    · rw [getSes_sendMack, getSes_entryApplied, if_neg hk]
    · rw [sendMack, mir_sendMirror, refuseNext_entryApplied]
    · obtain ⟨v, seq, hex, hv⟩ := exec_mentReceive_refused hrun hacc hses hst
      exact ⟨_, hex, fun k => by rw [getSes_sendMack, hv]⟩
  case ack =>
    intro s u n p session w hrun hacc hses hseq hw
    exact exec_mackReceive_commit hrun hacc hses hseq hw
  case timeout =>
    intro s session w x hrun hw hx
    exact exec_mirrorAckTimeout_commit hrun hw hx
  case copy =>
    intro s session i hrun hno hi
    refine ⟨_, exec_mirrorAckTimeout_copy hrun hno hi, by simp [copyFailed], fun q hq hne => ?_, fun k => ?_, rfl⟩
    · exact List.mem_filter.2 ⟨hq, decide_eq_true hne⟩
    · simp only [copyFailed, smGet_set]
  case takeover =>
    intro s v hrun
    refine ⟨_, exec_mirTakeover_running hrun v, fun ⟨j, hj, hv⟩ => ?_, fun hno => ?_⟩
    · rw [if_pos (List.any_eq_true.2 ⟨j, hj, decide_eq_true hv⟩)]
    · rw [if_neg (fun h => let ⟨j, hj, hv⟩ := List.any_eq_true.1 h; hno j hj (of_decide_eq_true hv))]
      exact ⟨fun hlt => if_neg (Nat.not_le.2 hlt), fun hle => if_pos hle⟩

end Sys2Proof.Machine
end

section
/-! PROOFS. Packets, credits and aborts of the expert fabric (R207, R208, R382 to R393): O35. -/

namespace Sys2Proof.Machine

/-! ### A packet leaves -/

/-- What the queue of a port keeps before it sends was there, is not late and does not go to an unreachable node (R207, R208). -/
theorem mem_pruneQueue {s : State} {l : Nat} {p : Queued} (h : p ∈ (getLink (pruneQueue s l) l).sendQ) :
    p ∈ (getLink s l).sendQ ∧ tokenLate s p = false ∧ resultStray s p = false := by
  rw [pruneQueue_sendQ] at h
  obtain ⟨hp, hk⟩ := List.mem_filter.1 h
  simp only [Bool.and_eq_true, Bool.not_eq_true'] at hk
  exact ⟨hp, hk.2, hk.1⟩

/-- A packet may go: its node can be reached and its credit covers the charge, the port is up and has credits of the class (R386). -/
theorem maySend_spec {s : State} {l : Nat} {q : Queued} (h : maySend s l q = true) : charge q.packet.payload.length ≤ creditOf s q.node
    ∧ unreachable s q.node = false ∧ linkUp s l = true ∧ packetUnits q.packet.payload.length (hdrClass q.packet.hdr) ≤ creditOfLink s l (hdrClass q.packet.hdr) := by
  simp only [maySend, packetMay, linkMay, Bool.and_eq_true, Bool.not_eq_true', decide_eq_true_eq] at h
  obtain ⟨⟨⟨-, hreach⟩, hcharge⟩, ⟨hup, hunits⟩, -⟩ := h
  exact ⟨hcharge, hreach, hup, hunits⟩

/-- A packet has left the queue of its port, and its charge is taken (R386). -/
def charged (u : State) (l : Nat) (q : Queued) : State :=
  let s := setLink u l { getLink u l with sendQ := (getLink u l).sendQ.erase q }
  { s with fab := { s.fab with used := smMod 0 s.fab.used q.node (· + charge q.packet.payload.length) } }

theorem sendQ_charged (u : State) (l m : Nat) (q : Queued) :
    (getLink (charged u l q) m).sendQ = if m = l then (getLink u m).sendQ.erase q else (getLink u m).sendQ := by
  rw [show getLink (charged u l q) m = getLink (setLink u l { getLink u l with sendQ := (getLink u l).sendQ.erase q }) m from rfl, getLink_setLink]
  by_cases h : m = l
  · simp only [h, if_true]
  · simp only [h, if_false]

theorem used_charged (u : State) (l m : Nat) (q : Queued) :
    smGet 0 (charged u l q).fab.used m = smGet 0 u.fab.used m + if m = q.node then charge q.packet.payload.length else 0 := by
  simp only [charged, setLink, smGet_smMod]
  by_cases h : m = q.node
  · simp only [h, if_true]
  · simp only [h, if_false, Nat.add_zero]

theorem charged_only (u : State) (l : Nat) (q : Queued) : ∃ ls us, charged u l q = { u with fab := { u.fab with links := ls, used := us } } := ⟨_, _, rfl⟩

theorem sendQ_stampSend (s : State) (l m k : Nat) (q : Queued) : (getLink (stampSend s l q k) m).sendQ = (getLink s m).sendQ := by
  obtain ⟨a, r, b, c, h⟩ := getLink_stampSend s l m q k
  rw [h]

/-- What leaves after a charge is stamped as before it. -/
theorem stamped_charged (u : State) (l k : Nat) (q : Queued) : stamped (charged u l q) l q k = stamped u l q k := rfl

/-- A packet that is charged and stamped changes links, credits, keys, what is owed and what leaves. -/
theorem stampSend_charged_only (u : State) (l k : Nat) (q : Queued) :
    let t := stampSend (charged u l q) l q k
    t = { u with fab := { u.fab with links := t.fab.links, used := t.fab.used, slots := t.fab.slots, owed := t.fab.owed, owedSince := t.fab.owedSince, out := t.fab.out, wire := t.fab.wire } } := by
  intro t
  obtain ⟨a, b, c, w, h⟩ := stampSend_frame (charged u l q) l q k
  obtain ⟨ls, us, hc⟩ := charged_only u l q
  have ht : t = _ := h
  rw [ht, hc]

theorem releaseOwners_ownerless {s : State} {q : Queued} (h : q.owner = none) : releaseOwners s [q] = s := by
  simp only [releaseOwners, List.foldl_cons, List.foldl_nil, releaseOwner, h]

section
variable {s u : State} {l : LinkId} (hrun : running s = true) (hlo : 7 ≤ l.num) (hhi : l.num ≤ 22) (hu : u = pruneQueue s l.num)
include hrun hlo hhi hu

theorem exec_xfPacketSend_packet {q : Queued} {k : Nat} (hno : u.fab.kexOut.find? (kexMay u l.num) = none)
    (hq : nextPacket u l.num (getLink u l.num).sendQ = some q) (hk : slotOfJob u q.job = some k) (howner : q.owner = none) :
    exec (.xfPacketSend l) s = .next (stampSend (charged u l.num q) l.num q k) := by
  subst hu
  rw [exec_xfPacketSend, execXfPacketSend, clocked_running hrun]
  rw [if_neg (by omega)]
  simp only [hno, hq, hk, releaseOwners_ownerless howner]
  rfl

theorem exec_xfPacketSend_kex {m : KexOut} (hm : u.fab.kexOut.find? (kexMay u l.num) = some m) :
    exec (.xfPacketSend l) s = .next (sendFromH0 { u with fab := { u.fab with kexOut := u.fab.kexOut.erase m } } l.num (kexPacket u m)) := by
  subst hu
  rw [exec_xfPacketSend, execXfPacketSend, clocked_running hrun]
  rw [if_neg (by omega)]
  simp only [hm]
end

/-! ### Credits -/

/-- What crosses Seam changes links and the wire alone. -/
theorem crossFlits_frame (s : State) (cls a b : Nat) (bytes : List Byte) : ∃ ls w, crossFlits s cls a b bytes = { s with fab := { s.fab with links := ls, wire := w } } := by
  unfold crossFlits
  induction seamRoute a b generalizing s with
  | nil => exact ⟨_, _, rfl⟩
  | cons l ls ih =>
    obtain ⟨ls', w', h⟩ := sendFlits_frame s l 0 (areas 1000 (seamBody cls a b bytes))
    obtain ⟨ls'', w'', h'⟩ := ih { s with fab := { s.fab with links := ls', wire := w' } }
    exact ⟨ls'', w'', by rw [List.foldl_cons, h, h']⟩

section
variable {s : State} {node : BitVec 11} {e : Nat × KeySlot}

/-- The CRED packet that returns what is owed to a node, before it is stamped (R386). -/
def credPacket (s : State) (node k : Nat) : XfPacket := ⟨mkHdr node (myNode s) 1 false k 0 0 0, [], true⟩

/-- CRED returns what is owed from the XF_ block on H0 across Seam (R386). -/
def credSent (s : State) (node : Nat) (e : Nat × KeySlot) : State :=
  stampSend (crossFlits s 6 4 (linkDie (routePort s node)) (bytesOf 32 (credPacket s node e.1).hdr.toNat)) (routePort s node)
    ⟨credPacket s node e.1, node, e.2.job, none⟩ e.1

theorem exec_credSend_due (hrun : running s = true) (howed : smGet 0 s.fab.owed node.toNat ≠ 0) (hreach : unreachable s node.toNat = false)
    (hother : node.toNat ≠ myNode s) (he : s.fab.slots.find? (fun e => decide (e.1 < 255) && e.2.valid && bitAt (smGet 0 s.fab.peers e.1) node.toNat) = some e)
    (hroute : routeUp s 4 (linkDie (routePort s node.toNat)) = true) (hmay : packetMay s (routePort s node.toNat) (credPacket s node.toNat e.1) = true) :
    exec (.credSend node) s = .next (credSent s node.toNat e) := by
  rw [credPacket] at hmay
  rw [exec_credSend, execCredSend, clocked_running hrun]
  simp only [he]
  rw [if_neg (by simp [howed, hreach, hother, hroute, hmay])]
  rfl

theorem credSent_owed (s : State) (node m : Nat) (e : Nat × KeySlot) :
    smGet 0 (credSent s node e).fab.owed m = smGet 0 s.fab.owed m - if m = node then min (smGet 0 s.fab.owed m) 0xFFFF else 0 := by
  obtain ⟨ls, w, h⟩ := crossFlits_frame s 6 4 (linkDie (routePort s node)) (bytesOf 32 (credPacket s node e.1).hdr.toNat)
  rw [credSent, h, stampSend_owed]

theorem credSent_out (s : State) (node : Nat) (e : Nat × KeySlot) : (credSent s node e).fab.out
    = s.fab.out ++ [stamped s (routePort s node) ⟨credPacket s node e.1, node, e.2.job, none⟩ e.1] := by
  obtain ⟨ls, w, h⟩ := crossFlits_frame s 6 4 (linkDie (routePort s node)) (bytesOf 32 (credPacket s node e.1).hdr.toNat)
  rw [credSent, h, stampSend_out]
  rfl

theorem credSent_only (s : State) (node : Nat) (e : Nat × KeySlot) :
    let t := credSent s node e
    t = { s with fab := { s.fab with links := t.fab.links, slots := t.fab.slots, owed := t.fab.owed, owedSince := t.fab.owedSince, out := t.fab.out, wire := t.fab.wire } } := by
  intro t
  obtain ⟨ls, w, h⟩ := crossFlits_frame s 6 4 (linkDie (routePort s node)) (bytesOf 32 (credPacket s node e.1).hdr.toNat)
  have ht : t = _ := congrArg (stampSend · (routePort s node) ⟨credPacket s node e.1, node, e.2.job, none⟩ e.1) h
  obtain ⟨a, b, c, w', h'⟩ := stampSend_frame { s with fab := { s.fab with links := ls, wire := w } } (routePort s node) ⟨credPacket s node e.1, node, e.2.job, none⟩ e.1
  rw [ht, h']
end

section
variable {s : State} {l : LinkId} {p : XfPacket}

theorem linkUp_heardPacket (s : State) (l cls n m : Nat) : linkUp (heardPacket s l cls n) m = linkUp s m := by
  simp only [linkUp, heardPacket, heardFlits, getLink_setLink]
  by_cases h : m = l
  · simp only [h, if_true]
  · simp only [h, if_false]

/-- An accepted CRED: its packet is counted as heard, its sequence number is kept and what it returns is restored (R386, R389). -/
def credTaken (s : State) (l : Nat) (p : XfPacket) : State :=
  let u := heardPacket s l 1 p.payload.length
  let k := getKey u (hdrSlot p.hdr)
  restore (setKey u (hdrSlot p.hdr) { k with seqIn := smSet 0 k.seqIn (65536 * (if hdrEpoch p.hdr then 1 else 0) + hdrSrc p.hdr) (hdrSeq p.hdr) }) (hdrSrc p.hdr) (hdrRet p.hdr)

theorem exec_credReceive_accepted (hrun : running s = true) (hlo : 7 ≤ l.num) (hhi : l.num < 23) (hup : linkUp s l.num = true) (hcls : hdrClass p.hdr = 1)
    (hdst : hdrDst p.hdr = myNode s) (hgood : packetCause (heardPacket s l.num 1 p.payload.length) p none = none) :
    exec (.credReceive l p) s = .next (credTaken s l.num p) := by
  have hport : 7 + (Fin.ofNat 16 (l.num - 7)).val = l.num := by
    simp only [Fin.val_ofNat]
    omega
  have hup' : linkUp (heardPacket s l.num 1 p.payload.length) l.num = true := by
    rw [linkUp_heardPacket, hup]
  have hnode : myNode (heardPacket s l.num 1 p.payload.length) = myNode s := rfl
  rw [exec_credReceive, execCredReceive, clocked_running hrun]
  simp only [hcls, hup, hup', hlo, hhi, acceptXf, hport, hdst, hnode, hgood, ne_eq, not_true_eq_false, Bool.not_true, Bool.false_eq_true, or_self, and_self,
    if_true, if_false]
  rfl

theorem credTaken_used (s : State) (l m : Nat) (p : XfPacket) :
    smGet 0 (credTaken s l p).fab.used m = smGet 0 s.fab.used m - if m = hdrSrc p.hdr then hdrRet p.hdr else 0 := by
  rw [show (credTaken s l p).fab.used = smMod 0 s.fab.used (hdrSrc p.hdr) (· - hdrRet p.hdr) from rfl, smGet_smMod]
  by_cases h : m = hdrSrc p.hdr
  · simp only [h, if_true]
  · simp only [h, if_false, Nat.sub_zero]

theorem credTaken_links (s : State) (l m : Nat) (p : XfPacket) (h : m ≠ l) : getLink (credTaken s l p) m = getLink s m := by
  obtain ⟨ls, -, hne⟩ := heardPacket_frame s l 1 p.payload.length
  exact hne m h

theorem credTaken_only (s : State) (l : Nat) (p : XfPacket) :
    ∃ ls us sl, credTaken s l p = { s with fab := { s.fab with links := ls, used := us, slots := sl } } := by
  obtain ⟨ls, h, -⟩ := heardPacket_frame s l 1 p.payload.length
  unfold credTaken
  rw [h]
  exact ⟨_, _, _, rfl⟩
end

theorem creditOf_e2eReset (s : State) (n m : Nat) : creditOf (e2eReset s n) m = if m = n then fieldR s Reg.xfE2e 12 0 else creditOf s m := by
  have h : creditOf (e2eReset s n) m = fieldR s Reg.xfE2e 12 0 - smGet 0 (smErase s.fab.used n) m := rfl
  rw [h]
  by_cases hm : m = n
  · rw [if_pos hm, hm, smGet_erase_self, Nat.sub_zero]
  · rw [if_neg hm, smGet_erase_ne hm, creditOf]

/-! ### Aborts -/

section
variable {s u : State} {port : XfPort} {p : XfPacket} {w origin id : Nat} (hrun : running s = true) (hcls : hdrClass p.hdr = 2)
  (hacc : acceptXf s port p none true = (u, true)) (hw : w = leNat p.payload) (horigin : origin = w / 2 ^ 16 % 2 ^ 16) (hid : id = w / 2 ^ 32 % 2 ^ 32)
include hrun hcls hacc hw horigin hid

theorem exec_abortReceive_seen (hseen : (origin, id) ∈ u.fab.seen) :
    exec (.abortReceive port p) s = .next (countR (raise u Reg.xfStatus 2) Reg.xfEvt 47 32 1) := by
  subst horigin hid hw
  rw [exec_abortReceive, execAbortReceive, clocked_running hrun]
  simp only [hcls, hacc, ne_eq, not_true_eq_false, if_false]
  exact congrArg _ (if_pos (List.elem_eq_true_of_mem hseen))

theorem exec_abortReceive_new {v : State} {n : Nat} (hnew : (origin, id) ∉ u.fab.seen) (hslot : slotOfJob u (BitVec.ofNat 16 w) = none)
    (hact : abortActions { raise u Reg.xfStatus 2 with fab := { u.fab with seen := u.fab.seen ++ [(origin, id)] } } (BitVec.ofNat 16 w)
      ⟨0x11, w / 2 ^ 112 % 256, 0, 0, 0⟩ = (v, n)) :
    exec (.abortReceive port p) s = .next (abortRecord v (BitVec.ofNat 16 w) origin id (w / 2 ^ 112 % 256) n) := by
  have hfab : (raise u Reg.xfStatus 2).fab = u.fab := rfl
  have hslot' : ∀ seen, slotOfJob { raise u Reg.xfStatus 2 with fab := { u.fab with seen := seen } } (BitVec.ofNat 16 w) = none := fun _ => hslot
  have hnot : ¬ ((raise u Reg.xfStatus 2).fab.seen.contains (origin, id) = true) := fun h => hnew (List.contains_iff_mem.1 h)
  subst horigin hid hw
  rw [exec_abortReceive, execAbortReceive, clocked_running hrun]
  simp only [hcls, hacc, ne_eq, not_true_eq_false, if_false]
  rw [if_neg hnot]
  simp only [hfab, hslot', hact]
end

/-- Settles O35. -/
theorem packetsAndCredits : Obligations.PacketsAndCredits := by
  refine ⟨?packet, ?message, ?credit, ?restored, ?reset, ?abort, ?aborted⟩
  case packet =>
    intro s u l q k hrun hlo hhi hu hno hq hk howner
    refine ⟨fun p hp => mem_pruneQueue (hu ▸ hp), _, exec_xfPacketSend_packet hrun hlo hhi hu hno hq hk howner, ?_⟩
    obtain ⟨hcharge, hreach, hup, hunits⟩ := maySend_spec (nextPacket_may hq)
    refine ⟨hcharge, hreach, fun m => ?_, fun m => ?_, hup, hunits, fun m => ?_, ?_, stampSend_charged_only u l.num k q⟩
    · rw [sendQ_stampSend, sendQ_charged]
    · rw [stampSend_used, used_charged]
    · exact stampSend_owed (charged u l.num q) l.num q k m
    · rw [stampSend_out, stamped_charged]
      rfl
  case message =>
    intro s u l m hrun hlo hhi hu hm
    exact exec_xfPacketSend_kex hrun hlo hhi hu hm
  case credit =>
    intro s node e hrun howed hreach hother he hroute hmay
    refine ⟨_, exec_credSend_due hrun howed hreach hother he hroute hmay, fun m => credSent_owed s node.toNat m e, ?_, credSent_only s node.toNat e⟩
    rw [credSent_out]
    simp only [stamped, credPacket, List.length_nil, Nat.zero_div]
  case restored =>
    intro s l p hrun hlo hhi hup hcls hdst hgood
    refine ⟨_, exec_credReceive_accepted hrun hlo hhi hup hcls hdst hgood, fun m => credTaken_used s l.num m p, fun m hm => credTaken_links s l.num m p hm, ?_⟩
    obtain ⟨ls, us, sl, h⟩ := credTaken_only s l.num p
    rw [h]
  case reset =>
    intro s v hrun
    exact ⟨_, by rw [exec_xfE2eReset, execXfE2eReset, clocked_running hrun], fun m => creditOf_e2eReset s (bits v 15 0) m, rfl⟩
  case abort =>
    intro s v hrun
    rw [exec_xfAbort, execXfAbort, clocked_running hrun]
  case aborted =>
    intro s u port p w origin id hrun hcls hacc hw horigin hid
    exact ⟨exec_abortReceive_seen hrun hcls hacc hw horigin hid, fun v n hnew hslot hact => exec_abortReceive_new hrun hcls hacc hw horigin hid hnew hslot hact⟩

end Sys2Proof.Machine
end

section
/-! PROOFS. What happens to a link: flits, replays, training, versions, SYNC and timeouts (R343, R344, R372, R375, R378 to R381, R388, R391, R445): O36. -/

namespace Sys2Proof.Machine

theorem getLink_setLink_same (s : State) (l : Nat) (v : Link) : getLink (setLink s l v) l = v := by
  rw [getLink_setLink, if_pos rfl]
theorem getLink_setLink_other (s : State) {l m : Nat} (v : Link) (h : m ≠ l) : getLink (setLink s l v) m = getLink s m := by
  rw [getLink_setLink, if_neg h]

/-! ### Flits that arrive -/

/-- An acknowledgement changes its own link; on Orfin BulkWrites are known to be safe (R344). -/
theorem getLink_acked (s : State) (l m : Nat) (ack : BitVec 12) : getLink (acked s l ack) m = if m = l then takeAck (getLink s l) ack else getLink s m := by
  rw [← getLink_setLink]
  unfold acked
  dsimp only
  split <;> rfl
theorem acked_frame (s : State) (l : Nat) (ack : BitVec 12) :
    ∃ b ls, acked s l ack = { s with orf := { s.orf with bulkSeqs := b }, fab := { s.fab with links := ls } } := by
  unfold acked
  dsimp only
  split
  · exact ⟨_, _, rfl⟩
  · exact ⟨s.orf.bulkSeqs, _, rfl⟩

/-- A link with a good flit taken: its acknowledgement and its credit returns (R343, R344, R381). -/
def flitTaken (s : State) (l : Nat) (f : Flit) : State :=
  let u := acked s l f.ack
  setLink u l (takeCredits { getLink u l with lastGood := s.now, nak := false, got := f.seq } f.credits)

theorem getLink_flitTaken (s : State) (l : Nat) (f : Flit) :
    getLink (flitTaken s l f) l = takeCredits { takeAck (getLink s l) f.ack with lastGood := s.now, nak := false, got := f.seq } f.credits := by
  simp only [flitTaken, getLink_setLink_same, getLink_acked, if_true]
theorem getLink_flitTaken_other (s : State) {l m : Nat} (f : Flit) (h : m ≠ l) : getLink (flitTaken s l f) m = getLink s m := by
  simp only [flitTaken, getLink_setLink_other _ _ h, getLink_acked, h, if_false]
theorem flitTaken_frame (s : State) (l : Nat) (f : Flit) :
    ∃ b ls, flitTaken s l f = { s with orf := { s.orf with bulkSeqs := b }, fab := { s.fab with links := ls } } := by
  obtain ⟨b, ls, h⟩ := acked_frame s l f.ack
  unfold flitTaken
  dsimp only
  rw [h]
  exact ⟨_, _, rfl⟩

section
variable {s : State} {l : Nat} {flit : List Byte} (hup : (getLink s l).phase = .up)
include hup

theorem flitIn_bad (hbad : readFlit l flit = none) : flitIn s l flit = setLink s l { getLink s l with nak := true } := by
  unfold flitIn
  simp only [hup, hbad, ne_eq, not_true_eq_false, if_false]
  unfold badFlit
  simp only [hup, if_true]
theorem flitIn_behind {f : Flit} (hf : readFlit l flit = some f) (hseq : f.seq ≠ (getLink s l).got + 1) :
    flitIn s l flit = setLink s l { getLink s l with lastGood := s.now } := by
  unfold flitIn
  simp only [hup, hf, hseq, ne_eq, not_true_eq_false, if_false]
theorem flitIn_next {f : Flit} (hf : readFlit l flit = some f) (hseq : f.seq = (getLink s l).got + 1) :
    flitIn s l flit = linkPump (if f.nak then replayFrom (flitTaken s l f) l else flitTaken s l f) l := by
  unfold flitIn
  simp only [hup, hf, hseq, ne_eq, not_true_eq_false, if_false, if_true]
  have hnow : (acked s l f.ack).now = s.now := by
    obtain ⟨b, ls, h⟩ := acked_frame s l f.ack
    rw [h]
  simp only [takeFlit, flitTaken, hseq, hnow]
end

theorem exec_flit {s : State} {l : LinkId} {c : Instr} {flit : List Byte} (hrun : running s = true)
    (hc : (∃ j : Fin 7, j.val = l.num ∧ c = .seamFlitError ⟨j, flit⟩) ∨ (7 ≤ l.num ∧ c = .serdesFlitError ⟨l, flit⟩)) :
    exec c s = .next (flitIn s l.num flit) := by
  rcases hc with ⟨j, hj, rfl⟩ | ⟨hl, rfl⟩
  · rw [exec_seamFlitError, execSeamFlitError, clocked_running hrun]
    exact congrArg (fun n => Host.Outcome.next (flitIn s n flit)) hj
  · rw [exec_serdesFlitError, execSerdesFlitError, clocked_running hrun]
    exact congrArg _ (if_neg (Nat.not_lt.2 hl))

/-- Packets of XF and Seam's messages wait for commands of their own. -/
theorem linkPump_waits {l : Nat} (h : l < 23) (w : State) : linkPump w l = w := by
  unfold linkPump
  rw [if_neg (by omega), if_neg (by omega)]

/-! ### Replay and retraining -/

/-- A link trains again: its own state starts anew, a Seam link's events are counted (R344, R375). -/
theorem retrain_sent_spec (s : State) (l : Nat) : (∃ a r b, getLink (retrain (sendRetrain s l) l) l = { retraining (getLink s l) .retraining with sent := a, replay := r, back := b })
    ∧ (∀ m, m ≠ l → getLink (retrain (sendRetrain s l) l) m = getLink s m)
    ∧ ∃ rf ls w, retrain (sendRetrain s l) l = { s with rf := rf, fab := { s.fab with links := ls, wire := w } } := by
  obtain ⟨rf, ls, hframe, hlinks⟩ := retrain_frame (sendRetrain s l) l
  refine ⟨?_, fun m hm => ?_, ?_⟩
  · obtain ⟨a, r, b, h⟩ := getLink_sendControl s l 3 l []
    refine ⟨a, r, b, ?_⟩
    rw [hlinks, if_pos rfl, sendRetrain, h, if_pos rfl]
    rfl
  · obtain ⟨a, r, b, h⟩ := getLink_sendControl s l 3 m []
    rw [hlinks, if_neg hm, sendRetrain, h, if_neg hm]
  · obtain ⟨ls', w, h⟩ := sendControl_frame s l 3 []
    exact ⟨rf, ls, w, by rw [hframe, sendRetrain, h]⟩

theorem seamCounted_rf (s : State) (l n : Nat) : ∃ rf, (if l < 7 then seamCount s l 31 0 n else s) = { s with rf := rf } := by
  split
  · exact seamCount_rf _ _ _ _ _
  · exact ⟨s.rf, rfl⟩

/-- What a replay does (R344, R375): what is kept goes out again, or the link trains. -/
theorem replayFrom_spec (s : State) (l : Nat) :
    ((getLink s l).replays < 15 → getLink (replayFrom s l) l = { getLink s l with nak := (getLink s l).nak && decide (7 ≤ l), replays := (getLink s l).replays + 1 }
      ∧ (replayFrom s l).fab.wire = s.fab.wire ++ (getLink s l).replay.map fun f => (l, f))
    ∧ (15 ≤ (getLink s l).replays → ∃ a r b, getLink (replayFrom s l) l = { retraining (getLink s l) .retraining with sent := a, replay := r, back := b })
    ∧ (∀ m, m ≠ l → getLink (replayFrom s l) m = getLink s m)
    ∧ ∃ rf ls w, replayFrom s l = { s with rf := rf, fab := { s.fab with links := ls, wire := w } } := by
  obtain ⟨rf, hrf⟩ := seamCounted_rf s l (max 1 (getLink s l).replay.length)
  unfold replayFrom
  dsimp only
  rw [hrf]
  obtain ⟨hown, hother, rf', ls, w, hframe⟩ := retrain_sent_spec { s with rf := rf } l
  by_cases h : 16 ≤ (getLink s l).replays + 1
  · rw [if_pos h]
    exact ⟨fun hlt => absurd h (by omega), fun _ => hown, hother, rf', ls, w, hframe⟩
  · rw [if_neg h]
    refine ⟨fun _ => ⟨getLink_setLink_same _ l _, rfl⟩, fun hle => absurd hle (by omega), fun m hm => getLink_setLink_other { s with rf := rf } _ hm, _, _, _, rfl⟩

theorem exec_nakReplay_up {s : State} {l : LinkId} {ack : BitVec 12} (hrun : running s = true) (hup : (getLink s l.num).phase = .up)
    (hnak : l.num < 7 → (getLink s l.num).nak = true) : exec (.nakReplay ⟨l, ack⟩) s = .next (replayFrom (acked s l.num ack) l.num) := by
  rw [exec_nakReplay, execNakReplay, clocked_running hrun]
  exact congrArg _ (if_neg fun h => h.elim (fun h => h hup) fun h => by simp [hnak h.1] at h)

/-! ### Training -/

/-- One link has taken a value. -/
theorem sendsAs_setLink (s : State) (l : Nat) (k : Link) : SendsAs s (setLink s l k) l k :=
  ⟨⟨_, _, _, getLink_setLink_same ..⟩, fun _ hm => getLink_setLink_other _ _ hm, rfl⟩

/-- A link that has taken a value sends a control flit. -/
theorem sendsAs_sendControl (s : State) (l c : Nat) (k : Link) (x : List Byte) : SendsAs s (sendControl (setLink s l k) l c x) l k := by
  refine ⟨?_, fun m hm => ?_, rfl⟩
  · obtain ⟨a, r, b, h⟩ := getLink_sendControl (setLink s l k) l c l x
    exact ⟨a, r, b, by rw [h, if_pos rfl, getLink_setLink_same]⟩
  · obtain ⟨a, r, b, h⟩ := getLink_sendControl (setLink s l k) l c m x
    rw [h, if_neg hm, getLink_setLink_other _ _ hm]

/-- A link that trains again. -/
theorem sendsAs_retrain (s : State) (l : Nat) : SendsAs s (retrain s l) l (retraining (getLink s l) .retraining) := by
  obtain ⟨rf, ls, hframe, hlinks⟩ := retrain_frame s l
  exact ⟨⟨_, _, _, by rw [hlinks, if_pos rfl]⟩, fun m hm => by rw [hlinks, if_neg hm], by rw [hframe]⟩
theorem sendsAs_retrain_sent (s : State) (l : Nat) : SendsAs s (retrain (sendRetrain s l) l) l (retraining (getLink s l) .retraining) := by
  obtain ⟨hown, hother, rf, ls, w, hframe⟩ := retrain_sent_spec s l
  exact ⟨hown, hother, by rw [hframe]⟩
theorem sendsAs_beginTraining (s : State) (l : Nat) : SendsAs s (beginTraining (seamCount s l 47 32 1) l .training) l (retraining (getLink s l) .training) := by
  obtain ⟨rf, h⟩ := seamCount_rf s l 47 32 1
  rw [h]
  exact ⟨⟨_, _, _, getLink_setLink_same ..⟩, fun _ hm => getLink_setLink_other { s with rf := rf } _ hm, rfl⟩

section
variable {s : State} {l : LinkId} {k : Link} (hrun : running s = true) (hk : k = getLink s l.num)
include hrun hk

/-- A link after a training that ended well (R375, R378). -/
def trained (k : Link) (spares : Byte) : Link :=
  { k with phase := if k.phase = .down then .training else k.phase
           failedRetrains := 0, sparesUsed := spares.toNat, spareInUse := decide (0 < spares.toNat), versionSent := true }

section
variable {spares : Byte} (hup : k.phase ≠ .up) (hsent : k.versionSent = false) (hseam : l.num < 7 → k.phase ≠ .down)
include hup hsent hseam

theorem exec_linkTrainDone_good (hspares : spares.toNat ≤ spareLimit l.num) :
    exec (.linkTrainDone l true spares) s = .next (sendVersion (setLink s l.num (trained k spares)) l.num) := by
  subst hk
  rw [exec_linkTrainDone, execLinkTrainDone, clocked_running hrun]
  simp only [Bool.true_and, decide_eq_true_eq]
  rw [if_neg (by simp only [hup, hsent, Bool.false_eq_true, false_or]; exact fun h => hseam h.1 h.2), if_pos hspares]
  rfl

theorem exec_linkTrainDone_bad : exec (.linkTrainDone l false spares) s = .next (
    if l.num < 7 then
      (if 3 ≤ k.failedRetrains + 1 then linkDown s l.num else seamCount (setLink s l.num { k with failedRetrains := k.failedRetrains + 1 }) l.num 47 32 1)
    else if k.phase = .retraining then (if l.num = 23 then loseBulk (linkDown s l.num) else linkDown s l.num)
    else setLink s l.num { k with phase := .down }) := by
  subst hk
  rw [exec_linkTrainDone, execLinkTrainDone, clocked_running hrun]
  simp only [Bool.false_and, Bool.false_or, decide_eq_true_eq, Bool.false_eq_true, if_false]
  rw [if_neg (by simp only [hup, hsent, Bool.false_eq_true, false_or]; exact fun h => hseam h.1 h.2)]
end

theorem exec_seamCtrlRetrain_link {j : Fin 7} (hj : j.val = l.num) :
    ∃ t, exec (.seamCtrlRetrain j) s = .next t ∧ SendsAs s t l.num (retraining k (if k.phase = .up then .retraining else .training)) := by
  subst hk
  rw [exec_seamCtrlRetrain, execSeamCtrlRetrain, clocked_running hrun, hj, seamRetrain]
  by_cases hup : (getLink s l.num).phase = .up
  · rw [if_pos hup, if_pos hup]
    exact ⟨_, rfl, sendsAs_retrain_sent s l.num⟩
  · rw [if_neg hup, if_neg hup]
    exact ⟨_, rfl, sendsAs_beginTraining s l.num⟩

theorem exec_retrainReceive_up (hup : k.phase = .up) : exec (.retrainReceive l) s = .next (retrain s l.num) := by
  subst hk
  rw [exec_retrainReceive, execRetrainReceive, clocked_running hrun]
  exact congrArg _ (if_pos hup)

/-! ### Versions -/

/-- A link whose peer's VERSION fits (R380). -/
def versioned (k : Link) (v : W64) (ready : Bool) : Link :=
  { k with versionOk := true, readySent := ready, minor := 0, peer := v.extractLsb' 24 16 }

section
variable {v : W64} (hsent : k.versionSent = true) (hup : k.phase ≠ .up) (hdown : k.phase ≠ .down)
include hsent hup hdown

theorem exec_versionReceive_fits (htype : bits v 19 16 = linkType l.num) (hmajor : bits v 7 0 = 1) (hgot : k.readyGot = false) :
    exec (.versionReceive l v) s = .next (if (decide (l.num ≠ 23) || flagR s Reg.orfStatus 0) = true then
        sendReady (setLink s l.num (versioned k v (decide (l.num ≠ 23) || flagR s Reg.orfStatus 0))) l.num
      else setLink s l.num (versioned k v (decide (l.num ≠ 23) || flagR s Reg.orfStatus 0))) := by
  have hcheck : ∀ t : State, (∃ a r b, getLink t l.num = { versioned k v (decide (l.num ≠ 23) || flagR s Reg.orfStatus 0) with sent := a, replay := r, back := b }) →
      linkUpCheck t l.num = t := fun t ⟨a, r, b, h⟩ => by
    unfold linkUpCheck
    simp only [h, versioned, hgot, Bool.and_false, Bool.false_and, Bool.false_eq_true, if_false]
  subst hk
  rw [exec_versionReceive, execVersionReceive, clocked_running hrun]
  dsimp only
  rw [if_neg (by simp [hsent, hup, hdown]), if_neg (by simp [htype, hmajor]), Nat.min_zero, hcheck]
  · rfl
  · split
    · obtain ⟨a, r, b, h⟩ := getLink_sendControl (setLink s l.num (versioned (getLink s l.num) v (decide (l.num ≠ 23) || flagR s Reg.orfStatus 0))) l.num 2 l.num []
      refine ⟨a, r, b, h.trans ?_⟩
      rw [if_pos rfl, getLink_setLink_same]
    · exact ⟨_, _, _, getLink_setLink_same ..⟩

/-- A link whose peer's VERSION does not fit: it is down, flagged and recorded, and its queue is discarded (R380, R388). -/
theorem exec_versionReceive_refused (hbad : bits v 19 16 ≠ linkType l.num ∨ bits v 7 0 ≠ 1) (horf : l.num ≠ 23 ∨ k.phase ≠ .retraining) :
    exec (.versionReceive l v) s = .next (dropQueue (linkRecord (
      let s := setLink s l.num { k with phase := .down, versionSent := false, versionOk := false, readySent := false, readyGot := false }
      if l.num < 7 then seamFlag s l.num 17 else if l.num < 23 then raise s (Reg.xfPort (l.num - 7)) 4 else s) l.num true) l.num) := by
  subst hk
  rw [exec_versionReceive, execVersionReceive, clocked_running hrun]
  dsimp only
  rw [if_neg (by simp [hsent, hup, hdown]), if_pos hbad]
  exact congrArg _ (if_neg fun h => horf.elim (fun h' => h' h.1) fun h' => h' h.2)
end

/-- READY of both ends: the link is up (R375, R380). -/
def linkOpened (s : State) (l : Nat) (k : Link) : State :=
  setLink (setLink s l { k with readyGot := true }) l
    { k with readyGot := true, phase := .up, lastGood := s.now, nak := false, replays := 0, keyValid := false, keyHello := false, helloSent := false }

theorem exec_readyReceive_opens (hok : k.versionOk = true) (hup : k.phase ≠ .up) (hready : k.readySent = true) :
    exec (.readyReceive l) s = .next (
      if 24 ≤ l.num then pkeyHello (linkOpened s l.num k) (l.num - 24)
      else if l.num = 23 then orfPump (linkOpened s l.num k)
      else if l.num < 7 then
        let w := drainSeam (linkOpened s l.num k).fab.writes { linkOpened s l.num k with fab := { (linkOpened s l.num k).fab with writes := [] } }
        capResume ((allResident w).foldl settleOps (seamResume w))
      else linkOpened s l.num k) := by
  subst hk
  rw [exec_readyReceive, execReadyReceive, clocked_running hrun]
  dsimp only
  rw [if_pos (by simp [hok, hup]), linkUpCheck]
  simp only [getLink_setLink_same]
  rw [if_pos (by simp [hok, hup, hready])]
  rfl

/-! ### SYNC and timeouts -/

/-- A link that has heard SYNC: its arrival time is kept (R391). -/
def synced (k : Link) (now : Nat) (ns : W32) : Link :=
  { k with lastGood := now, nak := false, got := k.got + 1, syncOffset := ns - 250 }

theorem exec_syncReceive_up {count : BitVec 48} {ns : W32} (hlo : 7 ≤ l.num) (horf : l.num ≠ 23) (hup : k.phase = .up) :
    ∃ u ls, u = { s with fab := { s.fab with links := ls } } ∧ (∀ m, getLink u m = if m = l.num then synced k s.now ns else getLink s m)
      ∧ exec (.syncReceive l count ns) s = .next (if count = s.stc.count then u else
        place (raise u Reg.xfStatus 0) { cls := 0x35, action := 3, cause := 3, die := linkDie l.num, d0 := s.stc.count.setWidth 64, d1 := count.setWidth 64 }) := by
  subst hk
  refine ⟨setLink (heard s l.num) l.num { getLink (heard s l.num) l.num with syncOffset := ns - 250 }, _, rfl, fun m => ?_, ?_⟩
  · rw [getLink_setLink]
    by_cases hm : m = l.num
    · rw [if_pos hm, if_pos hm]
      simp only [heard, heardFlits, getLink_setLink_same]
      rfl
    · rw [if_neg hm, if_neg hm]
      exact getLink_setLink_other s _ hm
  · rw [exec_syncReceive, execSyncReceive, clocked_running hrun]
    dsimp only
    rw [if_neg (by simp only [horf, hup, ne_eq, not_true_eq_false, or_false]; omega)]
    rfl

theorem exec_linkTimeout_up (hlo : 7 ≤ l.num) (hup : k.phase = .up) :
    exec (.linkTimeout l) s = .next (linkDown (advanceTo s (k.lastGood + usT 10)) l.num) := by
  subst hk
  rw [exec_linkTimeout, execLinkTimeout, clocked_running hrun]
  exact congrArg _ (if_neg fun h => h.elim (by omega) fun h => h hup)
end

/-! ### What a link that goes down discards -/

/-- Charges that the packets of a queue hold are taken from their nodes' credit (R386, R388). -/
theorem foldl_holdCharge_frame (qs : List Queued) (s : State) : ∃ us, qs.foldl holdCharge s = { s with fab := { s.fab with used := us } } := by
  induction qs generalizing s with
  | nil => exact ⟨s.fab.used, rfl⟩
  | cons q qs ih =>
    obtain ⟨us, h⟩ : ∃ us, holdCharge s q = { s with fab := { s.fab with used := us } } := by
      unfold holdCharge
      dsimp only
      split
      · exact ⟨_, rfl⟩
      · exact ⟨s.fab.used, rfl⟩
    obtain ⟨us', h'⟩ := ih { s with fab := { s.fab with used := us } }
    exact ⟨us', by rw [List.foldl_cons, h, h']⟩

/-- A discarded queue leaves its link's other state, and every other link, as before (R388). -/
theorem dropQueue_frame (s : State) (l : Nat) : ∃ rf sl ts st us, dropQueue s l
    = { setLink s l { getLink s l with sendQ := [] } with
        rf := rf
        eng := { s.eng with slots := sl }
        tallies := ts
        stc := st
        fab := { (setLink s l { getLink s l with sendQ := [] }).fab with used := us } } := by
  unfold dropQueue
  dsimp only
  generalize hu : setLink s l { getLink s l with sendQ := [] } = u
  have heng : u.eng = s.eng := by rw [← hu]; rfl
  obtain ⟨rf, hrf⟩ : ∃ rf, (if l < 7 ∨ l = 23 then u else countR u Reg.xfEvt 31 16 (getLink s l).sendQ.length) = { u with rf := rf } := by
    split
    · exact ⟨u.rf, rfl⟩
    · exact countR_rf ..
  rw [hrf]
  obtain ⟨us, hus⟩ : ∃ us, (if l < 23 then (getLink s l).sendQ.foldl holdCharge { u with rf := rf } else { u with rf := rf })
      = { u with rf := rf, fab := { u.fab with used := us } } := by
    split
    · exact foldl_holdCharge_frame _ _
    · exact ⟨u.fab.used, rfl⟩
  rw [hus]
  obtain ⟨sl, ts, st, h⟩ := releaseOwners_frame { u with rf := rf, fab := { u.fab with used := us } } (getLink s l).sendQ
  exact ⟨rf, sl, ts, st, us, by rw [h, heng]⟩

theorem getLink_dropQueue (s : State) (l m : Nat) : getLink (dropQueue s l) m = if m = l then { getLink s l with sendQ := [] } else getLink s m := by
  obtain ⟨rf, sl, ts, st, us, h⟩ := dropQueue_frame s l
  rw [h, ← getLink_setLink]
  rfl

theorem linkRecord_frame (s : State) (l : Nat) (b : Bool) : ∃ rf er, linkRecord s l b = { s with rf := rf, err := er } := by
  unfold linkRecord
  split <;> exact place_frame ..

/-- The flags of a link whose peer's version does not fit. -/
theorem versionFlagged_rf (u : State) (l : Nat) : ∃ rf, (if l < 7 then seamFlag u l 17 else if l < 23 then raise u (Reg.xfPort (l - 7)) 4 else u) = { u with rf := rf } := by
  split
  · exact seamFlag_rf ..
  · split
    · exact raise_rf ..
    · exact ⟨u.rf, rfl⟩

/-- What a refused VERSION leaves of the links, and what else it touches (R380, R388). -/
theorem versionRefused_spec (s : State) (l : Nat) (k : Link) :
    let t := dropQueue (linkRecord (let s := setLink s l k; if l < 7 then seamFlag s l 17 else if l < 23 then raise s (Reg.xfPort (l - 7)) 4 else s) l true) l
    (∀ m, getLink t m = if m = l then { k with sendQ := [] } else getLink s m)
      ∧ t = { s with rf := t.rf, eng := { s.eng with slots := t.eng.slots }, tallies := t.tallies, stc := t.stc, err := t.err, fab := { s.fab with links := t.fab.links, used := t.fab.used } } := by
  intro t
  obtain ⟨rf, h1⟩ := versionFlagged_rf (setLink s l k) l
  obtain ⟨rf', er, h2⟩ := linkRecord_frame { setLink s l k with rf := rf } l true
  have ht : t = dropQueue { setLink s l k with rf := rf', err := er } l := by
    show dropQueue (linkRecord (if l < 7 then _ else _) l true) l = _
    rw [h1, h2]
  have hlink : ∀ m, getLink { setLink s l k with rf := rf', err := er } m = if m = l then k else getLink s m :=
    fun m => getLink_setLink s l m k
  constructor
  · intro m
    rw [ht, getLink_dropQueue, hlink, hlink, if_pos rfl]
    by_cases hm : m = l
    · simp only [hm, if_true]
    · simp only [hm, if_false]
  · obtain ⟨rf'', sl, ts, st, us, h3⟩ := dropQueue_frame { setLink s l k with rf := rf', err := er } l
    rw [h3] at ht
    rw [ht]
    rfl

theorem xfStatus_no_queue : ∀ i : HDie, Reg.xfStatus.addr ≠ (Reg.errQDrop i).addr ∧ Reg.xfStatus.addr ≠ (Reg.errQStatus i).addr := by decide

/-- Settles O36. -/
theorem linkEvents : Obligations.LinkEvents := by
  intro s l k hrun hk
  refine ⟨?flit, ?nak, ?train, ?retrain, ?peerRetrain, ?version, ?ready, ?sync, ?timeout⟩
  case flit =>
    intro c flit hup hc
    subst hk
    rw [exec_flit hrun hc]
    refine ⟨fun hbad => congrArg _ (flitIn_bad hup hbad), fun f hf hseq => congrArg _ (flitIn_behind hup hf hseq), fun f hf hseq => ?_⟩
    refine ⟨flitTaken s l.num f, congrArg _ (flitIn_next hup hf hseq), getLink_flitTaken s l.num f, fun m hm => getLink_flitTaken_other s f hm, ?_,
      fun hl w => linkPump_waits hl w⟩
    obtain ⟨b, ls, h⟩ := flitTaken_frame s l.num f
    rw [h]
  case nak =>
    intro ack v hup hnak hv
    subst hk
    have hlink : getLink (acked s l.num ack) l.num = v := by rw [getLink_acked, if_pos rfl, hv]
    obtain ⟨hplain, htrain, hother, rf, ls, w, hframe⟩ := replayFrom_spec (acked s l.num ack) l.num
    obtain ⟨b, ls', hacked⟩ := acked_frame s l.num ack
    rw [hlink] at hplain htrain
    refine ⟨_, exec_nakReplay_up hrun hup hnak, fun hlt => ⟨(hplain hlt).1, ?_⟩, htrain, by rw [hv]; rfl, fun m hm => ?_, ?_⟩
    · rw [(hplain hlt).2, hacked]
    · rw [hother m hm, getLink_acked, if_neg hm]
    · rw [hframe, hacked]
  case train =>
    intro ok spares hup hsent hseam
    refine ⟨fun hok hspares => ?_, fun hok hl hf => ?_, fun hok hl hf => ?_, fun hok hl hp => ?_, fun hok hl hp => ?_⟩ <;> subst hok
    · exact ⟨_, exec_linkTrainDone_good hrun hk hup hsent hseam hspares, sendsAs_sendControl .., _, rfl, rfl, rfl⟩
    all_goals rw [exec_linkTrainDone_bad hrun hk hup hsent hseam]
    · rw [if_pos hl, if_neg (by omega)]
    · rw [if_pos hl, if_pos (by omega)]
    · rw [if_neg (by omega), if_pos hp]
    · rw [if_neg (by omega), if_neg hp]
  case retrain =>
    intro j hj
    exact exec_seamCtrlRetrain_link hrun hk hj
  case peerRetrain =>
    intro hup
    exact ⟨_, exec_retrainReceive_up hrun hk hup, hk ▸ sendsAs_retrain s l.num⟩
  case version =>
    intro v hsent hup hdown
    refine ⟨fun htype hmajor hgot => ⟨_, exec_versionReceive_fits hrun hk hsent hup hdown htype hmajor hgot, ?_⟩,
      fun hbad horf => ⟨_, exec_versionReceive_refused hrun hk hsent hup hdown hbad horf, versionRefused_spec s l.num _⟩⟩
    split
    · exact sendsAs_sendControl ..
    · exact sendsAs_setLink ..
  case ready =>
    intro hok hup hready
    have h := exec_readyReceive_opens hrun hk hok hup hready
    refine ⟨fun hlo hhi => ?_, fun hl => ?_, fun hl => ?_, fun hl => ?_⟩ <;> rw [h]
    · rw [if_neg (by omega), if_neg (by omega), if_neg (by omega)]
      rfl
    · rw [if_neg (by omega), if_pos hl]
      rfl
    · rw [if_pos hl]
      rfl
    · rw [if_neg (by omega), if_neg (by omega), if_pos hl]
      rfl
  case sync =>
    intro count ns hlo horf hup
    obtain ⟨u, ls, hu, hlinks, hex⟩ := exec_syncReceive_up (count := count) (ns := ns) hrun hk hlo horf hup
    refine ⟨fun hc => ⟨_, hex, ?_⟩, fun hc => ⟨_, hex, ?_⟩⟩
    · rw [if_pos hc]
      exact ⟨hlinks, by rw [hu]⟩
    · rw [if_neg hc]
      refine ⟨?_, ?_⟩
      · rw [flagR_place _ _ _ xfStatus_no_queue]
        exact flagR_raise _ _ (by omega)
      · obtain ⟨rf, er, h⟩ := place_frame (raise u Reg.xfStatus 0) { cls := 0x35, action := 3, cause := 3, die := linkDie l.num, d0 := s.stc.count.setWidth 64, d1 := count.setWidth 64 }
        rw [h, hu]
        rfl
  case timeout =>
    intro hlo hup
    exact exec_linkTimeout_up hrun hk hlo hup

end Sys2Proof.Machine
end

section
/-! PROOFS. Session-table stores and transitions (R185 to R189, R395): O38. -/

namespace Sys2Proof.Machine

section
variable {s u : State} {n : Session} {e : BitVec 2048} (hrun : running s = true) (he : e = getSes s n.val) (hu : u = noteSession s n.val)
include hrun he hu

/-! ### Transitions -/

omit hrun he hu in
theorem getSes_sesFresh (s : State) (n m : Nat) : getSes (sesFresh s n) m = getSes s m := rfl

omit he in
theorem exec_sessionFree_entry : exec (.sessionFree n) s = .next (sesFresh (setSes u n.val 0) n.val) := by
  subst hu
  rw [exec_sessionFree, execSessionFree, clocked_running hrun]
  rfl

omit hrun in
/-- A host write of LIVE or HELD asks for a transition wherever the entry is in another state (R187). -/
theorem sesMove_live (hst : sesState e ≠ 1) : sesMove u n.val 1 = toLive u n.val := by
  subst he hu
  unfold sesMove
  exact if_neg fun h => hst h.2.symm
omit hrun in
theorem sesMove_held (hst : sesState e ≠ 2) : sesMove u n.val 2 = toHeld u n.val := by
  subst he hu
  unfold sesMove
  exact if_neg fun h => hst h.2.symm

theorem exec_sessionHeld_live (hst : sesState e = 1) : exec (.sessionHeld n) s = .next (setSes u n.val (setBits e 3 0 2)) := by
  have hmove := sesMove_held he hu (by omega)
  subst he hu
  rw [exec_sessionHeld, execSessionHeld, clocked_running hrun, hmove]
  exact congrArg _ (if_pos hst)

theorem exec_sessionHeld_refused (hst : sesState e = 0 ∨ sesState e = 3) : exec (.sessionHeld n) s = .next (sesRefuse u n.val 1) := by
  have hmove := sesMove_held he hu (by omega)
  subst he hu
  rw [exec_sessionHeld, execSessionHeld, clocked_running hrun, hmove]
  exact congrArg _ (if_neg (show ¬ sesState (getSes s n.val) = 1 by omega))

theorem exec_sessionLive_refused (hst : sesState e = 3 ∨ sesState e ≠ 1 ∧ canLive e = false) : exec (.sessionLive n) s = .next (sesRefuse u n.val 1) := by
  have hmove := sesMove_live he hu (by omega)
  subst he hu
  rw [exec_sessionLive, execSessionLive, clocked_running hrun, hmove]
  refine congrArg _ (if_neg (show ¬ ((sesState (getSes s n.val) = 0 ∨ sesState (getSes s n.val) = 2) ∧ canLive (getSes s n.val) = true) from fun h => ?_))
  rcases hst with hst | hst
  · omega
  · simp [hst.2] at h

/-- An entry that has become LIVE; from FREE its session ID begins anew (R188, R189). -/
def livened (u : State) (n : Nat) (e f : BitVec 2048) : State := if sesState e = 0 then sesFresh (setSes u n f) n else setSes u n f

/-- A mirrored entry that has become LIVE: its first copy is awaited (R395). -/
def copyAwaited (v : State) (n : Nat) : State := { v with mir := { v.mir with initial := v.mir.initial ++ [⟨n, 0, v.now⟩] } }

theorem exec_sessionLive_allowed {f : BitVec 2048} (hst : sesState e = 0 ∨ sesState e = 2) (hlive : canLive e = true)
    (hf : f = if sesState e = 0 then setBits (setBits (setBits e 3 0 1) 671 640 0) 495 448 0 else setBits e 3 0 1) :
    exec (.sessionLive n) s = .next (if sesMirror e = true then sendMent (copyAwaited (livened u n.val e f) n.val) n.val (setBits f 671 640 0) else livened u n.val e f) := by
  have hmove := sesMove_live he hu (by omega)
  have hmirror : sesMirror f = sesMirror e := by
    rw [hf]
    split <;> simp only [sesMirror, bitAt_setBits_ne _ _ (Or.inr (show 3 < 8 by omega)), bitAt_setBits_ne _ _ (Or.inl (show 8 < 640 by omega)),
      bitAt_setBits_ne _ _ (Or.inl (show 8 < 448 by omega))]
  rw [exec_sessionLive, execSessionLive, clocked_running hrun, ← hu, hmove, ← hmirror, hf]
  subst he hu
  refine congrArg _ ((if_pos ⟨hst, hlive⟩).trans ?_)
  rfl

end

theorem getSes_livened (u : State) (n m : Nat) (e f : BitVec 2048) : getSes (livened u n e f) m = if m = n then f else getSes u m := by
  unfold livened
  split
  · exact getSes_setSes u n m f
  · exact getSes_setSes u n m f

theorem sesFresh_only (u : State) (n : Nat) (f : BitVec 2048) : ∃ t i fi, sesFresh (setSes u n f) n
    = { u with ses := t, mir := { u.mir with initial := i, failedInit := fi } } := ⟨_, _, _, rfl⟩
theorem livened_only (u : State) (n : Nat) (e f : BitVec 2048) : ∃ t i fi, livened u n e f = { u with ses := t, mir := { u.mir with initial := i, failedInit := fi } } := by
  unfold livened
  split
  · exact ⟨_, _, _, rfl⟩
  · exact ⟨_, u.mir.initial, u.mir.failedInit, rfl⟩

/-- A refused transition or write is noted, and nothing else (R186, R187). -/
theorem sesRefuse_noted (u : State) (n bit : Nat) (h : bit < 64) : flagR (sesRefuse u n bit) (Reg.sesStatus (sesDie n)) bit = true
    ∧ getR (sesRefuse u n bit) (Reg.sesRefused (sesDie n)) = BitVec.ofNat 64 (n % 32768) ∧ sesRefuse u n bit = { u with rf := (sesRefuse u n bit).rf } :=
  sesRefuse_spec u n bit h

/-! ### Stores -/

theorem exec_sesTableWrite_running {s : State} (hrun : running s = true) (h : Hart) (n : Session) (k : Fin 32) (v : W64) :
    exec (.sesTableWrite h n k v) s = .next (sesStore (noteSession s n.val) n.val k.val v) := by
  rw [exec_sesTableWrite, execSesTableWrite, clocked_running hrun]

theorem and_not_zero (x : W64) : x &&& ~~~0 = x := by
  rw [show ~~~(0 : W64) = BitVec.allOnes 64 by decide, BitVec.and_allOnes]
theorem or_zero_word (x : W64) : x ||| 0 = x := BitVec.or_zero

section
variable {u : State} {n k : Nat} {e : BitVec 2048} {v old : W64} (he : e = getSes u n) (hold : old = sesWord e k)
include he hold

/-- A store to a word other than the first, where no LEN of a LIVE entry would fall: the bits that a host may change change, and what else was asked for is noted (R185, R186). -/
theorem sesStore_word (hk : k ≠ 0) (hlen : sesState e = 1 → k = 3 → bits old 31 0 ≤ bits v 31 0) :
    sesStore u n k v = (
      let w := setSes u n (setSesWord e k ((old &&& ~~~(hostMask (sesState e) k)) ||| (v &&& hostMask (sesState e) k)))
      if (sesState e = 1 ∨ sesState e = 3) ∧ (v ^^^ old) &&& ~~~(hostMask (sesState e) k ||| roMask k) ≠ 0 then sesRefuse w n 0 else w) := by
  have hlow : (decide (sesState e = 1) && decide (k = 3) && decide (bits v 31 0 < bits old 31 0)) = false := by
    by_cases h : sesState e = 1 ∧ k = 3
    · have := hlen h.1 h.2
      simp only [Nat.not_lt.2 this, decide_false, Bool.and_false]
    · by_cases h1 : sesState e = 1 <;> simp_all
  subst he hold
  unfold sesStore
  dsimp only
  simp only [hk, if_false, hlow, Bool.false_eq_true, Bool.and_eq_true, decide_eq_true_eq, or_zero_word, and_not_zero]

/-- A store to the first word of a FREE or HELD entry changes every field but STATE, then asks for STATE (R187). -/
theorem sesStore_first (hk : k = 0) (hst : sesState e = 0 ∨ sesState e = 2) :
    sesStore u n k v = sesMove (setSes u n (setSesWord e 0 ((old &&& 0xF#64) ||| (v &&& ~~~0xF#64)))) n (bits v 3 0) := by
  have h1 : sesState e ≠ 1 := by omega
  have h3 : sesState e ≠ 3 := by omega
  have hmask : hostMask (sesState e) 0 &&& ~~~0xF = ~~~0xF := by
    rw [hostMask, if_neg h1, if_neg h3]
    decide
  subst he hold hk
  unfold sesStore
  dsimp only
  simp only [if_true, h1, h3, decide_false, Bool.false_and, Bool.false_eq_true, if_false, or_self, hmask, BitVec.not_not]
  rfl
end

/-- Settles O38. -/
theorem sessionTable : Obligations.SessionTable := by
  intro s u n e hrun he hu
  have heu : e = getSes u n.val := by rw [he, hu]; rfl
  have hother : ∀ m, getSes u m = getSes s m := fun m => by rw [hu]; rfl
  have hset : ∀ f m, getSes (setSes u n.val f) m = if m = n.val then f else getSes s m := fun f m => by rw [getSes_setSes, hother]
  refine ⟨?free, fun hst => ?held, fun hst => ?heldRefused, fun f hst hlive hf => ?live, fun hst => ?liveRefused, ?word, ?first⟩
  case free =>
    obtain ⟨t, i, fi, honly⟩ := sesFresh_only u n.val 0
    exact ⟨_, exec_sessionFree_entry hrun hu, fun m => by rw [getSes_sesFresh, hset], sesFresh_initial _ _, by simp only [sesFresh, smGet_set_self], by rw [honly]⟩
  case held => exact ⟨_, exec_sessionHeld_live hrun he hu hst, hset _, rfl⟩
  case heldRefused => exact ⟨_, exec_sessionHeld_refused hrun he hu hst, sesRefuse_noted u n.val 1 (by omega)⟩
  case live =>
    have hex := exec_sessionLive_allowed hrun he hu hst hlive hf
    have hses : ∀ m, getSes (livened u n.val e f) m = if m = n.val then f else getSes s m := fun m => by rw [getSes_livened, hother]
    obtain ⟨t, i, fi, honly⟩ := livened_only u n.val e f
    refine ⟨fun hm => ⟨livened u n.val e f, hex.trans (congrArg _ (if_neg (by simp [hm]))), hses, by rw [honly]⟩,
      fun hm => ⟨copyAwaited (livened u n.val e f) n.val, hses, ?_, ?_, hex.trans (congrArg _ (if_pos hm))⟩⟩
    · have hnow : (livened u n.val e f).now = s.now := by rw [honly, hu]; rfl
      exact List.mem_append_right _ (by rw [hnow]; exact List.mem_singleton_self _)
    · rw [honly]
      rfl
  case liveRefused => exact ⟨_, exec_sessionLive_refused hrun he hu hst, sesRefuse_noted u n.val 1 (by omega)⟩
  case word =>
    intro h k v old hold hk
    refine ⟨fun hst => ⟨_, exec_sesTableWrite_running hrun .., ?_⟩, fun hst hlen hzero => ⟨_, exec_sesTableWrite_running hrun .., ?_⟩,
      fun hst hdiff => ⟨_, exec_sesTableWrite_running hrun .., ?_⟩⟩ <;> rw [← hu]
    · rw [sesStore_word heu hold hk (by omega)]
      have hmask : hostMask (sesState e) k.val = ~~~(roMask k.val) := by
        rw [hostMask, if_neg (by omega), if_neg (by omega)]
      dsimp only
      rw [if_neg (fun h => by omega), hmask, BitVec.not_not]
      exact ⟨hset _, rfl⟩
    · rw [sesStore_word heu hold hk fun _ => hlen]
      have hmask : hostMask (sesState e) k.val = liveMask k.val := by rw [hostMask, if_pos hst]
      dsimp only
      rw [hmask, if_neg (fun h => h.2 hzero)]
      exact ⟨hset _, rfl⟩
    · rw [sesStore_word heu hold hk (by omega)]
      have hmask : hostMask (sesState e) k.val = 0 := by rw [hostMask, if_neg (by omega), if_pos hst]
      dsimp only
      rw [hmask, if_pos ⟨Or.inr hst, by simpa using hdiff⟩]
      obtain ⟨hflag, -, honly⟩ := sesRefuse_noted (setSes u n.val (setSesWord e k.val ((old &&& ~~~0) ||| (v &&& 0)))) n.val 0 (by omega)
      have hword : (old &&& ~~~0) ||| (v &&& 0) = old := by
        rw [and_not_zero]
        exact (congrArg _ BitVec.and_zero).trans BitVec.or_zero
      rw [hword] at hflag honly ⊢
      exact ⟨fun m => hset _ m, hflag, by rw [honly]; rfl⟩
  case first =>
    intro h v hst
    rw [exec_sesTableWrite_running hrun, ← hu]
    exact congrArg _ (sesStore_first heu rfl rfl hst)

end Sys2Proof.Machine
end

section
/-! PROOFS. Shares of slots and partition entries (R216, R221, R223 to R226, R504): O39. -/

namespace Sys2Proof.Machine

/-! ### TE_SLOTCFG -/

theorem mem_le_sum {l : List Nat} {g : Nat} (h : g ∈ l) : g ≤ l.sum := List.single_le_sum (fun _ _ => Nat.zero_le _) g h

section
variable {s : State} {te : TeId} {v cfg : W64} (hrun : running s = true) (hcfg : cfg = v &&& 0x03FF03FF03FF03FF)
include hrun hcfg

/-- Shares that an engine has taken; every slot's next launch is wiped for (R216, R221). -/
def sharesTaken (s : State) (te : TeId) (cfg : W64) : State := allSlots.foldl (forgetJob te) (setTe s te { getTe s te with slotcfg := cfg })

theorem exec_teSlotcfgWrite_taken (hempty : slotsEmpty s te = true) (hts : ((List.range 4).map (tsUnits cfg)).sum ≤ 32)
    (hgs : ((List.range 4).map (grpCount cfg)).sum ≤ 8) : exec (.teSlotcfgWrite te v) s = .next (sharesTaken s te cfg) := by
  have hall : ((List.range 4).map (grpCount cfg)).all (fun g => decide (g ≤ 8)) = true :=
    List.all_eq_true.2 fun g hg => decide_eq_true ((mem_le_sum hg).trans hgs)
  subst hcfg
  rw [exec_teSlotcfgWrite, execTeSlotcfgWrite, clocked_running hrun]
  refine congrArg _ (if_pos ?_)
  rw [hempty, decide_eq_true hts, decide_eq_true hgs, hall]
  rfl

theorem exec_teSlotcfgWrite_refused (h : slotsEmpty s te = false ∨ 32 < ((List.range 4).map (tsUnits cfg)).sum ∨ 8 < ((List.range 4).map (grpCount cfg)).sum) :
    exec (.teSlotcfgWrite te v) s = .next (raise s Reg.teStatus 0) := by
  subst hcfg
  rw [exec_teSlotcfgWrite, execTeSlotcfgWrite, clocked_running hrun]
  refine congrArg _ (if_neg fun hc => ?_)
  simp only [Bool.and_eq_true, decide_eq_true_eq] at hc
  rcases h with h | h | h
  · simp [h] at hc
  · omega
  · omega
end

theorem slots_frame {s t : State} {te : TeId} {v : Te} {m : SMap Slot} (h : t = { setTe s te v with eng := { (setTe s te v).eng with slots := m } }) :
    t = { s with eng := { s.eng with te := t.eng.te, slots := t.eng.slots } } := by
  subst h
  rfl

theorem sharesTaken_spec (s : State) (te : TeId) (cfg : W64) :
    let t := sharesTaken s te cfg
    (∀ u, getTe t u = if u = te then { getTe s te with slotcfg := cfg } else getTe s u)
      ∧ (∀ c, getSlot t c = if c.te = te then { getSlot s c with lastJob := 0xFFFF } else getSlot s c)
      ∧ t = { s with eng := { s.eng with te := t.eng.te, slots := t.eng.slots } } := by
  intro t
  obtain ⟨honly, hte⟩ := forgetJobs_only te allSlots (setTe s te { getTe s te with slotcfg := cfg })
  refine ⟨fun u => ?_, fun c => ?_, ?_⟩
  · rw [getTe_eng (x := t) (y := setTe s te { getTe s te with slotcfg := cfg }) hte, getTe_setTe]
  · have h := getSlot_forgetJobs te allSlots (setTe s te { getTe s te with slotcfg := cfg }) c
    by_cases hc : c.te = te
    · rw [if_pos hc]
      exact h.trans (if_pos ⟨hc, mem_allSlots c.slot⟩)
    · rw [if_neg hc]
      exact h.trans (if_neg fun h => hc h.1)
  · exact slots_frame honly

/-! ### Partition entries -/

section
variable {s : State} {p : PartId} {k : Fin 8} {v : W64} {old new : BitVec 512} (hrun : running s = true) (hold : old = getPart s p)
  (hnew : new = setBits old (64 * k.val + 63) (64 * k.val) v.toNat &&& ptMask)
include hrun hold hnew

/-- A write of one word of a partition entry, by VALID before and after (R223 to R226). -/
theorem exec_tePartWrite_running : exec (.tePartWrite p k v) s = .next (
    if ptValid old = false then
      if ptValid new = false then
        if ptReserved new = [] then setPart s p new
        else idEvent (setPart s p ((ptReserved new).foldl (fun e f => setBits e f.1 f.2 (bits old f.1 f.2)) new)) 1 (partAddr p k.val)
      else if ptMayOpen s p new = true then
        { startWipe (setPart s p new) p new (ptClusters new) with
          pwr := { (startWipe (setPart s p new) p new (ptClusters new)).pwr with energy := smErase (startWipe (setPart s p new) p new (ptClusters new)).pwr.energy p.val } }
      else raise s Reg.teStatus 0
    else if ptValid new = false then
      if allTes.any (jobOn s (ptJob old)) = true then raise s Reg.teStatus 0 else setPart s p new
    else if setBits old 383 128 0 = setBits new 383 128 0 ∧ ptMayMask s p old new = true then
      startWipe (setPart s p new) p new ((ptClusters new).filter fun c => !((ptClusters old).contains c))
    else raise s Reg.teStatus 0) := by
  subst hold hnew
  rw [exec_tePartWrite, execTePartWrite, clocked_running hrun]
  simp only [Bool.not_eq_true', Bool.and_eq_true, decide_eq_true_eq]

theorem exec_tePartWrite_kept (ho : ptValid old = false) (hn : ptValid new = false) (hr : ptReserved new = []) :
    exec (.tePartWrite p k v) s = .next (setPart s p new) := by
  rw [exec_tePartWrite_running hrun hold hnew, if_pos ho, if_pos hn, if_pos hr]

theorem exec_tePartWrite_reserved (ho : ptValid old = false) (hn : ptValid new = false) (hr : ptReserved new ≠ []) : exec (.tePartWrite p k v) s
    = .next (idEvent (setPart s p ((ptReserved new).foldl (fun e f => setBits e f.1 f.2 (bits old f.1 f.2)) new)) 1 (partAddr p k.val)) := by
  rw [exec_tePartWrite_running hrun hold hnew, if_pos ho, if_pos hn, if_neg hr]

/-- A partition that has become valid: its windows are being wiped, and its energy counts anew (R224, R225). -/
def opened (s : State) (p : PartId) (new : BitVec 512) : State :=
  let t := startWipe (setPart s p new) p new (ptClusters new)
  { t with pwr := { t.pwr with energy := smErase t.pwr.energy p.val } }

theorem exec_tePartWrite_opened (ho : ptValid old = false) (hn : ptValid new = true) (hmay : ptMayOpen s p new = true) :
    exec (.tePartWrite p k v) s = .next (opened s p new) := by
  rw [exec_tePartWrite_running hrun hold hnew, if_pos ho, if_neg (by simp [hn]), if_pos hmay]
  rfl

theorem exec_tePartWrite_closed (ho : ptValid old = true) (hn : ptValid new = false) (hjob : ∀ te, jobOn s (ptJob old) te = false) :
    exec (.tePartWrite p k v) s = .next (setPart s p new) := by
  rw [exec_tePartWrite_running hrun hold hnew, if_neg (by simp [ho]), if_pos hn,
    if_neg (fun h => let ⟨te, _, hte⟩ := List.any_eq_true.1 h; by simp [hjob te] at hte)]

theorem exec_tePartWrite_masked (ho : ptValid old = true) (hn : ptValid new = true) (hmask : setBits old 383 128 0 = setBits new 383 128 0)
    (hmay : ptMayMask s p old new = true) : exec (.tePartWrite p k v) s
      = .next (startWipe (setPart s p new) p new ((ptClusters new).filter fun c => !((ptClusters old).contains c))) := by
  rw [exec_tePartWrite_running hrun hold hnew, if_neg (by simp [ho]), if_neg (by simp [hn]), if_pos ⟨hmask, hmay⟩]

theorem exec_tePartWrite_refused (h : ptValid old = false ∧ ptValid new = true ∧ ptMayOpen s p new = false
      ∨ ptValid old = true ∧ ptValid new = false ∧ (∃ te, jobOn s (ptJob old) te = true)
      ∨ ptValid old = true ∧ ptValid new = true ∧ (setBits old 383 128 0 ≠ setBits new 383 128 0 ∨ ptMayMask s p old new = false)) :
    exec (.tePartWrite p k v) s = .next (raise s Reg.teStatus 0) := by
  rw [exec_tePartWrite_running hrun hold hnew]
  rcases h with ⟨ho, hn, hmay⟩ | ⟨ho, hn, te, hte⟩ | ⟨ho, hn, hno⟩
  · rw [if_pos ho, if_neg (by simp [hn]), if_neg (by simp [hmay])]
  · have hany : allTes.any (jobOn s (ptJob old)) = true := List.any_eq_true.2 ⟨te, List.mem_finRange te, hte⟩
    rw [if_neg (by simp [ho]), if_pos hn, if_pos hany]
  · rw [if_neg (by simp [ho]), if_neg (by simp [hn]), if_neg fun h => hno.elim (fun h' => h' h.1) fun h' => by simp [h'] at h]
end

/-- The entries after a write whose windows are being wiped. -/
theorem startWipe_part (s : State) (p : PartId) (new : BitVec 512) (l : List Nat) (hl : ∀ c ∈ l, c < 64) :
    let t := startWipe (setPart s p new) p new l
    (∀ q, getPart t q = if q = p then new else getPart s q)
      ∧ (0 < ptUnits new → ∀ c < 64, smGet 0 t.partWipe (64 * p.val + c) = if c ∈ l then
          (cycleNow s + 64 * ptUnits new) * 65536 + ptBase new * 256 + ptUnits new else smGet 0 s.partWipe (64 * p.val + c))
      ∧ t = { s with parts := t.parts, partWipe := t.partWipe } := by
  intro t
  obtain ⟨hwipe, honly⟩ := startWipe_spec (setPart s p new) p new l hl
  have ht : t = _ := honly
  refine ⟨fun q => ?_, hwipe, ?_⟩
  · rw [ht]
    exact getPart_setPart s p q new
  · rw [ht]
    rfl

/-! ### The end of a wipe -/

theorem le_foldl_max (l : List Nat) (m x : Nat) (h : x ≤ m ∨ x ∈ l) : x ≤ l.foldl max m := by
  induction l generalizing m with
  | nil => exact h.resolve_right List.not_mem_nil
  | cons a l ih =>
    rw [List.foldl_cons]
    refine ih (max m a) ?_
    rcases h with h | h
    · exact Or.inl (h.trans (Nat.le_max_left ..))
    · rcases List.mem_cons.1 h with rfl | h
      · exact Or.inl (Nat.le_max_right ..)
      · exact Or.inr h

/-- The entries of the wipes of a partition. -/
def wipesOf (s : State) (p : PartId) : List (Nat × Nat) := s.partWipe.filter fun e => decide (e.1 / 64 = p.val)

/-- The windows of a partition are wiped, at the end of the last wipe (R225). -/
def windowsWiped (s : State) (p : PartId) : State :=
  let u := (wipesOf s p).foldl wipeWindow (advanceCycle s (((wipesOf s p).map fun e => e.2 / 65536).foldl max 0))
  { u with partWipe := u.partWipe.filter fun e => decide (e.1 / 64 ≠ p.val) }

theorem windowsWiped_spec (s : State) (p : PartId) :
    let t := windowsWiped s p
    (∀ a, smGet 0 t.cl.store a = if ∃ e ∈ s.partWipe, e.1 / 64 = p.val ∧ (wipeRange e).1 ≤ a ∧ a < (wipeRange e).2 then 0 else smGet 0 s.cl.store a)
      ∧ (∀ e ∈ s.partWipe, e.1 / 64 = p.val → cycT (e.2 / 65536) ≤ t.now) ∧ t.partWipe = s.partWipe.filter (fun e => decide (e.1 / 64 ≠ p.val))
      ∧ t = { s with now := t.now, partWipe := t.partWipe, cl := { s.cl with store := t.cl.store, storeErr := t.cl.storeErr } } := by
  intro t
  let u := advanceCycle s (((wipesOf s p).map fun e => e.2 / 65536).foldl max 0)
  have honly := wipeWindow_only (wipesOf s p) u
  have hnow : t.now = max s.now (cycT (((wipesOf s p).map fun e => e.2 / 65536).foldl max 0)) := congrArg State.now honly
  have hwipes : ((wipesOf s p).foldl wipeWindow u).partWipe = s.partWipe := (congrArg State.partWipe honly).trans rfl
  refine ⟨fun a => ?_, fun e he hp => ?_, congrArg (List.filter fun e : Nat × Nat => decide (e.1 / 64 ≠ p.val)) hwipes, ?_⟩
  · refine (smGet_foldl_wipe (wipesOf s p) u a).trans (if_congr ?_ rfl rfl)
    simp only [wipesOf, List.mem_filter, decide_eq_true_eq, and_assoc]
  · have hmem : e.2 / 65536 ∈ (wipesOf s p).map fun e => e.2 / 65536 := List.mem_map.2 ⟨e, List.mem_filter.2 ⟨he, decide_eq_true hp⟩, rfl⟩
    have := le_foldl_max _ 0 _ (Or.inr hmem)
    rw [hnow]
    simp only [cycT]
    omega
  · have ht : t = { (wipesOf s p).foldl wipeWindow u with partWipe := ((wipesOf s p).foldl wipeWindow u).partWipe.filter fun e => decide (e.1 / 64 ≠ p.val) } := rfl
    rw [honly] at ht
    rw [ht]
    rfl

/-- Settles O39. -/
theorem sharesAndPartitions : Obligations.SharesAndPartitions := by
  refine ⟨?shares, ?entries, ?wiped⟩
  case shares =>
    intro s te v cfg hrun hcfg
    exact ⟨fun hempty hts hgs => ⟨_, exec_teSlotcfgWrite_taken hrun hcfg hempty hts hgs, sharesTaken_spec s te cfg⟩, exec_teSlotcfgWrite_refused hrun hcfg⟩
  case entries =>
    intro s p k v old new hrun hold hnew
    refine ⟨fun ho hn hr => ⟨_, exec_tePartWrite_kept hrun hold hnew ho hn hr, fun q => getPart_setPart s p q new, rfl⟩,
      exec_tePartWrite_reserved hrun hold hnew, fun ho hn hmay => ⟨_, exec_tePartWrite_opened hrun hold hnew ho hn hmay, ?_⟩,
      fun ho hn hjob => ⟨_, exec_tePartWrite_closed hrun hold hnew ho hn hjob, fun q => getPart_setPart s p q new, rfl⟩,
      fun ho hn hmask hmay => ⟨_, exec_tePartWrite_masked hrun hold hnew ho hn hmask hmay, ?_⟩, exec_tePartWrite_refused hrun hold hnew⟩
    · obtain ⟨hparts, hwipe, honly⟩ := startWipe_part s p new (ptClusters new) fun c hc => ptClusters_lt hc
      refine ⟨hparts, hwipe, smGet_erase_self p.val, ?_⟩
      unfold opened
      dsimp only
      rw [honly]
    · obtain ⟨hparts, hwipe, honly⟩ := startWipe_part s p new ((ptClusters new).filter fun c => !((ptClusters old).contains c))
        fun c hc => ptClusters_lt (List.mem_of_mem_filter hc)
      refine ⟨hparts, fun hu c hc => (hwipe hu c hc).trans (if_congr ?_ rfl rfl), honly⟩
      simp [List.mem_filter]
  case wiped =>
    intro s p hrun
    exact ⟨windowsWiped s p, by rw [exec_partitionWipeEnd, execPartitionWipeEnd, clocked_running hrun]; rfl, windowsWiped_spec s p⟩

end Sys2Proof.Machine
end

section
/-! PROOFS. Placement and the checks of a launch (R111 to R113, R219 to R221, R230, R231): O40. -/

namespace Sys2Proof.Machine

/-! ### Placement -/

theorem queueFixed_eq (s : State) (te : TeId) (l : Launch) : ∃ er, queueFixed s te l = { s with err := er } := by
  unfold queueFixed
  split
  · exact ⟨_, rfl⟩
  · exact ⟨s.err, rfl⟩

section
variable {s : State} {te : TeId} {l : Launch} (hrun : running s = true) (htakes : takesLaunches s te = true)
include hrun htakes

theorem exec_launchPlace_fits {k : SlotId} (hunfit : unfitQueued s te = none) (hl : launchFor s te = some l) (hk : fittingSlot s te l = some k) :
    exec (.launchPlace te) s = .next (placeLaunch (queueFixed s te l) te k l) := by
  rw [exec_launchPlace, execLaunchPlace, clocked_running hrun]
  simp only [htakes, hunfit, hl, hk, Bool.not_true, Bool.false_eq_true, if_false]

theorem exec_launchPlace_unfit {cls : Nat} (hunfit : unfitQueued s te = some (l, cls)) : exec (.launchPlace te) s = .next (stopUnfit s te l cls) := by
  rw [exec_launchPlace, execLaunchPlace, clocked_running hrun]
  simp only [htakes, hunfit, Bool.not_true, Bool.false_eq_true, if_false]
end

/-- A launch in its slot: what the slot holds, what else changes, and when it is checked (R219 to R221, R230). -/
theorem placeLaunch_fixed {s w : State} {te : TeId} {k : SlotId} {l : Launch} {c : CtxId} (hc : c = ⟨te, k⟩) (hw : ∃ er, w = { s with err := er }) :
    ∃ u, (getSlot u c).occ = .wiping ∧ getCtx u c = some (newCtx l)
      ∧ (getSlot u c).wipeEnd = (if (getSlot s c).lastJob = l.job then 0 else cycleNow s + 64 * tsUnits (getTe s te).slotcfg k.val)
      ∧ (∀ d, d ≠ c → getSlot u d = getSlot s d) ∧ (∀ e, (getTe u e).queue = if e = l.home then (getTe s e).queue.erase l else (getTe s e).queue)
      ∧ u = { w with eng := { s.eng with te := u.eng.te, slots := u.eng.slots }, err := { w.err with progress := u.err.progress } }
      ∧ placeLaunch w te k l = (if (getSlot s c).lastJob = l.job then launchCheck u c else u) := by
  subst hc
  obtain ⟨z, u, hslots, hqueue, hz, hu, hplace⟩ := placeLaunch_spec w te k l
  obtain ⟨er, rfl⟩ := hw
  refine ⟨u, by rw [hu, getSlot_setSlot, if_pos rfl], by rw [getCtx, hu, getSlot_setSlot, if_pos rfl], ?_, fun d hd => ?_, fun e => ?_, ?_, hplace⟩
  · rw [hu, getSlot_setSlot, if_pos rfl]
    by_cases h : (getSlot s ⟨te, k⟩).lastJob = l.job
    · rw [if_pos h]
      exact if_neg fun hne => (of_decide_eq_true hne) h
    · rw [if_neg h]
      exact if_pos (decide_eq_true h)
  · rw [hu, getSlot_setSlot, if_neg hd]
    exact hslots d
  · rw [hu]
    exact hqueue e
  · rw [hz] at hu
    rw [hu]
    rfl

/-! ### The end of a slot's wipe -/

/-- A slot whose share has been wiped for its launch (R221). -/
def shareWiped (s : State) (c : CtxId) (x : Ctx) : State :=
  let t := advanceCycle s (getSlot s c).wipeEnd
  let lo := 2097152 * c.te.val + (tsShare s c).1
  setSlot { t with eng := { t.eng with
      tiles := smClear t.eng.tiles lo (lo + (tsShare s c).2)
      tileErr := smClear t.eng.tileErr (lo / 64) ((lo + (tsShare s c).2) / 64) } } c
    { getSlot s c with wipeEnd := 0, lastJob := x.launch.job }

theorem exec_slotWipeEnd_wiped {s : State} {c : CtxId} {x : Ctx} (hrun : running s = true) (hx : getCtx s c = some x) (hwipe : (getSlot s c).wipeEnd ≠ 0)
    (hphase : s.err.phase = 0) (hpow : tePowered s c.te = true) (hheld : headerHeld s c.te x.launch = false) :
    exec (.slotWipeEnd c) s = .next (launchCheck (shareWiped s c x) c) := by
  have hx' : (getSlot s c).ctx = some x := hx
  have hseq : sequencersRun s = true := decide_eq_true hphase
  rw [exec_slotWipeEnd, execSlotWipeEnd, clocked_running hrun]
  simp only [hx', hwipe, hseq, hpow, hheld, Bool.not_true, Bool.false_eq_true, or_self, if_false]
  rfl

theorem shareWiped_tiles (s : State) (c : CtxId) (x : Ctx) (a : Nat) : smGet 0 (shareWiped s c x).eng.tiles (2097152 * c.te.val + a)
    = if (tsShare s c).1 ≤ a ∧ a < (tsShare s c).1 + (tsShare s c).2 then 0 else smGet 0 s.eng.tiles (2097152 * c.te.val + a) := by
  refine (smGet_clear (m := s.eng.tiles) (2097152 * c.te.val + (tsShare s c).1) (2097152 * c.te.val + (tsShare s c).1 + (tsShare s c).2)
    (2097152 * c.te.val + a)).trans (if_congr ?_ rfl rfl)
  omega

theorem shareWiped_slots (s : State) (c d : CtxId) (x : Ctx) :
    getSlot (shareWiped s c x) d = if d = c then { getSlot s c with wipeEnd := 0, lastJob := x.launch.job } else getSlot s d := by
  rw [shareWiped, getSlot_setSlot]
  rfl

theorem shareWiped_only (s : State) (c : CtxId) (x : Ctx) :
    ∃ n ti er sl, shareWiped s c x = { s with now := n, eng := { s.eng with tiles := ti, tileErr := er, slots := sl } } := ⟨_, _, _, _, rfl⟩

/-! ### The checks of a launch -/

/-- The scalar, vector and mask registers of a context are zero (R113). -/
def registersZeroed (s : State) (c : CtxId) : State :=
  { s with eng := { s.eng with
    sregs := smClear s.eng.sregs (32 * ctxKey c) (32 * ctxKey c + 32)
    vregs := smClear s.eng.vregs (8192 * ctxKey c) (8192 * ctxKey c + 8192)
    masks := smClear s.eng.masks (8 * ctxKey c) (8 * ctxKey c + 8) } }

/-- The groups of a slot's share as a context finds them: free, but for the open live bank of shadow mode (R108, R113). -/
def groupsReady (s : State) (c : CtxId) (shadow : Bool) : State :=
  let t := (shareGroups s c).foldl (fun s g => setGroup s c.te g {}) s
  if shadow then ((shareGroups t c).take 1).foldl (fun s g => setGroup (clearAcc s c.te g.val 1) c.te g { st := .opened }) t else t

theorem groupsReady_only (s : State) (c : CtxId) (shadow : Bool) :
    ∃ g a, groupsReady s c shadow = { s with eng := { s.eng with groups := g, acc := a } } := by
  obtain ⟨g, h⟩ := foldGroups_eng (shareGroups s c) c.te {} s
  unfold groupsReady
  dsimp only
  rw [h]
  split
  · obtain ⟨g', a, h'⟩ := shadowOpen_only ((shareGroups { s with eng := { s.eng with groups := g } } c).take 1) c.te { st := .opened } { s with eng := { s.eng with groups := g } }
    exact ⟨g', a, h'⟩
  · exact ⟨g, s.eng.acc, rfl⟩

/-- A context that begins to run: its code and its first instruction (R111, R113). -/
def ctxBegun (x : Ctx) (h : KHead) : Ctx :=
  { x with
    codeBase := x.launch.header + BitVec.ofNat 64 (bits h 95 64), codeBytes := bits h 127 96, shadow := khShadow h, liveBank := 0
    pc := x.launch.header + BitVec.ofNat 64 (bits h 95 64), lastPc := x.launch.header + BitVec.ofNat 64 (bits h 95 64) }

/-- A launch that has passed its checks runs (R113). -/
def launchRun (w : State) (c : CtxId) (x : Ctx) (h : KHead) : State :=
  let s := setSreg (groupsReady (registersZeroed w c) c (khShadow h)) c 1 x.launch.args
  setSlot s c { getSlot s c with occ := .running, readyFrom := cycleNow s, ctx := some (ctxBegun x h) }

theorem launchCheck_passed {u w : State} {c : CtxId} {x : Ctx} {h : KHead} (hx : getCtx u c = some x) (hstop : x.stop = none) (hocc : (getSlot u c).occ = .wiping)
    (hread : readHeader u c.te x.launch = (w, .inr h)) (hbad : khBad x.launch.header h = false)
    (hgroups : khGroups h ≤ grpCount (getTe w c.te).slotcfg c.slot.val) (hunits : khUnits h ≤ tsUnits (getTe w c.te).slotcfg c.slot.val) :
    launchCheck u c = launchRun w c x h := by
  unfold launchCheck
  rw [hx]
  dsimp only
  rw [if_neg (by simp [hstop, hocc]), hread]
  dsimp only
  rw [if_neg (by simp [hbad]), if_neg (Nat.not_lt.2 hgroups), if_neg (Nat.not_lt.2 hunits)]
  rfl

section
variable (w : State) (c : CtxId) (x : Ctx) (h : KHead)

/-- What a launch that runs is made of, with its groups and accumulators as they have become. -/
theorem launchRun_eq : ∃ g a, launchRun w c x h
    = let s := setSreg { registersZeroed w c with eng := { (registersZeroed w c).eng with groups := g, acc := a } } c 1 x.launch.args
      setSlot s c { getSlot w c with occ := .running, readyFrom := cycleNow w, ctx := some (ctxBegun x h) } := by
  obtain ⟨g, a, heq⟩ := groupsReady_only (registersZeroed w c) c (khShadow h)
  unfold launchRun
  dsimp only
  rw [heq]
  exact ⟨g, a, rfl⟩

theorem launchRun_slots (d : CtxId) : getSlot (launchRun w c x h) d
    = if d = c then { getSlot w c with occ := .running, readyFrom := cycleNow w, ctx := some (ctxBegun x h) } else getSlot w d := by
  obtain ⟨g, a, heq⟩ := launchRun_eq w c x h
  rw [heq]
  exact getSlot_setSlot ..

theorem launchRun_sregs {r : Nat} (hr : r < 32) : sreg (launchRun w c x h) c r = if r = 1 then x.launch.args else 0 := by
  obtain ⟨g, a, heq⟩ := launchRun_eq w c x h
  have hset := sregIs_setSreg { registersZeroed w c with eng := { (registersZeroed w c).eng with groups := g, acc := a } } c (show 1 < 32 by omega) x.launch.args c r hr
  rw [heq]
  refine Eq.trans hset ?_
  by_cases h1 : r = 1
  · rw [if_pos ⟨rfl, h1, by omega⟩, if_pos h1]
  · rw [if_neg (fun hh => h1 hh.2.1), if_neg h1, sreg]
    split
    · rfl
    · exact (smGet_clear (32 * ctxKey c) (32 * ctxKey c + 32) (32 * ctxKey c + r)).trans (if_pos (by omega))

theorem launchRun_vlanes {r i : Nat} (hr : r < 32) (hi : i < 256) : vlane (launchRun w c x h) c r i = 0 := by
  obtain ⟨g, a, heq⟩ := launchRun_eq w c x h
  rw [heq]
  exact (smGet_clear (m := w.eng.vregs) (8192 * ctxKey c) (8192 * ctxKey c + 8192) ((32 * ctxKey c + r) * 256 + i)).trans (if_pos (by omega))

theorem launchRun_only : ∃ sr vr ma g a sl, launchRun w c x h
    = { w with eng := { w.eng with sregs := sr, vregs := vr, masks := ma, groups := g, acc := a, slots := sl } } := by
  obtain ⟨g, a, heq⟩ := launchRun_eq w c x h
  rw [heq]
  exact ⟨_, _, _, _, _, _, rfl⟩
end

/-- Settles O40. -/
theorem launchesPlaced : Obligations.LaunchesPlaced := by
  refine ⟨?placed, ?unfit, ?wiped, ?checked⟩
  case placed =>
    intro s te l k c w hrun htakes hunfit hl hk hc hw
    have hwe : w = queueFixed s te l := hw
    rw [exec_launchPlace_fits hrun htakes hunfit hl hk, ← hwe]
    obtain ⟨u, hocc, hctx, hend, hother, hqueue, honly, hplace⟩ := placeLaunch_fixed (s := s) (l := l) hc (hwe ▸ queueFixed_eq s te l)
    exact ⟨u, hocc, hctx, hend, hother, hqueue, honly, congrArg _ hplace⟩
  case unfit =>
    intro s te l cls hrun htakes hunfit
    exact exec_launchPlace_unfit hrun htakes hunfit
  case wiped =>
    intro s c x hrun hx hwipe hphase hpow hheld
    refine ⟨shareWiped s c x, fun a _ => shareWiped_tiles s c x a, fun d => shareWiped_slots s c d x, Nat.le_max_right .., ?_,
      exec_slotWipeEnd_wiped hrun hx hwipe hphase hpow hheld⟩
    obtain ⟨n, ti, er, sl, h⟩ := shareWiped_only s c x
    rw [h]
  case checked =>
    intro u w c x h hx hstop hocc hread hbad hgroups hunits
    rw [launchCheck_passed hx hstop hocc hread hbad hgroups hunits]
    have hown : getSlot (launchRun w c x h) c = _ := (launchRun_slots w c x h c).trans (if_pos rfl)
    refine ⟨by rw [hown], by rw [hown], by rw [getCtx, hown]; rfl, fun r hr => launchRun_sregs w c x h hr, fun r hr i hi => launchRun_vlanes w c x h hr hi,
      fun d hd => (launchRun_slots w c x h d).trans (if_neg hd), ?_⟩
    obtain ⟨sr, vr, ma, g, a, sl, heq⟩ := launchRun_only w c x h
    rw [heq]

end Sys2Proof.Machine
end

section
/-! PROOFS. Tensor engines out of service and back, and the array patrol (R236 to R238, R412, R442, R447, R448, R459): O41. -/

namespace Sys2Proof.Machine

/-! ### Captures and refused launches -/

/-- A part of a capture on its way changes the stores of captures and Seam's counts of management messages (R410, R459). -/
theorem capSend_only (s : State) (x : CapFill) : ∃ er st, capSend s x = { s with err := er, stc := st } := by
  unfold capSend mgtSend
  dsimp only
  split
  · rename_i u hu
    split at hu
    · cases hu
      unfold capFill
      dsimp only
      split
      · exact ⟨_, _, rfl⟩
      · exact ⟨s.err, _, rfl⟩
    · cases hu
  · exact ⟨_, s.stc, rfl⟩

theorem foldl_capSend_only (l : List CapFill) (s : State) : ∃ er st, l.foldl capSend s = { s with err := er, stc := st } := by
  induction l generalizing s with
  | nil => exact ⟨s.err, s.stc, rfl⟩
  | cons x l ih =>
    obtain ⟨er, st, h⟩ := capSend_only s x
    obtain ⟨er', st', h'⟩ := ih { s with err := er, stc := st }
    exact ⟨er', st', by rw [List.foldl_cons, h, h']⟩

/-- A half's capture changes its stores, Seam's counts and the count of missed captures (R459). -/
theorem captureHalf_only (s : State) (h : HDie) (trigger : Nat) (one : Option TeId) :
    ∃ rf er st, captureHalf s h trigger one = { s with rf := rf, err := er, stc := st } := by
  unfold captureHalf
  dsimp only
  split
  · exact ⟨_, s.err, s.stc, rfl⟩
  · obtain ⟨er, st, h⟩ := foldl_capSend_only _ _
    exact ⟨s.rf, er, st, h⟩

theorem captureTe_only (s : State) (te : TeId) : ∃ rf er st, captureTe s te = { s with rf := rf, err := er, stc := st } := captureHalf_only ..

/-- Launches under affinity that are refused leave their engine's queue; Orfin's state and its link change with their completions (R237). -/
theorem getTe_refuseAffinity (s : State) (te u : TeId) : getTe (refuseAffinity s te) u
    = if u = te then { getTe s te with queue := (getTe s te).queue.filter fun l => !l.affinity } else getTe s u := by
  obtain ⟨o, g, h⟩ := refuseAffinity_only s te
  rw [h, ← getTe_setTe]
  rfl

theorem refuseAffinity_frame (s : State) (te : TeId) :
    ∃ tm o g, refuseAffinity s te = { s with eng := { s.eng with te := tm }, orf := o, fab := g } := by
  obtain ⟨o, g, h⟩ := refuseAffinity_only s te
  exact ⟨_, o, g, h⟩

/-- An engine whose state has changed refuses its launches under affinity. -/
theorem getTe_refuseAffinity_setTe (s : State) (te u : TeId) (v : Te) : getTe (refuseAffinity (setTe s te v) te) u
    = if u = te then { v with queue := v.queue.filter fun l => !l.affinity } else getTe s u := by
  rw [getTe_refuseAffinity, getTe_setTe, getTe_setTe, if_pos rfl]
  by_cases h : u = te
  · rw [if_pos h, if_pos h]
  · rw [if_neg h, if_neg h, if_neg h]

theorem refuseAffinity_setTe_frame (s : State) (te : TeId) (v : Te) :
    ∃ tm o g, refuseAffinity (setTe s te v) te = { s with eng := { s.eng with te := tm }, orf := o, fab := g } := by
  obtain ⟨tm, o, g, h⟩ := refuseAffinity_frame (setTe s te v) te
  exact ⟨tm, o, g, h⟩

/-! ### OUT, OUT_NOW and IN -/

section
variable {s : State} {te : TeId} {v : Te} (hrun : running s = true) (hv : v = getTe s te)
include hrun hv

theorem exec_teSvcOut_inService (hsvc : v.svc = .inService) :
    exec (.teSvcOut te) s = .next (refuseAffinity (setTe s te { v with svc := if slotsEmpty s te then .out else .draining }) te) := by
  subst hv
  rw [exec_teSvcOut, execTeSvcOut, clocked_running hrun, hsvc]
  rfl

theorem exec_teSvcOutNow_serving (hsvc : v.svc = .inService ∨ v.svc = .draining) : exec (.teSvcOutNow te) s
    = .next ((resident (leaveService (captureTe s te) te) te).foldl stopNow (leaveService (captureTe s te) te)) := by
  subst hv
  rw [exec_teSvcOutNow, execTeSvcOutNow, clocked_running hrun]
  rcases hsvc with h | h <;> rw [h] <;> rfl

/-- What OUT or OUT_NOW starts from: OUT_NOW captures the engine first (R459). -/
def outFrom (s : State) (te : TeId) (i : Instr) : State := if i = .teSvcOutNow te then captureTe s te else s

omit hrun hv in
theorem outFrom_te (s : State) (te u : TeId) (i : Instr) : getTe (outFrom s te i) u = getTe s u := by
  unfold outFrom
  split
  · obtain ⟨rf, er, st, h⟩ := captureTe_only s te
    rw [h]
    rfl
  · rfl
omit hrun hv in
theorem outFrom_only (s : State) (te : TeId) (i : Instr) : ∃ rf er st, outFrom s te i = { s with rf := rf, err := er, stc := st } := by
  unfold outFrom
  split
  · exact captureTe_only s te
  · exact ⟨s.rf, s.err, s.stc, rfl⟩

/-- An engine that is neither in service nor draining, and not out, goes by Table 8-4. -/
theorem exec_teSvcOut_else {i : Instr} (hi : i = .teSvcOut te ∨ i = .teSvcOutNow te) (hin : v.svc ≠ .inService) (hdr : v.svc ≠ .draining) (hout : v.svc ≠ .out) :
    exec i s = .next (outElse (outFrom s te i) te) := by
  subst hv
  rcases hi with rfl | rfl
  · rw [exec_teSvcOut, execTeSvcOut, clocked_running hrun, outFrom, if_neg nofun]
    cases hsvc : (getTe s te).svc <;> simp_all
  · rw [exec_teSvcOutNow, execTeSvcOutNow, clocked_running hrun, outFrom, if_pos rfl]
    cases hsvc : (getTe s te).svc <;> simp_all

theorem exec_teSvcOut_patrol {i : Instr} (hi : i = .teSvcOut te ∨ i = .teSvcOutNow te) (hsvc : v.svc = .patrol ∨ v.svc = .joining) :
    exec i s = .next (refuseAffinity (setTe (outFrom s te i) te { v with svc := .out }) te) := by
  rw [exec_teSvcOut_else hrun hv hi (by rcases hsvc with h | h <;> simp [h]) (by rcases hsvc with h | h <;> simp [h]) (by rcases hsvc with h | h <;> simp [h])]
  subst hv
  unfold outElse
  dsimp only
  rw [outFrom_te]
  rcases hsvc with h | h <;> rw [h]

theorem exec_teSvcOut_wiping {i : Instr} (hi : i = .teSvcOut te ∨ i = .teSvcOutNow te) (hsvc : v.svc = .wiping) :
    exec i s = .next (setTe (outFrom s te i) te { v with outNext := true }) := by
  rw [exec_teSvcOut_else hrun hv hi (by simp [hsvc]) (by simp [hsvc]) (by simp [hsvc])]
  subst hv
  unfold outElse
  dsimp only
  rw [outFrom_te, hsvc]

theorem exec_teSvcIn_draining (hsvc : v.svc = .draining) : exec (.teSvcIn te) s = .next (setTe s te { v with svc := .inService }) := by
  subst hv
  rw [exec_teSvcIn, execTeSvcIn, clocked_running hrun]
  dsimp only
  rw [hsvc]
theorem exec_teSvcIn_out (hsvc : v.svc = .out) : exec (.teSvcIn te) s
    = .next (setTe s te { v with svc := .wiping, failed := false, outNext := false, wipeEnd := cycleNow s + 2048 }) := by
  subst hv
  rw [exec_teSvcIn, execTeSvcIn, clocked_running hrun]
  dsimp only
  rw [hsvc]

/-! ### The wipe and the patrol pass of a returning engine -/

omit hrun hv in
theorem getTe_wipeTe (s : State) (te u : TeId) : getTe (wipeTe s te) u = if u = te then { getTe s te with shadowW := [], liveW := [] } else getTe s u := by
  rw [← getTe_setTe]
  rfl

/-- An engine at the end of its wipe, before what it becomes is settled (R238). -/
def engineWiped (s : State) (te : TeId) (v : Te) : State := wipeTe (advanceCycle s v.wipeEnd) te

section
variable (hphase : s.err.phase = 0) (hpow : tePowered s te = true)
include hphase hpow

theorem exec_teWipeEnd_wiping (hsvc : v.svc = .wiping) : exec (.teWipeEnd te) s = .next (
    if v.outNext = true then refuseAffinity (setTe (engineWiped s te v) te { v with svc := .out, outNext := false, shadowW := [], liveW := [] }) te
    else setTe (engineWiped s te v) te { v with svc := .patrol, shadowW := [], liveW := [], patrolAt := cycleNow (engineWiped s te v) }) := by
  have hseq : sequencersRun s = true := decide_eq_true hphase
  have hte : getTe (engineWiped s te v) te = { v with shadowW := [], liveW := [] } := by
    rw [engineWiped, getTe_wipeTe, if_pos rfl, hv]
    rfl
  subst hv
  rw [exec_teWipeEnd, execTeWipeEnd, clocked_running hrun]
  dsimp only
  rw [if_neg (by simp [hsvc, hseq, hpow]), show wipeTe (advanceCycle s (getTe s te).wipeEnd) te = engineWiped s te (getTe s te) from rfl, hte]

theorem exec_returnPatrolEnd_passed {f : Option (Fin 192 × W64)} (hsvc : v.svc = .patrol)
    (hf : ∀ x, f = some x → x.2 = Config.patrolSignature (192 * te.val + x.1.val)) : exec (.returnPatrolEnd te f) s = .next (
      let u := advanceCycle s (v.patrolAt + 49152)
      setTe u te { v with svc := .joining, patrolFail := false, lastGood := s.stc.count.toNat, patrolSlice := 0, patrolPart := 0, mustExercise := false
                          exercised := List.replicate 4 (cycleNow u) }) := by
  have hseq : sequencersRun s = true := decide_eq_true hphase
  have hnone : f.filter (fun f => decide (f.2 ≠ Config.patrolSignature (192 * te.val + f.1.val))) = none := by
    cases f with
    | none => rfl
    | some x => simp [hf x rfl]
  subst hv
  rw [exec_returnPatrolEnd, execReturnPatrolEnd, clocked_running hrun]
  dsimp only
  rw [if_neg (by simp [hsvc, hseq, hpow]), hnone]
  rfl

theorem exec_returnPatrolEnd_failed {x : Fin 192 × W64} (hsvc : v.svc = .patrol) (hx : x.2 ≠ Config.patrolSignature (192 * te.val + x.1.val)) :
    exec (.returnPatrolEnd te (some x)) s = .next (patrolFails (setTe (advanceCycle s (v.patrolAt + 49152)) te { v with svc := .out, failed := true }) te x.1.val x.2) := by
  have hseq : sequencersRun s = true := decide_eq_true hphase
  have hsome : (some x).filter (fun f : Fin 192 × W64 => decide (f.2 ≠ Config.patrolSignature (192 * te.val + f.1.val))) = some x := by simp [hx]
  subst hv
  rw [exec_returnPatrolEnd, execReturnPatrolEnd, clocked_running hrun]
  dsimp only
  rw [if_neg (by simp [hsvc, hseq, hpow]), hsome]
end
end

/-! ### A patrol slice -/

section
variable {s u : State} {te : TeId} {v n : Te} {run part : Nat} (hrun : running s = true) (hv : v = getTe s te) (hphase : s.err.phase = 0)
  (hpow : tePowered s te = true) (hsvc : v.svc = .inService ∨ v.svc = .draining) (hboot : s.boot.phase = 8) (hidle : v.running = none) (hfl : v.flights = [])
  (hlen : run = if v.mustExercise then 256 else min (256 - v.patrolPart) (patrolMin s.stc.period + fieldR s Reg.stcPatrol 23 0 - v.patrolUsed))
  (hsome : run ≠ 0) (hpart : part = if v.mustExercise then 256 else v.patrolPart + run) (hu : u = advanceCycle (accountArray s te) (cycleNow s + run))
  (hn : n = { v with patrolUsed := v.patrolUsed + run, patrolPart := if part < 256 then part else 0, patrolSums := some s.draws, occupiedFrom := cycleNow s + run })
include hu

theorem getTe_sliceRun (w : TeId) : ∃ o, getTe u w = { getTe s w with occupiedFrom := o } := by
  obtain ⟨o, h⟩ := getTe_accountArray s te w
  rw [hu]
  exact ⟨o, h⟩

theorem sliceRun_only : ∃ nw tm sl, u = { s with now := nw, eng := { s.eng with te := tm, slots := sl } } := by
  obtain ⟨tm, sl, h⟩ := accountArray_only s te
  rw [hu, h]
  exact ⟨_, tm, sl, rfl⟩

include hrun hv hphase hpow hsvc hboot hidle hfl hlen hsome hpart hn

/-- Between MMAs a slice, or the stretch of it that the allowance leaves, runs; where it ends its signature is compared (R412, R447, R448). -/
theorem exec_patrolSlice_runs (o : W64) : exec (.patrolSlice te o) s = .next (
    if part < 256 then setTe { u with draws := s.draws + 1 } te n
    else
      let e := { n with exercised := v.exercised.set v.form.code (cycleNow s + run), mustExercise := false }
      if o ≠ Config.patrolSignature (192 * te.val + v.patrolSlice) then patrolFails (setTe { u with draws := s.draws + 1 } te e) te v.patrolSlice o
      else setTe { u with draws := s.draws + 1 } te { e with patrolSlice := if v.patrolSlice = 191 then 0 else v.patrolSlice + 1
                                                             lastGood := if v.patrolSlice = 191 then s.stc.count.toNat else v.lastGood }) := by
  have hseq : sequencersRun s = true := decide_eq_true hphase
  have hserves : (decide (v.svc = .inService ∨ v.svc = .draining) && decide (s.boot.phase = 8) && sequencersRun s && tePowered s te) = true := by
    simp [hsvc, hboot, hseq, hpow]
  have hcyc : cycleNow u = cycleNow s + run := by
    rw [hu, ← cycleNow_accountArray s te]
    exact cycleNow_advanceCycle _ _ (Nat.le_add_right ..)
  have hdraws : draw u = (s.draws, { u with draws := s.draws + 1 }) := by
    obtain ⟨nw, tm, sl, h⟩ := sliceRun_only hu
    rw [h]
    rfl
  have hstc : u.stc = s.stc := by
    obtain ⟨nw, tm, sl, h⟩ := sliceRun_only hu
    rw [h]
  obtain ⟨oc, hte⟩ := getTe_sliceRun hu te
  rw [exec_patrolSlice, execPatrolSlice, clocked_running hrun]
  dsimp only
  rw [← hv, hserves, hidle, hfl]
  simp only [Option.isNone_none, List.isEmpty_nil, Bool.and_true, Bool.or_true, Bool.not_true, Bool.false_or, ← hlen, hsome, decide_false,
    Bool.false_eq_true, if_false, ← hpart, cycleNow_accountArray, ← hu, hdraws]
  generalize hw : ({ u with draws := s.draws + 1 } : State) = w
  have hget : getTe w te = { v with occupiedFrom := oc } := by rw [← hw, hv]; exact hte
  simp only [hget, hcyc, hstc, hn, hidle, Option.map_none, decide_eq_true_eq]
end

/-! ### A stopped context's end -/

theorem exec_contextStopComplete_done {s : State} {c : CtxId} {x : Ctx} {i : StopInfo} (hrun : running s = true) (hx : getCtx s c = some x)
    (hi : x.stop = some i) (hops : x.ops = []) (hbuf : ∀ w ∈ writeBuf s (clusterOf c.te), w.ctx ≠ c) :
    exec (.contextStopComplete c) s = .next (emptySlot s c 0x05 i.cls) := by
  have hdone : handedOffDone s c = true := by
    simp only [handedOffDone, hx, hops, List.isEmpty_nil, Bool.true_and, List.all_eq_true, decide_eq_true_eq]
    exact hbuf
  rw [exec_contextStopComplete, execContextStopComplete, clocked_running hrun]
  simp only [hx, Option.bind_some, hi, hdone, if_true]

/-- A slot that a context has left: it is empty, its launch's completion is due, and an engine that drained may be out (R219, R237, R442). -/
theorem emptySlot_spec {s : State} {c : CtxId} {x : Ctx} (status detail : Nat) (hx : getCtx s c = some x) :
    let t := emptySlot s c status detail
    (∀ d, getSlot t d = if d = c then { getSlot s c with occ := .empty, ctx := none, queue := [], progress := [], stalled := [] } else getSlot s d)
      ∧ (∀ u, getTe t u = if u = c.te ∧ (getTe s u).svc = .draining ∧ (∀ k, k ≠ c.slot → (getSlot s ⟨u, k⟩).occ = .empty) then { getTe s u with svc := .out } else getTe s u)
      ∧ t.orf = (finishLaunch s x.launch status detail c.te.val c.slot.val).orf
      ∧ t = { s with eng := { s.eng with te := t.eng.te, slots := t.eng.slots }, cl := { s.cl with lastLine := t.cl.lastLine, readAhead := t.cl.readAhead }, orf := t.orf, fab := t.fab } := by
  intro t
  have ht : t = _ := emptySlot_eq status detail hx
  generalize hfreed : { setSlot s c { getSlot s c with occ := .empty, ctx := none, queue := [], progress := [], stalled := [] } with
      orf := (finishLaunch s x.launch status detail c.te.val c.slot.val).orf
      fab := (finishLaunch s x.launch status detail c.te.val c.slot.val).fab
      cl := { s.cl with
        lastLine := smErase s.cl.lastLine (ctxKey c)
        readAhead := smSet [] s.cl.readAhead (clusterOf c.te).val ((smGet [] s.cl.readAhead (clusterOf c.te).val).filter fun e => decide (e.1 ≠ c)) } } = v at ht
  have hslots : ∀ d, getSlot v d = if d = c then { getSlot s c with occ := .empty, ctx := none, queue := [], progress := [], stalled := [] } else getSlot s d :=
    fun d => by rw [← hfreed, ← getSlot_setSlot]; rfl
  have hte : ∀ u, getTe v u = getTe s u := fun u => by rw [← hfreed]; rfl
  have hempty := slotsEmpty_of_emptied (s := s) (u := v) (c := c) (by rw [hslots, if_pos rfl]) fun d hd => by rw [hslots, if_neg hd]
  rw [ht]
  refine ⟨fun d => ?_, fun u => ?_, ?_, ?_⟩
  · rw [svcCheck_only]
    exact hslots d
  · rw [getTe_svcCheck, hte, hte]
    by_cases hu : u = c.te
    · subst hu
      exact if_congr (by simp only [true_and, hempty]) rfl rfl
    · rw [if_neg (fun h => hu h.1), if_neg (fun h => hu h.1)]
  · rw [svcCheck_only, ← hfreed]
  · rw [svcCheck_only, ← hfreed]
    rfl

/-! ### The stores of a wiped engine -/

section
variable (s : State) (te : TeId) (v : Te)

theorem engineWiped_tiles {a u : Nat} (ha : a < 2097152) : smGet 0 (engineWiped s te v).eng.tiles (2097152 * u + a)
    = if u = te.val then 0 else smGet 0 s.eng.tiles (2097152 * u + a) :=
  (smGet_clear (m := s.eng.tiles) (2097152 * te.val) (2097152 * (te.val + 1)) (2097152 * u + a)).trans (if_congr (by omega) rfl rfl)

theorem engineWiped_acc {h i : Nat} (hh : h < 8) (hi : i < 16384) : accAt (engineWiped s te v) te h i = 0 :=
  (smGet_clear (m := s.eng.acc) (131072 * te.val) (131072 * (te.val + 1)) ((8 * te.val + h) * 16384 + i)).trans (if_pos (by omega))

theorem engineWiped_sregs (k : SlotId) {r : Nat} (hr : r < 32) : sreg (engineWiped s te v) ⟨te, k⟩ r = 0 := by
  have hk := k.isLt
  unfold sreg
  split
  · rfl
  · exact (smGet_clear (m := s.eng.sregs) (128 * te.val) (128 * (te.val + 1)) (32 * ctxKey ⟨te, k⟩ + r)).trans (if_pos (by simp only [ctxKey]; omega))

theorem engineWiped_te (u : TeId) (h : u ≠ te) : getTe (engineWiped s te v) u = getTe s u := by
  rw [engineWiped, getTe_wipeTe, if_neg h]
  rfl

theorem engineWiped_only : ∃ nw tm ti er ac sr vr ma, engineWiped s te v
    = { s with now := nw, eng := { s.eng with te := tm, tiles := ti, tileErr := er, acc := ac, sregs := sr, vregs := vr, masks := ma } } :=
  ⟨_, _, _, _, _, _, _, _, rfl⟩

theorem engineWiped_now : cycT v.wipeEnd ≤ (engineWiped s te v).now := Nat.le_max_right ..

/-- What a wiped engine becomes: it goes out where OUT has come in the meantime, else its patrol pass begins (R238). -/
def wipeSettled : State :=
  if v.outNext = true then refuseAffinity (setTe (engineWiped s te v) te { v with svc := .out, outNext := false, shadowW := [], liveW := [] }) te
  else setTe (engineWiped s te v) te { v with svc := .patrol, shadowW := [], liveW := [], patrolAt := cycleNow (engineWiped s te v) }

/-- What a wiped engine becomes changes its own state, and with refused launches Orfin's and its link's. -/
theorem wipeSettled_frame : ∃ tm o g, wipeSettled s te v = { engineWiped s te v with eng := { (engineWiped s te v).eng with te := tm }, orf := o, fab := g } := by
  unfold wipeSettled
  split
  · exact refuseAffinity_setTe_frame ..
  · exact ⟨_, (engineWiped s te v).orf, (engineWiped s te v).fab, rfl⟩

theorem getTe_wipeSettled (u : TeId) : getTe (wipeSettled s te v) u = if u = te then
      (if v.outNext then { v with svc := .out, outNext := false, shadowW := [], liveW := [], queue := v.queue.filter (fun l => !l.affinity) }
        else { v with svc := .patrol, shadowW := [], liveW := [], patrolAt := cycleNow (wipeSettled s te v) }) else getTe s u := by
  have hcyc : cycleNow (wipeSettled s te v) = cycleNow (engineWiped s te v) := by
    obtain ⟨tm, o, g, h⟩ := wipeSettled_frame s te v
    rw [h]
    rfl
  rw [hcyc]
  unfold wipeSettled
  by_cases hu : u = te
  · subst hu
    split
    · rw [getTe_refuseAffinity_setTe, if_pos rfl, if_pos rfl]
    · rw [getTe_setTe, if_pos rfl, if_pos rfl]
  · rw [if_neg hu]
    split
    · rw [getTe_refuseAffinity_setTe, if_neg hu, engineWiped_te s te v u hu]
    · rw [getTe_setTe, if_neg hu, engineWiped_te s te v u hu]
end

/-- A patrol interval inside the stitch has begun at a time (R412). -/
def intervalBegun (s : State) (at_ : Nat) : State := { advanceTo s at_ with stc := { s.stc with patrolIntervals := s.stc.patrolIntervals + 1 } }

theorem intervalBegun_frame (s : State) (at_ : Nat) (m : SMap Te) :
    { intervalBegun s at_ with eng := { (intervalBegun s at_).eng with te := m } }
      = { s with now := max s.now at_, stc := { s.stc with patrolIntervals := s.stc.patrolIntervals + 1 }, eng := { s.eng with te := m } } := by
  simp only [intervalBegun, advanceTo]

/-- With a patrol interval every engine's allowance begins anew (R412). -/
theorem intervalBegun_spec (s : State) (at_ : Nat) :
    let t := newAllowance (intervalBegun s at_)
    (∀ u, getTe t u = { getTe s u with patrolUsed := 0 }) ∧ at_ ≤ t.now
      ∧ t = { s with now := t.now, stc := { s.stc with patrolIntervals := s.stc.patrolIntervals + 1 }, eng := { s.eng with te := t.eng.te } } := by
  intro t
  obtain ⟨hte, honly⟩ := newAllowances_spec allTes (intervalBegun s at_)
  have ht : t = _ := honly
  have ht' := ht.trans (intervalBegun_frame s at_ t.eng.te)
  have hnow : t.now = max s.now at_ := congrArg State.now ht'
  refine ⟨fun u => (hte u).trans (if_pos (List.mem_finRange u)), ?_, ?_⟩ <;> rw [hnow]
  · exact Nat.le_max_right s.now at_
  · exact ht'

/-- Settles O41. -/
theorem engineService : Obligations.EngineService := by
  refine ⟨?service, ?returning, ?interval, ?stopped⟩
  case service =>
    intro s te v i hrun hv hi
    refine ⟨fun hsvc => ⟨_, exec_teSvcOut_inService hrun hv hsvc, ?_⟩, exec_teSvcOutNow_serving hrun hv, fun hsvc => ⟨_, exec_teSvcOut_patrol hrun hv hi hsvc, ?_⟩,
      exec_teSvcOut_wiping hrun hv hi, exec_teSvcIn_draining hrun hv, exec_teSvcIn_out hrun hv⟩
    · subst hv
      refine ⟨fun u => getTe_refuseAffinity_setTe .., ?_⟩
      obtain ⟨tm, o, g, h⟩ := refuseAffinity_setTe_frame s te { getTe s te with svc := if slotsEmpty s te then .out else .draining }
      rw [h]
    · obtain ⟨tm, o, g, h⟩ := refuseAffinity_setTe_frame (outFrom s te i) te { v with svc := .out }
      refine ⟨fun u => ?_, fun hout => ?_, ?_⟩
      · rw [getTe_refuseAffinity_setTe, outFrom_te]
      · rw [h, hout]
        exact ⟨rfl, rfl, rfl⟩
      · obtain ⟨rf, er, st, h'⟩ := outFrom_only s te i
        rw [h, h']
  case returning =>
    intro s te v hrun hv hphase hpow
    refine ⟨fun hsvc => ⟨wipeSettled s te v, exec_teWipeEnd_wiping hrun hv hphase hpow hsvc, ?_⟩, fun f hsvc => ⟨fun hf => ⟨_,
      exec_returnPatrolEnd_passed hrun hv hphase hpow hsvc hf, fun u => getTe_setTe .., Nat.le_max_right .., rfl⟩, fun x hf hx => ?_⟩, ?_⟩
    · obtain ⟨tm, o, g, h⟩ := wipeSettled_frame s te v
      have hte := getTe_wipeSettled s te v
      obtain ⟨nw, tm', ti, er, ac, sr, vr, ma, honly⟩ := engineWiped_only s te v
      rw [h] at hte ⊢
      refine ⟨fun a ha u => engineWiped_tiles s te v ha, fun hh hh8 i hi => engineWiped_acc s te v hh8 hi, fun k r hr => engineWiped_sregs s te v k hr, hte,
        engineWiped_now s te v, ?_⟩
      rw [honly]
    · rw [hf]
      exact exec_returnPatrolEnd_failed hrun hv hphase hpow hsvc hx
    · intro o run part u n hsvc hboot hidle hfl hlen hsome hpart hu hn
      have hex := exec_patrolSlice_runs hrun hv hphase hpow hsvc hboot hidle hfl hlen hsome hpart hu hn o
      refine ⟨fun hlt => hex.trans (congrArg _ (if_pos hlt)), fun hle hsig => ⟨_, hex.trans (congrArg _ ((if_neg (Nat.not_lt.2 hle)).trans (if_neg fun h => h hsig))), ?_⟩,
        fun hle hsig => hex.trans (congrArg _ ((if_neg (Nat.not_lt.2 hle)).trans (if_pos hsig)))⟩
      refine ⟨fun w => ?_, ?_, ?_⟩
      · rw [getTe_setTe]
        by_cases hw : w = te
        · rw [if_pos hw, if_pos hw]
        · rw [if_neg hw, if_neg hw, ← getTe_accountArray_ne s hw, hu]
          rfl
      · refine Eq.trans ?_ (cycleNow_advanceCycle (accountArray s te) (cycleNow s + run) (by rw [cycleNow_accountArray]; exact Nat.le_add_right ..))
        rw [hu]
        rfl
      · obtain ⟨nw, tm, sl, h⟩ := sliceRun_only hu
        rw [h]
        rfl
  case interval =>
    intro s hrun hlt
    refine ⟨newAllowance (intervalBegun s _), ?_, fun u => (intervalBegun_spec s _).1 u, (intervalBegun_spec s _).2.1, (intervalBegun_spec s _).2.2⟩
    rw [exec_patrolInterval, execPatrolInterval, clocked_running hrun]
    exact congrArg _ (if_neg (Nat.not_le.2 hlt))
  case stopped =>
    intro s c x i hrun hx hi hops hbuf
    exact ⟨_, exec_contextStopComplete_done hrun hx hi hops hbuf, emptySlot_spec 0x05 i.cls hx⟩

end Sys2Proof.Machine
end

section
/-! PROOFS. Memory controllers: sensors, refresh, arbitration, scrub and repair (R247 to R255, R410, R411): O42. -/

namespace Sys2Proof.Machine

/-! ### Sensors -/

/-- A stack's controller has taken a state at a time (R250, R252). -/
def sensed (s : State) (at_ : Nat) (c : CtrlId) (v : Ctrl) : State := setCtrl (advanceTo s at_) c v

theorem getCtrl_sensed (s : State) (at_ : Nat) (c d : CtrlId) (v : Ctrl) : getCtrl (sensed s at_ c v) d = if d = c then v else getCtrl s d := getCtrl_setCtrl ..
theorem sensed_now (s : State) (at_ : Nat) (c : CtrlId) (v : Ctrl) : at_ ≤ (sensed s at_ c v).now := Nat.le_max_right s.now at_
theorem sensed_only (s : State) (at_ : Nat) (c : CtrlId) (v : Ctrl) : ∃ n m, sensed s at_ c v = { s with now := n, ctrls := m } := ⟨_, _, rfl⟩

/-- STK_STATUS and THM_STATUS are two registers. -/
theorem stkStatus_ne_thmStatus : ∀ st : StackId, (Reg.stkStatus st).addr ≠ Reg.thmStatus.addr := by decide
/-- STK_STATUS is none of the registers that a record can change. -/
theorem stkStatus_no_queue : ∀ (st : StackId) (i : HDie), (Reg.stkStatus st).addr ≠ (Reg.errQDrop i).addr ∧ (Reg.stkStatus st).addr ≠ (Reg.errQStatus i).addr := by decide

/-! ### Serving -/

/-- A served request leaves the queue and is counted under its class and activity (R248, R411). -/
def servedCtrl (v : Ctrl) (i : Nat) (r : MemReq) : Ctrl :=
  if r.cls = .p2 then { v with
    reqs := v.reqs.eraseIdx i, p2Served := v.p2Served + 1, turn := p2Activity r.kind
    migServed := v.migServed + (if p2Activity r.kind = 0 then 1 else 0), mirServed := v.mirServed + (if p2Activity r.kind = 1 then 1 else 0)
    scrubServed := v.scrubServed + (if p2Activity r.kind = 2 then 1 else 0) }
  else { v with reqs := v.reqs.eraseIdx i, p0p1Served := v.p0p1Served + 1 }

theorem serveReq_of {s : State} {c : CtrlId} {i : Nat} {r : MemReq} (h : (getCtrl s c).reqs[i]? = some r) :
    serveReq s c i = setCtrl s c (servedCtrl (getCtrl s c) i r) := by
  unfold serveReq servedCtrl
  dsimp only
  rw [h]
  dsimp only
  cases hc : r.cls <;> simp only [reduceCtorEq, if_true, if_false]

/-- A line of scrub is counted, and the next line follows (R411). -/
def scrubbed (v : Ctrl) (last : Prop) [Decidable last] : Ctrl := { v with
  scrubNext := if last then 0 else v.scrubNext + 1, scrubPasses := v.scrubPasses + (if last then 1 else 0)
  scrubServed := v.scrubServed + 1, p2Served := v.p2Served + 1, turn := 2 }

/-- What scrub reads a line from: the state in which a line of the deep tier has asked for its check line (R245). -/
def scrubFrom (s : State) (c : CtrlId) : State :=
  if c.val < 12 then s else (needCheck s (c.val - 12) .p2 (rangeAddr c (getCtrl s c).scrubNext / 64) .scrub).1

theorem scrubLine_spec {s u : State} {c : CtrlId} {y : Bad ⊕ Line} (h : decodeRaw (scrubFrom s c) (rangeAddr c (getCtrl (scrubFrom s c) c).scrubNext) = (u, y)) :
    ∃ rf er, scrubLine s c = { setCtrl u c (scrubbed (getCtrl u c) (rangeLines c ≤ (getCtrl (scrubFrom s c) c).scrubNext + 1)) with rf := rf, err := er }
      ∧ ((∃ v, y = .inr v) → rf = u.rf ∧ er = u.err) := by
  unfold scrubFrom at h ⊢
  unfold scrubLine
  dsimp only
  rw [h]
  simp only [decide_eq_true_eq]
  cases y with
  | inl b =>
    obtain ⟨rf, er, hp⟩ := place_frame (setCtrl u c (scrubbed (getCtrl u c) (rangeLines c ≤ (getCtrl (if c.val < 12 then s else (needCheck s (c.val - 12) .p2 (rangeAddr c (getCtrl s c).scrubNext / 64) .scrub).1) c).scrubNext + 1)))
      { cls := b.cls, action := 3, cause := b.cause, die := ctrlDie c, addr := b.addr, d0 := b.d0, d1 := b.d1 }
    exact ⟨rf, er, hp, fun ⟨_, hv⟩ => nomatch hv⟩
  | inr v => exact ⟨u.rf, u.err, rfl, fun _ => ⟨rfl, rfl⟩⟩

theorem exec_controllerServe_request {s : State} {c : CtrlId} {i : Nat} {r : MemReq} (hrun : running s = true) (hc : ctrlRuns s c = true)
    (hn : nextServe s c = .req i) (hr : (getCtrl s c).reqs[i]? = some r) :
    exec (.controllerServe c) s = .next (noteProgress (setCtrl s c (servedCtrl (getCtrl s c) i r)) 6 c.val) := by
  rw [exec_controllerServe, execControllerServe, clocked_running hrun]
  simp only [hc, hn, Bool.not_true, Bool.false_eq_true, if_false, serveReq_of hr]

theorem exec_controllerServe_scrub {s : State} {c : CtrlId} (hrun : running s = true) (hc : ctrlRuns s c = true) (hn : nextServe s c = .scrub) :
    exec (.controllerServe c) s = .next (noteProgress (scrubLine s c) 6 c.val) := by
  rw [exec_controllerServe, execControllerServe, clocked_running hrun]
  simp only [hc, hn, Bool.not_true, Bool.false_eq_true, if_false]

/-- The oldest P1 request that is not promoted is promoted, once it has aged (R248). -/
theorem exec_p1Promote_of {s : State} {c : CtrlId} {i : Nat} {r : MemReq} (hrun : running s = true)
    (hi : (getCtrl s c).reqs.findIdx? (fun r => decide (r.cls = .p1) && !r.promoted) = some i) (hr : (getCtrl s c).reqs[i]? = some r) :
    exec (.p1Promote c) s = .next (sensed s (r.since + usT (fieldR s (ctrlPrio c) 39 32)) c { getCtrl s c with reqs := (getCtrl s c).reqs.set i { r with promoted := true } }) := by
  rw [exec_p1Promote, execP1Promote, clocked_running hrun]
  simp only [hi, hr, Option.map_some, Option.getD_some, sensed, List.modify_eq_set_getElem?]
  rfl

/-! ### Repair -/

/-- What a repair command of the test window does (R254, R255, Table 9-4). -/
theorem exec_repair {s : State} {st : StackId} {w : W64} {i : Instr} (hrun : running s = true) (hi : i = .laneRepair st w ∨ i = .softPpr st w ∨ i = .hardPpr st w) :
    exec i s = .next (testCommand s st w) := by
  obtain rfl | rfl | rfl := hi
  · rw [exec_laneRepair, execLaneRepair, clocked_running hrun]
  · rw [exec_softPpr, execSoftPpr, clocked_running hrun]
  · rw [exec_hardPpr, execHardPpr, clocked_running hrun]

theorem testCommand_refused {s : State} {st : StackId} (w : W64) (h : testOpen s st = false ∨ (getCtrl s (stackCtrl st)).busy = true) :
    testCommand s st w = raise s (Reg.stkStatus st) 18 := if_pos (by
  obtain h | h := h <;> simp [h])

theorem testCommand_open {s : State} {st : StackId} (w : W64) (h : testOpen s st = true) (hb : (getCtrl s (stackCtrl st)).busy = false) :
    testCommand s st w = setCtrl s (stackCtrl st) (if repairOk w then { getCtrl s (stackCtrl st) with busy := true, testCmd := w } else { getCtrl s (stackCtrl st) with testCmd := w, result := 3 }) := by
  unfold testCommand
  dsimp only
  rw [if_neg (by simp [h, hb])]
  split <;> rfl

/-- A repair command ends without a repair: no spare is left, or it fails (R254, R255). -/
theorem exec_repairDone_without {s : State} {st : StackId} {res : Fin 4} {k : Ctrl} (r : Nat) (hrun : running s = true) (hk : k = getCtrl s (stackCtrl st)) (hb : k.busy = true)
    (hr : (if noSpare s st k.testCmd then 1 else res.val) = r) (h0 : r ≠ 0) :
    exec (.repairDone st res) s = .next (setCtrl s (stackCtrl st) { k with busy := false, result := r }) := by
  subst hk
  rw [exec_repairDone, execRepairDone, clocked_running hrun]
  dsimp only
  rw [if_neg (by simp [hb]), hr, if_pos h0]

/-- A controller whose repair has mapped a lane to its spare (R254). -/
def laneMapped (k : Ctrl) (w : W64) : Ctrl :=
  { k with busy := false, result := 0, lanes := smSet 0 k.lanes (8 * (bits w 8 3 / 2) + bits w 41 39) (bits w 38 32 + 1) }
/-- A controller whose repair has replaced a row, which holds undefined contents (R254, R255). -/
def rowReplaced (k : Ctrl) (w : W64) (n : Nat) : Ctrl :=
  { k with busy := false, result := 0, undef := ⟨w, n, []⟩ :: k.undef, softUsed := if bits w 2 0 = 2 then k.softUsed ++ [64 * bits w 13 9 + bits w 8 3] else k.softUsed, pprUsed := if bits w 2 0 = 3 then smMod 0 k.pprUsed (bits w 8 3) (· + 1) else k.pprUsed }

theorem exec_repairDone_lane {s : State} {st : StackId} {k : Ctrl} (hrun : running s = true) (hk : k = getCtrl s (stackCtrl st)) (hb : k.busy = true)
    (hw : bits k.testCmd 2 0 = 1) : exec (.repairDone st 0) s = .next (setCtrl s (stackCtrl st) (laneMapped k k.testCmd)) := by
  have hspare : noSpare s st k.testCmd = false := by
    unfold noSpare
    rw [hw]
    rfl
  subst hk
  rw [exec_repairDone, execRepairDone, clocked_running hrun]
  dsimp only
  rw [if_neg (by simp [hb]), hspare, if_neg (by simp), hw]
  rfl

theorem exec_repairDone_row {s : State} {st : StackId} {k : Ctrl} (hrun : running s = true) (hk : k = getCtrl s (stackCtrl st)) (hb : k.busy = true)
    (hw : bits k.testCmd 2 0 = 2 ∨ bits k.testCmd 2 0 = 3) (hspare : noSpare s st k.testCmd = false) :
    exec (.repairDone st 0) s = .next (setCtrl { s with draws := s.draws + 1 } (stackCtrl st) (rowReplaced k k.testCmd s.draws)) := by
  subst hk
  rw [exec_repairDone, execRepairDone, clocked_running hrun]
  dsimp only
  rw [if_neg (by simp [hb]), hspare, if_neg (by simp)]
  unfold rowReplaced
  obtain hw | hw := hw <;> rw [hw] <;> rfl

theorem exec_stackSensorRead_reads {s : State} {st : StackId} {temp : Byte} (hrun : running s = true) : exec (.stackSensorRead st temp) s = .next (
    if 105 ≤ temp.toNat then raise (raise (sensed s ((getCtrl s (stackCtrl st)).lastValid + usT 1) (stackCtrl st)
      { getCtrl s (stackCtrl st) with temp := temp.toNat, maxTemp := max (getCtrl s (stackCtrl st)).maxTemp temp.toNat, lastValid := max s.now ((getCtrl s (stackCtrl st)).lastValid + usT 1), sensorFailed := false, rate := max (getCtrl s (stackCtrl st)).rate (riseRate temp.toNat) })
      (Reg.stkStatus st) 16) Reg.thmStatus 6
    else sensed s ((getCtrl s (stackCtrl st)).lastValid + usT 1) (stackCtrl st)
      { getCtrl s (stackCtrl st) with temp := temp.toNat, maxTemp := max (getCtrl s (stackCtrl st)).maxTemp temp.toNat, lastValid := max s.now ((getCtrl s (stackCtrl st)).lastValid + usT 1), sensorFailed := false, rate := max (getCtrl s (stackCtrl st)).rate (riseRate temp.toNat) }) := by
  rw [exec_stackSensorRead, execStackSensorRead, clocked_running hrun]
  rfl

theorem exec_stackSensorFail_first {s : State} {st : StackId} (hrun : running s = true) (hf : (getCtrl s (stackCtrl st)).sensorFailed = false) :
    exec (.stackSensorFail st) s = .next (place (raise (sensed s ((getCtrl s (stackCtrl st)).lastValid + usT 1000) (stackCtrl st) { getCtrl s (stackCtrl st) with rate := 2, sensorFailed := true }) (Reg.stkStatus st) 17)
      { cls := 0x34, action := 3, cause := 0x01, die := stackDie st.val, d0 := BitVec.ofNat 64 st.val }) := by
  rw [exec_stackSensorFail, execStackSensorFail, clocked_running hrun]
  exact congrArg _ (if_neg (by simp [hf]))

/-- A flag of STK_STATUS stands behind its record. -/
theorem stkFlag_placed (t : State) (st : StackId) (r : Rec) : flagR (place (raise t (Reg.stkStatus st) 17) r) (Reg.stkStatus st) 17 = true
    ∧ ∃ rf er, place (raise t (Reg.stkStatus st) 17) r = { t with rf := rf, err := er } := by
  obtain ⟨rf, er, hp⟩ := place_frame (raise t (Reg.stkStatus st) 17) r
  exact ⟨(flagR_place _ r 17 (stkStatus_no_queue st)).trans (flagR_raise _ _ (by omega)), rf, er, hp⟩

/-- Two raised flags of a state that holds a reading: both are set, and only registers change. -/
theorem two_raised (t : State) {p q : Reg} {a b : Nat} (h : p.addr ≠ q.addr) (ha : a < 64) (hb : b < 64) :
    flagR (raise (raise t p a) q b) p a = true ∧ flagR (raise (raise t p a) q b) q b = true ∧ ∃ rf, raise (raise t p a) q b = { t with rf := rf } :=
  ⟨(flagR_raise_ne _ _ _ h).trans (flagR_raise _ _ ha), flagR_raise _ _ hb, _, rfl⟩

/-- What a controller's queue, turn and marks change (R248, R410). -/
theorem served_only (s : State) (c : CtrlId) (v : Ctrl) : noteProgress (setCtrl s c v) 6 c.val
    = { s with ctrls := (setCtrl s c v).ctrls, err := { s.err with progress := smSet false s.err.progress (24576 + c.val) true } } := rfl

/-- Settles O42. -/
theorem controllersServe : Obligations.ControllersServe := by
  refine ⟨?sensors, ?indication, ?serve, ?promote, ?repair, ?done⟩
  case sensors =>
    intro s st v hrun hv
    subst hv
    refine ⟨fun temp => ⟨_, exec_stackSensorRead_reads hrun, ?_⟩, fun hf => ?_, ?_⟩
    · generalize hx : ({ getCtrl s (stackCtrl st) with temp := temp.toNat, maxTemp := max (getCtrl s (stackCtrl st)).maxTemp temp.toNat, lastValid := max s.now ((getCtrl s (stackCtrl st)).lastValid + usT 1), sensorFailed := false, rate := max (getCtrl s (stackCtrl st)).rate (riseRate temp.toNat) } : Ctrl) = x
      have hget := fun d => getCtrl_sensed s ((getCtrl s (stackCtrl st)).lastValid + usT 1) (stackCtrl st) d x
      have hnow := sensed_now s ((getCtrl s (stackCtrl st)).lastValid + usT 1) (stackCtrl st) x
      obtain ⟨hot, therm, rf, hr⟩ := two_raised (sensed s ((getCtrl s (stackCtrl st)).lastValid + usT 1) (stackCtrl st) x) (stkStatus_ne_thmStatus st) (a := 16) (b := 6) (by omega) (by omega)
      split
      next h => exact ⟨by rw [hr]; subst hx; exact hget, by rw [hr]; exact hnow, fun _ => ⟨hot, therm⟩, fun h' => absurd h (by omega), by rw [hr]; rfl⟩
      next h => exact ⟨by subst hx; exact hget, hnow, fun h' => absurd h' h, fun _ => rfl, rfl⟩
    · refine ⟨_, exec_stackSensorFail_first hrun hf, ?_⟩
      generalize hx : ({ getCtrl s (stackCtrl st) with rate := 2, sensorFailed := true } : Ctrl) = x
      obtain ⟨hflag, rf, er, hp⟩ := stkFlag_placed (sensed s ((getCtrl s (stackCtrl st)).lastValid + usT 1000) (stackCtrl st) x) st
        { cls := 0x34, action := 3, cause := 0x01, die := stackDie st.val, d0 := BitVec.ofNat 64 st.val }
      refine ⟨?_, ?_, hflag, ?_⟩ <;> rw [hp]
      · exact fun d => getCtrl_sensed s _ _ d x
      · exact sensed_now s _ (stackCtrl st) x
      · rfl
    · exact ⟨_, (by rw [exec_refresh, execRefresh, clocked_running hrun]), fun c => getCtrl_setCtrl .., rfl⟩
  case indication =>
    intro s pkg code h hrun hh
    have hdie : (if pkg.val < 9 then (0 : HDie) else 1) = h := by
      split
      next hp => exact (hh.2 hp).symm
      next hp => exact (Fin.eq_one_of_ne_zero h (mt hh.1 hp)).symm
    refine ⟨_, (by rw [exec_lpddrRefreshIndication, execLpddrRefreshIndication, clocked_running hrun, hdie]), fun c => ?_, fun c => ?_, rfl⟩ <;> rw [getCtrl_setCtrl]
    · split
      next hc => rw [hc]
      next => rfl
    · split
      next hc => rw [hc]
      next => rfl
  case serve =>
    intro s c v hrun hc hv
    subst hv
    refine ⟨fun i r hn hr => ⟨_, exec_controllerServe_request hrun hc hn hr, fun d => getCtrl_setCtrl .., served_only ..⟩, ?_⟩
    intro w x u y n hn hw hx hdec hnu
    have hw' : w = scrubFrom s c := hw
    subst hx hnu hw'
    obtain ⟨rf, er, hline, hkept⟩ := scrubLine_spec hdec
    refine ⟨_, exec_controllerServe_scrub hrun hc hn, ?_⟩
    rw [hline]
    refine ⟨fun d => getCtrl_setCtrl .., fun hy => ?_, rfl⟩
    obtain ⟨rfl, rfl⟩ := hkept hy
    exact ⟨rfl, rfl⟩
  case promote =>
    intro s c i r hrun hi hr
    exact ⟨_, exec_p1Promote_of hrun hi hr, fun d => getCtrl_sensed .., sensed_now .., rfl⟩
  case repair =>
    intro s st w i k hrun hk hi
    subst hk
    rw [exec_repair hrun hi]
    exact ⟨fun h hb hw => by rw [testCommand_open w h hb, hw]; rfl, fun h hb hw => by rw [testCommand_open w h hb, hw]; rfl, fun h => by rw [testCommand_refused w h]⟩
  case done =>
    intro s st res k w hrun hk hb hw
    subst hw
    refine ⟨fun hs => exec_repairDone_without 1 hrun hk hb (by rw [hs]; rfl) (by omega), fun hs h0 => exec_repairDone_without res.val hrun hk hb (by rw [hs]; rfl) (Fin.val_ne_of_ne h0), ?_, ?_⟩
    · rintro rfl hone
      exact exec_repairDone_lane hrun hk hb hone
    · rintro rfl htwo hspare
      exact ⟨_, exec_repairDone_row hrun hk hb htwo hspare, fun c => getCtrl_setCtrl .., rfl⟩

end Sys2Proof.Machine
end

section
/-! PROOFS. Die caches: disable, enable, invalidation and quarantined lines (R264 to R269): O43. -/

namespace Sys2Proof.Machine

/-! ### The registers of a die cache -/

theorem dcCtrl_ne_dcStatus : ∀ d : CDie, (Reg.dcCtrl d).addr ≠ (Reg.dcStatus d).addr := by decide
/-- The registers of a die cache are none of those that a record can change. -/
theorem dcRegs_no_queue : ∀ (d : CDie) (i : HDie), ((Reg.dcCtrl d).addr ≠ (Reg.errQDrop i).addr ∧ (Reg.dcCtrl d).addr ≠ (Reg.errQStatus i).addr)
    ∧ (Reg.dcStatus d).addr ≠ (Reg.errQDrop i).addr ∧ (Reg.dcStatus d).addr ≠ (Reg.errQStatus i).addr := by decide

/-! ### Disable, enable and invalidation -/

theorem exec_dcDisable_of {s : State} {d : CDie} (hrun : running s = true) (he : dcEnabled s d = true) : exec (.dcDisable d) s = .next
    { raise (lower s (Reg.dcCtrl d) 0) (Reg.dcStatus d) 0 with coh := { s.coh with unclean := smSet false s.coh.unclean d.val true } } := by
  rw [exec_dcDisable, execDcDisable, clocked_running hrun]
  exact congrArg _ (if_pos he)

theorem exec_dcDisableDone_of {s : State} {d : CDie} (hrun : running s = true) (hc : bitAt s.brd.clockLost d.val = false) (hd : dcDisabling s d = true) :
    exec (.dcDisableDone d) s = .next (lower ((waysOf s d.val).foldl (fun s e => releaseWay s d e) s) (Reg.dcStatus d) 0) := by
  rw [exec_dcDisableDone, execDcDisableDone, onDie_running hrun hc]
  exact congrArg _ (if_pos hd)

/-- Enabling a cache sets ENABLE; a stale enable is flagged, with a record (R266). -/
theorem dcOn_spec {s : State} {d : CDie} (he : dcEnabled s d = false) : flagR (dcOn s d) (Reg.dcCtrl d) 0 = true
    ∧ (smGet false s.coh.unclean d.val = true → flagR (dcOn s d) (Reg.dcStatus d) 2 = true)
    ∧ (smGet false s.coh.unclean d.val = false → (dcOn s d).err = s.err) ∧ ∃ rf er, dcOn s d = { s with rf := rf, err := er } := by
  have hon : dcOn s d = (if smGet false s.coh.unclean d.val then
      place (raise (raise s (Reg.dcCtrl d) 0) (Reg.dcStatus d) 2) { cls := 0x33, action := 3, cause := 0x01, die := d.val }
    else raise s (Reg.dcCtrl d) 0) := if_neg (by simp [he])
  rw [hon]
  have hen := flagR_raise s (Reg.dcCtrl d) (b := 0) (by omega)
  split
  next hu =>
    have hctrl := fun i => (dcRegs_no_queue d i).1
    have hst := fun i => (dcRegs_no_queue d i).2
    obtain ⟨rf, er, hp⟩ := place_frame (raise (raise s (Reg.dcCtrl d) 0) (Reg.dcStatus d) 2) { cls := 0x33, action := 3, cause := 0x01, die := d.val }
    refine ⟨?_, fun _ => ?_, fun h => absurd hu (by simp [h]), rf, er, hp⟩
    · rw [flagR_place _ _ _ hctrl, flagR_raise_ne _ _ _ (dcCtrl_ne_dcStatus d)]
      exact hen
    · rw [flagR_place _ _ _ hst]
      exact flagR_raise _ _ (by omega)
  next hu => exact ⟨hen, fun h => absurd h hu, fun _ => rfl, _, s.err, rfl⟩

theorem exec_dcInval_of {s : State} {d : CDie} (hrun : running s = true) (he : dcEnabled s d = false) (hd : dcDisabling s d = false) :
    exec (.dcInval d) s = .next { raise s (Reg.dcStatus d) 1 with coh := { s.coh with invalEnd := smSet 0 s.coh.invalEnd d.val (cycleNow s + 8192) } } := by
  rw [exec_dcInval, execDcInval, clocked_running hrun]
  exact congrArg _ (if_pos (by simp [he, hd]))

theorem exec_dcInval_refused {s : State} {d : CDie} (hrun : running s = true) (h : dcEnabled s d = true ∨ dcDisabling s d = true) :
    exec (.dcInval d) s = .next (raise s (Reg.dcStatus d) 4) := by
  rw [exec_dcInval, execDcInval, clocked_running hrun]
  exact congrArg _ (if_neg (by obtain h | h := h <;> simp [h]))

/-- A cache whose invalidation has ended, its ways dropped (R265). -/
def invalidated (u : State) (d : CDie) : State :=
  { lower u (Reg.dcStatus d) 1 with coh := { u.coh with unclean := smSet false u.coh.unclean d.val false, invalEnd := smSet 0 u.coh.invalEnd d.val 0 } }

theorem exec_dcInvalDone_of {s : State} {d : CDie} (hrun : running s = true) (hc : bitAt s.brd.clockLost d.val = false) (hf : flagR s (Reg.dcStatus d) 1 = true) :
    exec (.dcInvalDone d) s = .next (invalidated ((waysOf s d.val).foldl (dropWay d) (advanceCycle s (smGet 0 s.coh.invalEnd d.val))) d) := by
  rw [exec_dcInvalDone, execDcInvalDone, onDie_running hrun hc]
  refine congrArg _ ((if_neg (by simp [hf])).trans ?_)
  rfl

theorem invalidated_spec (u : State) (d : CDie) : flagR (invalidated u d) (Reg.dcStatus d) 1 = false ∧ smGet false (invalidated u d).coh.unclean d.val = false
    ∧ ∃ rf a b, invalidated u d = { u with rf := rf, coh := { u.coh with unclean := a, invalEnd := b } } := by
  refine ⟨flagR_lower u _ (by omega), ?_, _, _, _, rfl⟩
  simp only [invalidated, smGet_set_self]

/-! ### Quarantined lines (R269) -/

/-- A slot of the slice that names the released way (Table 9-6). -/
def namesWay (die key line : Nat) (e : Nat × W64) : Prop :=
  e.1 / 16 = 16 * die + cacheSlice die line ∧ bits e.2 63 6 = line ∧ bits e.2 5 2 = key % 16

/-- The way and the slots of a quarantined line are released (R269). -/
def slotReleased (s : State) (die key line : Nat) (keep : Bool) : State :=
  { s with coh := { s.coh with ways := smSet {} s.coh.ways key { retired := keep }, qslots := s.coh.qslots.filter fun e =>
    !(decide (16 * (16 * die + cacheSlice die line) ≤ e.1) && decide (e.1 < 16 * (16 * die + cacheSlice die line) + 16) && decide (bits e.2 63 6 = line) && decide (bits e.2 5 2 = key % 16)) } }

theorem slotReleased_qslots {s : State} {die key line : Nat} {keep : Bool} {e : Nat × W64} (h : e ∈ (slotReleased s die key line keep).coh.qslots) :
    e ∈ s.coh.qslots ∧ ¬ namesWay die key line e := by
  obtain ⟨hmem, hnot⟩ := List.mem_filter.1 h
  refine ⟨hmem, fun ⟨hslot, hline, hway⟩ => ?_⟩
  have hlo : 16 * (16 * die + cacheSlice die line) ≤ e.1 := by omega
  have hhi : e.1 < 16 * (16 * die + cacheSlice die line) + 16 := by omega
  simp [hlo, hhi, hline, hway] at hnot

theorem ways_slotReleased (s : State) (die key line : Nat) (keep : Bool) (k : Nat) :
    smGet {} (slotReleased s die key line keep).coh.ways k = if k = key then { retired := keep } else smGet {} s.coh.ways k := by
  simp only [slotReleased, smGet_set]

theorem slotReleased_only (s : State) (die key line : Nat) (keep : Bool) :
    ∃ a b, slotReleased s die key line keep = { s with coh := { s.coh with ways := a, qslots := b } } := ⟨_, _, rfl⟩

theorem getCopy_slotReleased (s : State) (die key line : Nat) (keep : Bool) (a l : Nat) : getCopy (slotReleased s die key line keep) a l = getCopy s a l := by
  obtain ⟨w, q, h⟩ := slotReleased_only s die key line keep
  rw [h]
  rfl

theorem setCopy_only (u : State) (a line : Nat) (c : Copy) : ∃ m, setCopy u a line c = { u with coh := { u.coh with copies := m } } := ⟨_, rfl⟩
theorem setDir_only (u : State) (line : Nat) (e : DirEntry) : ∃ dir, setDir u line e = { u with coh := { u.coh with dir := dir } } := ⟨_, rfl⟩

/-- The home of a released line, and the copy that a C-die's cache held of it, change the directory and the copies (R269). -/
theorem released_frame (u : State) (die line : Nat) (e : DirEntry) :
    ∃ dir, dirDrop (setCopy (setDir u line e) (80 + die) line {}) line (80 + die) = { setCopy u (80 + die) line {} with coh := { (setCopy u (80 + die) line {}).coh with dir := dir } } := by
  obtain ⟨dir, hdrop⟩ := dirDrop_only (setCopy (setDir u line e) (80 + die) line {}) line (80 + die)
  exact ⟨dir, hdrop⟩

theorem qcmd_some {s : State} {die key line : Nat} {keep : Bool} {v : W64} (h : qcmdTarget s die v = some (key, line)) :
    ∃ e, qcmd s die keep v = (if die < 4 then dirDrop (setCopy (setDir (slotReleased s die key line keep) line e) (80 + die) line {}) line (80 + die)
      else setDir (slotReleased s die key line keep) line e) := by
  refine ⟨{ getDir (slotReleased s die key line keep) line with pinned := (List.range 6).any fun c => isQuar (slotReleased s die key line keep) c line }, ?_⟩
  unfold qcmd slotReleased
  rw [h]
  dsimp only [setWayKey]

/-- A released line: its way and slots, and on a C-die the copy that its cache held (R269). -/
theorem qcmd_released {s : State} {die key line : Nat} {keep : Bool} {v : W64} (h : qcmdTarget s die v = some (key, line)) :
    ∃ dir, qcmd s die keep v = (if die < 4 then
      { setCopy (slotReleased s die key line keep) (80 + die) line {} with coh := { (setCopy (slotReleased s die key line keep) (80 + die) line {}).coh with dir := dir } }
      else { slotReleased s die key line keep with coh := { (slotReleased s die key line keep).coh with dir := dir } }) := by
  obtain ⟨e, h⟩ := qcmd_some (keep := keep) h
  rw [h]
  by_cases hd : die < 4
  · obtain ⟨dir, h⟩ := released_frame (slotReleased s die key line keep) die line e
    exact ⟨dir, (if_pos hd).trans (h.trans (if_pos hd).symm)⟩
  · obtain ⟨dir, h⟩ := setDir_only (slotReleased s die key line keep) line e
    exact ⟨dir, (if_neg hd).trans (h.trans (if_neg hd).symm)⟩

theorem exec_qcmd {s : State} {die : Fin 6} {v : W64} {i : Instr} {keep : Bool} (hrun : running s = true)
    (hi : i = .qcmdDiscard die v ∧ keep = false ∨ i = .qcmdRetire die v ∧ keep = true) : exec i s = .next (qcmd s die.val keep v) := by
  obtain ⟨rfl, rfl⟩ | ⟨rfl, rfl⟩ := hi
  · rw [exec_qcmdDiscard, execQcmdDiscard, clocked_running hrun]
  · rw [exec_qcmdRetire, execQcmdRetire, clocked_running hrun]

/-- A QCMD that names no quarantined line is refused in the status register of its die (R269). -/
theorem qcmd_refused {s : State} {die : Fin 6} {keep : Bool} {v : W64} (h : qcmdTarget s die.val v = none) :
    ∃ r b, (die.val < 4 → r = Reg.dcStatus (Fin.ofNat 4 die.val) ∧ b = 4) ∧ (die.val = 4 → r = Reg.lpdStatus 0 ∧ b = 0) ∧ (die.val = 5 → r = Reg.lpdStatus 1 ∧ b = 0)
      ∧ qcmd s die.val keep v = raise s r b := by
  unfold qcmd
  rw [h]
  dsimp only
  by_cases hd : die.val < 4
  · have hdie : (⟨die.val, hd⟩ : CDie) = Fin.ofNat 4 die.val := Fin.ext (Nat.mod_eq_of_lt hd).symm
    exact ⟨_, 4, fun _ => ⟨rfl, rfl⟩, fun h4 => absurd hd (by omega), fun h5 => absurd hd (by omega), by rw [dif_pos hd, hdie]⟩
  · refine ⟨_, 0, fun h' => absurd h' hd, fun h4 => ⟨?_, rfl⟩, fun h5 => ⟨?_, rfl⟩, dif_neg hd⟩
    · rw [if_pos h4]
    · rw [if_neg (by omega)]

/-- Settles O43. -/
theorem dieCacheControl : Obligations.DieCacheControl := by
  intro s d hrun
  refine ⟨fun he => ⟨_, exec_dcDisable_of hrun he, ?_⟩, fun hc hd => ⟨_, exec_dcDisableDone_of hrun hc hd, _, rfl, flagR_lower _ _ (by omega), rfl⟩,
    fun he => ⟨_, (by rw [exec_dcEnable, execDcEnable, clocked_running hrun]), ?_⟩, fun he hd => ⟨_, exec_dcInval_of hrun he hd, ?_⟩,
    exec_dcInval_refused hrun, fun hc hf => ⟨_, exec_dcInvalDone_of hrun hc hf, _, rfl, ?_⟩, fun die v i keep hi => ⟨fun key line ht => ⟨_, exec_qcmd hrun hi, ?_⟩, fun ht => ?_⟩⟩
  · refine ⟨?_, flagR_raise (lower s (Reg.dcCtrl d) 0) _ (by omega), fun e => by dsimp only; exact smGet_set .., rfl⟩
    exact (flagR_raise_ne (lower s (Reg.dcCtrl d) 0) 0 0 (dcCtrl_ne_dcStatus d)).trans (flagR_lower s _ (by omega))
  · obtain ⟨hen, hstale, herr, rf, er, h⟩ := dcOn_spec he
    exact ⟨hen, hstale, herr, by rw [h]⟩
  · exact ⟨flagR_raise s _ (by omega), fun e => by dsimp only; exact smGet_set .., rfl⟩
  · obtain ⟨hf', hu, rf, a, b, h⟩ := invalidated_spec ((waysOf s d.val).foldl (dropWay d) (advanceCycle s (smGet 0 s.coh.invalEnd d.val))) d
    exact ⟨hf', hu, by rw [h]⟩
  · obtain ⟨dir, h⟩ := qcmd_released (keep := keep) ht
    have hways := ways_slotReleased s die.val key line keep
    have hslots : ∀ e, e ∈ (slotReleased s die.val key line keep).coh.qslots → e ∈ s.coh.qslots ∧ ¬ namesWay die.val key line e := fun e => slotReleased_qslots
    have hcopy : ∀ a l, getCopy (slotReleased s die.val key line keep) a l = getCopy s a l := getCopy_slotReleased s die.val key line keep
    obtain ⟨ways, slots, honly⟩ := slotReleased_only s die.val key line keep
    rw [h]
    generalize slotReleased s die.val key line keep = u at hways hslots hcopy honly ⊢
    by_cases hd : die.val < 4
    · have hget : ∀ a < 128, ∀ l, getCopy (setCopy u (80 + die.val) line {}) a l = if a = 80 + die.val ∧ l = line then {} else getCopy u a l :=
        fun a ha l => getCopy_setCopy u {} (by omega) ha
      obtain ⟨copies, hcp⟩ := setCopy_only u (80 + die.val) line {}
      rw [hcp] at hget ⊢
      rw [if_pos hd]
      refine ⟨hways, hslots, fun a ha l => ?_, by rw [honly]⟩
      rw [if_congr (show (die.val < 4 ∧ a = 80 + die.val ∧ l = line) ↔ (a = 80 + die.val ∧ l = line) from and_iff_right hd) rfl rfl, ← hcopy]
      exact hget a ha l
    · rw [if_neg hd]
      refine ⟨hways, hslots, fun a ha l => ?_, by rw [honly]⟩
      rw [if_neg (fun h => hd h.1), ← hcopy]
      rfl
  · obtain ⟨r, b, h1, h2, h3, h4⟩ := qcmd_refused (keep := keep) ht
    exact ⟨r, b, h1, h2, h3, by rw [exec_qcmd hrun hi, h4]⟩

end Sys2Proof.Machine
end

section
/-! PROOFS. Translation caches, their invalidations, and the tier map (R281 to R291): O44. -/

namespace Sys2Proof.Machine

/-! ### The keys of a sparse map -/

theorem mem_keys_smErase {α : Type} (m : SMap α) (k j : Nat) : j ∈ (smErase m k).map (·.1) ↔ j ≠ k ∧ j ∈ m.map (·.1) := by
  induction m with
  | nil => simp [smErase]
  | cons e m ih =>
    obtain ⟨i, v⟩ := e
    by_cases hi : i = k
    · simp only [smErase, if_pos hi, ih, List.map_cons, List.mem_cons]
      constructor
      · exact fun h => ⟨h.1, Or.inr h.2⟩
      · exact fun h => ⟨h.1, h.2.resolve_left fun hj => h.1 (hj.trans hi)⟩
    · simp only [smErase, if_neg hi, List.map_cons, List.mem_cons, ih]
      constructor
      · rintro (rfl | h)
        · exact ⟨hi, Or.inl rfl⟩
        · exact ⟨h.1, Or.inr h.2⟩
      · rintro ⟨hj, rfl | h⟩
        · exact Or.inl rfl
        · exact Or.inr ⟨hj, h⟩

theorem mem_keys_smInsert {α : Type} (m : SMap α) (k : Nat) (v : α) (j : Nat) : j ∈ (smInsert m k v).map (·.1) ↔ j = k ∨ j ∈ m.map (·.1) := by
  induction m with
  | nil => simp [smInsert]
  | cons e m ih =>
    obtain ⟨i, w⟩ := e
    by_cases hk : k < i
    · simp only [smInsert, if_pos hk, List.map_cons, List.mem_cons]
    · simp only [smInsert, if_neg hk, List.map_cons, List.mem_cons, ih]
      exact or_left_comm

/-- A key that takes a listed value is listed. -/
theorem mem_keys_smSet {α : Type} [DecidableEq α] {d v : α} (m : SMap α) (k j : Nat) (h : v ≠ d) :
    j ∈ (smSet d m k v).map (·.1) ↔ j = k ∨ j ∈ m.map (·.1) := by
  rw [smSet, if_neg h, mem_keys_smInsert, mem_keys_smErase]
  exact ⟨fun h => h.imp_right And.right, fun h => (em (j = k)).imp_right fun hj => ⟨hj, h.resolve_left hj⟩⟩

/-! ### Segments of translation caches -/

/-- A segment that a translation cache holds under a key. -/
def HoldsSeg (m : SMap (List SegEntry)) (k : Nat) (g : SegEntry) : Prop := ∃ l, (k, l) ∈ m ∧ g ∈ l

/-- What `dropSegs` leaves of the caches under some keys (R283). -/
def cleaned (p : XltPend) (here : Nat → Bool) (m : SMap (List SegEntry)) : SMap (List SegEntry) :=
  (m.map fun e => if here e.1 then (e.1, e.2.filter fun g => !(pendCovers p g.table g.index)) else e).filter fun e => decide (e.2 ≠ [])

theorem holdsSeg_cleaned (p : XltPend) (here : Nat → Bool) (m : SMap (List SegEntry)) (k : Nat) (g : SegEntry) :
    HoldsSeg (cleaned p here m) k g ↔ HoldsSeg m k g ∧ (here k = true → pendCovers p g.table g.index = false) := by
  constructor
  · rintro ⟨l, hl, hg⟩
    obtain ⟨⟨i, l'⟩, hmem, he⟩ := List.mem_map.1 (List.mem_filter.1 hl).1
    dsimp only at he
    split at he
    next hh =>
      obtain ⟨rfl, rfl⟩ := Prod.mk.inj he
      obtain ⟨hg', hc⟩ := List.mem_filter.1 hg
      exact ⟨⟨l', hmem, hg'⟩, fun _ => by simpa using hc⟩
    next hh =>
      obtain ⟨rfl, rfl⟩ := Prod.mk.inj he
      exact ⟨⟨l', hmem, hg⟩, fun h => absurd h hh⟩
  · rintro ⟨⟨l, hmem, hg⟩, hc⟩
    by_cases hh : here k = true
    · have hg' : g ∈ l.filter fun g => !(pendCovers p g.table g.index) := List.mem_filter.2 ⟨hg, by simp [hc hh]⟩
      exact ⟨_, List.mem_filter.2 ⟨List.mem_map.2 ⟨(k, l), hmem, if_pos hh⟩, decide_eq_true (List.ne_nil_of_mem hg')⟩, hg'⟩
    · exact ⟨l, List.mem_filter.2 ⟨List.mem_map.2 ⟨(k, l), hmem, if_neg hh⟩, decide_eq_true (List.ne_nil_of_mem hg)⟩, hg⟩

theorem dropSegs_eq (s : State) (p : XltPend) (d : CDie) : dropSegs s p d = { s with cl := { s.cl with
    xlt := cleaned p (fun k => decide (k / 16 = d.val)) s.cl.xlt, dieXlt := cleaned p (fun k => decide (k = d.val)) s.cl.dieXlt } } := rfl

/-! ### An invalidation on its way (R283, R285) -/

/-- An invalidation that has been sent to some C-dies: those that Seam reaches have it, and their caches have dropped what it covers. -/
structure SentTo (s : State) (h : Nat) (p : XltPend) (done : List CDie) (u : State) : Prop where
  pend : ∃ q, getPend u h = some q ∧ q = { p with reached := q.reached } ∧ ∀ d : CDie, d.val ∈ q.reached.map (·.1) ↔ d ∈ done ∧ diesJoined s [4, d.val] = true
  others : ∀ j, j ≠ h → getPend u j = getPend s j
  cluster : ∀ d : CDie, ∀ c, c / 16 = d.val → ∀ g, HoldsSeg u.cl.xlt c g ↔ HoldsSeg s.cl.xlt c g ∧ (d ∈ done → diesJoined s [4, d.val] = true → pendCovers p g.table g.index = false)
  die : ∀ d : CDie, ∀ g, HoldsSeg u.cl.dieXlt d.val g ↔ HoldsSeg s.cl.dieXlt d.val g ∧ (d ∈ done → diesJoined s [4, d.val] = true → pendCovers p g.table g.index = false)
  frame : ∃ a b c e, u = { s with cl := { s.cl with xlt := a, dieXlt := b }, xlt := { s.xlt with era := c, pend := e } }

/-- A C-die that Seam does not reach now, or that has it already, is left as it is. -/
theorem xltReach_same {u : State} {h : Nat} {d : CDie} {q : XltPend} (hq : getPend u h = some q) (hd : d.val ∈ q.reached.map (·.1) ∨ diesJoined u [4, d.val] = false) :
    xltReach u h d = u := by
  unfold xltReach
  rw [hq]
  refine if_pos ?_
  obtain hd | hd := hd
  · rw [List.contains_iff_mem.2 hd]
    rfl
  · rw [hd]
    simp

/-- A C-die that Seam reaches drops what the invalidation covers and is noted with the era (R283). -/
theorem xltReach_new {u : State} {h : Nat} {d : CDie} {q : XltPend} (hq : getPend u h = some q) (hd : d.val ∉ q.reached.map (·.1)) (hj : diesJoined u [4, d.val] = true) :
    xltReach u h d = setPend (dropSegs { u with xlt := { u.xlt with era := u.xlt.era + 1 } } q d) h (some { q with reached := smSet 0 q.reached d.val (u.xlt.era + 1) }) := by
  unfold xltReach
  rw [hq]
  refine if_neg ?_
  rw [hj, Bool.not_true, Bool.or_false]
  exact fun h => hd (List.contains_iff_mem.1 h)

theorem pendCovers_reached (p : XltPend) (m : SMap Nat) (t i : Nat) : pendCovers { p with reached := m } t i = pendCovers p t i := rfl

theorem SentTo.step {s u : State} {h : Nat} {p : XltPend} {done : List CDie} (hs : SentTo s h p done u) (d : CDie) : SentTo s h p (done ++ [d]) (xltReach u h d) := by
  obtain ⟨⟨q, hq, hqp, hreach⟩, hothers, hcl, hdie, a, b, c, e, hu⟩ := hs
  have hjoin : ∀ l, diesJoined u l = diesJoined s l := fun l => by rw [hu]; rfl
  by_cases hnew : d.val ∉ q.reached.map (·.1) ∧ diesJoined u [4, d.val] = true
  · obtain ⟨hd, hj⟩ := hnew
    have hj' : diesJoined s [4, d.val] = true := (hjoin _).symm.trans hj
    have hcov : ∀ t i, pendCovers q t i = pendCovers p t i := fun t i => by rw [hqp, pendCovers_reached]
    rw [xltReach_new hq hd hj, dropSegs_eq]
    refine ⟨⟨_, (getPend_setPend ..).trans (if_pos rfl), ?_, fun k => ?_⟩, fun j hne => (getPend_setPend ..).trans ((if_neg hne).trans (hothers j hne)), fun k c hc g => ?_, fun k g => ?_, ?_⟩
    · rw [hqp]
    · rw [mem_keys_smSet _ _ _ (Nat.succ_ne_zero _), hreach k, List.mem_append, List.mem_singleton]
      constructor
      · rintro (hk | ⟨hk, hkj⟩)
        · exact ⟨Or.inr (Fin.ext hk), by rw [hk]; exact hj'⟩
        · exact ⟨Or.inl hk, hkj⟩
      · rintro ⟨hk | rfl, hkj⟩
        · exact Or.inr ⟨hk, hkj⟩
        · exact Or.inl rfl
    · refine (holdsSeg_cleaned q (fun k => decide (k / 16 = d.val)) u.cl.xlt c g).trans ?_
      rw [hcl k c hc g, hcov, List.mem_append, List.mem_singleton, decide_eq_true_iff, hc, ← Fin.ext_iff, and_assoc]
      refine and_congr_right fun _ => ⟨fun ⟨h1, h2⟩ hk hkj => hk.elim (fun hk => h1 hk hkj) h2, fun h => ⟨fun hk => h (Or.inl hk), fun hk => h (Or.inr hk) (by rw [hk]; exact hj')⟩⟩
    · refine (holdsSeg_cleaned q (fun k => decide (k = d.val)) u.cl.dieXlt k.val g).trans ?_
      rw [hdie k g, hcov, List.mem_append, List.mem_singleton, decide_eq_true_iff, ← Fin.ext_iff, and_assoc]
      refine and_congr_right fun _ => ⟨fun ⟨h1, h2⟩ hk hkj => hk.elim (fun hk => h1 hk hkj) h2, fun h => ⟨fun hk => h (Or.inl hk), fun hk => h (Or.inr hk) (by rw [hk]; exact hj')⟩⟩
    · subst hu
      exact ⟨_, _, _, _, rfl⟩
  · have hold : d.val ∈ q.reached.map (·.1) ∨ diesJoined u [4, d.val] = false := by
      by_cases hd : d.val ∈ q.reached.map (·.1)
      · exact Or.inl hd
      · exact Or.inr (by simpa using fun hj => hnew ⟨hd, hj⟩)
    have hin : ∀ k : CDie, diesJoined s [4, k.val] = true → (k ∈ done ++ [d] ↔ k ∈ done) := by
      intro k hkj
      rw [List.mem_append, List.mem_singleton]
      refine ⟨fun hk => hk.elim id ?_, Or.inl⟩
      rintro rfl
      obtain hd | hd := hold
      · exact ((hreach k).1 hd).1
      · rw [hjoin, hkj] at hd
        cases hd
    rw [xltReach_same hq hold]
    refine ⟨⟨q, hq, hqp, fun k => (hreach k).trans (and_congr_left fun hkj => (hin k hkj).symm)⟩, hothers, fun k c hc g => (hcl k c hc g).trans ?_, fun k g => (hdie k g).trans ?_, a, b, c, e, hu⟩
    · exact and_congr_right fun _ => ⟨fun h hk hkj => h ((hin k hkj).1 hk) hkj, fun h hk hkj => h ((hin k hkj).2 hk) hkj⟩
    · exact and_congr_right fun _ => ⟨fun h hk hkj => h ((hin k hkj).1 hk) hkj, fun h hk hkj => h ((hin k hkj).2 hk) hkj⟩

theorem SentTo.fold {s : State} {h : Nat} {p : XltPend} (l : List CDie) {done : List CDie} {u : State} (hs : SentTo s h p done u) :
    SentTo s h p (done ++ l) (l.foldl (fun s d => xltReach s h d) u) := by
  induction l generalizing done u with
  | nil => rwa [List.append_nil]
  | cons d l ih =>
    rw [List.foldl_cons, List.append_cons]
    exact ih (hs.step d)

/-- A hart's new invalidation, sent to no C-die yet. -/
def xltBegun (s : State) (h : Nat) (p : XltPend) : State := setPend { s with xlt := { s.xlt with era := s.xlt.era + 1 } } h (some p)

theorem sentTo_begun {s : State} {h : Nat} {p : XltPend} (hp : p.reached = []) : SentTo s h p [] (xltBegun s h p) where
  pend := ⟨p, (getPend_setPend ..).trans (if_pos rfl), rfl, fun d => by simp [hp]⟩
  others := fun j hj => (getPend_setPend ..).trans (if_neg hj)
  cluster := fun d c _ g => by simp [xltBegun, setPend]
  die := fun d g => by simp [xltBegun, setPend]
  frame := ⟨_, _, _, _, rfl⟩

theorem exec_xltInval_sent {s : State} {h : Hart} {v : W64} {p : XltPend} (hrun : running s = true)
    (hp : p = ⟨bits v 1 0, bits v 7 4, bits v 51 8 * 256, [], s.xlt.era + 1, 0, false, s.now, []⟩) (hv : bits v 1 0 ≠ 3) (hn : getPend s h.val = none) :
    exec (.xltInval h v) s = .next ((List.finRange 4).foldl (fun s d => xltReach s h.val d) (xltBegun s h.val p)) := by
  subst hp
  rw [exec_xltInval, execXltInval, clocked_running hrun]
  exact congrArg _ (if_neg (by simp [hv, hn]))

theorem exec_xltInval_refused {s : State} {h : Hart} {v : W64} (hrun : running s = true) (hbad : bits v 1 0 = 3 ∨ getPend s h.val ≠ none) :
    exec (.xltInval h v) s = .next (raise s (Reg.xltStatus h.val) 1) := by
  rw [exec_xltInval, execXltInval, clocked_running hrun]
  exact congrArg _ (if_pos (hbad.imp_right Option.isSome_iff_ne_none.2))

theorem exec_xltAck_of {s u : State} {d : CDie} {h : Hart} {p : XltPend} (hrun : running s = true) (hu : u = xltReach s h.val d) (hp : getPend u h.val = some p)
    (hd : xltDrained u d p = true) (hf : xltFirst u d p = true) (hj : diesJoined u [4, d.val] = true) (hnew : d ∉ p.acked) :
    exec (.xltAck d h) s = .next (setPend u h.val (if (p.acked ++ [d]).length < 4 then some { p with acked := p.acked ++ [d] } else none)) := by
  rw [exec_xltAck, execXltAck, clocked_running hrun, ← hu]
  have hcontains : p.acked.contains d = false := by
    rw [← Bool.not_eq_true, List.contains_iff_mem]
    exact hnew
  simp only [hp, hd, hf, hj, Bool.and_self, if_true, xltAcked, hcontains, Bool.false_eq_true, if_false]
  rw [← ite_not, if_congr (show ¬ 4 ≤ (p.acked ++ [d]).length ↔ (p.acked ++ [d]).length < 4 by omega) rfl rfl]

/-! ### An invalidation that is overdue (R286) -/

theorem xltStatus_no_queue (h : Nat) (hh : h < 80) (i : HDie) : (Reg.xltStatus h).addr ≠ (Reg.errQDrop i).addr ∧ (Reg.xltStatus h).addr ≠ (Reg.errQStatus i).addr := by
  have hi := i.isLt
  constructor <;> simp only [Reg.xltStatus, Reg.errQDrop, Reg.errQStatus, regBase] <;> omega

/-- An invalidation of a hart that is OVERDUE. -/
def xltLate (s : State) (h : Nat) (p : XltPend) : State := setPend (raise s (Reg.xltStatus h) 2) h (some { p with overdue := true })

/-- The record of an overdue invalidation, with the dies that are missing (R286). -/
def xltLateRec (h : Hart) (p : XltPend) : Rec :=
  { cls := 0x30, action := 3, cause := p.scope, die := 4, addr := BitVec.ofNat 64 p.table, d0 := BitVec.ofNat 64 h.val
    d1 := BitVec.ofNat 64 ((List.finRange 4).map fun d : CDie => if p.acked.contains d then 0 else 2 ^ d.val).sum }

theorem exec_xltOverdue_of {s : State} {h : Hart} {p : XltPend} (hrun : running s = true) (hp : getPend s h.val = some p) (ho : p.overdue = false) (hb : p.boundaries ≠ 0) :
    exec (.xltOverdue h) s = .next (place (xltLate s h.val p) (xltLateRec h p)) := by
  rw [exec_xltOverdue, execXltOverdue, clocked_running hrun]
  simp only [hp, ho, hb, decide_false, Bool.or_self, Bool.false_eq_true, if_false]
  rfl

theorem xltLate_placed (s : State) (h : Nat) (hh : h < 80) (p : XltPend) (r : Rec) :
    let t := place (xltLate s h p) r
    (∀ j, getPend t j = if j = h then some { p with overdue := true } else getPend s j) ∧ flagR t (Reg.xltStatus h) 2 = true
      ∧ t = { s with rf := t.rf, err := t.err, xlt := { s.xlt with pend := t.xlt.pend } } := by
  intro t
  have hflag : flagR t (Reg.xltStatus h) 2 = true := (flagR_place _ r 2 (xltStatus_no_queue h hh)).trans (flagR_raise s _ (by omega))
  obtain ⟨rf, er, hp⟩ := place_frame (xltLate s h p) r
  have ht : t = _ := hp
  exact ⟨fun j => by rw [ht]; exact getPend_setPend .., hflag, by rw [ht]; rfl⟩

/-! ### Entries of the tier map (R289, R290) -/

section
variable {s : State} {k : Nat} {v : W64}

/-- What a write leaves in an entry: its RW fields (Table 10-6). -/
def mapNew (e v : W64) : W64 := withDeep ((e &&& ~~~mapRw) ||| (v &&& mapRw))

theorem writeMap_new (h0 : bitAt (mapEntry s k) 0 = false) (hv : bitAt v 0 = true) (hf : slabFree s k (bits v 31 8) = true) (h3 : bits v 3 3 = 0) (h56 : bits v 63 56 = 0) :
    writeMap s k v = setMap s k (mapNew (mapEntry s k) v) := by
  unfold writeMap
  dsimp only
  rw [if_pos (by simp [h0]), if_neg (by simp [hv]), if_pos (by simp [hf, h3, h56])]
  rfl

theorem writeMap_unfree (h0 : bitAt (mapEntry s k) 0 = false) (hv : bitAt v 0 = true) (hf : slabFree s k (bits v 31 8) = false ∨ bits v 3 3 ≠ 0 ∨ bits v 63 56 ≠ 0) :
    writeMap s k v = raise s Reg.tltStatus 8 := by
  unfold writeMap
  dsimp only
  rw [if_pos (by simp [h0]), if_neg (by simp [hv]), if_neg (by obtain h | h | h := hf <;> simp [h])]

theorem writeMap_moved (h0 : bitAt (mapEntry s k) 0 = true) (hb : bits v 31 8 ≠ bits (mapEntry s k) 31 8) : writeMap s k v = raise s Reg.tltStatus 8 := by
  unfold writeMap
  dsimp only
  rw [if_neg (by simp [h0]), if_pos hb]

theorem writeMap_valid (h0 : bitAt (mapEntry s k) 0 = true) (hv : bitAt v 0 = true) (hb : bits v 31 8 = bits (mapEntry s k) 31 8) :
    writeMap s k v = setMap s k (mapNew (mapEntry s k) v) := by
  unfold writeMap
  dsimp only
  rw [if_neg (by simp [h0]), if_neg (not_not.2 hb), if_pos hv]
  rfl

theorem writeMap_marked (h0 : bitAt (mapEntry s k) 0 = true) (hv : bitAt v 0 = false) (hb : bits v 31 8 = bits (mapEntry s k) 31 8) (h1 : bitAt (mapEntry s k) 1 = true) :
    writeMap s k v = raise s Reg.tltStatus 8 := by
  unfold writeMap
  dsimp only
  rw [if_neg (by simp [h0]), if_neg (not_not.2 hb), if_neg (by simp [hv]), if_pos h1]

theorem writeMap_cleared {u : State} (hu : u = recallSlab (drainSlab s k) k) (h0 : bitAt (mapEntry s k) 0 = true) (hv : bitAt v 0 = false) (hb : bits v 31 8 = bits (mapEntry s k) 31 8)
    (h1 : bitAt (mapEntry s k) 1 = false) :
    writeMap s k v = if slabDone u k && diesJoined u (List.range 6) then setMap u k (mapNew (mapEntry s k) v) else u := by
  rw [hu]
  unfold writeMap
  dsimp only
  rw [if_neg (by simp [h0]), if_neg (not_not.2 hb), if_neg (by simp [hv]), if_neg (by simp [h1]), mapNew]
end

theorem exec_tltMapWrite_of {s : State} (k : Fin 16384) (v : W64) (hrun : running s = true) : exec (.tltMapWrite k v) s = .next (writeMap s k.val v) := by
  rw [exec_tltMapWrite, execTltMapWrite, clocked_running hrun]
theorem exec_tltMapInvalidate_of {s : State} (k : Fin 16384) (hrun : running s = true) :
    exec (.tltMapInvalidate k) s = .next (writeMap s k.val (mapEntry s k.val &&& ~~~(1 : W64))) := by
  rw [exec_tltMapInvalidate, execTltMapInvalidate, clocked_running hrun]

/-- A word without its bit 0: the bit is clear, and every field above is as before. -/
theorem bits_clear_zero (e : W64) : bitAt (e &&& ~~~(1 : W64)) 0 = false ∧ bits (e &&& ~~~(1 : W64)) 31 8 = bits e 31 8 := by
  refine ⟨by simp [bitAt], ?_⟩
  apply Nat.eq_of_testBit_eq
  intro i
  rw [testBit_bits, testBit_bits]
  by_cases hi : i < 31 + 1 - 8
  · have h0 : ¬ 8 + i = 0 := by omega
    have h64 : 8 + i < 64 := by omega
    rw [BitVec.getLsbD_and, BitVec.getLsbD_not, show (1 : W64) = 1#64 from rfl, BitVec.getLsbD_one]
    simp [h64]
  · simp [hi]

/-- Settles O44. -/
theorem translationControl : Obligations.TranslationControl := by
  refine ⟨?inval, ?ack, ?late, ?map⟩
  case inval =>
    intro s h v p hrun hp
    refine ⟨fun hv hn => ⟨_, exec_xltInval_sent hrun hp hv hn, ?_⟩, exec_xltInval_refused hrun⟩
    have hsent := (sentTo_begun (s := s) (h := h.val) (p := p) (by rw [hp])).fold (List.finRange 4)
    obtain ⟨⟨q, hq, hqp, hreach⟩, hothers, hcl, hdie, a, b, c, e, hu⟩ := hsent
    have hall : ∀ d : CDie, d ∈ ([] : List CDie) ++ List.finRange 4 := fun d => List.mem_finRange d
    have hheld : ∀ (d : CDie) (m : SMap (List SegEntry)) (c : Nat) (g : SegEntry) (P : Prop), (HoldsSeg m c g ∧ (d ∈ ([] : List CDie) ++ List.finRange 4 → diesJoined s [4, d.val] = true → P))
        ↔ ∃ l, (c, l) ∈ m ∧ g ∈ l ∧ (diesJoined s [4, d.val] = true → P) := fun d m c g P =>
      ⟨fun ⟨⟨l, h1, h2⟩, h3⟩ => ⟨l, h1, h2, h3 (hall d)⟩, fun ⟨l, h1, h2, h3⟩ => ⟨⟨l, h1, h2⟩, fun _ => h3⟩⟩
    refine ⟨⟨q, hq, hqp, fun d => (hreach d).trans (and_iff_right (hall d))⟩, hothers, fun d c hc g => (hcl d c hc g).trans (hheld ..), fun d g => (hdie d g).trans (hheld ..), ?_⟩
    rw [hu]
  case ack =>
    intro s d h p l u hrun hu hp hd hf hj hnew hl
    subst hl
    exact ⟨_, exec_xltAck_of hrun hu hp hd hf hj hnew, fun j => getPend_setPend .., rfl⟩
  case late =>
    intro s h p hrun hp ho hb
    exact ⟨_, exec_xltOverdue_of hrun hp ho hb, xltLate_placed s h.val h.isLt p (xltLateRec h p)⟩
  case map =>
    intro s k v e new u hrun hu he hnew
    subst he hnew
    rw [exec_tltMapWrite_of k v hrun, exec_tltMapInvalidate_of k hrun]
    refine ⟨fun h0 hv hf h3 h56 => ⟨_, by rw [exec_tltMapWrite_of k v hrun, writeMap_new h0 hv hf h3 h56]; rfl, fun j => mapEntry_setMap .., rfl⟩, fun h0 hv hb => by rw [writeMap_valid h0 hv hb]; rfl,
      fun h0 hv hb h1 => ⟨fun hd hj => ?_, fun hd => ?_⟩, fun h0 h1 hd hj => ?_, ?_⟩
    · rw [writeMap_cleared hu h0 hv hb h1, if_pos (by simp [hd, hj])]
      rfl
    · rw [writeMap_cleared hu h0 hv hb h1, if_neg (by obtain h | h := hd <;> simp [h])]
    · rw [writeMap_cleared hu h0 (bits_clear_zero _).1 (bits_clear_zero _).2 h1, if_pos (by simp [hd, hj])]
      rfl
    · rintro (⟨h0, hv, hf⟩ | ⟨h0, hb⟩ | ⟨h0, hv, h1⟩)
      · rw [writeMap_unfree h0 hv hf]
      · rw [writeMap_moved h0 hb]
      · by_cases hb : bits v 31 8 = bits (mapEntry s k.val) 31 8
        · rw [writeMap_marked h0 hv hb h1]
        · rw [writeMap_moved h0 hb]

end Sys2Proof.Machine
end

section
/-! PROOFS. Moves of slabs between the tiers (R292 to R296): O45. -/

namespace Sys2Proof.Machine

theorem tltStatus_no_queue : ∀ i : HDie, Reg.tltStatus.addr ≠ (Reg.errQDrop i).addr ∧ Reg.tltStatus.addr ≠ (Reg.errQStatus i).addr := by decide

/-- A flag of TLT_STATUS stands behind its record. -/
theorem tltFlag_placed (t : State) (b : Nat) (hb : b < 64) (r : Rec) : flagR (place (raise t Reg.tltStatus b) r) Reg.tltStatus b = true
    ∧ ∃ rf er, place (raise t Reg.tltStatus b) r = { t with rf := rf, err := er } := by
  obtain ⟨rf, er, hp⟩ := place_frame (raise t Reg.tltStatus b) r
  exact ⟨(flagR_place _ r b tltStatus_no_queue).trans (flagR_raise _ _ hb), rf, er, hp⟩

/-! ### A move is asked for and marked (R292, R293) -/

theorem exec_tltMove_queued {s : State} {v : W64} (hrun : running s = true) (h0 : bitAt (mapEntry s (bits v 13 0)) 0 = true)
    (hr : ∀ r, s.xlt.run = some r → r.req.slab ≠ bits v 13 0) (hm : ∀ m ∈ s.xlt.moves, m.slab ≠ bits v 13 0) (hf : slabFree s (bits v 13 0) (bits v 39 16) = true)
    (hd : bits v 39 16 ≠ bits (mapEntry s (bits v 13 0)) 31 8) (hl : s.xlt.moves.length < 64) :
    exec (.tltMove v) s = .next { s with xlt := { s.xlt with moves := s.xlt.moves ++ [⟨bits v 13 0, bits v 39 16, bitAt v 40⟩] } } := by
  have hany : (s.xlt.moves.any fun m => decide (m.slab = bits v 13 0)) = false := List.any_eq_false.2 fun m hmem => by simp [hm m hmem]
  rw [exec_tltMove, execTltMove, clocked_running hrun]
  refine congrArg _ (if_neg ?_)
  rw [h0, hany, hf]
  cases hrun' : s.xlt.run with
  | none => simp [hd, hl]
  | some r => simp [hd, hl, hr r hrun']

theorem exec_tltMove_refused {s : State} {v : W64} (hrun : running s = true)
    (h : bitAt (mapEntry s (bits v 13 0)) 0 = false ∨ slabFree s (bits v 13 0) (bits v 39 16) = false ∨ 64 ≤ s.xlt.moves.length) :
    exec (.tltMove v) s = .next (raise s Reg.tltStatus 8) := by
  rw [exec_tltMove, execTltMove, clocked_running hrun]
  refine congrArg _ (if_pos ?_)
  obtain h | h | h := h
  · exact Or.inl (by simp [h])
  · exact Or.inr (Or.inr (Or.inl (by simp [h])))
  · exact Or.inr (Or.inr (Or.inr (Or.inr h)))

/-- The slab of a move is marked in every replica with its destination (R293). -/
def moveMarked (s : State) (m : MoveReq) (l : List MoveReq) : State :=
  setRun (setMap { s with xlt := { s.xlt with moves := l } } m.slab (setBits (setBit (mapEntry s m.slab) 1 true) 55 32 m.dest))
    (some ⟨m, .mark, [], 0, bits (mapEntry s m.slab) 31 8, 0, false, false, false, 0⟩)

theorem exec_moveMark_of {s : State} {m : MoveReq} {l : List MoveReq} (hrun : running s = true) (hr : s.xlt.run = none) (hc : flagR s Reg.tltCtrl 0 = true) (hp : s.err.phase = 0)
    (hm : s.xlt.moves = m :: l) (h0 : bitAt (mapEntry s m.slab) 0 = true) : exec .moveMark s = .next (moveMarked s m l) := by
  have h0' : bitAt (mapEntry { s with xlt := { s.xlt with moves := l } } m.slab) 0 = true := h0
  rw [exec_moveMark, execMoveMark, clocked_running hrun]
  dsimp only
  rw [if_neg (by simp [hr, hc, hp]), hm]
  exact congrArg _ (if_neg (by rw [h0']; simp))

/-! ### The running move (R293 to R296) -/

section
variable {s : State} {r : MoveRun} (hrun : running s = true) (hr : s.xlt.run = some r)
include hrun hr

theorem exec_moveMarkAck_of {die : Fin 6} (hp : r.phase = .mark) (hj : diesJoined s [4, die.val] = true) (hnew : die.val ∉ r.acks) :
    exec (.moveMarkAck die) s = .next (setRun s (some { r with acks := r.acks ++ [die.val], phase := if r.acks.length < 5 then .mark else .copy })) := by
  have hcontains : r.acks.contains die.val = false := by
    rw [← Bool.not_eq_true, List.contains_iff_mem]
    exact hnew
  rw [exec_moveMarkAck, execMoveMarkAck, clocked_running hrun]
  simp only [hr, hp, hj, hcontains, Bool.not_true, Bool.or_self, Bool.false_eq_true, ne_eq, not_true_eq_false, if_false]
  rw [← ite_not, if_congr (show ¬ 6 ≤ (r.acks ++ [die.val]).length ↔ r.acks.length < 5 by rw [List.length_append, List.length_singleton]; omega) rfl rfl]

section
variable (hp : r.phase = .copy) (ht : r.tile < 4096)
include hp ht

theorem exec_moveCopyTile_lines (hb : r.badWrite = false) (hd : destUp s r = true) (hj : slabJoined s r.req.dest = true) (hs : tilthServed s = true) {u : State} {x : Option Nat}
    (hx : copyLines 1024 s ((poolBase + r.req.slab * 2 ^ 28) / 64 + 1024 * r.tile) (r.req.dest * 2 ^ 28 + 65536 * r.tile) = (u, x)) :
    (x = some 0 → exec .moveCopyTile s = .next { u with xlt := { u.xlt with run := u.xlt.run.map fun r => { r with tile := r.tile + 1 } } })
      ∧ (∀ cause, x = some (cause + 1) → exec .moveCopyTile s = .next (abandonMove u (cause + 1))) ∧ (x = none → exec .moveCopyTile s = .next u) := by
  rw [exec_moveCopyTile, execMoveCopyTile, clocked_running hrun, hr]
  dsimp only
  rw [if_neg (by simp [hp, ht]), if_neg (by simp [hb]), if_neg (by simp [hd]), if_neg (by simp [hj, hs]), hx]
  refine ⟨?_, ?_, ?_⟩
  · rintro rfl
    rfl
  · rintro cause rfl
    rfl
  · rintro rfl
    rfl

theorem exec_moveCopyTile_lost (hb : r.badWrite = false) (hd : destUp s r = false) : exec .moveCopyTile s = .next (abandonMove s 4) := by
  rw [exec_moveCopyTile, execMoveCopyTile, clocked_running hrun, hr]
  dsimp only
  rw [if_neg (by simp [hp, ht]), if_neg (by simp [hb]), if_pos (by simp [hd])]

theorem exec_moveCopyTile_bad (hb : r.badWrite = true) : exec .moveCopyTile s = .next (abandonMove s 2) := by
  rw [exec_moveCopyTile, execMoveCopyTile, clocked_running hrun, hr]
  dsimp only
  rw [if_neg (by simp [hp, ht]), if_pos hb]
end

section
variable (hp : r.phase = .copy) (ht : 4096 ≤ r.tile) (hj : diesJoined s (List.range 6) = true) (hs : tilthServed s = true)
include hp ht hj hs

omit hrun hr in
theorem moveSwitch_begins : ¬ (r.phase ≠ .copy ∨ r.tile < 4096 ∨ (!diesJoined s (List.range 6)) = true ∨ (!tilthServed s) = true) := by
  rw [hj, hs]
  simp [hp, ht]

theorem exec_moveSwitch_bad (hb : r.badWrite = true) : exec .moveSwitch s = .next (abandonMove s 2) := by
  rw [exec_moveSwitch, execMoveSwitch, clocked_running hrun, hr]
  exact congrArg _ ((if_neg (moveSwitch_begins hp ht hj hs)).trans (if_pos hb))

theorem exec_moveSwitch_lost (hb : r.badWrite = false) (hd : destUp s r = false) : exec .moveSwitch s = .next (abandonMove s 4) := by
  rw [exec_moveSwitch, execMoveSwitch, clocked_running hrun, hr]
  exact congrArg _ ((if_neg (moveSwitch_begins hp ht hj hs)).trans ((if_neg (by simp [hb])).trans (if_pos (by simp [hd]))))

theorem exec_moveSwitch_recalled (hb : r.badWrite = false) (hd : destUp s r = true) {u : State} (hu : u = recallSlab (drainSlab s r.req.slab) r.req.slab) :
    ((∃ l ∈ slabLines u r.req.slab, quarAgents u l ≠ []) → exec .moveSwitch s = .next (abandonMove u 1))
      ∧ (∀ q, (∀ l ∈ slabLines u r.req.slab, quarAgents u l = []) → u.xlt.run = some q → q.badWrite = false → slabDone u r.req.slab = true →
        exec .moveSwitch s = .next (setRun u (some { q with phase := .switch, boundaries := 0, pausedAt := u.now }))) := by
  have hswitch : exec .moveSwitch s = .next (if (slabLines u r.req.slab).any (fun l => decide (quarAgents u l ≠ [])) then abandonMove u 1
      else if ((u.xlt.run).map (·.badWrite)).getD false then abandonMove u 2
      else if !slabDone u r.req.slab then u else modRun u fun r => { r with phase := .switch, boundaries := 0, pausedAt := u.now }) := by
    rw [exec_moveSwitch, execMoveSwitch, clocked_running hrun, hr, hu]
    exact congrArg _ ((if_neg (moveSwitch_begins hp ht hj hs)).trans ((if_neg (by simp [hb])).trans (if_neg (by simp [hd]))))
  rw [hswitch]
  refine ⟨fun ⟨l, hl, hq⟩ => congrArg _ (if_pos (List.any_eq_true.2 ⟨l, hl, decide_eq_true hq⟩)), fun q hnone hq hbad hdone => ?_⟩
  have hany : (slabLines u r.req.slab).any (fun l => decide (quarAgents u l ≠ [])) = false := List.any_eq_false.2 fun l hl => by simp [hnone l hl]
  rw [if_neg (by rw [hany]; simp), if_neg (by simp [hq, hbad]), if_neg (by simp [hdone]), modRun, hq]
  rfl
end
end

/-- The destination is the backing in every replica (R293). -/
def moveSwitched (s : State) (r : MoveRun) : State :=
  setRun { setMap s r.req.slab (withDeep (setBits (setBits (setBit (mapEntry s r.req.slab) 1 false) 31 8 r.req.dest) 55 32 0)) with xlt :=
    { (setMap s r.req.slab (withDeep (setBits (setBits (setBit (mapEntry s r.req.slab) 1 false) 31 8 r.req.dest) 55 32 0))).xlt with completed := s.xlt.completed + 1 } }
    (if r.req.wipe then some { r with phase := .wipe, recalled := true } else none)

/-- A move has ended without switching: the mark is gone, and the destination holds undefined contents (R296). -/
def moveAbandoned (s : State) (r : MoveRun) : State :=
  { s with draws := s.draws + 1, xlt := { s.xlt with
    map := smSet 0 s.xlt.map r.req.slab (setBits (setBit (mapEntry s r.req.slab) 1 false) 55 32 0), run := none
    abandoned := s.xlt.abandoned + 1, undef := ⟨r.req.dest, s.draws, []⟩ :: s.xlt.undef } }

/-- The record of a move that ends without switching (R296). -/
def abandonRec (r : MoveRun) (cause : Nat) : Rec :=
  { cls := 0x31, action := 3, cause := cause, die := 4, addr := BitVec.ofNat 64 (poolBase + r.req.slab * 2 ^ 28), d0 := BitVec.ofNat 64 r.tile }

section
variable {s : State} {r : MoveRun} (hrun : running s = true) (hr : s.xlt.run = some r)
include hr

theorem abandonMove_of (hp : r.phase ≠ .wipe) (cause : Nat) : abandonMove s cause = place (raise (moveAbandoned s r) Reg.tltStatus 9) (abandonRec r cause) := by
  unfold abandonMove
  rw [hr]
  exact if_neg hp

include hrun

theorem exec_moveDone_of (hp : r.phase = .switch) (hj : diesJoined s (List.range 6) = true) (hd : destUp s r = true) : exec .moveDone s = .next (moveSwitched s r) := by
  rw [exec_moveDone, execMoveDone, clocked_running hrun, hr]
  exact congrArg _ ((if_neg (by rw [hj]; simp [hp])).trans (if_neg (by simp [hd])))

theorem exec_moveSwitchOverdue_of (hp : r.phase = .switch) (ho : r.overdue = false) (hb : r.boundaries ≠ 0) :
    exec .moveSwitchOverdue s = .next (place (raise (setRun s (some { r with overdue := true })) Reg.tltStatus 10) (abandonRec r 5)) := by
  rw [exec_moveSwitchOverdue, execMoveSwitchOverdue, clocked_running hrun, hr]
  exact congrArg _ (if_neg (by simp [hp, ho, hb]))

theorem exec_moveWipeSource_of (hp : r.phase = .wipe) (hj : slabJoined s r.source = true) {u : State} (hu : u = zeroRange 4194304 s (r.source * 2 ^ 28)) :
    exec .moveWipeSource s = .next (setRun u none) := by
  rw [exec_moveWipeSource, execMoveWipeSource, clocked_running hrun, hr, hu]
  exact congrArg _ (if_neg (by rw [hj]; simp [hp]))

theorem exec_moveAbandon_of {cause : Byte} (hp : r.phase ≠ .wipe) (h1 : 1 ≤ cause.toNat) (h4 : cause.toNat ≤ 4) :
    exec (.moveAbandon cause) s = .next (place (raise (moveAbandoned s r) Reg.tltStatus 9) (abandonRec r cause.toNat)) := by
  rw [exec_moveAbandon, execMoveAbandon, clocked_running hrun, ← abandonMove_of hr hp]
  exact congrArg _ (if_neg (by omega))
end

/-- Settles O45. -/
theorem slabMoves : Obligations.SlabMoves := by
  refine ⟨?asked, fun s v hrun h => exec_tltMove_refused hrun h, ?mark, ?run⟩
  case asked =>
    intro s v e hrun he h0 hr hm hf hd hl
    subst he
    exact exec_tltMove_queued hrun h0 hr hm hf hd hl
  case mark =>
    intro s m l e hrun hr hc hp hm he h0
    subst he
    exact ⟨_, exec_moveMark_of hrun hr hc hp hm h0, fun j => mapEntry_setMap { s with xlt := { s.xlt with moves := l } } .., rfl, rfl, rfl⟩
  case run =>
    intro s r hrun hr
    refine ⟨fun die => exec_moveMarkAck_of hrun hr, fun hp ht hb hd hj hs u x hx => exec_moveCopyTile_lines hrun hr hp ht hb hd hj hs hx, exec_moveCopyTile_lost hrun hr, exec_moveCopyTile_bad hrun hr,
      fun hp ht hj hs => ⟨exec_moveSwitch_bad hrun hr hp ht hj hs, exec_moveSwitch_lost hrun hr hp ht hj hs, fun u hb hd hu => exec_moveSwitch_recalled hrun hr hp ht hj hs hb hd hu⟩,
      fun hp hj hd => ⟨_, exec_moveDone_of hrun hr hp hj hd, fun j => mapEntry_setMap s .., rfl, rfl, rfl⟩,
      fun hp ho hb => ⟨_, exec_moveSwitchOverdue_of hrun hr hp ho hb, ?_⟩, fun hp hj => ⟨_, rfl, exec_moveWipeSource_of hrun hr hp hj rfl⟩,
      fun cause hp h1 h4 => ⟨_, exec_moveAbandon_of hrun hr hp h1 h4, ?_⟩⟩
    · obtain ⟨hflag, rf, er, h⟩ := tltFlag_placed (setRun s (some { r with overdue := true })) 10 (by omega) (abandonRec r 5)
      refine ⟨?_, hflag, ?_⟩ <;> rw [h] <;> rfl
    · obtain ⟨hflag, rf, er, h⟩ := tltFlag_placed (moveAbandoned s r) 9 (by omega) (abandonRec r cause.toNat)
      have hmap : ∀ j, mapEntry (moveAbandoned s r) j = if j = r.req.slab then setBits (setBit (mapEntry s r.req.slab) 1 false) 55 32 0 else mapEntry s j :=
        fun j => mapEntry_setMap s ..
      refine ⟨?_, ?_, ?_, ?_, hflag, ?_⟩ <;> rw [h]
      · exact hmap
      all_goals rfl

end Sys2Proof.Machine
end

section
/-! PROOFS. Coherence: requests, evictions, the proxy's lines and recalls of a directory set (R304 to R316, R345): O46. -/

namespace Sys2Proof.Machine

/-! ### Requests (R304, R311 to R314) -/

/-- A request that nothing holds back reaches the home of its line. -/
theorem ask_submits {s : State} {a : Agent} {line : LineAddr} {r : HomeReq} (h : AskOk s a line) (ha : r.agent = a) : ask s line.toNat r = submit s line.toNat r := by
  obtain ⟨_, hbuf, hask, hout, hok, hjoin, hpaused⟩ := h
  subst ha
  have hfirst : ¬ (!noBuf s r.agent.val line.toNat || ask.askAgent s line.toNat r.agent.val || decide (agentTags r.agent.val ≤ outstanding s r.agent.val)) = true := by
    simp [hbuf, hask, hout]
  have hheld : ¬ (lineOk s line.toNat && (!joined s line.toNat r.agent.val || (paused s (64 * line.toNat) && decide (r.agent.val ≠ 85)))) = true := by
    by_cases h85 : r.agent.val = 85
    · rw [hok, hjoin]
      simp [h85]
    · rw [hok, hjoin, hpaused h85]
      simp
  unfold ask
  rw [if_neg hfirst, if_neg hheld, if_neg (by simp [hok])]

/-- A request for a line without backing is an address error of its agent (R243). -/
theorem ask_unbacked {s : State} {a : Agent} {line : Nat} {r : HomeReq} (ha : r.agent = a) (hbuf : noBuf s a.val line = true) (hask : ask.askAgent s line a.val = false)
    (hout : outstanding s a.val < agentTags a.val) (hok : lineOk s line = false) : ask s line r = agentFault s a.val (addrBad (64 * line)) := by
  subst ha
  unfold ask
  rw [if_neg (by simp [hbuf, hask, hout]), if_neg (by simp [hok]), if_pos (by simp [hok])]

/-- A requester that stops changes registers, error queues and its host core's access fault (R243, R259, R339). -/
theorem agentFault_spec (s : State) (a : Nat) (b : Bad) : let t := agentFault s a b
    (∀ h, (smGet {} t.harts h).accessFault = (decide (h = a ∧ a < 80) || (smGet {} s.harts h).accessFault)) ∧ t = { s with rf := t.rf, err := t.err, harts := t.harts } := by
  intro t
  by_cases ha : a < 80
  · obtain ⟨rf, er, hp⟩ := place_frame { s with harts := smMod {} s.harts a fun h => { h with accessFault := true } }
      { cls := b.cls, action := if a < 80 then 2 else 3, cause := b.cause, quar := b.quar, die := agentDie a, agent := a, addr := b.addr, d0 := b.d0, d1 := b.d1 }
    have ht : t = { s with rf := rf, err := er, harts := smMod {} s.harts a fun h => { h with accessFault := true } } := by
      refine Eq.trans ?_ hp
      show agentFault s a b = _
      unfold agentFault
      rw [if_pos ha]
    refine ⟨fun h => ?_, by rw [ht]⟩
    rw [ht]
    dsimp only
    rw [smGet_smMod]
    split
    next h => simp [h, ha]
    next h => simp [h]
  · obtain ⟨rf, er, hp⟩ := place_frame s { cls := b.cls, action := if a < 80 then 2 else 3, cause := b.cause, quar := b.quar, die := agentDie a, agent := a, addr := b.addr, d0 := b.d0, d1 := b.d1 }
    have ht : t = { s with rf := rf, err := er } := by
      refine Eq.trans ?_ hp
      show agentFault s a b = _
      unfold agentFault
      rw [if_neg ha]
    exact ⟨fun h => by rw [ht]; simp [ha], by rw [ht]⟩

theorem holds_of {a : Agent} (h : a.val < 84) : holds a = true := decide_eq_true h

/-! ### Evictions (R309, R310) -/

section
variable {s : State} {a : Agent} {line : LineAddr} (hrun : running s = true) (hj : joined s line.toNat a.val = true)
include hrun hj

theorem noticeOf_joined (ha : a.val ≠ 84) (p f : State → State) : noticeOf a line p f s = .next (f s) := by
  unfold noticeOf
  rw [if_neg ha, clocked_running hrun, if_pos hj]

theorem message_joined (f : State → State) : message a line f s = .next (f (goOn s line.toNat)) := by
  unfold message
  rw [clocked_running hrun, if_pos hj]

theorem orProxy_joined (ha : a.val ≠ 84) (p f : State → State) : orProxy a line p f s = .next (f (goOn s line.toNat)) := by
  unfold orProxy
  rw [if_neg ha, message_joined hrun hj]
end

/-- A holder gives up a copy of the right kind, where its cache finds it correctable (R267, R309, R310). -/
theorem evictNotice_of {s u : State} {a line : Nat} {dirty ok : Bool} (ha : a < 84) (hq : 80 ≤ a → isQuar s (a - 80) line = false) (hc : checkCopy s a line = (u, ok))
    (hst : (getCopy s a line).st ≠ .i) (hd : decide ((getCopy s a line).st = .m ∨ (getCopy s a line).st = .o) = dirty) (hb : noBuf s a line = true) :
    evictNotice s a line dirty = if ok then catchUp (evictCopy u a line) line else u := by
  have hquar : ¬ (84 ≤ a ∨ 80 ≤ a ∧ isQuar s (a - 80) line = true) := by
    rintro (h | ⟨h, hq'⟩)
    · omega
    · rw [hq h] at hq'
      cases hq'
  unfold evictNotice
  dsimp only
  rw [if_neg hquar, if_pos ⟨hst, hd, hb⟩, hc]
  cases ok <;> rfl

/-! ### The proxy (R315, R345) -/

theorem proxyAsk_sends {s : State} {line : Nat} {k : Ask} (hup : orfinUp s = true) (ha : smGet none s.orf.proxyAsk line = none) (hb : proxyBuf s line = none)
    (hk : ¬ (k = .fetchS ∧ (getProxy s line).st ≠ .i)) (hm : (getProxy s line).st ≠ .m) : proxyAsk s line k = setProxyAsk (orfSend s (.ask k (64 * line))) line (some k) := by
  unfold proxyAsk
  dsimp only
  refine if_neg ?_
  rw [hup, ha, hb]
  simp only [Bool.not_true, Bool.false_eq_true, Option.isSome_none, false_or]
  exact fun h => h.elim hk hm

/-- The proxy's request is noted and its message sent, and nothing else changes but Orfin (R345). -/
theorem proxyAsk_spec (s : State) (line : Nat) (k : Ask) (m : OrfMsg) : let t := setProxyAsk (orfSend s m) line (some k)
    (∀ l, smGet none t.orf.proxyAsk l = if l = line then some k else smGet none s.orf.proxyAsk l) ∧ OrfSent s t m
      ∧ t = { s with orf := t.orf, fab := { s.fab with links := t.fab.links, wire := t.fab.wire } } := by
  intro t
  obtain ⟨o, w, b, ls, wi, h⟩ := orfSend_only s m
  have hold : (orfSend s m).orf.proxyAsk = s.orf.proxyAsk := by rw [h]
  have hframe : orfSend s m = { s with orf := (orfSend s m).orf, fab := { s.fab with links := (orfSend s m).fab.links, wire := (orfSend s m).fab.wire } } := by rw [h]
  have hsent := orfSend_sent s m
  refine ⟨fun l => (proxyAsk_setProxyAsk ..).trans (by rw [hold]), hsent, ?_⟩
  show setProxyAsk (orfSend s m) line (some k) = _
  unfold setProxyAsk
  conv_lhs => rw [hframe]
  rfl

theorem proxyNotice_evicts {s : State} {line : Nat} (hup : orfinUp s = true) (hb : proxyBuf s line = none) (hst : (getProxy s line).st ≠ .i) :
    proxyNotice s line (getProxy s line).st.dirty = setProxyBuf (setProxy (orfSend s (.evict (getProxy s line).st.dirty (64 * line) (getProxy s line).data)) line {}) line
      (some { dirty := (getProxy s line).st.dirty, data := (getProxy s line).data }) := by
  unfold proxyNotice
  rw [if_pos (by simp [hup, hb])]
  exact if_neg hst

theorem orfSent_of {s t : State} {m : OrfMsg} (hout : t.orf.out = (orfSend s m).orf.out) (hwait : t.orf.wait = (orfSend s m).orf.wait) : OrfSent s t m := by
  unfold OrfSent
  rw [hout, hwait]
  exact orfSend_sent s m
theorem setProxy_queues (u : State) (line : Nat) (c : Copy) (v : Option EvictBuf) : (setProxyBuf (setProxy u line c) line v).orf.out = u.orf.out
    ∧ (setProxyBuf (setProxy u line c) line v).orf.wait = u.orf.wait := ⟨rfl, rfl⟩

/-- The proxy's copy goes into its write-back buffer with its notice (R310, R345). -/
theorem proxyEvict_spec (s : State) (line : Nat) (v : EvictBuf) (m : OrfMsg) : let t := setProxyBuf (setProxy (orfSend s m) line {}) line (some v)
    (∀ l, getProxy t l = if l = line then {} else getProxy s l) ∧ proxyBuf t line = some v ∧ OrfSent s t m
      ∧ t = { s with orf := t.orf, fab := { s.fab with links := t.fab.links, wire := t.fab.wire } } := by
  intro t
  obtain ⟨o, w, b, ls, wi, h⟩ := orfSend_only s m
  have hframe : orfSend s m = { s with orf := (orfSend s m).orf, fab := { s.fab with links := (orfSend s m).fab.links, wire := (orfSend s m).fab.wire } } := by rw [h]
  obtain ⟨hout, hwait⟩ := setProxy_queues (orfSend s m) line {} (some v)
  refine ⟨fun l => ?_, ?_, orfSent_of hout hwait, ?_⟩
  · show getProxy (setProxyBuf _ _ _) l = _
    rw [getProxy_setProxyBuf, getProxy_setProxy, getProxy_orfSend]
  · show proxyBuf (setProxyBuf _ _ _) line = _
    rw [proxyBuf_setProxyBuf]
    exact if_pos (Eq.refl line)
  · show setProxyBuf (setProxy (orfSend s m) line {}) line (some v) = _
    unfold setProxyBuf setProxy
    conv_lhs => rw [hframe]
    rfl

/-! ### The recall of a directory set (R307) -/

/-- An agent's answer to the recall of a set has come. -/
def recallAnswered (s : State) (a key : Nat) : State := { s with coh := { s.coh with dirErr := smSet [] s.coh.dirErr key ((smGet [] s.coh.dirErr key).erase a) } }

theorem exec_setRecall_of {s u : State} {a : Agent} {die : Fin 6} {slice : Fin 16} {set : Fin 16384} (hrun : running s = true) (hj : diesJoined s [agentDie a.val, die.val] = true)
    (hleft : a.val ∈ smGet [] s.coh.dirErr (dirSetKey die.val slice.val set.val))
    (hu : u = (linesInSet s a.val (dirSetKey die.val slice.val set.val)).foldl (fun s l => recallOne s a.val l) s) :
    exec (.setRecall a die slice set) s = .next (if (smGet [] u.coh.dirErr (dirSetKey die.val slice.val set.val)).erase a.val = []
      then rebuildSet (recallAnswered u a.val (dirSetKey die.val slice.val set.val)) (dirSetKey die.val slice.val set.val) else recallAnswered u a.val (dirSetKey die.val slice.val set.val)) := by
  have hcontains := List.contains_iff_mem.2 hleft
  rw [exec_setRecall, execSetRecall, clocked_running hrun, hu]
  dsimp only
  rw [if_neg (by rw [hcontains, hj]; simp)]
  rfl

/-- Settles O46. -/
theorem coherenceRequests : Obligations.CoherenceRequests := by
  refine ⟨?requests, ?unbacked, ?evictions, ?acks, ?proxy, ?recalls⟩
  case requests =>
    intro s a line h
    have hrun := h.1
    refine ⟨fun ha => ⟨?_, ?_, ?_, ?_⟩, fun ha => ⟨?_, fun data => ?_, fun data mask => ?_, fun offset op wide operand compare hoff => ?_⟩⟩
    · rw [exec_fetchS, execFetchS, clocked_running hrun, if_pos (holds_of ha), ask_submits h rfl]
    · rw [exec_fetchX, execFetchX, clocked_running hrun, if_pos (holds_of ha), ask_submits h rfl]
    · rw [exec_claim, execClaim, clocked_running hrun, if_pos (holds_of ha), ask_submits h rfl]
    · rw [exec_claimZero, execClaimZero, clocked_running hrun, if_pos (holds_of ha), ask_submits h rfl]
    · rw [exec_peek, execPeek, clocked_running hrun, if_neg ha, ask_submits h rfl]
      rfl
    · rw [exec_putLine, execPutLine, clocked_running hrun, if_neg ha, ask_submits h rfl]
    · rw [exec_putBytes, execPutBytes, clocked_running hrun, if_neg ha, ask_submits h rfl]
    · rw [exec_homeAtomic, execHomeAtomic, clocked_running hrun, if_neg (fun h => h.elim ha fun h => h hoff), ask_submits h rfl]
  case unbacked =>
    intro s a line hrun ha hbuf hask hout hok
    exact ⟨_, by rw [exec_fetchS, execFetchS, clocked_running hrun, if_pos (holds_of ha), ask_unbacked rfl hbuf hask hout hok], agentFault_spec ..⟩
  case evictions =>
    rintro s u a line c i ok hrun ha hj hq hc rfl hb (⟨rfl, hst⟩ | ⟨rfl, hst⟩)
    · rw [exec_evictDirty, execEvictDirty, noticeOf_joined hrun hj (by omega), evictNotice_of ha hq hc (by rintro h; simp [h] at hst) (decide_eq_true hst) hb]
    · rw [exec_evictClean, execEvictClean, noticeOf_joined hrun hj (by omega), evictNotice_of ha hq hc (by rintro h; simp [h] at hst) (decide_eq_false (by rintro (h | h) <;> simp [h] at hst)) hb]
  case acks =>
    intro s u a line b hrun ha hj hu hb ht
    subst hu
    refine ⟨_, by rw [exec_evictAck, execEvictAck, orProxy_joined hrun hj ha]; simp only [hb, if_pos ht], fun l d hd => getBuf_setBuf _ none (by omega) hd, rfl⟩
  case proxy =>
    intro s a line hrun ha hup hask hbuf
    have hholds : ¬ holds a = true := by simp [holds, ha]
    refine ⟨fun hi => ⟨_, ?_, proxyAsk_spec ..⟩, fun hm => ⟨_, ?_, proxyAsk_spec ..⟩, fun c hc hi => ?_⟩
    · rw [exec_fetchS, execFetchS, clocked_running hrun, if_neg hholds, if_pos ha, proxyAsk_sends hup hask hbuf (fun h => h.2 hi) (by rw [hi]; decide)]
    · rw [exec_fetchX, execFetchX, clocked_running hrun, if_neg hholds, if_pos ha, proxyAsk_sends hup hask hbuf (by rintro ⟨h, _⟩; cases h) hm]
    · subst hc
      refine ⟨_, ?_, proxyEvict_spec ..⟩
      have hev := proxyNotice_evicts hup hbuf hi
      by_cases hd : (getProxy s line.toNat).st = .m ∨ (getProxy s line.toNat).st = .o
      · have hdirty : (getProxy s line.toNat).st.dirty = true := decide_eq_true hd
        rw [hdirty] at hev
        rw [if_pos hd, exec_evictDirty, execEvictDirty, noticeOf, if_pos ha, clocked_running hrun, hev, decide_eq_true hd]
      · have hdirty : (getProxy s line.toNat).st.dirty = false := decide_eq_false hd
        rw [hdirty] at hev
        rw [if_neg hd, exec_evictClean, execEvictClean, noticeOf, if_pos ha, clocked_running hrun, hev, decide_eq_false hd]
  case recalls =>
    intro s a die slice set left hrun hj hleft hmem
    subst hleft
    exact ⟨_, recallAnswered _ a.val (dirSetKey die.val slice.val set.val), _, rfl, rfl, fun k => smGet_set .., rfl, exec_setRecall_of hrun hj hmem rfl⟩

end Sys2Proof.Machine
end

section
/-! PROOFS. Coherence: probes, their answers, line data, Done and Fail (R304, R311, R315 to R319): O47. -/

namespace Sys2Proof.Machine

/-! ### Probes (R311, R316 to R318) -/

/-- A host core's copy under a probe: the line is lost, or stays in the state that Table 11-5 gives. -/
def hartProbed (s : State) (a line : Nat) (left : CState) : State :=
  if left = .i then hartLoses (setCopy s a line {}) a line else setCopy s a line { getCopy s a line with st := left }

theorem getCopy_hartProbed {s : State} {a line : Nat} {left : CState} (ha : a < 80) : (getCopy (hartProbed s a line left) a line).st = left := by
  have hlt : a < 128 := by omega
  unfold hartProbed
  split
  next h => rw [getCopy_hartLoses, getCopy_setCopy s _ hlt hlt, if_pos ⟨rfl, rfl⟩, h]
  next h => rw [getCopy_setCopy s _ hlt hlt, if_pos ⟨rfl, rfl⟩]

theorem hartProbed_frame (s : State) (a line : Nat) (left : CState) : ∃ c h, hartProbed s a line left = { s with coh := { s.coh with copies := c }, harts := h } := by
  unfold hartProbed
  split
  · obtain ⟨m, h⟩ := setCopy_only s a line {}
    rw [h]
    exact ⟨m, _, rfl⟩
  · exact ⟨_, s.harts, rfl⟩

theorem setTxn_only (s : State) (line : Nat) (x : Option Txn) : ∃ m, setTxn s line x = { s with coh := { s.coh with home := m } } := ⟨_, rfl⟩

/-- A host core answers a probe from its copy by Table 11-5. -/
theorem answerProbe_hart {s : State} {a line : Nat} {p : Probe} (ha : a < 80) (hst : (getCopy s a line).st ≠ .i) (hp : p ≠ .recall) :
    answerProbe s a line p = (hartProbed s a line (probeOutcome (getCopy s a line).st p).1, { agent := a, final := (probeOutcome (getCopy s a line).st p).1 },
      if (probeOutcome (getCopy s a line).st p).2.2 then some ((probeOutcome (getCopy s a line).st p).2.1, (getCopy s a line).data) else none) := by
  have hcheck : checkCopy s a line = (s, true) := if_pos ha
  unfold answerProbe hartProbed forget
  dsimp only
  rw [if_neg hst, hcheck]
  dsimp only
  rw [if_neg hp, if_pos ha]

/-- What a transaction has after the answer to a probe (R304, R316). -/
def probeAnswered (x : Txn) (a : Nat) (k : AckIn) (d : Option (CState × Line)) : Txn :=
  { x with probes := x.probes.filter fun q => decide (q.agent ≠ a), acks := x.acks ++ [k], line := if d.isSome then d else x.line
           lineDie := if d.isSome then agentDie a else x.lineDie, granted := if d.isSome then d.map (·.1) else x.granted }

section
variable {s v : State} {a : Agent} {line : LineAddr} {p : Probe} {q : ProbeOut} (hrun : running s = true) (ha : a.val ≠ 84)
  (hj : joined s line.toNat a.val = true) (hv : v = goOn s line.toNat)
include hrun ha hj hv

theorem exec_probe (p : Probe) : exec (probeCmd a line p) s = .next (probeArrives v line.toNat a.val p) := by
  subst hv
  cases p <;> exact orProxy_joined hrun hj ha _ _
end

section
variable {v : State} {a line : Nat} {p : Probe} {q : ProbeOut} (hq : probeTo v line a p = some q) (hd : ∀ m ∈ v.coh.dones, ¬ (m.line = line ∧ m.agent = a))
include hq hd

theorem probeArrives_answered {x : Txn} (hx : (getHome v line).txn = some x) (hm : mustHold v line a p = false) {u : State} {k : AckIn} {d : Option (CState × Line)}
    (hu : answerProbe v a line p = (u, k, d)) : probeArrives v line a p = setTxn u line (some (probeAnswered x a k d)) := by
  unfold probeArrives
  rw [hq]
  dsimp only
  rw [doDone_none hd, if_pos (by rw [hm]; rfl), doProbe_spec hx hd hu]
  rfl

theorem probeArrives_held (hm : mustHold v line a p = true) (hh : q.heldTo = none) (hmax : holdMax v a ≠ 0) :
    probeArrives v line a p = holdProbe v line a (v.now + agentCycles v a (holdMax v a)) := by
  unfold probeArrives
  rw [hq]
  dsimp only
  rw [doDone_none hd, if_neg (by rw [hm]; simp), if_neg hmax, if_neg (by rw [hh]; simp)]
end

/-- A host core's answer to a probe: its copy's state, what the home has of it, and what else changes. -/
theorem hartAnswer_spec {v : State} {a line : Nat} {x : Txn} (ha : a < 80) (left : CState) (k : AckIn) (d : Option (CState × Line)) :
    let t := setTxn (hartProbed v a line left) line (some (probeAnswered x a k d))
    (getCopy t a line).st = left ∧ (getHome t line).txn = some (probeAnswered x a k d) ∧ t = { v with coh := { v.coh with copies := t.coh.copies, home := t.coh.home }, harts := t.harts } := by
  intro t
  refine ⟨(congrArg Copy.st (getCopy_setTxn ..)).trans (getCopy_hartProbed ha), ?_, ?_⟩
  · show (getHome (setTxn _ line _) line).txn = _
    rw [getHome_setTxn, if_pos rfl]
  · obtain ⟨c, h, hp⟩ := hartProbed_frame v a line left
    obtain ⟨m, hm⟩ := setTxn_only (hartProbed v a line left) line (some (probeAnswered x a k d))
    have ht : t = _ := hm
    rw [ht, hp]

/-! ### Answers, data and the end of a transaction (R304, R311, R319) -/

theorem txnOf_of {v : State} {a : Agent} {line : Nat} {x : Txn} (hx : (getHome v line).txn = some x) (hxa : x.req.agent = a) (hr : x.recallFor = none) :
    txnOf v line a.val = some x := by
  subst hxa
  unfold txnOf
  rw [hx]
  exact Option.filter_eq_some_iff.2 ⟨rfl, by simp [hr]⟩

theorem doAck_of {v : State} {line a : Nat} {x : Txn} {k : AckIn} (hx : (getHome v line).txn = some x) (hk : x.acks.find? (fun k => decide (k.agent = a)) = some k) :
    doAck v line a = goOn (settleAck (setTxn v line (some { x with acks := x.acks.filter fun q => decide (q.agent ≠ a), refused := x.refused || (k.quar && x.recallFor.isNone) })) line k) line := by
  unfold doAck
  rw [hx]
  dsimp only
  rw [hk]

/-- DoneAck records the grant and ends the transaction (R304). -/
theorem doConfirm_of {v : State} {line : Nat} {x : Txn} (hx : (getHome v line).txn = some x) (hc : x.confirm = true) (hp : x.probes = []) (ha : x.acks = []) :
    doConfirm v line = goOn (if x.req.ask.caches then
      dirRelease (if x.granted.getD .i ≠ .i then dirGrant (setTxn v line none) line x.req.agent.val (x.granted.getD .i) else setTxn v line none) line else setTxn v line none) line := by
  unfold doConfirm
  rw [hx]
  dsimp only
  rw [if_pos ⟨hc, hp, ha⟩]
  by_cases hk : x.req.ask.caches = true
  · simp only [hk, true_and, if_true]
  · rw [if_neg hk, if_neg (fun h => hk h.1), if_neg hk]

/-- A host core with room takes the data in the state granted (R311). -/
theorem doLine_hart {v : State} {line : Nat} {x : Txn} {g : CState} {d : Line} (hx : (getHome v line).txn = some x) (ha : x.req.agent.val < 80)
    (hroom : (hartLines v x.req.agent.val).length < 32768) (hl : x.line = some (g, d)) (hg : g ≠ .i) (hp : x.probes = []) (hr : x.refused = false) (hf : x.fail = none)
    (hk : ∀ k ∈ x.acks, k.quar = false) :
    doLine v line false = setCopy (setTxn v line (some { x with line := none, confirm := true })) x.req.agent.val line { st := g, data := d, errs := 0, written := decide (g ≠ .m) } := by
  have hany : x.acks.any (·.quar) = false := List.any_eq_false.2 fun k hmem => by simp [hk k hmem]
  have htake : takeRoom (setTxn v line (some { x with line := none, confirm := true })) x.req.agent.val line false = (setTxn v line (some { x with line := none, confirm := true }), true) := by
    have hheld : hartRoom (setTxn v line (some { x with line := none, confirm := true })) x.req.agent.val line = setTxn v line (some { x with line := none, confirm := true }) :=
      if_pos (Or.inl hroom)
    unfold takeRoom
    rw [if_pos ha, hheld]
  unfold doLine
  rw [hx]
  dsimp only
  rw [hl]
  dsimp only
  rw [if_neg (by rw [hany]; simp [hp, hr, hf]), if_neg (by rintro (h | h); exacts [hg h, by omega]), htake]

theorem doFail_of {v : State} {line : Nat} {x : Txn} {b : Bad} (hx : (getHome v line).txn = some x) (hb : x.fail = some b) :
    doFail v line = goOn (if x.req.ask.caches then dirRelease (setTxn v line none) line else setTxn v line none) line := by
  unfold doFail
  rw [hx]
  exact if_pos (by rw [hb]; rfl)

theorem getHome_agentFault (s : State) (a : Nat) (b : Bad) (line : Nat) : getHome (agentFault s a b) line = getHome s line := by
  obtain ⟨_, h⟩ := agentFault_spec s a b
  rw [h]
  rfl

/-! ### Done (R304, R311, R312) -/

section
variable {v : State} {line a : Nat} {m : DoneMsg} (hm : v.coh.dones.find? (fun m => decide (m.line = line ∧ m.agent = a)) = some m)
include hm

/-- A Done has been taken from those on their way. -/
def doneTaken (v : State) (m : DoneMsg) : State := { v with coh := { v.coh with dones := v.coh.dones.erase m } }

theorem doDone_claim (hk : m.ask = .claim) (hst : (getCopy v a line).st ≠ .i) :
    doDone v line a = setCopy (doneTaken v m) a line { getCopy v a line with st := .m, written := false } := by
  unfold doDone
  rw [hm]
  dsimp only
  rw [hk]
  exact if_neg hst

theorem doDone_claimLost (hk : m.ask = .claim) (hst : (getCopy v a line).st = .i) (ha : a < 92) :
    doDone v line a = arriveLast (dirDrop (doneTaken v m) line a) line { ask := .fetchX, agent := ⟨a, ha⟩ } := by
  unfold doDone
  rw [hm]
  dsimp only
  rw [hk]
  exact (if_pos hst).trans (dif_pos ha)

theorem doDone_claimZero (hk : m.ask = .claimZero) (ha : a < 80) (hroom : (hartLines v a).length < 32768) :
    doDone v line a = setCopy (doneTaken v m) a line { st := .m, data := 0, errs := 0, written := true } := by
  have htake : takeRoom (doneTaken v m) a line false = (doneTaken v m, true) := by
    have hheld : hartRoom (doneTaken v m) a line = doneTaken v m := if_pos (Or.inl hroom)
    unfold takeRoom
    rw [if_pos ha, hheld]
  unfold doDone
  rw [hm]
  dsimp only
  rw [hk]
  dsimp only
  rw [show ({ v with coh := { v.coh with dones := v.coh.dones.erase m } } : State) = doneTaken v m from rfl, htake]
end

/-- A copy taken with a Done: no other copy changes, and the Done is gone. -/
theorem doneTaken_setCopy (v : State) (m : DoneMsg) {a : Nat} (ha : a < 128) (line : Nat) (c : Copy) : let t := setCopy (doneTaken v m) a line c
    (∀ b < 128, ∀ l, getCopy t b l = if b = a ∧ l = line then c else getCopy v b l) ∧ t.coh.dones = v.coh.dones.erase m
      ∧ t = { v with coh := { v.coh with copies := t.coh.copies, dones := t.coh.dones } } := by
  intro t
  exact ⟨fun b hb l => getCopy_setCopy (doneTaken v m) c ha hb, rfl, rfl⟩

/-- Settles O47. -/
theorem coherenceAnswers : Obligations.CoherenceAnswers := by
  refine ⟨?probes, ?answers, ?done, ?lost, ?proxy⟩
  case probes =>
    intro s v a line p q x hrun ha hj hv hx hq hd
    have hexec := exec_probe hrun ha hj hv
    refine ⟨fun hm u k d hu => ?_, fun hm h80 hst hp => ?_, fun hm hh hmax => ?_, fun n hp hn hm => ?_⟩
    · rw [hexec, probeArrives_answered hq hd hx hm hu]
      rfl
    · obtain ⟨hcopy, hhome, honly⟩ := hartAnswer_spec (v := v) (line := line.toNat) (x := x) h80 (probeOutcome (getCopy v a.val line.toNat).st p).1
        { agent := a.val, final := (probeOutcome (getCopy v a.val line.toNat).st p).1 }
        (if (probeOutcome (getCopy v a.val line.toNat).st p).2.2 then some ((probeOutcome (getCopy v a.val line.toNat).st p).2.1, (getCopy v a.val line.toNat).data) else none)
      refine ⟨_, by rw [hexec, probeArrives_answered hq hd hx hm (answerProbe_hart h80 hst hp)], hcopy, ⟨_, hhome, rfl, ?_⟩, honly⟩
      unfold probeAnswered
      split <;> rfl
    · rw [hexec, probeArrives_held hq hd hm hh hmax]
    · subst hp
      rw [exec_snoopHoldExpire, execSnoopHoldExpire, message_joined hrun hj, ← hv]
      simp only [hq, hn, Option.bind_some, hm, if_true]
  case answers =>
    intro s v a line x hrun ha hj hv hx
    refine ⟨fun k hk => ?_, fun hxa hr => ⟨fun hc hp hk => ?_, fun g d h80 hroom hl hg hup hp hrf hf hk => ?_, fun b hb => ⟨_, rfl, ?_⟩⟩⟩
    · rw [exec_probeAck, execProbeAck, message_joined hrun hj, ← hv, doAck_of hx hk]
    · rw [exec_doneAck, execDoneAck, message_joined hrun hj, ← hv, if_pos (by rw [txnOf_of hx hxa hr]; rfl), doConfirm_of hx hc hp hk, hxa]
      cases x.granted with
      | none => rfl
      | some g => cases g <;> rfl
    · subst hxa
      have htxn := txnOf_of hx rfl hr
      refine ⟨_, ?_, fun b hb l => getCopy_setCopy (setTxn v line.toNat _) _ (by omega) hb, fun l => getHome_setTxn .., rfl⟩
      rw [exec_lineData, execLineData, orProxy_joined hrun hj ha, ← hv]
      simp only [htxn, hup, if_true]
      rw [doLine_hart hx h80 hroom hl hg hp hrf hf hk]
    · have hx' : (getHome (agentFault v a.val b) line.toNat).txn = some x := by rw [getHome_agentFault, hx]
      rw [exec_fail, execFail, orProxy_joined hrun hj ha, ← hv]
      simp only [txnOf_of hx hxa hr, Option.bind_some, hb]
      rw [doFail_of hx' hb]
  case done =>
    rintro s v a line m hrun ha hj hv hm hkind
    have hexec : exec (.done a line) s = .next (doDone v line.toNat a.val) := by rw [exec_done, execDone, orProxy_joined hrun hj ha, ← hv]
    obtain ⟨hk, hst⟩ | ⟨hk, h80, hroom⟩ := hkind
    · refine ⟨_, by rw [hexec, doDone_claim hm hk hst], ?_⟩
      rw [if_pos hk]
      exact doneTaken_setCopy v m (by omega) line.toNat _
    · refine ⟨_, by rw [hexec, doDone_claimZero hm hk h80 hroom], ?_⟩
      rw [if_neg (by rw [hk]; decide)]
      exact doneTaken_setCopy v m (by omega) line.toNat _
  case lost =>
    intro s v a line m hrun ha hj hv hm hk hst
    rw [exec_done, execDone, orProxy_joined hrun hj ha, ← hv, doDone_claimLost hm hk hst a.isLt]
    rfl
  case proxy =>
    intro s a line p hrun ha hup
    have hproxy : ∀ f g : State → State, orProxy a line f g s = .next (f (heard s 23)) := by
      intro f g
      unfold orProxy fromOrfin
      rw [if_pos ha, clocked_running hrun, if_pos hup]
    refine ⟨?_, hproxy _ _, hproxy _ _, hproxy _ _⟩
    cases p <;> exact hproxy _ _

end Sys2Proof.Machine
end

section
/-! PROOFS. The companion's rings, doorbells and bulk order (R350 to R354, R365, R366): O48. -/

namespace Sys2Proof.Machine

/-! ### Rings (R350, R351) -/

section
variable {s : State} {r : RingId} {v w : W64} (hrun : running s = true) (hw : w = v &&& 0x0000FFFFFFFF007F)
include hrun hw

theorem exec_orfRingCfgWrite_on (hon : ringOn s r.val = false) (h0 : bitAt w 0 = true) (ha : ringActive (getRing s r.val) = false) (h16 : bits w 5 1 ≤ 16)
    (hsq : fieldR s (Reg.orfSqBase r.val) 11 0 = 0) (hcq : fieldR s (Reg.orfCqBase r.val) 11 0 = 0) :
    exec (.orfRingCfgWrite r v) s = .next (setRing (setR s (Reg.orfRingCfg r.val) w) r.val {}) := by
  rw [exec_orfRingCfgWrite, execOrfRingCfgWrite, clocked_running hrun]
  dsimp only
  rw [← hw, if_neg (by simp [hon]), if_pos h0, if_neg (by simp [ha, h16, hsq, hcq])]

theorem exec_orfRingCfgWrite_off (hon : ringOn s r.val = false) (h0 : bitAt w 0 = false) (h16 : bits w 5 1 ≤ 16) :
    exec (.orfRingCfgWrite r v) s = .next (setR s (Reg.orfRingCfg r.val) w) := by
  rw [exec_orfRingCfgWrite, execOrfRingCfgWrite, clocked_running hrun]
  dsimp only
  rw [← hw, if_neg (by simp [hon]), if_neg (by simp [h0]), if_neg (by omega)]

theorem exec_orfRingCfgWrite_cleared (hon : ringOn s r.val = true) (hv : v = getR s (Reg.orfRingCfg r.val) &&& ~~~(1#64)) :
    exec (.orfRingCfgWrite r v) s = .next (setRing (setR s (Reg.orfRingCfg r.val) w) r.val { getRing s r.val with clearedAt := some s.now }) := by
  rw [exec_orfRingCfgWrite, execOrfRingCfgWrite, clocked_running hrun, hw]
  exact congrArg _ ((if_pos hon).trans (if_pos hv))

theorem exec_orfRingCfgWrite_refused (h : ringOn s r.val = true ∧ v ≠ getR s (Reg.orfRingCfg r.val) &&& ~~~(1#64) ∨ ringOn s r.val = false ∧ bitAt w 0 = true ∧ (ringActive (getRing s r.val) = true
      ∨ 16 < bits w 5 1 ∨ fieldR s (Reg.orfSqBase r.val) 11 0 ≠ 0 ∨ fieldR s (Reg.orfCqBase r.val) 11 0 ≠ 0)) : exec (.orfRingCfgWrite r v) s = .next (orfFlag s 5 r.val) := by
  rw [exec_orfRingCfgWrite, execOrfRingCfgWrite, clocked_running hrun]
  obtain ⟨hon, hv⟩ | ⟨hon, h0, hbad⟩ := h
  · exact congrArg _ ((if_pos hon).trans (if_neg hv))
  · dsimp only
    rw [← hw, if_neg (by simp [hon]), if_pos h0, if_pos (by obtain h | h | h | h := hbad <;> simp [h])]
end

/-- A ring that has taken a set-up and a state: the register reads what was written, and no other ring changes. -/
theorem ringSet_spec (s : State) (r : Nat) (w : W64) (g : Ring) : let t := setRing (setR s (Reg.orfRingCfg r) w) r g
    (∀ q, getRing t q = if q = r then g else getRing s q) ∧ getR t (Reg.orfRingCfg r) = w ∧ t = { s with rf := t.rf, orf := { s.orf with rings := t.orf.rings } } := by
  intro t
  exact ⟨fun q => getRing_setRing .., getR_setR .., rfl⟩

/-! ### Doorbells (R353, R354) -/

/-- A doorbell sets a reserved bit, or reports a lap of zero. -/
def doorbellMalformed (v : W64) : Bool :=
  decide (bits v 31 25 ≠ 0) || decide (bits v 63 57 ≠ 0) || (bitAt v 24 && decide (bits v 23 16 = 0)) || (bitAt v 56 && decide (bits v 55 48 = 0))

section
variable {s : State} {r : RingId} {v : W64} (hrun : running s = true)
include hrun

theorem exec_doorbellWrite_malformed (h : doorbellMalformed v = true) : exec (.doorbellWrite r v) s = .next (orfFlag s 2 r.val) := by
  unfold doorbellMalformed at h
  rw [exec_doorbellWrite, execDoorbellWrite, clocked_running hrun]
  dsimp only
  rw [h, if_neg (by simp), if_pos (by simp)]

variable (hon : ringOn s r.val = true) (hform : doorbellMalformed v = false)
include hon hform

theorem exec_doorbellWrite_announces (hsq : bitAt v 24 = true) (hcq : bitAt v 56 = false) {new : Nat}
    (hnew : new = ringAhead (ringSize s r.val) (bits v 23 16) (bits v 15 0) (getRing s r.val).consumed) :
    (new ≤ ringSize s r.val → exec (.doorbellWrite r v) s = .next (setRing (setRing s r.val { getRing s r.val with held := v }) r.val
        { getRing s r.val with held := v, announced := (getRing s r.val).consumed + new, ahead := false }))
      ∧ (ringSize s r.val < new → exec (.doorbellWrite r v) s = .next (ringStop (setRing s r.val { getRing s r.val with held := v }) r.val 1)) := by
  have hring : getRing (setRing s r.val { getRing s r.val with held := v }) r.val = { getRing s r.val with held := v } := by rw [getRing_setRing, if_pos rfl]
  unfold doorbellMalformed at hform
  subst hnew
  rw [exec_doorbellWrite, execDoorbellWrite, clocked_running hrun]
  dsimp only
  rw [hform, if_neg (by simp [hon]), if_neg (by simp [hon]), hring, hsq, hcq, if_pos (by simp), if_neg (by simp)]
  exact ⟨fun h => congrArg _ (if_neg (Nat.not_lt.2 h)), fun h => congrArg _ (if_pos h)⟩

theorem exec_doorbellWrite_consumed (hsq : bitAt v 24 = false) (hcq : bitAt v 56 = true) {took : Nat}
    (ht : cqConsumed (ringSize s r.val) (bits v 55 48) (bits v 47 32) (getRing s r.val).written = some took) :
    exec (.doorbellWrite r v) s = .next (setRing (setRing s r.val { getRing s r.val with held := v }) r.val { getRing s r.val with held := v, taken := max (getRing s r.val).taken took }) := by
  have hring : getRing (setRing s r.val { getRing s r.val with held := v }) r.val = { getRing s r.val with held := v } := by rw [getRing_setRing, if_pos rfl]
  unfold doorbellMalformed at hform
  rw [exec_doorbellWrite, execDoorbellWrite, clocked_running hrun]
  dsimp only
  rw [hform, if_neg (by simp [hon]), if_neg (by simp [hon]), hring, hsq, hcq, if_neg (by simp), if_pos (by simp), hring]
  dsimp only
  rw [ht]
end

theorem setRing_twice (s : State) (r : Nat) (g g' : Ring) : let t := setRing (setRing s r g) r g'
    (∀ q, getRing t q = if q = r then g' else getRing s q) ∧ t = { s with orf := { s.orf with rings := t.orf.rings } } := by
  intro t
  refine ⟨fun q => (getRing_setRing ..).trans ?_, rfl⟩
  split
  · rfl
  next h => rw [getRing_setRing, if_neg h]

/-! ### Bulk order (R365, R366) -/

/-- A read of BULK_SYNC that waits. -/
def syncWaiting (s : State) : State := { s with orf := { s.orf with syncWaits := s.orf.syncWaits ++ [⟨none, none, false⟩] } }

theorem exec_bulkSyncRead_waits {s : State} (hrun : running s = true) : exec .bulkSyncRead s = .next (sendFlush (syncWaiting s)) := by
  rw [exec_bulkSyncRead, execBulkSyncRead, clocked_running hrun]
  rfl

theorem flushWanted_syncWaiting (s : State) : flushWanted (syncWaiting s) = true := by
  unfold flushWanted syncWaiting
  simp

/-- A flush that has been sent is waited for: no second one is sent (R366). -/
theorem sendFlush_sent {s : State} {n : Nat} (h : s.orf.flushSent = some n) : sendFlush s = s := if_pos (by simp [h])

theorem heard_orf (s : State) (l : Nat) : (heard s l).orf = s.orf := rfl

theorem exec_bulkFlushResp_of {s u : State} {n : Nat} (hrun : running s = true) (hup : orfinUp s = true) (hf : s.orf.flushSent = some n)
    (hu : u = { heard s 23 with orf := { s.orf with flushSent := none, bulkVisible := n, rings := s.orf.rings.map fun r : Nat × Ring =>
      (r.1, { r.2 with fetched := r.2.fetched.map fun d : Desc => if d.asked then { d with flushed := true } else d }) } }) :
    exec .bulkFlushResp s = .next (sendFlush ((s.orf.syncWaits.filter (·.asked)).foldl (syncAnswer (bulkSyncValue u)) { u with orf := { u.orf with syncWaits := s.orf.syncWaits.filter fun w => !w.asked } })) := by
  subst hu
  rw [exec_bulkFlushResp, execBulkFlushResp, clocked_running hrun, hf]
  dsimp only
  rw [if_neg (by simp [hup])]
  rfl

/-- Settles O48. -/
theorem ringsAndDoorbells : Obligations.RingsAndDoorbells := by
  refine ⟨?rings, ?sync, fun s m => ⟨orfSend_sent s m, orfSend_only s m⟩, fun s u n => exec_bulkFlushResp_of⟩
  case rings =>
    intro s r v w g hrun hg hw
    subst hg
    refine ⟨fun hon h0 ha h16 hsq hcq => ⟨_, exec_orfRingCfgWrite_on hrun hw hon h0 ha h16 hsq hcq, ringSet_spec ..⟩, exec_orfRingCfgWrite_off hrun hw,
      fun hon hv => ⟨_, exec_orfRingCfgWrite_cleared hrun hw hon hv, ringSet_spec ..⟩, exec_orfRingCfgWrite_refused hrun hw, fun new hon h1 h2 hsq hlap hcq hnew => ?_,
      fun took hon h1 h2 hsq hcq hlap ht => ⟨_, exec_doorbellWrite_consumed hrun hon ?_ hsq hcq ht, setRing_twice ..⟩, fun h => exec_doorbellWrite_malformed hrun ?_⟩
    · exact exec_doorbellWrite_announces hrun hon (by simp [doorbellMalformed, h1, h2, hlap, hcq]) hsq hcq hnew
    · simp [doorbellMalformed, h1, h2, hsq, hlap]
    · obtain h | h | ⟨h, h'⟩ | ⟨h, h'⟩ := h
      · simp [doorbellMalformed, h]
      · simp [doorbellMalformed, h]
      · simp [doorbellMalformed, h, h']
      · simp [doorbellMalformed, h, h']
  case sync =>
    intro s hrun
    refine ⟨_, exec_bulkSyncRead_waits hrun, fun n hn => ?_, fun hn => ?_, ?_⟩
    · rw [sendFlush_sent (s := syncWaiting s) hn]
      exact ⟨rfl, hn⟩
    · obtain ⟨hsent, hout, hasked, _⟩ := sendFlush_spec (syncWaiting s) (flushWanted_syncWaiting s) hn
      exact ⟨hsent, hout, hasked⟩
    · obtain ⟨o, ls, wi, h⟩ := sendFlush_links (syncWaiting s)
      rw [h]
      rfl

end Sys2Proof.Machine
end

section
/-! PROOFS. Descriptors: their fetch, NOP, LAUNCH, copies, and the completion writer (R349 to R365): O49. -/

namespace Sys2Proof.Machine

/-! ### Fetching (R349, R355 to R357) -/

theorem peeked_only (s : State) (a : Nat) : ∃ o w b ls wi, peeked s a = { s with orf := { s.orf with out := o, wait := w, bulkSeqs := b }, fab := { s.fab with links := ls, wire := wi } } := by
  obtain ⟨o, w, b, ls, wi, h⟩ := orfSend_only s (.ask .peek (a / 64 * 64))
  obtain ⟨o', w', b', ls', wi', h'⟩ := orfSend_only (orfSend s (.ask .peek (a / 64 * 64))) (.doneAck (a / 64 * 64))
  rw [h] at h'
  unfold peeked
  rw [h]
  exact ⟨o', w', b', ls', wi', h'⟩

theorem getRing_peeked (s : State) (a r : Nat) : getRing (peeked s a) r = getRing s r := by rw [peeked, getRing_orfSend, getRing_orfSend]

/-- What a fetch reads of the state besides its ring is as it was before the Peek. -/
theorem peeked_keeps (s : State) (a r : Nat) : (peeked s a).now = s.now ∧ (peeked s a).err = s.err ∧ ringSize (peeked s a) r = ringSize s r ∧ (∀ q b, flagR (peeked s a) q b = flagR s q b) := by
  obtain ⟨o, w, b, ls, wi, h⟩ := peeked_only s a
  have hrf : (peeked s a).rf = s.rf := by rw [h]
  refine ⟨by rw [h], by rw [h], ?_, fun q b => flagR_rf hrf q b⟩
  unfold ringSize
  rw [fieldR_rf hrf]

/-- The line of the next descriptor is asked for through the proxy, which has no copy of it (R349). -/
theorem fetchLine_peeks {s : State} {r a : Nat} (d : BitVec 512) (ha : a = sqSlot s r (getRing s r).consumed) (hp : (getProxy s (a / 64)).st = .i) (hb : proxyBuf s (a / 64) = none) :
    fetchLine s r (some d) = takeLine (peeked s a) r (some d) := by
  subst ha
  unfold fetchLine
  rw [proxyRead_asks (some d) hp hb]
  rfl

/-- A ring that has fetched a descriptor (R355). -/
def ringFetched (g : Ring) (d : BitVec 512) : Ring :=
  { g with consumed := g.consumed + 1, staleAt := none, rereads := 0, atHead := false, fetched := g.fetched ++ [{ index := g.consumed, raw := d }] }

section
variable {u : State} {r : Nat} {g : Ring} {d : BitVec 512} (hg : getRing u r = g)
include hg

theorem takeLine_fetched (hs : dsStamp d = lapStamp (ringSize u r) g.consumed) (ht : dsType d = 1 → flagR u Reg.teCtrl 0 = true) (hb : dsBad d = false) :
    takeLine u r (some d) = noteProgress (setRing u r (ringFetched g d)) 1 r := by
  subst hg
  have htype : ¬ (dsType d = 1 ∧ (!flagR u Reg.teCtrl 0) = true) := fun h => by simp [ht h.1] at h
  unfold takeLine
  dsimp only
  rw [if_neg (not_not.2 hs), if_neg htype, if_neg (by simp [hb])]
  rfl

theorem takeLine_stale (hs : dsStamp d ≠ lapStamp (ringSize u r) g.consumed) (hn : g.staleAt = none) :
    takeLine u r (some d) = setRing u r { g with staleAt := some u.now, rereads := 0 } := by
  subst hg
  unfold takeLine
  dsimp only
  rw [if_pos hs, hn]

theorem takeLine_staleAgain (hs : dsStamp d ≠ lapStamp (ringSize u r) g.consumed) {n : Nat} (hn : g.staleAt = some n) (h3 : g.rereads < 3) :
    takeLine u r (some d) = setRing u r { g with rereads := g.rereads + 1 } := by
  subst hg
  unfold takeLine
  dsimp only
  rw [if_pos hs, hn]
  exact if_pos h3
end

theorem exec_descriptorFetch_of {s : State} {r : RingId} {d : BitVec 512} (hrun : running s = true) (hm : mayFetch s r.val = true) (hup : orfinUp s = true) (hn : (getRing s r.val).staleAt = none) :
    exec (.descriptorFetch r (some d)) s = .next (fetchLine s r.val (some d)) := by
  rw [exec_descriptorFetch, execDescriptorFetch, clocked_running hrun]
  exact congrArg _ (if_pos (by simp [hm, hup, hn]))

theorem exec_descriptorReread_of {s : State} {r : RingId} {d : BitVec 512} {n : Nat} (hrun : running s = true) (hm : mayFetch s r.val = true) (hup : orfinUp s = true) (hn : (getRing s r.val).staleAt = some n) :
    exec (.descriptorReread r (some d)) s = .next (fetchLine (advanceTo s (n + nsT (500 * ((getRing s r.val).rereads + 1)))) r.val (some d)) := by
  rw [exec_descriptorReread, execDescriptorReread, clocked_running hrun]
  dsimp only
  rw [hn]
  exact congrArg _ (if_pos (by simp [hm, hup]))

/-- A ring's new value, with the mark of its progress. -/
theorem setRing_progress_spec (u : State) (r : Nat) (g : Ring) : let t := noteProgress (setRing u r g) 1 r
    (∀ q, getRing t q = if q = r then g else getRing u q) ∧ t.now = u.now ∧ t = { u with orf := { u.orf with rings := t.orf.rings }, err := { u.err with progress := t.err.progress } } := by
  intro t
  exact ⟨fun q => getRing_setRing .., rfl, rfl⟩

theorem setRing_spec (u : State) (r : Nat) (g : Ring) : let t := setRing u r g
    (∀ q, getRing t q = if q = r then g else getRing u q) ∧ t.now = u.now ∧ t = { u with orf := { u.orf with rings := t.orf.rings } } := by
  intro t
  exact ⟨fun q => getRing_setRing .., rfl, rfl⟩

theorem ringFetched_fresh {g : Ring} (d : BitVec 512) (h : g.staleAt = none) :
    ringFetched g d = { g with consumed := g.consumed + 1, rereads := 0, atHead := false, fetched := g.fetched ++ [{ index := g.consumed, raw := d }] } := by
  cases g
  cases h
  rfl

/-! ### Execution (R358 to R362) -/

section
variable {s : State} {r : RingId} {d : Desc} (hrun : running s = true)
include hrun

theorem exec_descriptorNop_of (h : turnOf s r.val 4 = some d) : exec (.descriptorNop r) s = .next (finishDesc (startDesc s r.val d.index) r.val d.index 0 0 0 0) := by
  rw [exec_descriptorNop, execDescriptorNop, clocked_running hrun, h]

section
variable (h : turnOf s r.val 1 = some d) (hte : flagR s Reg.teCtrl 0 = true)
include h hte

theorem exec_launch_otherJob (hj : bits d.raw 79 64 ≠ fieldR s (Reg.orfRingCfg r.val) 31 16) : exec (.launch r) s = .next (finishAtOnce s r.val d 0x03 0) := by
  rw [exec_launch, execLaunch, clocked_running hrun, h]
  dsimp only
  rw [if_neg (by simp [hte])]
  exact congrArg _ (if_pos hj)

variable (hj : bits d.raw 79 64 = fieldR s (Reg.orfRingCfg r.val) 31 16) {p : PartId} (hp : partOf s (d.raw.extractLsb' 64 16) = some p) {te : TeId}
  (hh : launchHome s p (bits d.raw 111 96) = some te) (hup : routeUp s 4 (dieOf te).val = true)
include hj hp hh hup

theorem exec_launch_fits (hfit : headerHeld s te (launchOf s r d p te) = true ∨ fitsNever s te (launchOf s r d p te) = none) :
    exec (.launch r) s = .next (if 16 ≤ (getTe s te).queue.length then holdRing s r.val
      else noteHeld (startDesc (setTe s te { getTe s te with queue := (getTe s te).queue ++ [launchOf s r d p te] }) r.val d.index)) := by
  have hnone : (if headerHeld s te (launchOf s r d p te) = true then none else fitsNever s te (launchOf s r d p te)) = none := by
    obtain hf | hf := hfit
    · exact if_pos hf
    · rw [hf]
      exact ite_self _
  rw [exec_launch, execLaunch, clocked_running hrun, h]
  dsimp only
  rw [if_neg (by simp [hte]), if_neg (show ¬ (d.raw.extractLsb' 64 16).toNat ≠ fieldR s (Reg.orfRingCfg r.val) 31 16 from not_not.2 hj), hp]
  dsimp only
  rw [hh]
  dsimp only
  rw [if_neg (by simp [hup]), hnone]

theorem exec_launch_unfit {cls : Nat} (hheld : headerHeld s te (launchOf s r d p te) = false) (hfit : fitsNever s te (launchOf s r d p te) = some cls) :
    exec (.launch r) s = .next (autoAbort (finishAtOnce (unfitRecord s te (launchOf s r d p te) cls) r.val d 0x05 cls) (d.raw.extractLsb' 64 16) cls) := by
  rw [exec_launch, execLaunch, clocked_running hrun, h]
  dsimp only
  rw [if_neg (by simp [hte]), if_neg (show ¬ (d.raw.extractLsb' 64 16).toNat ≠ fieldR s (Reg.orfRingCfg r.val) 31 16 from not_not.2 hj), hp]
  dsimp only
  rw [hh]
  dsimp only
  rw [if_neg (by simp [hup]), hheld, if_neg Bool.false_ne_true, hfit]
end
end

theorem runCopy_outside {s : State} {r : Nat} {d : Desc} (go : State → State × Option (Nat × Bad)) (hw : copyInWindow (startDesc s r d.index) r d.raw = false) :
    runCopy s r d go = finishDesc (startDesc s r d.index) r d.index 0x04 0 0 0 := if_pos (by simp [hw])

theorem runCopy_whole {s u : State} {r : Nat} {d : Desc} {go : State → State × Option (Nat × Bad)} (hw : copyInWindow (startDesc s r d.index) r d.raw = true)
    (hgo : go (startDesc s r d.index) = (u, none)) : runCopy s r d go = finishDesc u r d.index 0x00 0 0 0 := by
  unfold runCopy
  dsimp only
  rw [if_neg (by simp [hw]), hgo]

theorem runCopy_failed {s u : State} {r : Nat} {d : Desc} {go : State → State × Option (Nat × Bad)} {agent : Nat} {b : Bad} (hw : copyInWindow (startDesc s r d.index) r d.raw = true)
    (hgo : go (startDesc s r d.index) = (u, some (agent, b))) (hb : b.held = false) : runCopy s r d go = finishDesc (copyRecord u r agent b) r d.index 0x07 b.cls 0 0 := by
  unfold runCopy
  dsimp only
  rw [if_neg (by simp [hw]), hgo]
  exact if_neg (by simp [hb])

theorem exec_copy {s : State} {r : RingId} {d : Desc} {lines : List Line} {go : State → State × Option (Nat × Bad)} {i : Instr} (hrun : running s = true) (hup : orfinUp s = true)
    (h : i = .copyIn r lines ∧ go = copyInFrom (cpLines d.raw) (cpFrom d.raw) (cpTo d.raw) lines ∧ turnOf s r.val 2 = some d
      ∨ i = .copyOut r ∧ go = copyOutFrom (cpLines d.raw) (cpFrom d.raw) (cpTo d.raw) ∧ turnOf s r.val 3 = some d) : exec i s = .next (runCopy s r.val d go) := by
  obtain ⟨rfl, rfl, ht⟩ | ⟨rfl, rfl, ht⟩ := h
  · rw [exec_copyIn, execCopyIn, clocked_running hrun, ht]
    exact congrArg _ (if_pos hup)
  · rw [exec_copyOut, execCopyOut, clocked_running hrun, ht]
    exact congrArg _ (if_pos hup)

/-! ### Completions (R352, R363, R365) -/

/-- A completion has been written into its slot, its Notify not yet sent (R363). -/
def completed (s : State) (r : Nat) (d : Desc) : State :=
  noteProgress (noteProgress (setRing (orfSend s (.completion r (cqSlot s r (getRing s r).written) (completionEntry s (ringSize s r) (getRing s r).written d))) r
    { getRing s r with fetched := (getRing s r).fetched.filter fun e => decide (e.index ≠ d.index), written := (getRing s r).written + 1 }) 1 r) 7 0

theorem completed_frame (u : State) (r : Nat) (g : Ring) : ∃ m p, noteProgress (noteProgress (setRing u r g) 1 r) 7 0
    = { u with orf := { u.orf with rings := m }, err := { u.err with progress := p } } := ⟨_, _, rfl⟩

theorem completed_spec (s : State) (r : Nat) (d : Desc) : let z := completed s r d
    (∀ q, getRing z q = if q = r then { getRing s r with fetched := (getRing s r).fetched.filter fun e => decide (e.index ≠ d.index), written := (getRing s r).written + 1 } else getRing s q)
      ∧ OrfSent s z (.completion r (cqSlot s r (getRing s r).written) (completionEntry s (ringSize s r) (getRing s r).written d))
      ∧ z = { s with orf := { s.orf with rings := z.orf.rings, out := z.orf.out, wait := z.orf.wait, bulkSeqs := z.orf.bulkSeqs }, fab := { s.fab with links := z.fab.links, wire := z.fab.wire }, err := { s.err with progress := z.err.progress } } := by
  generalize hm : OrfMsg.completion r (cqSlot s r (getRing s r).written) (completionEntry s (ringSize s r) (getRing s r).written d) = m
  generalize hg : ({ getRing s r with fetched := (getRing s r).fetched.filter fun e => decide (e.index ≠ d.index), written := (getRing s r).written + 1 } : Ring) = g
  have hz : completed s r d = noteProgress (noteProgress (setRing (orfSend s m) r g) 1 r) 7 0 := by rw [← hm, ← hg]; rfl
  rw [hz]
  intro z
  have hring : ∀ q, getRing z q = if q = r then g else getRing (orfSend s m) q := fun q => getRing_setRing ..
  obtain ⟨rings, p, h⟩ := completed_frame (orfSend s m) r g
  have h' : z = _ := h
  obtain ⟨o, w, b, ls, wi, hsend⟩ := orfSend_only s m
  refine ⟨fun q => by rw [hring, getRing_orfSend], orfSent_of (by rw [h']) (by rw [h']), ?_⟩
  rw [h', hsend]

section
variable {s : State} {r : RingId} {d : Desc} (hrun : running s = true) (hd : (getRing s r.val).fetched.find? (fun d => d.done && (!dsOrder d.raw || d.flushed)) = some d)
  (hc : (getRing s r.val).cause ≠ 4) (hup : orfinUp s = true) (hb : proxyBuf s (cqSlot s r.val (getRing s r.val).written / 64) = none)
include hrun hd hc hup hb

theorem exec_completionWrite_evicts (hp : (getProxy s (cqSlot s r.val (getRing s r.val).written / 64)).st ≠ .i) :
    exec (.completionWrite r true) s = .next (proxyEvict s (cqSlot s r.val (getRing s r.val).written / 64)) := by
  rw [exec_completionWrite, execCompletionWrite, clocked_running hrun]
  dsimp only
  rw [hd]
  dsimp only
  rw [if_neg hc, if_neg (by simp), if_neg (by simp [hup, hb]), if_pos hp]

theorem exec_completionWrite_writes (hp : (getProxy s (cqSlot s r.val (getRing s r.val).written / 64)).st = .i) :
    exec (.completionWrite r true) s = .next (if dsNotify d.raw && flagR s (Reg.orfRingCfg r.val) 6
      then orfSend (completed s r.val d) (.notify r.val (BitVec.ofNat 16 (fieldR s (Reg.orfRingCfg r.val) 47 32))) else completed s r.val d) := by
  obtain ⟨_, _, hz⟩ := completed_spec s r.val d
  have hrf : (completed s r.val d).rf = s.rf := by rw [hz]
  rw [exec_completionWrite, execCompletionWrite, clocked_running hrun]
  dsimp only
  rw [hd]
  dsimp only
  rw [if_neg hc, if_neg (by simp), if_neg (by simp [hup, hb]), if_neg (not_not.2 hp), ← flagR_rf hrf, ← fieldR_rf hrf]
  rfl
end

/-- Settles O49. -/
theorem descriptorsRun : Obligations.DescriptorsRun := by
  refine ⟨?fetch, ?run, ?completions⟩
  case fetch =>
    intro s r d g a hrun hg hm hup ha hp hb
    subst hg
    obtain ⟨hnow, herr, hsize, hflag⟩ := peeked_keeps s a r.val
    have hring := getRing_peeked s a
    refine ⟨fun hn hs ht hbad => ⟨_, exec_descriptorFetch_of hrun hm hup hn, ?_⟩, fun hn hs => ⟨_, exec_descriptorFetch_of hrun hm hup hn, ?_⟩, fun n u hn hu hs h3 => ?_, fun n u hn hu hs ht hbad => ?_⟩
    · rw [fetchLine_peeks d ha hp hb, takeLine_fetched (hring r.val) (by rw [hsize]; exact hs) (fun h => (hflag ..).trans (ht h)) hbad, ringFetched_fresh d hn]
      obtain ⟨h1, _, h2⟩ := setRing_progress_spec (peeked s a) r.val { getRing s r.val with consumed := (getRing s r.val).consumed + 1, rereads := 0, atHead := false, fetched := (getRing s r.val).fetched ++ [{ index := (getRing s r.val).consumed, raw := d }] }
      refine ⟨fun q => (h1 q).trans (by rw [hring]), h2.trans ?_⟩
      rw [herr]
    · rw [fetchLine_peeks d ha hp hb, takeLine_stale (hring r.val) (by rw [hsize]; exact hs) hn, hnow]
      obtain ⟨h1, _, h2⟩ := setRing_spec (peeked s a) r.val { getRing s r.val with staleAt := some s.now, rereads := 0 }
      exact ⟨fun q => (h1 q).trans (by rw [hring]), h2⟩
    · obtain ⟨hnow', herr', hsize', hflag'⟩ := peeked_keeps (advanceTo s (n + nsT (500 * ((getRing s r.val).rereads + 1)))) a r.val
      have hring' := getRing_peeked (advanceTo s (n + nsT (500 * ((getRing s r.val).rereads + 1)))) a
      rw [← hu] at hnow' herr' hsize' hring'
      refine ⟨_, exec_descriptorReread_of hrun hm hup hn, ?_⟩
      rw [fetchLine_peeks (s := advanceTo s (n + nsT (500 * ((getRing s r.val).rereads + 1)))) d ha hp hb, ← hu, takeLine_staleAgain (hring' r.val) (by rw [hsize']; exact hs) hn h3]
      obtain ⟨h1, h2, h3⟩ := setRing_spec u r.val { getRing s r.val with rereads := (getRing s r.val).rereads + 1 }
      exact ⟨fun q => (h1 q).trans (by rw [hring']; rfl), (Nat.le_max_right s.now _).trans_eq (hnow'.symm.trans h2.symm), h3⟩
    · obtain ⟨hnow', herr', hsize', hflag'⟩ := peeked_keeps (advanceTo s (n + nsT (500 * ((getRing s r.val).rereads + 1)))) a r.val
      have hring' := getRing_peeked (advanceTo s (n + nsT (500 * ((getRing s r.val).rereads + 1)))) a
      rw [← hu] at hnow' herr' hsize' hring'
      refine ⟨_, exec_descriptorReread_of hrun hm hup hn, ?_⟩
      rw [fetchLine_peeks (s := advanceTo s (n + nsT (500 * ((getRing s r.val).rereads + 1)))) d ha hp hb, ← hu, takeLine_fetched (hring' r.val) (by rw [hsize']; exact hs) (fun h => absurd h ht) hbad]
      obtain ⟨h1, h2, h3⟩ := setRing_progress_spec u r.val (ringFetched (getRing s r.val) d)
      refine ⟨fun q => (h1 q).trans (by rw [hring']; rfl), (Nat.le_max_right s.now _).trans_eq (hnow'.symm.trans h2.symm), h3.trans ?_⟩
      rw [herr']
      rfl
  case run =>
    intro s r d c hrun hc
    subst hc
    refine ⟨exec_descriptorNop_of hrun, fun p te l h hte hj hp hh hl hup => ?_, exec_launch_otherJob hrun, fun lines go i hup h => ?_⟩
    · subst hl
      exact ⟨fun hfit hlen => by rw [exec_launch_fits hrun h hte hj hp hh hup hfit, if_neg (Nat.not_le.2 hlen)],
        fun hfit hlen => by rw [exec_launch_fits hrun h hte hj hp hh hup hfit, if_pos hlen], fun cls => exec_launch_unfit hrun h hte hj hp hh hup⟩
    · rw [exec_copy hrun hup h]
      exact ⟨fun hw => by rw [runCopy_outside go hw], fun u hw hgo => by rw [runCopy_whole hw hgo], fun u agent b hw hgo hb => by rw [runCopy_failed hw hgo hb]⟩
  case completions =>
    intro s r d g hrun hg hd hc hup hb
    subst hg
    obtain ⟨hring, hsent, honly⟩ := completed_spec s r.val d
    exact ⟨_, hring, hsent, honly, exec_completionWrite_writes hrun hd hc hup hb, exec_completionWrite_evicts hrun hd hc hup hb⟩

end Sys2Proof.Machine
end

section
/-! PROOFS. Accesses of the companion to its register window (R348, R366, R497): O50. -/

namespace Sys2Proof.Machine

section
variable {s u : State} (hup : orfinUp s = true) (hu : u = heard s 23)
include hup hu

theorem ioAccess_unready (off width : Nat) (f : State → Reg → W64 → State) (h : flagR u Reg.orfStatus 0 = false) : ioAccess s off width f = orfSend u (.ioAck off 0 true) := by
  subst hu
  unfold ioAccess fromOrfin
  rw [if_pos hup]
  dsimp only
  rw [if_pos (by simp [h])]

theorem ioAccess_illFormed {off width : Nat} (f : State → Reg → W64 → State) (h : flagR u Reg.orfStatus 0 = true) (hw : width ≠ 8 ∨ off % 8 ≠ 0) :
    ioAccess s off width f = orfFlag (orfSend u (.ioAck off 0 true)) 6 0 := by
  subst hu
  unfold ioAccess fromOrfin
  rw [if_pos hup]
  dsimp only
  rw [if_neg (by simp [h]), if_pos hw]

theorem ioAccess_reaches {off : Nat} (f : State → Reg → W64 → State) (h : flagR u Reg.orfStatus 0 = true) (ho : off % 8 = 0) {w : RegView} (hw : viewAt u (ioPlace off) = some w) :
    ioAccess s off 8 f = f u w.reg (viewValue u w) := by
  subst hu
  unfold ioAccess fromOrfin
  rw [if_pos hup]
  dsimp only
  rw [if_neg (by simp [h]), if_neg (by simp [ho]), hw]
end

/-- Settles O50. -/
theorem companionAccess : Obligations.CompanionAccess := by
  intro s u off hrun hup hu
  refine ⟨fun w h ho hw => ⟨fun hs => ?_, fun hlo hs => ?_, fun v => ?_⟩, fun width v h => ⟨?_, ?_⟩, fun width v h hbad => ⟨?_, ?_⟩⟩
  · rw [exec_ioRead, execIoRead, clocked_running hrun]
    exact congrArg _ ((ioAccess_reaches hup hu _ h ho hw).trans (if_neg hs))
  · rw [exec_ioRead, execIoRead, clocked_running hrun]
    exact congrArg _ ((ioAccess_reaches hup hu _ h ho hw).trans (if_pos ⟨hlo, hs⟩))
  · rw [exec_ioWrite, execIoWrite, clocked_running hrun]
    exact congrArg _ (ioAccess_reaches hup hu _ h ho hw)
  · rw [exec_ioRead, execIoRead, clocked_running hrun, ioAccess_unready hup hu _ _ _ h]
  · rw [exec_ioWrite, execIoWrite, clocked_running hrun, ioAccess_unready hup hu _ _ _ h]
  · rw [exec_ioRead, execIoRead, clocked_running hrun, ioAccess_illFormed hup hu _ h hbad]
  · rw [exec_ioWrite, execIoWrite, clocked_running hrun, ioAccess_illFormed hup hu _ h hbad]

end Sys2Proof.Machine
end

section
/-! PROOFS. The stitch: edges, boundaries, holdover and re-lock (R24, R401 to R405): O51. -/

namespace Sys2Proof.Machine

theorem stcEvt_ne_stcStatus : Reg.stcStatus.addr ≠ Reg.stcEvt.addr := by decide
theorem stcStatus_no_queue : ∀ i : HDie, Reg.stcStatus.addr ≠ (Reg.errQDrop i).addr ∧ Reg.stcStatus.addr ≠ (Reg.errQStatus i).addr := by decide

/-- A flag of STC_STATUS that is counted in STC_EVT: it is set, and only registers change. -/
theorem stcFlag_counted (s : State) {b : Nat} (hb : b < 64) (hi lo n : Nat) : flagR (countR (raise s Reg.stcStatus b) Reg.stcEvt hi lo n) Reg.stcStatus b = true
    ∧ ∃ rf, countR (raise s Reg.stcStatus b) Reg.stcEvt hi lo n = { s with rf := rf } := by
  refine ⟨?_, _, rfl⟩
  rw [flagR, getR_countR_ne _ _ _ _ stcEvt_ne_stcStatus]
  exact flagR_raise s _ hb

/-! ### Accepted edges (R401 to R404) -/

theorem exec_stitchEdgeAccept_runs {s : State} (h : stitchRuns s = true) : exec .stitchEdgeAccept s = .next (acceptEdge s) := by
  rw [exec_stitchEdgeAccept, execStitchEdgeAccept, stitching_runs _ h]

theorem exec_stitchEdge_runs {s : State} {ns high : W32} {t : Nat} (h : stitchRuns s = true) (ht : t = s.stc.last + nsT ns.toNat) (hnow : s.now ≤ t) :
    exec (.stitchEdge ⟨ns, high⟩) s = .next (if high.toNat < 20 then advanceTo (acceptEdge s) t else { advanceTo (acceptEdge s) t with stc := { (acceptEdge s).stc with edge := some t } }) := by
  subst ht
  rw [exec_stitchEdge, execStitchEdge, stitching_runs _ h]
  exact congrArg _ (if_neg (Nat.not_lt.2 hnow))

/-- The edge that waits has been taken. -/
def edgeTaken (s : State) : State := { s with stc := { s.stc with edge := none } }

theorem acceptEdge_none {s : State} (h : s.stc.edge = none) : acceptEdge s = s := by
  unfold acceptEdge
  rw [h]

theorem acceptEdge_some {s : State} {t : Nat} (h : s.stc.edge = some t) : acceptEdge s = advanceTo (treatEdge (edgeTaken s) t) (t + nsT 20) := by
  unfold acceptEdge
  rw [h]
  rfl

/-- An edge that has returned: its flag is set, its offset kept, and nothing else changes (R403). -/
theorem edgeReturned_spec (s : State) (t : Nat) : flagR (edgeReturned s t) Reg.stcStatus 4 = true ∧ ∃ rf o, edgeReturned s t = { s with rf := rf, stc := { s.stc with offset := o } } :=
  ⟨flagR_raise _ _ (by omega), _, _, rfl⟩

section
variable {s : State} {t p w d : Nat} (hp : p = periodT s) (hw : w = tolT s) (hd : d = t - s.stc.last)
include hp hw hd

section
variable (hh : s.stc.holdover = false)
include hh

theorem treatEdge_early (h : d < p - w) : treatEdge s t = countR (raise s Reg.stcStatus 3) Reg.stcEvt 15 0 1 := by
  subst hp hw hd
  unfold treatEdge
  dsimp only
  rw [if_pos (by simp [hh]), if_pos h]

theorem treatEdge_boundary (h : p - w ≤ d) (h' : d ≤ p + w) : treatEdge s t = boundary (setOffset s t (s.stc.last + p)) t := by
  subst hp hw hd
  unfold treatEdge
  dsimp only
  rw [if_pos (by simp [hh]), if_neg (Nat.not_lt.2 h), if_pos h']

theorem treatEdge_late (h : p - w ≤ d) (h' : p + w < d) : treatEdge s t = edgeReturned (beginHoldover s) t := by
  subst hp hw hd
  unfold treatEdge
  dsimp only
  rw [if_pos (by simp [hh]), if_neg (Nat.not_lt.2 h), if_neg (Nat.not_le.2 h')]
end

omit hw in
theorem treatEdge_holdover (hh : s.stc.holdover = true) : (s.stc.armed = none → treatEdge s t = edgeReturned s t)
    ∧ ∀ a, s.stc.armed = some a → treatEdge s t = if a ≤ t ∧ p ≤ 2 * d ∧ 2 * d ≤ 3 * p then
        { boundary (setOffset s t (s.stc.last + p)) t with stc := { (boundary (setOffset s t (s.stc.last + p)) t).stc with holdover := false, armed := none } }
      else if 3 * p < 2 * d then edgeReturned { boundary s (s.stc.last + p + p / 2) with stc := { (boundary s (s.stc.last + p + p / 2)).stc with armed := none } } t
      else edgeReturned s t := by
  subst hp hd
  unfold treatEdge
  dsimp only
  rw [if_neg (by simp [hh])]
  exact ⟨fun ha => by rw [ha], fun a ha => by rw [ha]⟩
end

theorem periodT_edgeTaken (s : State) : periodT (edgeTaken s) = periodT s := rfl
theorem tolT_edgeTaken (s : State) : tolT (edgeTaken s) = tolT s := rfl

/-! ### Boundaries without an edge (R402 to R404) -/

theorem beginHoldover_spec (s : State) : ∃ rf er, beginHoldover s = { boundary s (s.stc.last + periodT s + tolT s) with rf := rf, err := er, stc := { (boundary s (s.stc.last + periodT s + tolT s)).stc with holdover := true, edge := s.stc.edge } }
    ∧ flagR (beginHoldover s) Reg.stcStatus 1 = true := by
  unfold beginHoldover
  generalize boundary s (s.stc.last + periodT s + tolT s) = b
  dsimp only
  obtain ⟨hflag, rf, hc⟩ := stcFlag_counted { b with stc := { b.stc with holdover := true, edge := s.stc.edge } } (b := 1) (by omega) 31 16 1
  obtain ⟨rf', er, hp⟩ := place_frame (countR (raise { b with stc := { b.stc with holdover := true, edge := s.stc.edge } } Reg.stcStatus 1) Reg.stcEvt 31 16 1)
    { cls := 0x35, action := 3, cause := 1, d0 := b.stc.count.setWidth 64 }
  refine ⟨rf', er, ?_, ?_⟩
  · refine Eq.trans ?_ (hp.trans (by rw [hc]))
    rfl
  · exact (flagR_place _ _ 1 stcStatus_no_queue).trans hflag

theorem exec_substituteBoundary_due {s : State} (h : stitchRuns s = true) (hh : s.stc.holdover = false) (he : ∀ t, s.stc.edge = some t → s.stc.last + periodT s + tolT s < t) :
    exec .substituteBoundary s = .next (beginHoldover s) := by
  rw [exec_substituteBoundary, execSubstituteBoundary, stitching_runs _ h]
  refine congrArg _ (if_neg ?_)
  rw [hh, Bool.false_or]
  cases hedge : s.stc.edge with
  | none => exact Bool.false_ne_true
  | some t => simpa using he t hedge

theorem exec_holdoverBoundary_due {s : State} (h : stitchRuns s = true) (hh : s.stc.holdover = true) (ha : s.stc.armed = none) : exec .holdoverBoundary s
    = .next { boundary s (s.stc.last + periodT s) with stc := { (boundary s (s.stc.last + periodT s)).stc with edge := s.stc.edge } } := by
  rw [exec_holdoverBoundary, execHoldoverBoundary, stitching_runs _ h]
  exact congrArg _ (if_neg (by simp [hh, ha]))

theorem exec_relockTimeout_due {s : State} {a : Nat} (h : stitchRuns s = true) (ha : s.stc.armed = some a) (he : ∀ t, s.stc.edge = some t → s.stc.last + periodT s + periodT s / 2 < t) :
    exec .relockTimeout s = .next { boundary s (s.stc.last + periodT s + periodT s / 2) with stc :=
      { (boundary s (s.stc.last + periodT s + periodT s / 2)).stc with armed := none, edge := s.stc.edge } } := by
  rw [exec_relockTimeout, execRelockTimeout, stitching_runs _ h]
  refine congrArg _ (if_neg ?_)
  rw [ha, Option.isNone_some, Bool.false_or]
  cases hedge : s.stc.edge with
  | none => exact Bool.false_ne_true
  | some t => simpa using he t hedge

/-! ### The stitch blocks alone, and their registers (R24, R404, R405) -/

theorem boundary_alone {s : State} (t : Nat) (h : stitchAlone s = true) : boundary s t = countBoundary (advanceTo s t) t := if_pos h

theorem exec_stcPeriodWrite_taken {s : State} {v : W64} (hrun : running s = true) (h1 : 2000 ≤ bits v 19 0) (h2 : bits v 19 0 ≤ 1000000) (h3 : 1 ≤ bits v 48 32) (h4 : 8 * bits v 48 32 ≤ bits v 19 0) :
    exec (.stcPeriodWrite v) s = .next { setR s Reg.stcPeriod (v &&& 0x1FFFF000FFFFF) with stc := { s.stc with nextPeriod := s.stc.nextPeriod ++ [(bits v 19 0, bits v 48 32, s.now)] } } := by
  rw [exec_stcPeriodWrite, execStcPeriodWrite, clocked_running hrun]
  exact congrArg _ (if_pos ⟨h1, h2, h3, h4⟩)

theorem exec_stcPeriodWrite_refused {s : State} {v : W64} (hrun : running s = true) (h : bits v 19 0 < 2000 ∨ 1000000 < bits v 19 0 ∨ bits v 48 32 = 0 ∨ bits v 19 0 < 8 * bits v 48 32) :
    exec (.stcPeriodWrite v) s = .next (raise s Reg.stcStatus 7) := by
  rw [exec_stcPeriodWrite, execStcPeriodWrite, clocked_running hrun]
  exact congrArg _ (if_neg (by omega))

/-- Settles O51. -/
theorem stitchEdges : Obligations.StitchEdges := by
  refine ⟨?edges, ?accepted, ?unmarked, ?alone, ?registers⟩
  case edges =>
    intro s ns high t h ht hnow
    rw [exec_stitchEdge_runs h ht hnow]
    refine ⟨fun he => ?_, fun u hu => ?_⟩
    · rw [acceptEdge_none he, advanceTo, Nat.max_eq_right hnow]
    · rw [exec_stitchEdgeAccept_runs h] at hu
      cases hu
      rfl
  case accepted =>
    intro s u t p w d h he hu hp hw hd
    have hu' : u = edgeTaken s := hu
    have hexec : exec .stitchEdgeAccept s = .next (advanceTo (treatEdge u t) (t + nsT 20)) := by rw [exec_stitchEdgeAccept_runs h, acceptEdge_some he, hu']
    have hp' : p = periodT u := by rw [hp, hu', periodT_edgeTaken]
    have hw' : w = tolT u := by rw [hw, hu', tolT_edgeTaken]
    have hlast : u.stc.last = s.stc.last := by rw [hu]
    have hhold : u.stc.holdover = s.stc.holdover := by rw [hu]
    have harmed : u.stc.armed = s.stc.armed := by rw [hu]
    have hd' : d = t - u.stc.last := by rw [hlast, hd]
    rw [← hlast, ← hhold, ← harmed, hexec]
    refine ⟨fun hh hearly => ⟨_, hexec, ?_⟩, fun hh h1 h2 => by rw [treatEdge_boundary hp' hw' hd' hh h1 h2], fun hh h1 h2 => by rw [treatEdge_late hp' hw' hd' hh h1 h2],
      fun hh ha => ⟨_, hexec, ?_⟩, fun a hh ha h1 h2 h3 => ⟨_, hexec, _, rfl, ?_⟩, fun a b hh ha h1 hb => ?_, fun a hh ha h1 h2 => ?_⟩
    · rw [treatEdge_early hp' hw' hd' hh hearly]
      obtain ⟨hflag, rf, hc⟩ := stcFlag_counted u (b := 3) (by omega) 15 0 1
      refine ⟨hflag, ?_⟩
      rw [hc, hu]
      rfl
    · rw [(treatEdge_holdover hp' hd' hh).1 ha]
      obtain ⟨hflag, rf, o, hc⟩ := edgeReturned_spec u t
      refine ⟨hflag, ?_⟩
      rw [hc, hu]
      rfl
    · rw [(treatEdge_holdover hp' hd' hh).2 a ha, if_pos ⟨h1, h2, h3⟩]
      rfl
    · rw [(treatEdge_holdover hp' hd' hh).2 a ha, if_neg (by omega), if_pos h1, hb]
    · rw [(treatEdge_holdover hp' hd' hh).2 a ha, if_neg (by omega), if_neg (by omega)]
  case unmarked =>
    intro s h
    refine ⟨fun hh he => ⟨_, exec_substituteBoundary_due h hh he, _, rfl, ?_⟩, fun hh ha => ⟨_, exec_holdoverBoundary_due h hh ha, _, rfl, rfl⟩, fun a ha he => ⟨_, exec_relockTimeout_due h ha he, _, rfl, rfl⟩⟩
    obtain ⟨rf, er, hb, hflag⟩ := beginHoldover_spec s
    exact ⟨hflag, by rw [hb]⟩
  case alone =>
    intro s t c n h hc hn
    rw [boundary_alone t h] at hn ⊢
    subst hc hn
    exact ⟨rfl, rfl, rfl, rfl, rfl, rfl, rfl, rfl, rfl, rfl, rfl⟩
  case registers =>
    intro s v hrun
    refine ⟨fun hh ha => ?_, fun hh => ?_, fun h1 h2 h3 h4 => ⟨_, exec_stcPeriodWrite_taken hrun h1 h2 h3 h4, getR_setR .., rfl⟩, exec_stcPeriodWrite_refused hrun, ?_⟩
    · rw [exec_stcRelock, execStcRelock, clocked_running hrun]
      exact congrArg _ (if_pos (by simp [hh, ha]))
    · rw [exec_stcRelock, execStcRelock, clocked_running hrun]
      exact congrArg _ (if_neg (by simp [hh]))
    · rw [exec_stcLoad, execStcLoad, clocked_running hrun]

end Sys2Proof.Machine
end

section
/-! PROOFS. Budgets, power samples, limiters and droop (R417, R419, R420, R422, R423, R425): O52. -/

namespace Sys2Proof.Machine

/-! ### The mailbox and the package limiter (R417, R419) -/

theorem exec_pwrMboxWrite_taken {s : State} {v : W64} (hrun : running s = true) (h1 : 1200 ≤ bits v 11 0) (h2 : bits v 11 0 ≤ 3600) (h3 : bits v 15 12 = 0) (h4 : bits v 63 33 = 0) :
    exec (.pwrMboxWrite v) s = .next { setR s Reg.pwrMbox v with pwr := { s.pwr with writes := s.pwr.writes ++ [(s.now, v)] } } := by
  rw [exec_pwrMboxWrite, execPwrMboxWrite, clocked_running hrun]
  exact congrArg _ (if_pos ⟨h1, h2, h3, h4⟩)

theorem exec_pwrMboxWrite_refused {s : State} {v : W64} (hrun : running s = true) (h : bits v 11 0 < 1200 ∨ 3600 < bits v 11 0 ∨ bits v 15 12 ≠ 0 ∨ bits v 63 33 ≠ 0) :
    exec (.pwrMboxWrite v) s = .next (raise s Reg.pwrStatus 0) := by
  rw [exec_pwrMboxWrite, execPwrMboxWrite, clocked_running hrun]
  exact congrArg _ (if_neg (by omega))

/-- What a sample leaves of the package's power state, of the state at its time (R417). -/
def sampledPower (s : State) (w : Nat) : Power := { s.pwr with
  sampledAt := s.now, now := w, sum := s.pwr.sum + w, samples := s.pwr.samples + 1
  run := if budgetB s < w then s.pwr.run + 1 else 0
  barred := if ¬ budgetB s < w ∧ 0 < s.pwr.run then s.now + usT 10000 else s.pwr.barred
  clockStretch := if ceilingE s < w then true else s.pwr.clockStretch && decide (budgetB s < w)
  excursion := s.pwr.excursion && decide (budgetB s < w) }

theorem exec_powerSample_takes {s : State} {watts : BitVec 13} (hrun : running s = true) : exec (.powerSample watts) s = .next (
    if ceilingE (advanceTo s (s.pwr.sampledAt + usT 1)) < watts.toNat
      then raise { advanceTo s (s.pwr.sampledAt + usT 1) with pwr := sampledPower (advanceTo s (s.pwr.sampledAt + usT 1)) watts.toNat } Reg.pwrStatus 2
      else { advanceTo s (s.pwr.sampledAt + usT 1) with pwr := sampledPower (advanceTo s (s.pwr.sampledAt + usT 1)) watts.toNat }) := by
  rw [exec_powerSample, execPowerSample, clocked_running hrun]
  unfold sampledPower
  simp only [decide_eq_true_eq, Bool.not_eq_true', decide_eq_false_iff_not]

/-! ### Excursions (R417) -/

theorem exec_excursionLimit_begins {s : State} (hrun : running s = true) (hr : 1000 ≤ s.pwr.run) (he : s.pwr.excursion = false) :
    exec .excursionLimit s = .next ((List.range 6).foldl stepDown (raise { s with pwr := { s.pwr with excursion := true } } Reg.pwrStatus 1)) := by
  rw [exec_excursionLimit, execExcursionLimit, clocked_running hrun]
  exact congrArg _ ((if_neg (Nat.not_lt.2 hr)).trans (if_neg (by simp [he])))

theorem exec_excursionLimit_lasts {s : State} (hrun : running s = true) (hr : 1000 ≤ s.pwr.run) (he : s.pwr.excursion = true) :
    exec .excursionLimit s = .next (raise s Reg.pwrStatus 1) := by
  have hsame : { s with pwr := { s.pwr with excursion := true } } = s := by rw [← he]
  rw [exec_excursionLimit, execExcursionLimit, clocked_running hrun]
  refine congrArg _ ((if_neg (Nat.not_lt.2 hr)).trans ((if_pos he).trans ?_))
  rw [hsame]

/-! ### Die limiters (R422) -/

/-- A die's power state at a time. -/
def dieAtTime (s : State) (at_ d : Nat) (v : DiePower) : State := setDie (advanceTo s at_) d v

theorem dieAtTime_spec (s : State) (at_ d : Nat) (v : DiePower) : let t := dieAtTime s at_ d v
    (∀ e, getDie t e = if e = d then v else getDie s e) ∧ at_ ≤ t.now ∧ t = { s with now := t.now, pwr := { s.pwr with dies := t.pwr.dies } } := by
  intro t
  exact ⟨fun e => getDie_setDie .., Nat.le_max_right s.now at_, rfl⟩

theorem setDie_setDie (s : State) (at_ d : Nat) (v w : DiePower) : let t := setDie (dieAtTime s at_ d v) d w
    (∀ e, getDie t e = if e = d then w else getDie s e) ∧ at_ ≤ t.now ∧ t = { s with now := t.now, pwr := { s.pwr with dies := t.pwr.dies } } := by
  intro t
  refine ⟨fun e => (getDie_setDie ..).trans ?_, Nat.le_max_right s.now at_, rfl⟩
  split
  · rfl
  next h => exact (getDie_setDie ..).trans (if_neg h)

theorem exec_vfStepDone_of {s : State} {d : Fin 6} {p n : Nat} (hrun : running s = true) (h : (getDie s d.val).stepping = some (p, n)) :
    exec (.vfStepDone d) s = .next (dieAtTime s (n + usT 2) d.val { getDie s d.val with point := some p, stepping := none }) := by
  have h' : (getDie (advanceTo s (n + usT 2)) d.val).stepping = some (p, n) := h
  rw [exec_vfStepDone, execVfStepDone, clocked_running hrun]
  dsimp only
  rw [h]
  dsimp only
  unfold finishStep
  dsimp only
  rw [h']
  rfl

/-- A die's sample at its limiter's tick (R422). -/
def ticked (v : DiePower) (at_ w below : Nat) : DiePower := { v with tickAt := at_, sum := v.sum + w, samples := v.samples + 1, below := below }

/-- The count of ticks below 95% of the budget (R422). -/
def belowOf (s : State) (v : DiePower) (w : Nat) : Nat := if s.pwr.dealtYet = true ∧ 100 * w < 95 * v.dealt then v.below + 1 else 0

/-- A die's limiter after the sample of its tick. -/
def afterTick (s : State) (d w : Nat) : State :=
  dieAtTime s ((getDie s d).tickAt + usT 10) d (ticked (getDie s d) (max s.now ((getDie s d).tickAt + usT 10)) w (belowOf s (getDie s d) w))

theorem exec_dieLimiterTick_samples {s : State} {d : Fin 6} {watts : BitVec 12} (hrun : running s = true) (hst : (getDie s d.val).stepping = none) :
    exec (.dieLimiterTick d watts) s = .next (
      if (s.pwr.dealtYet && decide ((getDie s d.val).dealt < watts.toNat)) || decide (105 ≤ (getDie s d.val).temp) || s.pwr.excursion
        then stepTo (afterTick s d.val watts.toNat) d.val (pointOf s d.val - 1)
      else if 5 ≤ belowOf s (getDie s d.val) watts.toNat ∧ pointOf s d.val < (if (getDie s d.val).sensorFailed then (Config.bootPoint d.val).val else 15)
        then stepTo (afterTick s d.val watts.toNat) d.val (pointOf s d.val + 1)
      else afterTick s d.val watts.toNat) := by
  have hfin : finishStep (advanceTo s ((getDie s d.val).tickAt + usT 10)) d.val = advanceTo s ((getDie s d.val).tickAt + usT 10) := by
    have h' : (getDie (advanceTo s ((getDie s d.val).tickAt + usT 10)) d.val).stepping = none := hst
    unfold finishStep
    dsimp only
    rw [h']
  have hpoint : pointOf (afterTick s d.val watts.toNat) d.val = pointOf s d.val := by
    unfold pointOf afterTick dieAtTime
    rw [getDie_setDie, if_pos rfl]
    rfl
  rw [exec_dieLimiterTick, execDieLimiterTick, clocked_running hrun]
  dsimp only
  rw [hfin, ← hpoint]
  unfold afterTick belowOf
  simp only [Bool.and_eq_true, decide_eq_true_eq]
  rfl

/-- A step to another point leaves the limiter's mark where it is a step down (R422). -/
theorem stepTo_afterTick {s : State} {d w target : Nat} (h : target ≠ pointOf s d) : stepTo (afterTick s d w) d target = setDie (afterTick s d w) d
    { ticked (getDie s d) (max s.now ((getDie s d).tickAt + usT 10)) w 0 with
      stepping := some (target, (afterTick s d w).now), limited := (getDie s d).limited || decide (target < pointOf s d) } := by
  have hdie : getDie (afterTick s d w) d = ticked (getDie s d) (max s.now ((getDie s d).tickAt + usT 10)) w (belowOf s (getDie s d) w) := by
    unfold afterTick dieAtTime
    rw [getDie_setDie, if_pos rfl]
  have hpoint : pointOf (afterTick s d w) d = pointOf s d := by
    unfold pointOf
    rw [hdie]
    rfl
  unfold stepTo
  dsimp only
  rw [hpoint, if_neg h, hdie]
  rfl

/-! ### Region limiters and droop (R423, R425) -/

/-- A region's power state at a time. -/
def regionAtTime (s : State) (at_ g : Nat) (v : RegionPower) : State := setRegion (advanceTo s at_) g v

theorem regionAtTime_spec (s : State) (at_ g : Nat) (v : RegionPower) : let t := regionAtTime s at_ g v
    (∀ e, getRegion t e = if e = g then v else getRegion s e) ∧ at_ ≤ t.now ∧ t = { s with now := t.now, pwr := { s.pwr with regions := t.pwr.regions } } := by
  intro t
  exact ⟨fun e => getRegion_setRegion .., Nat.le_max_right s.now at_, rfl⟩

/-- A region's sample at its limiter's tick (R423). -/
def regionTicked (v : RegionPower) (at_ w b : Nat) : RegionPower :=
  if v.dealt < w then { v with tickAt := at_, sum := v.sum + w, samples := v.samples + 1, below := 0, stretch := min 8 (v.stretch + 1) }
  else if 5 ≤ b then { v with tickAt := at_, sum := v.sum + w, samples := v.samples + 1, below := 0, stretch := v.stretch - 1 }
  else { v with tickAt := at_, sum := v.sum + w, samples := v.samples + 1, below := b }

theorem exec_regionLimiterTick_limits {s : State} {g : Fin 24} {watts : BitVec 12} (hrun : running s = true) (hg : g.val < 16) (hd : s.pwr.dealtYet = true) (hv : (getRegion s g.val).gated = false) :
    exec (.regionLimiterTick g watts) s = .next (regionAtTime s ((getRegion s g.val).tickAt + usT 10) g.val (regionTicked (getRegion s g.val) (max s.now ((getRegion s g.val).tickAt + usT 10)) watts.toNat
      (if 100 * watts.toNat < 95 * (getRegion s g.val).dealt then (getRegion s g.val).below + 1 else 0))) := by
  have hlimited : ((advanceTo s ((getRegion s g.val).tickAt + usT 10)).pwr.dealtYet && decide (g.val < 16) && !(getRegion (advanceTo s ((getRegion s g.val).tickAt + usT 10)) g.val).gated) = true := by
    show (s.pwr.dealtYet && decide (g.val < 16) && !(getRegion s g.val).gated) = true
    simp [hd, hg, hv]
  rw [exec_regionLimiterTick, execRegionLimiterTick, clocked_running hrun]
  dsimp only
  rw [hlimited]
  simp only [true_and]
  rfl

theorem exec_droopTrip_of {s : State} {g : Fin 24} (hrun : running s = true) (hv : (getRegion s g.val).gated = false) :
    exec (.droopTrip g) s = .next (countR (setRegion s g.val { getRegion s g.val with droop := some s.now }) (Reg.pwrRgn g.val) 47 32 1) := by
  rw [exec_droopTrip, execDroopTrip, clocked_running hrun]
  exact congrArg _ (if_neg (by simp [hv]))

theorem exec_droopRecover_of {s : State} {g : Fin 24} {n : Nat} (hrun : running s = true) (hv : (getRegion s g.val).droop = some n) :
    exec (.droopRecover g) s = .next (regionAtTime s (n + if g.val < 16 then cycT 128 else nsT 40) g.val { getRegion s g.val with droop := none }) := by
  rw [exec_droopRecover, execDroopRecover, clocked_running hrun]
  dsimp only
  rw [hv]
  rfl

/-- Settles O52. -/
theorem powerLimits : Obligations.PowerLimits := by
  refine ⟨?mailbox, ?sample, fun s => exec_excursionLimit_begins, fun s => exec_excursionLimit_lasts, ?dies, ?regions⟩
  case mailbox =>
    intro s v hrun
    refine ⟨fun h1 h2 h3 h4 => ⟨_, exec_pwrMboxWrite_taken hrun h1 h2 h3 h4, getR_setR .., rfl⟩, exec_pwrMboxWrite_refused hrun, ?_⟩
    rw [exec_pwrLoopWrite, execPwrLoopWrite, clocked_running hrun]
  case sample =>
    intro s watts w hrun hw
    subst hw
    refine ⟨_, exec_powerSample_takes hrun, ?_⟩
    have hnow : s.pwr.sampledAt + usT 1 ≤ max s.now (s.pwr.sampledAt + usT 1) := Nat.le_max_right ..
    unfold advanceTo
    generalize max s.now (s.pwr.sampledAt + usT 1) = n at hnow ⊢
    have hcalm : ∀ h : watts.toNat ≤ budgetB s, (s.pwr.excursion && decide (budgetB s < watts.toNat)) = false := fun h => by simp [Nat.not_lt.2 h]
    split
    next hp => exact ⟨hnow, rfl, rfl, rfl, rfl, rfl, fun _ => ⟨if_pos hp, flagR_raise _ _ (by omega)⟩, fun h => absurd hp (Nat.not_lt.2 h), hcalm, rfl⟩
    next hp => exact ⟨hnow, rfl, rfl, rfl, rfl, rfl, fun h => absurd h hp, fun _ => rfl, hcalm, rfl⟩
  case dies =>
    intro s d v hrun hv
    subst hv
    refine ⟨fun p n h => ⟨_, exec_vfStepDone_of hrun h, dieAtTime_spec ..⟩, fun watts w b p hw hp hb hst => ?_⟩
    subst hw hp
    have hb' : belowOf s (getDie s d.val) watts.toNat = b := hb.symm
    have hexec := exec_dieLimiterTick_samples (watts := watts) hrun hst
    have hcalm : (s.pwr.dealtYet = true → watts.toNat ≤ (getDie s d.val).dealt) → (getDie s d.val).temp < 105 → s.pwr.excursion = false →
        ¬ ((s.pwr.dealtYet && decide ((getDie s d.val).dealt < watts.toNat)) || decide (105 ≤ (getDie s d.val).temp) || s.pwr.excursion) = true := by
      intro h1 h2 h3 h
      simp only [Bool.or_eq_true, Bool.and_eq_true, decide_eq_true_eq, h3, Bool.false_eq_true, or_false] at h
      rcases h with ⟨h, h'⟩ | h
      · exact absurd h' (Nat.not_lt.2 (h1 h))
      · omega
    refine ⟨fun hdown hpos => ?_, fun h1 h2 h3 hb5 => ?_, fun h1 h2 h3 hb5 hs hp15 => ?_⟩
    · have hneg : pointOf s d.val - 1 ≠ pointOf s d.val := by omega
      refine ⟨_, by rw [hexec, if_pos (by rcases hdown with ⟨h, h'⟩ | h | h <;> simp [*]), stepTo_afterTick hneg], ?_⟩
      rw [show decide (pointOf s d.val - 1 < pointOf s d.val) = true from decide_eq_true (by omega), Bool.or_true]
      exact setDie_setDie s ((getDie s d.val).tickAt + usT 10) d.val _ _
    · refine ⟨_, by rw [hexec, if_neg (hcalm h1 h2 h3), if_neg (by rw [hb']; omega)], ?_⟩
      unfold afterTick
      rw [hb']
      exact dieAtTime_spec s ((getDie s d.val).tickAt + usT 10) d.val _
    · have hneg : pointOf s d.val + 1 ≠ pointOf s d.val := by omega
      refine ⟨_, by rw [hexec, if_neg (hcalm h1 h2 h3), if_pos ⟨by rw [hb']; exact hb5, by rw [hs]; exact hp15⟩, stepTo_afterTick hneg], ?_⟩
      rw [show decide (pointOf s d.val + 1 < pointOf s d.val) = false from decide_eq_false (by omega), Bool.or_false]
      exact setDie_setDie s ((getDie s d.val).tickAt + usT 10) d.val _ _
  case regions =>
    intro s g v hrun hv
    subst hv
    refine ⟨fun watts w b hw hg hd hgate hb => ?_, fun hgate => ⟨_, exec_droopTrip_of hrun hgate, fun e => getRegion_setRegion .., rfl⟩, fun n hn => ⟨_, exec_droopRecover_of hrun hn, regionAtTime_spec ..⟩⟩
    subst hw hb
    exact ⟨_, exec_regionLimiterTick_limits hrun hg hd hgate, regionAtTime_spec ..⟩

end Sys2Proof.Machine
end

section
/-! PROOFS. Power gates, junction sensors, the coolant arm and clock loss (R341, R426, R429, R431, R446): O53. -/

namespace Sys2Proof.Machine

/-! ### Power gates (R341, R426) -/

section
variable {s : State} {b : Byte} (hrun : running s = true)
include hrun

theorem exec_regionOff_gates (hb : b.toNat < 16) (h : ∀ te ∈ regionTes b.toNat, (getTe s te).svc = .out) :
    exec (.regionOff b) s = .next (setRegion s b.toNat { getRegion s b.toNat with gated := true, dealt := 0, droop := none, stretch := 0, below := 0 }) := by
  have hany : ((regionTes b.toNat).any fun te => decide ((getTe s te).svc ≠ .out)) = false := List.any_eq_false.2 fun te hte => by simp [h te hte]
  rw [exec_regionOff, execRegionOff, clocked_running hrun]
  refine congrArg _ (if_neg ?_)
  rw [hany]
  simp [hb]

theorem exec_regionOff_refused (h : 16 ≤ b.toNat ∨ ∃ te ∈ regionTes b.toNat, (getTe s te).svc ≠ .out) : exec (.regionOff b) s = .next (raise s Reg.pwrStatus 0) := by
  rw [exec_regionOff, execRegionOff, clocked_running hrun]
  exact congrArg _ (if_pos (h.imp_right fun ⟨te, hte, hout⟩ => List.any_eq_true.2 ⟨te, hte, decide_eq_true hout⟩))

theorem exec_regionOn_returns (hb : b.toNat < 16) (hg : (getRegion s b.toNat).gated = true) :
    exec (.regionOn b) s = .next ((regionTes b.toNat).foldl wipeTe (setRegion s b.toNat { getRegion s b.toNat with gated := false })) := by
  rw [exec_regionOn, execRegionOn, clocked_running hrun]
  exact congrArg _ ((if_neg (Nat.not_le.2 hb)).trans (if_pos hg))

theorem exec_hostCoreOff_gates (hb : b.toNat < 80) : exec (.hostCoreOff b) s = .next { (linesOf s b.toNat).foldl (giveUp b.toNat) s with
    harts := smMod {} ((linesOf s b.toNat).foldl (giveUp b.toNat) s).harts b.toNat fun c => { c with gated := true, stores := [], reservation := none } } := by
  rw [exec_hostCoreOff, execHostCoreOff, clocked_running hrun]
  exact congrArg _ (if_neg (Nat.not_le.2 hb))

theorem exec_hostCoreOn_returns (hb : b.toNat < 80) : exec (.hostCoreOn b) s = .next { s with harts := smMod {} s.harts b.toNat fun c => { c with gated := false } } := by
  rw [exec_hostCoreOn, execHostCoreOn, clocked_running hrun]
  exact congrArg _ (if_neg (Nat.not_le.2 hb))

theorem exec_hostCore_refused (hb : 80 ≤ b.toNat) : exec (.hostCoreOff b) s = .next (raise s Reg.pwrStatus 0) ∧ exec (.hostCoreOn b) s = .next (raise s Reg.pwrStatus 0) := by
  rw [exec_hostCoreOff, execHostCoreOff, clocked_running hrun, exec_hostCoreOn, execHostCoreOn, clocked_running hrun]
  exact ⟨congrArg _ (if_pos hb), congrArg _ (if_pos hb)⟩
end

/-- A host core that has changed: no other does. -/
theorem smGet_smMod_if {α : Type} [DecidableEq α] (d : α) (m : SMap α) (k j : Nat) (f : α → α) : smGet d (smMod d m k f) j = if j = k then f (smGet d m j) else smGet d m j := by
  rw [smGet_smMod]
  split
  next h => rw [h]
  · rfl

/-! ### Junction sensors (R429) -/

/-- Management messages change Seam's counts of them alone (R410). -/
theorem mgtSend_only {s t : State} {legs : List (Nat × Nat)} {n : Nat} (h : mgtSend s legs n = some t) : ∃ m, t = { s with stc := { s.stc with mgt := m } } := by
  unfold mgtSend at h
  dsimp only at h
  split at h
  · exact ⟨_, (Option.some.inj h).symm⟩
  · cases h

/-- The way of a reading to H0 (R11, R429). -/
def sensorWay (s : State) (d : Nat) : List (Nat × Nat) := if s.boot.delegate then ((mgtWay d).reverse.map fun p => (p.2, p.1)) else if d = 4 then [] else [(d, 4)]

/-- H0 takes a reading: the peak, and the flag at 105 °C or more (R429). -/
def readingTaken (s : State) (d temp : Nat) : State :=
  let s := if fieldR s (Reg.thmDie d) 15 8 < temp then setFieldR s (Reg.thmDie d) 15 8 temp else s
  if 105 ≤ temp then raise s Reg.thmStatus d else s

theorem readingTaken_spec (s : State) {d : Nat} (hd : d < 64) (temp : Nat) : (105 ≤ temp → flagR (readingTaken s d temp) Reg.thmStatus d = true)
    ∧ ∃ rf, readingTaken s d temp = { s with rf := rf } := by
  have hpeak : ∃ rf, (if fieldR s (Reg.thmDie d) 15 8 < temp then setFieldR s (Reg.thmDie d) 15 8 temp else s) = { s with rf := rf } := by
    split
    · exact ⟨_, rfl⟩
    · exact ⟨s.rf, rfl⟩
  obtain ⟨rf, hrf⟩ := hpeak
  unfold readingTaken
  rw [hrf]
  dsimp only
  split
  · exact ⟨fun _ => flagR_raise _ _ hd, _, rfl⟩
  next h => exact ⟨fun h' => absurd h' h, rf, rfl⟩

section
variable {s : State} {d : Fin 6} {temp : Byte} (hrun : running s = true)

/-- A die's reading at a time (R429). -/
def junctionRead (s : State) (d : Nat) (temp : Nat) : State :=
  dieAtTime s ((getDie s d).lastValid + usT 1) d { getDie s d with temp := temp, lastValid := max s.now ((getDie s d).lastValid + usT 1), sensorFailed := false }

theorem junctionRead_spec (s : State) (d temp : Nat) : let t := junctionRead s d temp
    (∀ e, getDie t e = if e = d then { getDie s d with temp := temp, lastValid := t.now, sensorFailed := false } else getDie s e) ∧ (getDie s d).lastValid + usT 1 ≤ t.now
      ∧ t = { s with now := t.now, pwr := { s.pwr with dies := t.pwr.dies } } :=
  dieAtTime_spec ..

include hrun

theorem exec_junctionSensorRead_unsent (h : mgtSend (junctionRead s d.val temp.toNat) (sensorWay s d.val) 1 = none) :
    exec (.junctionSensorRead d temp) s = .next (junctionRead s d.val temp.toNat) := by
  rw [exec_junctionSensorRead, execJunctionSensorRead, clocked_running hrun]
  unfold sensorWay junctionRead dieAtTime at h
  dsimp only
  erw [h]
  rfl

theorem exec_junctionSensorRead_sent {u : State} (h : mgtSend (junctionRead s d.val temp.toNat) (sensorWay s d.val) 1 = some u) :
    exec (.junctionSensorRead d temp) s = .next (readingTaken u d.val temp.toNat) := by
  rw [exec_junctionSensorRead, execJunctionSensorRead, clocked_running hrun]
  unfold sensorWay junctionRead dieAtTime at h
  dsimp only
  erw [h]
  rfl
end

/-! ### Sensors that fail (R429) -/

theorem thmStatus_no_queue : ∀ i : HDie, Reg.thmStatus.addr ≠ (Reg.errQDrop i).addr ∧ Reg.thmStatus.addr ≠ (Reg.errQStatus i).addr := by decide

/-- A flag of THM_STATUS stands behind its record. -/
theorem thmFlag_placed (t : State) {b : Nat} (hb : b < 64) (r : Rec) : flagR (place (raise t Reg.thmStatus b) r) Reg.thmStatus b = true
    ∧ ∃ rf er, place (raise t Reg.thmStatus b) r = { t with rf := rf, err := er } := by
  obtain ⟨rf, er, hp⟩ := place_frame (raise t Reg.thmStatus b) r
  exact ⟨(flagR_place _ r b thmStatus_no_queue).trans (flagR_raise _ _ hb), rf, er, hp⟩

/-- A die's power state held at or below its BOOT point (R429). -/
def heldAtBoot (v : DiePower) (boot point now : Nat) : DiePower :=
  if boot < point then { v with stepping := some (boot, now), limited := true, below := 0 } else { v with stepping := v.stepping.filter fun x => decide (x.1 ≤ boot) }

/-- A step above the BOOT point that is under way has ended (R429). -/
def aboveBootEnded (s : State) (d : Nat) : State :=
  if ((getDie s d).stepping.map fun t => decide ((Config.bootPoint d).val < t.1)).getD false then setDie s d { getDie s d with stepping := none } else s

/-- A die's steps that do not go above its BOOT point. -/
def lowSteps (v : DiePower) (boot : Nat) : DiePower := { v with stepping := v.stepping.filter fun x => decide (x.1 ≤ boot) }

theorem aboveBootEnded_spec (s : State) (d : Nat) : let t := aboveBootEnded s d
    (∀ e, getDie t e = if e = d then lowSteps (getDie s d) (Config.bootPoint d).val else getDie s e) ∧ t.now = s.now ∧ t = { s with pwr := { s.pwr with dies := t.pwr.dies } } := by
  generalize hboot : (Config.bootPoint d).val = boot
  have hkept : ∀ v : DiePower, (v.stepping.map fun t => decide (boot < t.1)).getD false = false → lowSteps v boot = v := by
    intro v hv
    have hfilter : v.stepping.filter (fun x => decide (x.1 ≤ boot)) = v.stepping := by
      cases hst : v.stepping with
      | none => rfl
      | some x =>
        rw [hst] at hv
        exact Option.filter_eq_some_iff.2 ⟨rfl, by simpa using hv⟩
    unfold lowSteps
    rw [hfilter]
  have hended : ∀ v : DiePower, (v.stepping.map fun t => decide (boot < t.1)).getD false = true → lowSteps v boot = { v with stepping := none } := by
    intro v hv
    unfold lowSteps
    cases hst : v.stepping with
    | none => rfl
    | some x =>
      rw [hst] at hv
      have hx : boot < x.1 := by simpa using hv
      rw [Option.filter_some, if_neg (by simpa using hx)]
  unfold aboveBootEnded
  rw [hboot]
  split
  next h =>
    rw [hended _ h]
    exact ⟨fun e => getDie_setDie .., rfl, rfl⟩
  next h =>
    rw [hkept _ (by simpa using h)]
    refine ⟨fun e => ?_, rfl, rfl⟩
    split
    next he => rw [he]
    next => rfl

theorem holdAtBoot_spec (s : State) (d : Nat) : let t := holdAtBoot s d
    (∀ e, getDie t e = if e = d then heldAtBoot (getDie s d) (Config.bootPoint d).val (pointOf s d) s.now else getDie s e) ∧ t = { s with pwr := { s.pwr with dies := t.pwr.dies } } := by
  obtain ⟨hdie, hnow, honly⟩ := aboveBootEnded_spec s d
  have hhold : holdAtBoot s d = (if (Config.bootPoint d).val < pointOf (aboveBootEnded s d) d then stepTo (aboveBootEnded s d) d (Config.bootPoint d).val else aboveBootEnded s d) := rfl
  have hself := (hdie d).trans (if_pos rfl)
  have hpoint : pointOf (aboveBootEnded s d) d = pointOf s d := by
    unfold pointOf
    rw [hself]
    rfl
  rw [hhold, hpoint]
  unfold heldAtBoot
  generalize aboveBootEnded s d = u at hdie hnow honly hself hpoint ⊢
  split
  next h =>
    have hstep : stepTo u d (Config.bootPoint d).val = setDie u d { getDie s d with stepping := some ((Config.bootPoint d).val, s.now), limited := true, below := 0 } := by
      unfold stepTo
      dsimp only
      rw [hpoint, if_neg (Nat.ne_of_lt h), hself, hnow, decide_eq_true h, Bool.or_true]
      rfl
    rw [hstep]
    refine ⟨fun e => (getDie_setDie ..).trans ?_, ?_⟩
    · split
      · rfl
      next he => rw [hdie, if_neg he]
    · rw [honly]
      rfl
  next h => exact ⟨hdie, honly⟩

/-- A die's sensor fails a millisecond after its last valid reading: the die holds at its BOOT point (R429). -/
def sensorFailedAt (s : State) (d : Nat) : State :=
  holdAtBoot (dieAtTime s ((getDie s d).lastValid + usT 1000) d { getDie s d with sensorFailed := true }) d

theorem sensorFailedAt_spec (s : State) (d : Nat) : let t := sensorFailedAt s d
    (∀ e, getDie t e = if e = d then heldAtBoot { getDie s d with sensorFailed := true } (Config.bootPoint d).val (pointOf s d) t.now else getDie s e)
      ∧ (getDie s d).lastValid + usT 1000 ≤ t.now ∧ t = { s with now := t.now, pwr := { s.pwr with dies := t.pwr.dies } } := by
  obtain ⟨hdie, hnow, honly⟩ := dieAtTime_spec s ((getDie s d).lastValid + usT 1000) d { getDie s d with sensorFailed := true }
  have hself := (hdie d).trans (if_pos rfl)
  have hpoint : pointOf (dieAtTime s ((getDie s d).lastValid + usT 1000) d { getDie s d with sensorFailed := true }) d = pointOf s d := by
    unfold pointOf
    rw [hself]
  unfold sensorFailedAt
  generalize dieAtTime s ((getDie s d).lastValid + usT 1000) d { getDie s d with sensorFailed := true } = u at hdie hnow honly hself hpoint ⊢
  obtain ⟨hheld, hkept⟩ := holdAtBoot_spec u d
  rw [hself, hpoint] at hheld
  have htime : (holdAtBoot u d).now = u.now := by rw [hkept]
  dsimp only
  rw [htime]
  refine ⟨fun e => (hheld e).trans ?_, hnow, ?_⟩
  · split
    · rfl
    next h => rw [hdie, if_neg h]
  · generalize holdAtBoot u d = t at hkept ⊢
    rw [hkept, honly]

theorem exec_dieSensorFail_first {s : State} {d : Fin 6} (hrun : running s = true) (hf : (getDie s d.val).sensorFailed = false) :
    exec (.dieSensorFail d) s = .next (place (raise (sensorFailedAt s d.val) Reg.thmStatus (8 + d.val))
      { cls := 0x34, action := 3, cause := 2, die := d.val, d0 := BitVec.ofNat 64 d.val }) := by
  rw [exec_dieSensorFail, execDieSensorFail, clocked_running hrun]
  exact congrArg _ (if_neg (by simp [hf]))

/-! ### Clock loss (R341, R375, R446) -/

/-- Links of a die that stops train again where they were up; only links and registers change. -/
theorem retrainUp_frame (l : List Nat) (s : State) : ∃ rf ls, l.foldl (fun s l => if linkUp s l then retrain s l else s) s = { s with rf := rf, fab := { s.fab with links := ls } } := by
  induction l generalizing s with
  | nil => exact ⟨s.rf, s.fab.links, rfl⟩
  | cons k l ih =>
    rw [List.foldl_cons]
    split
    · obtain ⟨rf, ls, h, _⟩ := retrain_frame s k
      obtain ⟨rf', ls', h'⟩ := ih { s with rf := rf, fab := { s.fab with links := ls } }
      rw [h]
      exact ⟨rf', ls', h'⟩
    · exact ih s

theorem stopDie_spec (s : State) (d : Nat) (hd : d < 6) : let t := stopDie s d
    (∀ e < 6, bitAt t.brd.clockLost e = (bitAt s.brd.clockLost e || decide (e = d))) ∧ (∀ e, e ∈ t.cl.writes ↔ e ∈ s.cl.writes ∧ e.1 / 16 ≠ d) ∧ t.harts = loseStores d s.harts
      ∧ t = { s with rf := t.rf, harts := t.harts, cl := { s.cl with writes := t.cl.writes }, brd := { s.brd with clockLost := t.brd.clockLost }, stc := { s.stc with dieCounts := t.stc.dieCounts }
                     fab := { s.fab with links := t.fab.links } } := by
  intro t
  obtain ⟨rf, ls, h⟩ := retrainUp_frame (linksOf d) { s with
    brd := { s.brd with clockLost := setBit s.brd.clockLost d true }
    stc := { s.stc with dieCounts := smSet none s.stc.dieCounts d (some ((smGet none s.stc.dieCounts d).getD s.stc.count)) }
    cl := { s.cl with writes := s.cl.writes.filter fun e => decide (e.1 / 16 ≠ d) }
    harts := loseStores d s.harts }
  have ht : t = _ := h
  refine ⟨fun e he => ?_, fun e => ?_, by rw [ht], by rw [ht]⟩ <;> rw [ht]
  · by_cases hed : e = d
    · subst hed
      simp [bitAt_setBit_same _ _ hd]
    · simp only [setBit]
      rw [bitAt_setBits_ne _ _ (by omega)]
      simp [hed]
  · simp [List.mem_filter]

/-- A record placed over a stopped die touches its registers and the queue. -/
theorem placedOver_only {s u : State} {rf : SMap W64} {er : Recovery}
    (h : u = { s with rf := u.rf, harts := u.harts, cl := { s.cl with writes := u.cl.writes }, brd := { s.brd with clockLost := u.brd.clockLost }, stc := { s.stc with dieCounts := u.stc.dieCounts }
                      fab := { s.fab with links := u.fab.links } }) :
    let t := { u with rf := rf, err := er }
    t = { s with rf := t.rf, err := t.err, harts := t.harts, cl := { s.cl with writes := t.cl.writes }, brd := { s.brd with clockLost := t.brd.clockLost }, stc := { s.stc with dieCounts := t.stc.dieCounts }
                 fab := { s.fab with links := t.fab.links, wire := t.fab.wire } } := by
  rw [h]

/-- The record of a clock loss (R446). -/
def clockLossRec (d : Nat) (pll : Option Byte) : Rec :=
  { cls := 0x39, action := 3, cause := if pll.isNone then 1 else 2, die := d, d0 := BitVec.ofNat 64 ((pll.map (·.toNat)).getD 0) }

theorem exec_clockLoss_of {s : State} (d : Fin 6) (pll : Option Byte) (hrun : running s = true) :
    exec (.clockLoss d pll) s = .next (place (if bitAt s.brd.clockLost d.val then s else stopDie s d.val) (clockLossRec d.val pll)) := by
  rw [exec_clockLoss, execClockLoss, clocked_running hrun]
  rfl

/-- Settles O53. -/
theorem gatesAndHeat : Obligations.GatesAndHeat := by
  refine ⟨?gates, ?heat, ?arm⟩
  case gates =>
    intro s b v hrun hv
    subst hv
    exact ⟨fun hb h => ⟨_, exec_regionOff_gates hrun hb h, fun e => getRegion_setRegion .., rfl⟩, exec_regionOff_refused hrun, exec_regionOn_returns hrun,
      fun hb => ⟨_, exec_hostCoreOff_gates hrun hb, _, rfl, fun h => smGet_smMod_if {} _ b.toNat h fun c : HartState => { c with gated := true, stores := [], reservation := none }, rfl⟩, fun hb => ⟨_, exec_hostCoreOn_returns hrun hb, fun h => smGet_smMod_if {} s.harts b.toNat h fun c : HartState => { c with gated := false }, rfl⟩, exec_hostCore_refused hrun⟩
  case heat =>
    intro s d v hrun hv
    subst hv
    refine ⟨fun temp way hway => ?_, fun hf => ⟨_, exec_dieSensorFail_first hrun hf, ?_⟩, fun hf => ?_, fun pll hc => ⟨_, exec_clockLoss_of d pll hrun, ?_⟩, fun pll hc => ⟨_, exec_clockLoss_of d pll hrun, ?_⟩⟩
    · have hway' : way = sensorWay s d.val := hway
      rw [hway']
      obtain ⟨hdie, hnow, honly⟩ := junctionRead_spec s d.val temp.toNat
      have hrf : (junctionRead s d.val temp.toNat).rf = s.rf := rfl
      have hstc : (junctionRead s d.val temp.toNat).stc = s.stc := rfl
      cases hsend : mgtSend (junctionRead s d.val temp.toNat) (sensorWay s d.val) 1 with
      | none =>
        refine ⟨_, exec_junctionSensorRead_unsent hrun hsend, ?_⟩
        generalize junctionRead s d.val temp.toNat = t at hdie hnow honly hrf hstc hsend ⊢
        exact ⟨hdie, hnow, fun _ => ⟨hrf, hstc⟩, fun h => absurd (honly ▸ hsend) h, by rw [honly]⟩
      | some u =>
        obtain ⟨m, hu⟩ := mgtSend_only hsend
        obtain ⟨hflag, rf, htaken⟩ := readingTaken_spec u (show d.val < 64 by omega) temp.toNat
        refine ⟨_, exec_junctionSensorRead_sent hrun hsend, ?_⟩
        rw [htaken] at hflag ⊢
        generalize junctionRead s d.val temp.toNat = t at hdie hnow honly hsend hu
        rw [hu] at hsend hflag ⊢
        refine ⟨hdie, hnow, fun h => ?_, fun _ => hflag, by rw [honly]⟩
        have hsame : mgtSend t (sensorWay s d.val) 1 = none := by rw [honly]; exact h
        rw [hsame] at hsend
        cases hsend
    · obtain ⟨hdie, hnow, honly⟩ := sensorFailedAt_spec s d.val
      generalize sensorFailedAt s d.val = u at hdie hnow honly ⊢
      obtain ⟨hflag, rf, er, hp⟩ := thmFlag_placed u (show 8 + d.val < 64 by omega) { cls := 0x34, action := 3, cause := 2, die := d.val, d0 := BitVec.ofNat 64 d.val }
      rw [hp] at hflag ⊢
      exact ⟨hdie, hnow, hflag, by rw [honly]⟩
    · rw [exec_dieSensorFail, execDieSensorFail, clocked_running hrun]
      exact congrArg _ (if_pos hf)
    · rw [if_neg (by simp [hc])]
      obtain ⟨hclock, hwrites, hharts, honly⟩ := stopDie_spec s d.val d.isLt
      generalize stopDie s d.val = u at hclock hwrites hharts honly ⊢
      obtain ⟨rf, er, hp⟩ := place_frame u (clockLossRec d.val pll)
      rw [hp]
      exact ⟨hclock, hwrites, hharts, placedOver_only honly⟩
    · rw [if_pos hc]
      obtain ⟨rf, er, hp⟩ := place_frame s (clockLossRec d.val pll)
      rw [hp]
  case arm =>
    intro s v hrun
    rw [exec_thmCtrlWrite, execThmCtrlWrite, clocked_running hrun]
    refine ⟨fun h hok => ?_, fun h hok => ?_, fun h ht => ?_, fun h ht => ?_⟩
    · exact congrArg _ ((if_pos h).trans (if_pos hok))
    · exact congrArg _ ((if_pos h).trans (if_neg (by rw [show (setR s Reg.thmCtrl 1).brd = s.brd from rfl, hok]; simp)))
    · exact congrArg _ ((if_neg (by simp [h])).trans (if_pos ht))
    · exact congrArg _ ((if_neg (by simp [h])).trans (if_neg (by simp [ht])))

end Sys2Proof.Machine
end

section
/-! PROOFS. Error queues, stops, the compute reset and the capture slots (R236, R441, R453 to R459, R465, R506): O54. -/

namespace Sys2Proof.Machine

/-! ### Queues, capture slots and stops (R441, R453, R454, R459) -/

theorem getCap_setCap (s : State) (h g : HDie) {k j : Nat} (hk : k < 2) (hj : j < 2) (v : CapSlot) : getCap (setCap s h k v) g j = if g = h ∧ j = k then v else getCap s g j := by
  have hkey : (2 * g.val + j = 2 * h.val + k) ↔ g = h ∧ j = k := by
    rw [Fin.ext_iff]
    omega
  unfold getCap setCap
  rw [smGet_set]
  simp only [hkey]

/-- A release frees its capture slot alone (R459). -/
theorem capRelease_spec (s : State) (h : HDie) {k : Nat} (hk : k < 2) : let t := capRelease s h k
    (∀ g, ∀ j < 2, getCap t g j = if g = h ∧ j = k then { getCap s h k with valid := false } else getCap s g j) ∧ t = { s with err := { s.err with slots := t.err.slots } } :=
  ⟨fun g _ hj => getCap_setCap s h g hk hj _, rfl⟩

/-- The job that an ERR_STOP names is marked aborted where it holds a slot (R454). -/
def keyAborted (s : State) (k : Nat) : State := setKey s k { getKey s k with aborted := true }

section
variable {s : State} {v : W64} (hrun : running s = true)
include hrun

theorem exec_errStopContext_resident {c : CtxId} {x : Ctx} (hc : c = ctxAt (BitVec.ofNat 8 (bits v 9 2)).toFin (bits v 11 10)) (hphase : s.err.phase = 0) (hx : getCtx s c = some x) (hstop : x.stop = none) :
    exec (.errStopContext v) s
      = .next (autoAbort (haltCtx (place s { ctxRec c x.launch { cls := 0x13, cause := 1, d0 := 1 } with action := 1 }) c ⟨0x13, 1, 0, 1, 0⟩) x.launch.job 0x13) := by
  rw [exec_errStopContext, execErrStopContext, clocked_running hrun]
  unfold errStopContext stopRec
  dsimp only
  rw [if_neg (by simp [hphase]), ← hc, hx]
  dsimp only
  rw [hstop]
  rfl

theorem exec_errStopContext_none {c : CtxId} (hc : c = ctxAt (BitVec.ofNat 8 (bits v 9 2)).toFin (bits v 11 10)) (h : s.err.phase ≠ 0 ∨ getCtx s c = none) :
    exec (.errStopContext v) s = .next s := by
  rw [exec_errStopContext, execErrStopContext, clocked_running hrun]
  unfold errStopContext
  dsimp only
  by_cases hphase : s.err.phase ≠ 0
  · rw [if_pos hphase]
  · rw [if_neg hphase, ← hc, h.resolve_left hphase]

theorem exec_errStopPartition_of {w u : State} {n : Nat} (hphase : s.err.phase = 0)
    (hw : slotOfJob (capture s 0x4) (v.extractLsb' 16 16) = none ∧ w = capture s 0x4 ∨ ∃ k, slotOfJob (capture s 0x4) (v.extractLsb' 16 16) = some k ∧ w = keyAborted (capture s 0x4) k)
    (hu : abortActions w (v.extractLsb' 16 16) ⟨0x13, 2, 0, 0, 0⟩ = (u, n)) :
    exec (.errStopPartition v) s = .next (place u { cls := 0x13, action := 1, cause := 2, job := v.extractLsb' 16 16, d0 := BitVec.ofNat 64 n }) := by
  rw [exec_errStopPartition, execErrStopPartition, clocked_running hrun]
  unfold errStopPartition
  rw [if_neg (by simp [hphase])]
  dsimp only
  obtain ⟨hslot, hw⟩ | ⟨k, hslot, hw⟩ := hw
  · rw [hslot]
    dsimp only
    rw [← hw, hu]
  · unfold keyAborted at hw
    rw [hslot]
    dsimp only
    rw [← hw, hu]

theorem exec_errReset_begins (h : errResetOk s v = true) : ∃ u, u = abandonMove (noteHeld (setFieldR (capture s (if bitAt v 1 then 0x2 else 0x1)) Reg.teCtrl 0 0 0)) 3
    ∧ exec (.errReset v) s = .next { u with err := { u.err with phase := 1, hosts := bitAt v 1, phaseAt := u.now, capBusy := true }, sec := if bitAt v 1 then { u.sec with cmd := none } else u.sec } := by
  refine ⟨_, rfl, ?_⟩
  rw [exec_errReset, execErrReset, clocked_running hrun]
  unfold errReset
  rw [if_neg (by simp [h])]
  dsimp only
  generalize abandonMove _ 3 = u
  cases bitAt v 1 <;> rfl

/-! ### The phases of a compute reset (R457, R458) -/

theorem exec_resetQuiesceEnd_wipes (h : s.err.phase = 2) : exec .resetQuiesceEnd s = .next (enterPhase (wipeCovered s) 3) := by
  rw [exec_resetQuiesceEnd, execResetQuiesceEnd, clocked_running hrun]
  exact congrArg _ (if_neg (by simp [h]))

theorem exec_resetWipeEnd_releases (h : s.err.phase = 3) : exec .resetWipeEnd s = .next (enterPhase (advanceTo s (s.err.phaseAt + cycT 16384)) 4) := by
  rw [exec_resetWipeEnd, execResetWipeEnd, clocked_running hrun]
  exact congrArg _ (if_neg (by simp [h]))

theorem exec_resetReleaseEnd_restarts (h : s.err.phase = 4) :
    exec .resetReleaseEnd s = .next (s.err.heldAdds.foldl (fun s a => tallyAdd s a.1 a.2) (enterPhase (releaseCovered s) 0)) := by
  rw [exec_resetReleaseEnd, execResetReleaseEnd, clocked_running hrun]
  exact congrArg _ (if_neg (by simp [h]))
end

/-- The wipe spares the registers that no compute reset covers, and the homes' (R320, R457). -/
theorem mem_wipeCovered_rf (s : State) (e : Nat × W64) : e ∈ (wipeCovered s).rf ↔ e ∈ s.rf ∧ (coveredReg e.1 = false ∨ cohReg e.1 = true) := by
  simp [wipeCovered, List.mem_filter]

theorem startAgain_default (n : Nat) : startAgain n {} = {} := rfl

/-- Engines that were returning start at WIPING again (R236). -/
theorem getTe_releaseCovered (s : State) (te : TeId) : getTe (releaseCovered s) te = startAgain (cycleNow s) (getTe s te) :=
  smGet_map ({} : Te) s.eng.te (startAgain (cycleNow s)) (startAgain_default _) te.val

/-- Host cores restart (R458). -/
theorem releaseCovered_harts (s : State) : ∀ e ∈ (releaseCovered s).harts, e.2.inReset = false := by
  intro e he
  obtain ⟨c, -, rfl⟩ := List.mem_map.1 (List.mem_filter.1 he).1
  rfl

/-- Settles O54. -/
theorem computeReset : Obligations.ComputeReset := by
  refine ⟨?queues, ?stops, ?phases⟩
  case queues =>
    intro s h v hrun
    refine ⟨fun hle => ?_, fun hlt => ?_, fun k i hi => ?_⟩
    · refine ⟨setR s (Reg.errQCons h) ((v.truncate 32 : W32).setWidth 64), ?_, getR_setR .., rfl⟩
      rw [exec_errQConsWrite, execErrQConsWrite, clocked_running hrun]
      exact congrArg _ (if_pos hle)
    · rw [exec_errQConsWrite, execErrQConsWrite, clocked_running hrun]
      exact congrArg _ (if_neg (Nat.not_le.2 hlt))
    · obtain ⟨rfl, rfl⟩ | ⟨rfl, rfl⟩ := hi
      · exact ⟨capRelease s h 0, by rw [exec_capReleaseA, execCapReleaseA, clocked_running hrun], capRelease_spec s h (by decide)⟩
      · exact ⟨capRelease s h 1, by rw [exec_capReleaseB, execCapReleaseB, clocked_running hrun], capRelease_spec s h (by decide)⟩
  case stops =>
    intro s v c hrun hc
    refine ⟨fun x => exec_errStopContext_resident hrun hc, exec_errStopContext_none hrun hc, fun hphase hslot u n hu => exec_errStopPartition_of hrun hphase (.inl ⟨hslot, rfl⟩) hu,
      fun k w hphase hslot hw u n hu => exec_errStopPartition_of hrun hphase (.inr ⟨k, hslot, hw⟩) hu, exec_errReset_begins hrun, fun h => ?_⟩
    rw [exec_errReset, execErrReset, clocked_running hrun]
    exact congrArg _ (if_pos (by simp [h]))
  case phases =>
    intro s hrun
    refine ⟨fun h => ?_, fun h => ⟨_, exec_resetQuiesceEnd_wipes hrun h, rfl, rfl, rfl, rfl, rfl, mem_wipeCovered_rf s, rfl⟩, fun h => ⟨_, exec_resetWipeEnd_releases hrun h, ?_⟩, fun h => ⟨_, exec_resetReleaseEnd_restarts hrun h, rfl, getTe_releaseCovered s, releaseCovered_harts s, rfl⟩⟩
    · rw [exec_resetCaptureEnd, execResetCaptureEnd, clocked_running hrun]
      exact congrArg _ (if_neg (by simp [h]))
    · unfold advanceTo
      generalize hnow : max s.now (s.err.phaseAt + cycT 16384) = n
      exact ⟨rfl, hnow ▸ Nat.le_max_right .., rfl⟩

end Sys2Proof.Machine
end

section
/-! PROOFS. RESET_N, PWR_GOOD and rail failures (R24, R407, R461, R462, R482, R488 to R493, R519): O55. -/

namespace Sys2Proof.Machine

/-- A reset that keeps the error queues and capture slots spares their registers alone (R462). -/
theorem mem_resetHold_rf (s : State) (power : Bool) (e : Nat × W64) : e ∈ (resetHold s true power).rf ↔ e ∈ s.rf ∧ sparedReg e.1 = true := List.mem_filter

/-- What a reset leaves of a controller comes of the one that stood there (Table 9-4). -/
theorem resetHold_ctrls (s : State) (keep power : Bool) : ∀ e ∈ (resetHold s keep power).ctrls, ∃ c ∈ s.ctrls, e = (c.1, resetCtrl power c.2) := by
  intro e he
  obtain ⟨c, hc, rfl⟩ := List.mem_map.1 (List.mem_filter.1 he).1
  exact ⟨c, hc, rfl⟩

/-- The package once RESET_N has fallen: the coolant stop is disarmed (R431). -/
def resetFallen (s : State) : State := setR { s with brd := { s.brd with resetN := false } } Reg.thmCtrl 0

theorem exec_resetNFall_captures {s : State} (hhigh : s.brd.resetN = true) (hrun : running s = true) :
    exec .resetNFall s = .next { capture (resetFallen s) 0x5 with
      sec := { (capture (resetFallen s) 0x5).sec with cmd := none }, err := { (capture (resetFallen s) 0x5).err with capBusy := true }, brd := { (capture (resetFallen s) 0x5).brd with resetCapture := true } } := by
  have hfallen : running (resetFallen s) = true := hrun
  rw [exec_resetNFall, execResetNFall, if_neg (by simp [hhigh])]
  exact if_neg (by rw [show setR _ _ _ = resetFallen s from rfl, hfallen]; decide)

theorem exec_resetNFall_stopped {s : State} (hhigh : s.brd.resetN = true) (hrun : running s = false) : exec .resetNFall s = .next (resetFallen s) := by
  have hfallen : running (resetFallen s) = false := hrun
  rw [exec_resetNFall, execResetNFall, if_neg (by simp [hhigh])]
  exact if_pos (by rw [show setR _ _ _ = resetFallen s from rfl, hfallen]; decide)

/-- RESET_N's release from a package held in reset begins a start (R490, R493). -/
theorem exec_resetNRelease_starts {s : State} (hlow : s.brd.resetN = false) (hgood : s.brd.pwrGood = true) (hrail : s.brd.railFail = false) (hheld : s.brd.inReset = true) :
    exec .resetNRelease s = .next (beginStart { s with brd := { s.brd with resetN := true } }) := by
  rw [exec_resetNRelease, execResetNRelease, if_neg (by simp [hlow, hgood, hrail])]
  dsimp only
  rw [if_pos hheld]

/-- Settles O55. -/
theorem packageResets : Obligations.PackageResets := by
  refine ⟨?falls, fun s => exec_resetNFall_stopped, ?captured, fun s => exec_resetNRelease_starts, ?rises, ?rail, ?removed⟩
  case falls => exact fun s hhigh hrun => ⟨_, exec_resetNFall_captures hhigh hrun, _, rfl, rfl⟩
  case captured =>
    intro s hcap hgood
    refine ⟨resetHold s true false, ?_, rfl, rfl, rfl, rfl, rfl, rfl, mem_resetHold_rf s false, resetHold_ctrls s true false, rfl⟩
    rw [exec_resetNCaptureDone, execResetNCaptureDone, if_pos (by simp [hcap, hgood])]
  case rises =>
    intro s hlow
    refine ⟨{ resetHold s false true with brd := { (resetHold s false true).brd with pwrGood := true, resetN := false, railFail := false } }, ?_, rfl, rfl, rfl, rfl, Bool.and_false _, Bool.and_false _, Bool.and_false _, rfl, rfl, rfl, rfl, resetHold_ctrls s false true, rfl⟩
    rw [exec_pwrGoodRise, execPwrGoodRise, if_neg (by simp [hlow])]
  case rail =>
    intro s hgood hheld hlow
    rw [exec_railFail, execRailFail, if_pos (by simp [hgood, hheld, hlow])]
    unfold advanceTo
    rw [Nat.max_eq_right (Nat.le_add_right ..)]
  case removed =>
    intro s hgood
    rw [exec_pwrGoodFall, execPwrGoodFall, if_neg (by simp [hgood])]

end Sys2Proof.Machine
end

section
/-! PROOFS. The phases of start-up and the full wipe (R430, R470, R478, R485, R486, R492 to R496): O56. -/

namespace Sys2Proof.Machine

/-! ### The phases of start-up (R492 to R496) -/

/-- What the end of a phase within its time makes of the package, by the phase's number (Table 19-2). -/
def phaseEnded (s u : State) (w : PhaseWork) : Nat → State
  | 1 => endReset u w.pllOk
  | 2 => endBoot u w
  | 3 => endSeam u w.seamOk
  | 4 => endTrain u w.stackMask w.packageMask
  | 5 => if s.boot.wipeDone then toPhase u (if s.boot.warm then 4 else 6) else s
  | 6 => endLinks u
  | 7 => if w.hartsOk then toPhase u 8 else failStart u 7
  | _ => becomeReady u

section
variable {s u : State} {w : PhaseWork} (hrun : running s = true) (hstart : starting s = true) (hu : u = advanceTo s (s.boot.phaseAt + usT (phaseMin s.boot.phase)))
include hrun hstart hu

theorem exec_startPhaseEnd_late (h : phaseLimit s < u.now) : exec (.startPhaseEnd w) s = .next (failStart u 6) := by
  rw [exec_startPhaseEnd, execStartPhaseEnd, clocked_running hrun, if_neg (by simp [hstart]), ← hu]
  exact congrArg _ (if_pos h)

theorem exec_startPhaseEnd_ends {n : Nat} (h : u.now ≤ phaseLimit s) (hn : s.boot.phase = n) : exec (.startPhaseEnd w) s = .next (phaseEnded s u w n) := by
  rw [exec_startPhaseEnd, execStartPhaseEnd, clocked_running hrun, if_neg (by simp [hstart]), ← hu]
  rw [← hn]
  exact congrArg _ (if_neg (Nat.not_lt.2 h))
end

/-- The stitch blocks run from the end of RESET on (R494). -/
def stitchStarted (s : State) : State := if s.brd.stitchUp then s else { s with stc := { s.stc with last := s.now }, brd := { s.brd with stitchUp := true } }

theorem stitchStarted_only (s : State) : ∃ c, stitchStarted s = { s with stc := c, brd := { s.brd with stitchUp := true } } := by
  unfold stitchStarted
  cases hup : s.brd.stitchUp
  · exact ⟨_, if_neg (by decide)⟩
  · have hbrd : { s.brd with stitchUp := true } = s.brd := by rw [← hup]
    exact ⟨s.stc, by rw [hbrd, if_pos rfl]⟩

/-- A warm start's wipe begins (R493). -/
def wipeBegun (s : State) : State := if s.boot.warm then modBoot s fun b => { b with wipeAt := s.now } else s

theorem wipeBegun_only (s : State) : ∃ b, wipeBegun s = { s with boot := b } := by
  unfold wipeBegun
  split
  · exact ⟨_, rfl⟩
  · exact ⟨s.boot, rfl⟩

theorem endReset_ok (u : State) : endReset u true = toPhase (wipeBegun (stitchStarted { u with draws := u.draws + 1, sec := { u.sec with deepKey := Config.draw512 u.draws } })) 2 := rfl

/-- The end of RESET draws the deep tier's key and starts the stitch blocks (R478, R494). -/
theorem endReset_spec (u : State) {ok : Bool} (hok : ok = true) : let t := endReset u ok
    t.boot.phase = 2 ∧ t.boot.phaseAt = u.now ∧ t.sec = { u.sec with deepKey := Config.draw512 u.draws } ∧ t.brd.stitchUp = true
      ∧ t = { u with draws := u.draws + 1, sec := t.sec, stc := t.stc, boot := t.boot, brd := { u.brd with stitchUp := true } } := by
  rw [hok, endReset_ok]
  obtain ⟨c, hc⟩ := stitchStarted_only { u with draws := u.draws + 1, sec := { u.sec with deepKey := Config.draw512 u.draws } }
  rw [hc]
  obtain ⟨b, hb⟩ := wipeBegun_only { u with draws := u.draws + 1, sec := { u.sec with deepKey := Config.draw512 u.draws }, stc := c, brd := { u.brd with stitchUp := true } }
  rw [hb]
  exact ⟨rfl, rfl, rfl, rfl, rfl⟩

/-- The end of BOOT measures the images, and fails the start where no slot boots (R470, R471). -/
theorem endBoot_spec (u : State) (w : PhaseWork) : let t := endBoot u w
    t.sec = (bootImages u w.slotA w.slotB).1.sec ∧ t.boot.bootDone = true ∧ t.boot.phase = (if slotOk u.sec w.slotA || slotOk u.sec w.slotB then 3 else 15) ∧ (t.boot.phase = 15 → t.boot.failCause = 3)
      ∧ t = { u with sec := t.sec, boot := t.boot } := by
  obtain ⟨honly, hok⟩ := bootImages_eq u w.slotA w.slotB
  unfold endBoot
  rw [← hok]
  generalize bootImages u w.slotA w.slotB = p at honly ⊢
  obtain ⟨v, ok⟩ := p
  dsimp only at honly ⊢
  rw [honly]
  cases ok
  · exact ⟨rfl, rfl, rfl, fun _ => rfl, rfl⟩
  · exact ⟨rfl, rfl, rfl, fun h => absurd (show 3 = 15 from h) (by decide), rfl⟩

/-- A Seam link as training leaves it (Table 19-2). -/
def linkTrained (s : State) (l : Nat) : Link :=
  { getLink s l with
    phase := .up, versionSent := true, versionOk := true, readySent := true, readyGot := true
    sparesUsed := (Config.sparesTrained l).toNat, spareInUse := decide (Config.sparesTrained l ≠ 0) }

/-- The package with its delegate booted (R11). -/
def delegateUp (s : State) : State := modBoot s fun b => { b with seamDone := true, delegate := true }

theorem endSeam_up (u : State) : endSeam u true = (let s := delegateUp ((List.range 7).foldl (fun s l => setLink s l (linkTrained s l)) u)
    toPhase s (if s.boot.warm && !s.boot.wipeDone then 5 else 4)) := rfl

/-- The end of SEAM: the seven links are up and the delegate has booted (R11, R470). -/
theorem endSeam_spec (u : State) {ok : Bool} (hok : ok = true) : let t := endSeam u ok
    (∀ l, (getLink t l).phase = if l < 7 then .up else (getLink u l).phase) ∧ t.boot = { u.boot with seamDone := true, delegate := true, phase := if u.boot.warm && !u.boot.wipeDone then 5 else 4, phaseAt := u.now }
      ∧ t = { u with boot := t.boot, fab := { u.fab with links := t.fab.links } } := by
  obtain ⟨lk, hlinks⟩ := setLinks_fold linkTrained (List.range 7) u
  have hphase := setLinks_phase linkTrained (fun _ _ => rfl) (List.range 7) u
  rw [hok, endSeam_up, hlinks]
  rw [hlinks] at hphase
  exact ⟨fun l => (hphase l).trans (by simp only [List.mem_range]), rfl, rfl⟩

/-- A package that fails its training ends the start (R493). -/
theorem endTrain_fails (u : State) (up : BitVec 12) {packages : BitVec 18} (h : packages ≠ BitVec.allOnes 18) : let t := endTrain u up packages
    t.boot.phase = 15 ∧ t.boot.failCause = 5 ∧ t.boot.failPhase = u.boot.phase ∧ t = { u with boot := t.boot } := by
  unfold endTrain
  rw [if_pos h]
  exact ⟨rfl, rfl, rfl, rfl⟩

/-- Stacks that fail their training stay offline (R493). -/
theorem endTrain_spec (u : State) (up : BitVec 12) {packages : BitVec 18} (hok : packages = BitVec.allOnes 18) : let t := endTrain u up packages
    t.boot.stackOk = up ∧ t.boot.phase = (if u.boot.warm then 6 else 5) ∧ (up ≠ BitVec.allOnes 12 → t.boot.degraded = true)
      ∧ t = { u with rf := t.rf, boot := t.boot, brd := { u.brd with trained := true, trainedStacks := up } } := by
  unfold endTrain
  rw [hok, if_neg (by simp)]
  dsimp only [modBoot]
  obtain ⟨rf, hlow⟩ := lowers_fold (fun st => up.getLsbD st.val) (List.finRange 12) { u with
    boot := { u.boot with stackOk := up, lpdOk := BitVec.allOnes 18, degraded := u.boot.degraded || decide (up ≠ BitVec.allOnes 12) }
    brd := { u.brd with trained := true, trainedStacks := up } }
  rw [hlow]
  dsimp only
  have hdeg : up ≠ BitVec.allOnes 12 → (u.boot.degraded || decide (up ≠ BitVec.allOnes 12)) = true := fun h => by rw [decide_eq_true h, Bool.or_true]
  split
  next => exact ⟨rfl, rfl, hdeg, rfl⟩
  next => exact ⟨rfl, rfl, hdeg, rfl⟩

theorem endLinks_spec (u : State) : let t := endLinks u
    t.boot = { u.boot with phase := 7, phaseAt := u.now, linkUp := linksUp u, degraded := u.boot.degraded || decide (linksUp u ≠ BitVec.allOnes 19) } ∧ t = { u with boot := t.boot } := ⟨rfl, rfl⟩

/-! ### The full wipe (R485, R486) -/

section
variable {s : State} (hrun : running s = true) (hwipe : wipeRuns s = true)
include hrun hwipe

theorem exec_wipePartEnd_stack {p : Fin 16} {st : StackId} (hst : st.val = p.val) (hcov : (wipedStacks s).getLsbD p.val = true) :
    exec (.wipePartEnd p) s = .next (partWiped (raise s (Reg.stkCtrl st) 0) p) := by
  have hlt : p.val < 12 := hst ▸ st.isLt
  have heq : (⟨p.val, hlt⟩ : StackId) = st := Fin.ext hst.symm
  rw [exec_wipePartEnd, execWipePartEnd, clocked_running hrun, if_neg (by simp [hwipe]), dif_pos hlt, heq, if_pos hcov]

theorem exec_wipePartEnd_cdie {p : Fin 16} {d : CDie} (hd : d.val + 12 = p.val) : exec (.wipePartEnd p) s = .next (partWiped (raise s (Reg.dcCtrl d) 0) p) := by
  have heq : Fin.ofNat 4 (p.val - 12) = d := Fin.ext (by rw [Fin.val_ofNat, ← hd, Nat.add_sub_cancel, Nat.mod_eq_of_lt d.isLt])
  rw [exec_wipePartEnd, execWipePartEnd, clocked_running hrun, if_neg (by simp [hwipe]), dif_neg (by omega), heq]

theorem exec_fullWipeDone_ends (h : s.boot.wipedParts &&& ((wipedStacks s).setWidth 16 ||| 0xF000) = (wipedStacks s).setWidth 16 ||| 0xF000) :
    exec .fullWipeDone s = .next (modBoot (modSec (advanceTo s (s.boot.wipeAt + usT 1342000)) fun t => { t with wipeBusy := false }) fun b => { b with wipeDone := true }) := by
  rw [exec_fullWipeDone, execFullWipeDone, clocked_running hrun]
  exact congrArg _ (if_neg (by rw [hwipe, decide_eq_false (not_not_intro h)]; decide))
end

/-- Settles O56. -/
theorem startUpPhases : Obligations.StartUpPhases := by
  refine ⟨?ends, ?timeout, ?wipe⟩
  case ends =>
    intro s u w hrun hstart hu
    refine ⟨fun h => ⟨_, exec_startPhaseEnd_late hrun hstart hu h, by rw [hu]; rfl, rfl⟩, fun h => ?_⟩
    have hends {n : Nat} : s.boot.phase = n → exec (.startPhaseEnd w) s = .next (phaseEnded s u w n) := exec_startPhaseEnd_ends hrun hstart hu h
    have hsec : u.sec = s.sec := by rw [hu]; rfl
    have hbrd : u.brd = s.brd := by rw [hu]; rfl
    have hboot : u.boot = s.boot := by rw [hu]; rfl
    have hfab : u.fab = s.fab := by rw [hu]; rfl
    have hdraws : u.draws = s.draws := by rw [hu]; rfl
    have hlinks : linksUp u = linksUp s := by rw [hu]; rfl
    have hlink (l : Nat) : getLink u l = getLink s l := by rw [hu]; rfl
    refine ⟨fun hn hok => ⟨_, hends hn, ?_⟩, fun hn hok => ?_, fun hn => ⟨_, hends hn, ?_⟩, fun hn hok => ⟨_, hends hn, ?_⟩, fun hn hok => ?_, fun hn hok => ⟨_, hends hn, ?_⟩, fun hn hok => ⟨_, hends hn, ?_⟩,
      fun hn hdone => ?_, fun hn => ⟨_, hends hn, ?_⟩, fun hn hok => ?_, fun hn hok => ?_, hends⟩
    · have ht := endReset_spec u hok
      rw [hsec, hdraws, hbrd] at ht
      exact ht
    · rw [hends hn, phaseEnded, hok]
      rfl
    · have ht := endBoot_spec u w
      rw [hsec] at ht
      exact ht
    · have ht := endSeam_spec u hok
      simp only [hlink, hboot, hfab] at ht
      exact ht
    · rw [hends hn, phaseEnded, hok]
      rfl
    · have ht := endTrain_fails u w.stackMask hok
      rw [hboot, hn] at ht
      exact ht
    · have ht := endTrain_spec u w.stackMask hok
      rw [hboot, hbrd] at ht
      exact ht
    · rw [hends hn, phaseEnded, if_pos hdone]
    · have ht := endLinks_spec u
      rw [hlinks, hboot] at ht
      exact ht
    · rw [hends hn, phaseEnded, if_pos hok]
    · rw [hends hn, phaseEnded, if_neg (by simp [hok])]
  case timeout =>
    intro s hrun hstart
    refine ⟨failStart (advanceTo s (phaseLimit s)) 6, ?_, rfl, rfl, rfl⟩
    rw [exec_startPhaseTimeout, execStartPhaseTimeout, clocked_running hrun, if_pos hstart]
  case wipe =>
    intro s p hrun hwipe
    refine ⟨fun st hst hcov => ⟨_, exec_wipePartEnd_stack hrun hwipe hst hcov, flagR_raise _ _ (by decide), rfl, rfl⟩, fun d hd => ⟨_, exec_wipePartEnd_cdie hrun hwipe hd, flagR_raise _ _ (by decide), rfl, rfl⟩,
      fun h => ⟨_, exec_fullWipeDone_ends hrun hwipe h, ?_⟩⟩
    unfold advanceTo
    generalize hnow : max s.now (s.boot.wipeAt + usT 1342000) = n
    exact ⟨rfl, rfl, hnow ▸ Nat.le_max_right .., rfl⟩

end Sys2Proof.Machine
end

section
/-! PROOFS. Commands of Thimble, presence, the seal and measurements (R466 to R472, R479 to R484, R518): O57. -/

namespace Sys2Proof.Machine

/-! ### Commands (R471, R480, R482, Table 18-5) -/

/-- What an accepted command makes of Thimble (R471, R480). -/
def commandTaken (s : State) (op target allow : Nat) : Thimble :=
  if op = 5 then { s.sec with cmd := none, result := 0 } else if op = 6 then { s.sec with svnMin := max s.sec.svnMin s.sec.runningSvn, result := 0 }
  else { s.sec with cmd := some ⟨op, target, allow, s.now⟩, result := 0 }

theorem secCommand_accepted {s : State} {op target : Nat} (allow : Nat) (h : cmdVerdict s op target = 0) : secCommand s op target allow = { s with sec := commandTaken s op target allow } := by
  unfold secCommand commandTaken
  rw [h]
  split
  next =>
    dsimp only [modSec]
    split
    next => rfl
    next => rfl
    next h5 h6 => rw [if_neg h5, if_neg h6]
  next h0 => exact absurd rfl h0

theorem secCommand_refused {s : State} {op target r : Nat} (allow : Nat) (h : cmdVerdict s op target = r) (hr : r ≠ 0) :
    secCommand s op target allow = secRefuse { s with sec := { s.sec with result := r } } := by
  unfold secCommand
  rw [h]
  split
  next => exact absurd rfl hr
  next => rfl

/-- A command of Table 18-5: its number, its target and the version it allows. -/
def IsCommand (v : W64) (op target allow : Nat) (i : Instr) : Prop :=
  i = .transition v ∧ op = 1 ∧ target = bits v 7 4 ∧ allow = 0 ∨ i = .debugUnlock ∧ op = 2 ∧ target = 0 ∧ allow = 0 ∨ i = .rollback v ∧ op = 3 ∧ target = 0 ∧ allow = bits v 14 8
    ∨ i = .keyReset ∧ op = 4 ∧ target = 0 ∧ allow = 0 ∨ i = .cancel ∧ op = 5 ∧ target = 0 ∧ allow = 0 ∨ i = .svnCommit ∧ op = 6 ∧ target = 0 ∧ allow = 0

theorem exec_command {s : State} {v : W64} {op target allow : Nat} {i : Instr} (hrun : running s = true) (hi : IsCommand v op target allow i) :
    exec i s = .next (secCommand s op target allow) := by
  obtain ⟨rfl, rfl, rfl, rfl⟩ | ⟨rfl, rfl, rfl, rfl⟩ | ⟨rfl, rfl, rfl, rfl⟩ | ⟨rfl, rfl, rfl, rfl⟩ | ⟨rfl, rfl, rfl, rfl⟩ | ⟨rfl, rfl, rfl, rfl⟩ := hi
  · rw [exec_transition, execTransition, clocked_running hrun]
  · rw [exec_debugUnlock, execDebugUnlock, clocked_running hrun]
  · rw [exec_rollback, execRollback, clocked_running hrun]
  · rw [exec_keyReset, execKeyReset, clocked_running hrun]
  · rw [exec_cancel, execCancel, clocked_running hrun]
  · rw [exec_svnCommit, execSvnCommit, clocked_running hrun]

/-- From SERVICE the fuses allow FIELD and RETIRED alone (Table 18-4). -/
theorem transitionOk_service {t : Thimble} (h : t.lc = .service) (target : Nat) : transitionOk t target = decide (target = 3 ∨ target = 5) := by
  unfold transitionOk
  rw [h]
  split <;> simp_all

theorem cmdVerdict_service {s : State} {v : W64} {op target allow : Nat} {i : Instr} (hi : IsCommand v op target allow i) (hphase : s.boot.phase = 8) (hcmd : s.sec.cmd = none)
    (hseal : s.sec.sealBroken = false) (hlc : s.sec.lc = .service) : cmdVerdict s op target = if op = 5 ∨ op = 1 ∧ target ≠ 3 ∧ target ≠ 5 then 1 else 0 := by
  have htrans := transitionOk_service hlc (bits v 7 4)
  unfold cmdVerdict
  rw [if_neg (by simp [hphase, hlc]), hcmd, hseal, hlc]
  obtain ⟨-, rfl, rfl, -⟩ | ⟨-, rfl, -, -⟩ | ⟨-, rfl, -, -⟩ | ⟨-, rfl, -, -⟩ | ⟨-, rfl, -, -⟩ | ⟨-, rfl, -, -⟩ := hi
  · dsimp only
    rw [htrans]
    by_cases h3 : bits v 7 4 = 3
    · simp [h3]
    · by_cases h5 : bits v 7 4 = 5
      · simp [h5]
      · simp [h3, h5]
  all_goals simp

/-! ### Presence (R480 to R484) -/

section
variable {s : State} {c : ThimbleCmd} {fallNs : BitVec 36} {ok : Bool} (hrun : running s = true) (hc : s.sec.cmd = some c)
include hrun hc

theorem exec_presenceProven_executes (hfall : fallNs ≠ 0) (hwin : fallNs.toNat + 100000000 ≤ 30000000000) :
    exec (.presenceProven fallNs ok) s = .next (executeCmd (advanceTo { s with brd := { s.brd with presenceN := false } } (c.since + nsT (fallNs.toNat + 100000000))) c ok) := by
  rw [exec_presenceProven, execPresenceProven, clocked_running hrun, hc]
  exact congrArg _ (if_neg (not_or.2 ⟨hfall, Nat.not_lt.2 hwin⟩))

theorem exec_presenceProven_outside (h : fallNs = 0 ∨ 30000000000 < fallNs.toNat + 100000000) : exec (.presenceProven fallNs ok) s = .next s := by
  rw [exec_presenceProven, execPresenceProven, clocked_running hrun, hc]
  exact congrArg _ (if_pos h)
end

/-- What a proven command other than DEBUG_UNLOCK and ROLLBACK does (R483). -/
theorem executeCmd_burns (u : State) {c : ThimbleCmd} (h2 : c.op ≠ 2) (h3 : c.op ≠ 3) (ok : Bool) :
    executeCmd u c ok = if ok then restartUnder u c else modSec u fun t => { t with cmd := none, result := 5 } := by
  unfold executeCmd
  split
  next h => exact absurd h h2
  next h => exact absurd h h3
  next => rfl

theorem executeCmd_unlocks {u : State} {c : ThimbleCmd} (hop : c.op = 2) (hlocked : u.sec.debugUnlocked = false) {ok : Bool} :
    executeCmd u c ok = { u with sec := extendFlags { u.sec with cmd := none, result := 0, debugUnlocked := true } } := by
  unfold executeCmd modSec
  rw [hop]
  dsimp only
  rw [if_neg (by simp [hlocked])]
  rfl

theorem executeCmd_arms (u : State) {c : ThimbleCmd} (hop : c.op = 3) {ok : Bool} : executeCmd u c ok = { u with sec := { u.sec with cmd := none, result := 0, armedSvn := some c.allowSvn } } := by
  unfold executeCmd modSec
  rw [hop]
  rfl

/-- A transition from MANUFACTURE that does not retire provisions (Table 18-4). -/
theorem burnFuses_provisions {s : State} {c : ThimbleCmd} (hlc : s.sec.lc = .manufacture) (ht : c.target ≠ 5) (hop : c.op = 1) : (burnFuses s c).lc = .provisioned := by
  unfold burnFuses
  dsimp only
  rw [if_neg (by simp [hop]), hlc]
  split
  next h => exact absurd h ht
  next => rfl
  all_goals contradiction

/-! ### The seal and measurements (R468, R472, R481) -/

/-- Thimble once its seal is broken: an open window closes, but that of a retirement (R481). -/
def windowSealed (t : Thimble) : Thimble :=
  match t.cmd with
  | some c => if c.op = 1 ∧ c.target = 5 then t else { t with cmd := none, result := 4 }
  | none => t

/-- Thimble once its seal is broken: the flag is measured once BOOT has ended (R468, R481). -/
def sealBroken (s : State) : Thimble :=
  if s.boot.bootDone then extendFlags (windowSealed { s.sec with sealBroken := true }) else windowSealed { s.sec with sealBroken := true }

/-- The latch keeps a retirement's window open, and ends every other (R481). -/
theorem sealBroken_spec (s : State) : (sealBroken s).sealBroken = true ∧ (∀ c, s.sec.cmd = some c → (c.op = 1 → c.target ≠ 5) → (sealBroken s).cmd = none ∧ (sealBroken s).result = 4)
    ∧ (∀ c, s.sec.cmd = some c → c.op = 1 → c.target = 5 → (sealBroken s).cmd = some c) ∧ (s.boot.bootDone = true → (sealBroken s).aliasReady = false) := by
  have hkeep : (sealBroken s).cmd = (windowSealed { s.sec with sealBroken := true }).cmd ∧ (sealBroken s).result = (windowSealed { s.sec with sealBroken := true }).result
      ∧ (sealBroken s).sealBroken = (windowSealed { s.sec with sealBroken := true }).sealBroken := by
    unfold sealBroken
    split <;> exact ⟨rfl, rfl, rfl⟩
  obtain ⟨hcmd, hresult, hbroken⟩ := hkeep
  rw [hcmd, hresult, hbroken]
  refine ⟨?_, fun c hc hother => ?_, fun c hc hop ht => ?_, fun h => ?_⟩
  · unfold windowSealed
    dsimp only
    cases s.sec.cmd with
    | none => rfl
    | some c => dsimp only; split <;> rfl
  · unfold windowSealed
    dsimp only
    rw [hc]
    dsimp only
    rw [if_neg fun h => hother h.1 h.2]
    exact ⟨rfl, rfl⟩
  · unfold windowSealed
    dsimp only
    rw [hc]
    dsimp only
    rw [if_pos ⟨hop, ht⟩]
  · unfold sealBroken
    rw [if_pos h]
    rfl

theorem exec_sealBreak_latches {s : State} {ns : W32} (hgood : s.brd.pwrGood = true) (hns : 1000 ≤ ns.toNat) (hfresh : s.sec.sealBroken = false) :
    exec (.sealBreak ns) s = .next { s with brd := { s.brd with sealOk := false }, sec := sealBroken s } := by
  rw [exec_sealBreak, execSealBreak, if_neg (by simp [hgood, hfresh, hns])]
  rfl

/-- A measurement is extended: no other is (R472). -/
theorem measOf_extendM (t : Thimble) (k i : Nat) (d : BitVec 512) : measOf (extendM t k d) i = if i = k then Config.shake256 (bytes512 (measOf t i) ++ bytes512 d) else measOf t i := by
  unfold extendM measOf
  rw [smGet_set]
  split
  next h => rw [h]
  next => rfl

/-- The digest that SEC_MEAS_GO extends by, of its eight staged words (Table 18-8). -/
def stagedDigest (t : Thimble) : BitVec 512 := BitVec.ofNat 512 (((List.range 8).map fun w => (smGet 0 t.measExt w).toNat * 2 ^ (64 * w)).sum)

/-- Settles O57. -/
theorem thimbleCommands : Obligations.ThimbleCommands := by
  refine ⟨?commands, ?presence, fun s c _ => burnFuses_provisions, ?broken, ?keys⟩
  case commands =>
    intro s v op target allow i hrun hi
    have hexec := exec_command hrun hi
    refine ⟨fun h => ?_, fun r h hr => ?_, fun hphase _ hcmd hfresh hlc => cmdVerdict_service hi hphase hcmd hfresh hlc⟩
    · rw [hexec, secCommand_accepted allow h]
      rfl
    · rw [hexec, secCommand_refused allow h hr]
  case presence =>
    intro s c fallNs ok hrun hc
    refine ⟨fun hfall hwin u hu => ?_, exec_presenceProven_outside hrun hc, ?_⟩
    · have hexec : exec (.presenceProven fallNs ok) s = .next (executeCmd u c ok) := hu ▸ exec_presenceProven_executes hrun hc hfall hwin
      have hsec : u.sec = s.sec := by rw [hu]; rfl
      rw [hexec]
      refine ⟨fun hop hlocked => ?_, fun hop => ?_, fun h2 h3 hok => ?_, fun h2 h3 hok => ?_⟩
      · rw [executeCmd_unlocks hop (by rw [hsec, hlocked]), hsec]
      · rw [executeCmd_arms u hop, hsec]
      · rw [executeCmd_burns u h2 h3, if_pos hok]
        rfl
      · rw [executeCmd_burns u h2 h3, if_neg (by simp [hok]), ← hsec]
        rfl
    · rw [exec_presenceExpire, execPresenceExpire, clocked_running hrun, hc]
      rfl
  case broken =>
    intro s ns hgood hns hfresh
    obtain ⟨hbroken, hother, hretire, halias⟩ := sealBroken_spec s
    exact ⟨_, exec_sealBreak_latches hgood hns hfresh, hbroken, hother, hretire, halias, rfl⟩
  case keys =>
    intro s v hrun
    refine ⟨fun halias hboot => ?_, fun h => ?_, fun h => ⟨modSec s fun t => extendM t (bits v 3 0) (stagedDigest t), ?_, fun i => measOf_extendM .., rfl⟩, fun h => ?_⟩
    · rw [exec_aliasRederived, execAliasRederived, clocked_running hrun, if_neg (by simp [halias, hboot])]
      rfl
    · rw [exec_aliasRederived, execAliasRederived, clocked_running hrun]
      exact congrArg _ (if_pos (by simpa using h))
    · rw [exec_secMeasGo, execSecMeasGo, clocked_running hrun]
      exact congrArg _ (if_neg (Nat.not_lt.2 h))
    · rw [exec_secMeasGo, execSecMeasGo, clocked_running hrun]
      exact congrArg _ (if_pos h)

end Sys2Proof.Machine
end

section
/-! PROOFS. The answers to SPDM requests (R468, R473, R479): O58. -/

namespace Sys2Proof.Machine

section
variable {s : State} {early agreed : Bool} {f : State → State} (hrun : running s = true)
include hrun

theorem spdmAsk_early (hboot : s.boot.bootDone = false) : spdmAsk s early agreed f = .next s := by
  rw [spdmAsk, clocked_running hrun]
  exact congrArg _ (if_pos (by simp [hboot]))

variable (hboot : s.boot.bootDone = true) (hlc : s.sec.lc ≠ .retired)
include hboot hlc

theorem spdmAsk_busy (halias : s.sec.aliasReady = false) : spdmAsk s early agreed f = .next (spdmError s 0x42) := by
  rw [spdmAsk, clocked_running hrun, if_neg (by simp [hboot]), if_neg hlc]
  exact congrArg _ (if_pos (by simp [halias]))

variable (halias : s.sec.aliasReady = true)
include halias

theorem spdmAsk_answers (hagreed : agreed = true) : spdmAsk s early agreed f = .next (f s) := by
  rw [spdmAsk, clocked_running hrun, if_neg (by simp [hboot]), if_neg hlc, if_neg (by simp [halias])]
  exact congrArg _ (if_neg (by simp [hagreed]))

theorem spdmAsk_unagreed (hagreed : agreed = false) : spdmAsk s early agreed f = .next (spdmError s 0x04) := by
  rw [spdmAsk, clocked_running hrun, if_neg (by simp [hboot]), if_neg hlc, if_neg (by simp [halias])]
  exact congrArg _ (if_pos (by simp [hagreed]))
end

/-- A signed answer leaves behind those before it (R468, R473). -/
theorem spdmSigned_spec (s : State) (code : Nat) (body : List Byte) : let t := spdmSigned s code body
    t.sec.spdm = s.sec.spdm ++ [(code, body ++ Config.falconSign (aliasKey s.sec) body)] ∧ t = { s with sec := { s.sec with spdm := t.sec.spdm } } := ⟨rfl, rfl⟩

/-- What GET_MEASUREMENTS answers: their number, one, or all (R473). -/
def measBody (t : Thimble) (i : Nat) : List Byte :=
  if i = 0 then [16] else if i = 0xFF then ((List.range 16).map fun k => bytesOf 1 (k + 1) ++ bytes512 (measOf t k)).flatten else bytesOf 1 (i - 1 + 1) ++ bytes512 (measOf t (i - 1))

section
variable {s : State} (hrun : running s = true) (hboot : s.boot.bootDone = true) (hlc : s.sec.lc ≠ .retired) (halias : s.sec.aliasReady = true) (halgs : s.sec.spdmAlgs = true)
include hrun hboot hlc halias halgs

theorem exec_getCertificate_part {off len : W16} (h : off.toNat < (certChain s.sec).length) : exec (.getCertificate off len) s
    = .next (spdmSigned s 0x02 (bytesOf 2 (((certChain s.sec).drop off.toNat).take len.toNat).length ++ bytesOf 2 ((certChain s.sec).length - off.toNat - (((certChain s.sec).drop off.toNat).take len.toNat).length)
      ++ ((certChain s.sec).drop off.toNat).take len.toNat)) := by
  rw [exec_getCertificate, execGetCertificate, spdmAsk_answers hrun hboot hlc halias halgs]
  exact congrArg _ (if_neg (Nat.not_le.2 h))

theorem exec_getCertificate_past {off len : W16} (h : (certChain s.sec).length ≤ off.toNat) : exec (.getCertificate off len) s = .next (spdmError s 0x01) := by
  rw [exec_getCertificate, execGetCertificate, spdmAsk_answers hrun hboot hlc halias halgs]
  exact congrArg _ (if_pos h)

theorem exec_challenge_signs (nonce : BitVec 256) : exec (.challenge nonce) s
    = .next (spdmSigned { s with draws := s.draws + 1 } 0x03 (bytes512 (Config.sha3 (certChain s.sec)) ++ bytesOf 32 (Config.draw256 s.draws).toNat ++ bytesOf 32 nonce.toNat)) := by
  rw [exec_challenge, execChallenge, spdmAsk_answers hrun hboot hlc halias halgs]
  rfl

theorem exec_getMeasurements_signs {index : Byte} (h : index.toNat ≤ 16 ∨ index.toNat = 0xFF) : exec (.getMeasurements index) s = .next (spdmSigned s 0x60 (measBody s.sec index.toNat)) := by
  rw [exec_getMeasurements, execGetMeasurements, spdmAsk_answers hrun hboot hlc halias halgs]
  dsimp only
  unfold measBody
  generalize index.toNat = i at h ⊢
  split
  next => rfl
  next h0 =>
    split
    next => rfl
    next hall => rw [if_pos (h.resolve_right hall)]
end

theorem measBody_one (t : Thimble) {k : Nat} (hk : k < 16) : measBody t (k + 1) = bytesOf 1 (k + 1) ++ bytes512 (measOf t k) := by
  unfold measBody
  rw [if_neg (by omega), if_neg (by omega), Nat.add_sub_cancel]

/-- Settles O58. -/
theorem spdmAnswers : Obligations.SpdmAnswers := by
  refine ⟨?early, fun s hrun hboot hlc => ⟨fun halias => ?answered, ?busy⟩⟩
  case early =>
    rintro s i hrun hboot (rfl | rfl | rfl | rfl)
    · exact (exec_getVersion s).trans (spdmAsk_early hrun hboot)
    · exact (exec_getCapabilities s).trans (spdmAsk_early hrun hboot)
    · exact (exec_negotiateAlgorithms s).trans (spdmAsk_early hrun hboot)
    · exact (exec_getDigests s).trans (spdmAsk_early hrun hboot)
  case busy =>
    rintro halias i (rfl | rfl | rfl | rfl)
    · exact (exec_getVersion s).trans (spdmAsk_busy hrun hboot hlc halias)
    · exact (exec_getCapabilities s).trans (spdmAsk_busy hrun hboot hlc halias)
    · exact (exec_negotiateAlgorithms s).trans (spdmAsk_busy hrun hboot hlc halias)
    · exact (exec_getDigests s).trans (spdmAsk_busy hrun hboot hlc halias)
  case answered =>
    refine ⟨(exec_getVersion s).trans (spdmAsk_answers hrun hboot hlc halias rfl), fun h => (exec_getCapabilities s).trans (spdmAsk_answers hrun hboot hlc halias h),
      fun h => (exec_getCapabilities s).trans (spdmAsk_unagreed hrun hboot hlc halias h), fun h => (exec_negotiateAlgorithms s).trans (spdmAsk_unagreed hrun hboot hlc halias h), ?_,
      fun h => (exec_negotiateAlgorithms s).trans (spdmAsk_answers hrun hboot hlc halias h), fun code => ⟨spdmError s 0x07, (exec_spdmUnsupported s code).trans (spdmAsk_answers hrun hboot hlc halias rfl), rfl, rfl⟩,
      fun halgs => ⟨⟨_, (exec_getDigests s).trans (spdmAsk_answers hrun hboot hlc halias halgs), _, spdmSigned_spec ..⟩,
        fun off len => ⟨exec_getCertificate_past hrun hboot hlc halias halgs, fun h => ⟨_, exec_getCertificate_part hrun hboot hlc halias halgs h, _, _, rfl, spdmSigned_spec ..⟩⟩,
        fun nonce => ⟨_, exec_challenge_signs hrun hboot hlc halias halgs nonce, _, rfl, rfl⟩, fun index h => ?_⟩⟩
    · rintro h i off len n b (rfl | rfl | rfl | rfl)
      · exact (exec_getDigests s).trans (spdmAsk_unagreed hrun hboot hlc halias h)
      · exact (exec_getCertificate s off len).trans (spdmAsk_unagreed hrun hboot hlc halias h)
      · exact (exec_challenge s n).trans (spdmAsk_unagreed hrun hboot hlc halias h)
      · exact (exec_getMeasurements s b).trans (spdmAsk_unagreed hrun hboot hlc halias h)
    · refine ⟨_, exec_getMeasurements_signs hrun hboot hlc halias halgs h, _, measBody s.sec index.toNat, fun hi => ?_, fun k hk hi => (congrArg _ hi).trans (measBody_one _ hk), fun hi => ?_, spdmSigned_spec ..⟩
      · rw [hi]
        rfl
      · rw [hi]
        rfl

end Sys2Proof.Machine
end

section
/-! PROOFS. Register space as host cores reach it, what a host core does with memory, and a die's tallies (R8, R9, R311, R323 to R342, R502 to R507): O59. -/

namespace Sys2Proof.Machine

/-! ### The way to a register (R335, R336, R502, R505 to R507) -/

/-- A hart as an access that takes none of its register writes leaves it. -/
def hartKept (s : State) (h : Nat) : State := setHart s h (getHart s h)

theorem getHart_hartKept (s : State) (h : Nat) : getHart (hartKept s h) h = getHart s h := (getHart_setHart ..).trans (if_pos rfl)

theorem regAccess_delivers {s : State} {h addr width : Nat} {write : Bool} {v : W64} (hwaits : hartWaits s h = false) (hgated : (getHart s h).gated = false) (hreset : (getHart s h).inReset = false)
    (htaken : ((getHart s h).regWrites.all fun w => !sameRegion addr w.1) = true) : regAccess s h addr width write v = regDeliver (hartKept s h) h addr width write v := by
  rw [regAccess, if_neg (by simp [hwaits]), takeWrites_none htaken, regSend, getHart_setHart, if_pos rfl, if_neg (by simp [hgated, hreset])]
  rfl

section
variable {s : State} {h addr : Nat} {p : Place} (hp : placeOf addr = some p)
include hp

theorem regDeliver_misaligned {width : Nat} {write : Bool} {v : W64} (hbad : width ≠ 8 ∨ addr % 8 ≠ 0) : regDeliver s h addr width write v = regFault s h addr 0 := by
  rw [regDeliver, hp]
  exact if_pos hbad

theorem regDeliver_performs {write : Bool} {v : W64} (halign : addr % 8 = 0) (hdead : deadDie s p = false) (hstuck : regStuck s h p addr = false) (hbehind : regBehind s h addr = false) :
    regDeliver s h addr 8 write v = regPerform s h p addr write v := by
  rw [regDeliver, hp]
  dsimp only
  rw [if_neg (by simp [halign]), hdead, if_neg (by decide), hstuck, hbehind, if_neg (by decide)]
end

/-! ### Accesses that are performed (R8, R9, R283, R290, R335, R503) -/

section
variable {s : State} {h addr : Nat} {p : Place} {w : RegView} {v : W64} (hw : viewAt s p = some w)
include hw

theorem regPut_register : regPut s p addr v = placeWrite s p addr w.reg v := by
  rw [regPut, hw]

theorem regPerform_writes (hinval : p.slot = 0x0E → p.off < 0x1000)
    (hmap : ∀ k, p.slot = 0x0F → nth p.off 0x20000 8 16384 = some k → clearsValid s k v = false ∨ bitAt (mapEntry (placeWrite s p addr w.reg v) k) 0 = false) :
    regPerform s h p addr true v = placeWrite s p addr w.reg v := by
  have hclears : (decide (p.slot = 0x0F) && ((nth p.off 0x20000 8 16384).map fun k => clearsValid s k v).getD false && ((nth p.off 0x20000 8 16384).map fun k => bitAt (mapEntry (placeWrite s p addr w.reg v) k) 0).getD false) = false := by
    by_cases hslot : p.slot = 0x0F
    · cases hk : nth p.off 0x20000 8 16384 with
      | none => simp
      | some k => obtain h | h := hmap k hslot hk <;> simp [h]
    · simp [hslot]
  rw [regPerform, if_pos rfl, regPut_register hw]
  dsimp only
  rw [hclears, if_neg (by decide), if_neg fun h => Nat.not_lt.2 h.2 (hinval h.1)]

theorem regPerform_holds {k : Nat} (hslot : p.slot = 0x0F) (hk : nth p.off 0x20000 8 16384 = some k) (hclears : clearsValid s k v = true) (hvalid : bitAt (mapEntry (placeWrite s p addr w.reg v) k) 0 = true) :
    regPerform s h p addr true v = holdAccess (placeWrite s p addr w.reg v) h addr true v := by
  rw [regPerform, if_pos rfl, regPut_register hw, hk]
  exact if_pos (by simp [hslot, hclears, hvalid])

theorem regPerform_invalidates (hslot : p.slot = 0x0E) (hoff : 0x1000 ≤ p.off) :
    regPerform s h p addr true v = setHart (placeWrite s p addr w.reg v) h { getHart (placeWrite s p addr w.reg v) h with inval := some ((p.off - 0x1000) / 16) } := by
  rw [regPerform, if_pos rfl, regPut_register hw]
  dsimp only
  rw [if_neg (by simp [hslot]), if_pos ⟨hslot, hoff⟩]

theorem regPerform_reads {t : State} (heffect : readEffect s (some h) p w.reg = t) (hwaiting : (getHart t h).waiting = false) :
    regPerform s h p addr false v = setHart t h { getHart t h with result := viewValue s w } := by
  rw [regPerform, if_neg (by decide), regGet, hw]
  dsimp only
  rw [heffect, if_neg (by simp [hwaiting])]
end

section
variable {s : State} {h addr : Nat} {p : Place} {v : W64} (hnone : viewAt s p = none)
include hnone

theorem regPerform_unmapped_write (hinval : p.slot = 0x0E → p.off < 0x1000) (hmap : p.slot = 0x0F → nth p.off 0x20000 8 16384 = none) : regPerform s h p addr true v = idEvent s 0 addr := by
  have hclears : (decide (p.slot = 0x0F) && ((nth p.off 0x20000 8 16384).map fun k => clearsValid s k v).getD false) = false := by
    by_cases hslot : p.slot = 0x0F
    · simp [hmap hslot]
    · simp [hslot]
  rw [regPerform, if_pos rfl, regPut, hnone]
  dsimp only
  rw [hclears, if_neg (by simp), if_neg fun h => Nat.not_lt.2 h.2 (hinval h.1)]

theorem regPerform_unmapped_read (hwaiting : (getHart s h).waiting = false) : regPerform s h p addr false v = setHart (idEvent s 0 addr) h { getHart s h with result := 0 } := by
  rw [regPerform, if_neg (by decide), regGet, hnone]
  exact if_neg (by rw [show getHart (idEvent s 0 addr) h = getHart s h from rfl, hwaiting]; decide)
end

/-- ID_ and MGT_ registers take a write as Table 0-3 has it. -/
theorem placeWrite_plain {s : State} {p : Place} (addr : Nat) {r : Reg} {v : W64} (hslot : p.slot = 0 ∨ p.slot = 0x16) (hlegal : reservedFields p v = []) (hrw : r.rw ||| r.w1c ≠ 0) :
    placeWrite s p addr r v = setR s r (((getR s r &&& ~~~r.rw) ||| (v &&& r.rw)) &&& ~~~(v &&& r.w1c)) := by
  have hplain : placeWrite s p addr r v = plainWrite s addr r v (reservedFields p v) := by
    unfold placeWrite
    obtain hslot | hslot := hslot <;> rw [hslot] <;> rfl
  rw [hplain, hlegal, plainWrite_nil _ _ _ _ hrw]

/-! ### Memory as a host core reaches it (R311, R323, R324, R333, R338) -/

/-- An access within a line names that line alone. -/
theorem linesAt_one {a n : Nat} (hn : 0 < n) (hfit : a % 64 + n ≤ 64) : linesAt a n = [a / 64] := by
  have hcount : (a + n + 63) / 64 - a / 64 = 1 := by omega
  have hfirst : max a ((a / 64 + 0) * 64) / 64 = a / 64 := by omega
  unfold linesAt linePieces
  rw [hcount]
  simp only [List.range_one, List.map_cons, List.map_nil, hfirst]

section
variable {s : State} {h : Hart}

theorem readLoads_none (hloads : (getHart s h.val).loads = []) (f : LoadOut → Bool) : readLoads s h f = (s, true) := by
  unfold readLoads
  rw [hloads]
  rfl

theorem drainHart_none (hstores : (getHart s h.val).stores = []) (f : BufStore → Bool) : drainHart s h f = (s, true) := by
  unfold drainHart
  rw [hstores]
  rfl

theorem settleHart_none (hloads : (getHart s h.val).loads = []) (hstores : (getHart s h.val).stores = []) (a n : Nat) (all : Bool) : settleHart s h a n all = (s, true) := by
  unfold settleHart
  rw [readLoads_none hloads]
  exact drainHart_none hstores _

theorem hostLine_held {line : Nat} (hok : lineOk s line = true) (hst : (getCopy s h.val line).st ≠ .i) : hostLine s h line false = (s, .inr (getCopy s h.val line).data) := by
  unfold hostLine
  rw [if_neg (by simp [hok])]
  dsimp only
  rw [if_pos (.inr ⟨hst, rfl⟩)]

theorem hostLine_owned {line : Nat} (hok : lineOk s line = true) (hst : (getCopy s h.val line).st = .m) : hostLine s h line true = (s, .inr (getCopy s h.val line).data) := by
  unfold hostLine
  rw [if_neg (by simp [hok])]
  dsimp only
  rw [if_pos (.inl hst)]

theorem hostBytes_held {a n : Nat} (hn : 0 < n) (hfit : a % 64 + n ≤ 64) (hstores : (getHart s h.val).stores = []) (hok : lineOk s (a / 64) = true) (hst : (getCopy s h.val (a / 64)).st ≠ .i) :
    hostBytes s h a n = (s, .inr (((lineBytes (getCopy s h.val (a / 64)).data).drop (a % 64)).take n)) := by
  unfold hostBytes
  rw [linesAt_one hn hfit, hostLines, hostLine_held hok hst]
  dsimp only [hostLines]
  rw [hstores, List.map_singleton, List.flatten_singleton]
  rfl

theorem hostLoad_held {a n : Nat} (hmem : inRegSpace a = false) (hloads : (getHart s h.val).loads = []) (hstores : (getHart s h.val).stores = []) (hn : 0 < n) (hfit : a % 64 + n ≤ 64)
    (hok : lineOk s (a / 64) = true) (hst : (getCopy s h.val (a / 64)).st ≠ .i) :
    hostLoad s h a n = setHart s h.val { getHart s h.val with result := BitVec.ofNat 64 (leNat (((lineBytes (getCopy s h.val (a / 64)).data).drop (a % 64)).take n)) } := by
  rw [hostLoad, if_neg (by simp [hmem]), readLoads_none hloads]
  dsimp only
  rw [hostBytes_held hn hfit hstores hok hst]

theorem loadBegin_issues {a n : Nat} (hmem : inRegSpace a = false) (hroom : (getHart s h.val).loads.length < 128) :
    loadBegin s h a n = setHart s h.val { getHart s h.val with loads := (getHart s h.val).loads ++ [{ addr := a, bytes := n }] } := by
  unfold loadBegin
  rw [if_neg (by simp [hmem]), if_neg (Nat.not_le.2 hroom)]

theorem storeTo_buffers {a n : Nat} {v : W64} (hmem : inRegSpace a = false) (hloads : (getHart s h.val).loads = []) (hok : ∀ q ∈ linePieces a n, lineOk s (q.1 / 64) = true) :
    storeTo s h a n v = setHart s h.val { getHart s h.val with stores := (getHart s h.val).stores ++ [⟨a, bytesOf n v.toNat⟩] } := by
  have hfind : ((linePieces a n).find? fun p => !lineOk s (p.1 / 64)) = none := List.find?_eq_none.2 fun q hq => by simp [hok q hq]
  rw [storeTo, if_neg (by simp [hmem]), hfind, readLoads_none hloads]

theorem hostConditional_lost {a : Nat} {wide : Bool} {v : W64} {rl : Bool} (hlost : (getHart s h.val).reservation ≠ some (a / 64)) :
    hostConditional s h a wide v rl = setHart s h.val { getHart s h.val with reservation := none, result := 1 } := if_neg hlost

theorem hostFenceI_forgets (hstores : (getHart s h.val).stores = []) : hostFenceI s h = setHart s h.val { getHart s h.val with fetched := [] } := by
  unfold hostFenceI
  rw [drainHart_none hstores]

/-- An atomic on a line in M writes the word and hands the old one to the hart (R333). -/
def amoDone (s : State) (h : Hart) (a : Nat) (wide : Bool) (op : AtomOp) (x old : W64) : State :=
  let t := hostPut s h a (bytesOf (if wide then 8 else 4) (atomResult op wide old x 0).toNat)
  setHart t h.val { getHart t h.val with result := hostWord wide old }

theorem hostAmo_owned {a : Nat} {wide : Bool} {op : AtomOp} {x : W64} {rl : Bool} (hmem : inRegSpace a = false) (halign : a % (if wide then 8 else 4) = 0) (hloads : (getHart s h.val).loads = [])
    (hstores : (getHart s h.val).stores = []) (hok : lineOk s (a / 64) = true) (hst : (getCopy s h.val (a / 64)).st = .m) :
    hostAmo s h a wide op x rl = amoDone s h a wide op x (lineWord (getCopy s h.val (a / 64)).data (a % 64) wide) := by
  unfold hostAmo atomicAt
  rw [if_neg (by simp [hmem]), if_neg (not_not_intro halign), settleHart_none hloads hstores]
  dsimp only
  rw [hostLine_owned hok hst]
  rfl

theorem amoDone_spec (a : Nat) (wide : Bool) (op : AtomOp) (x old : W64) : let t := amoDone s h a wide op x old
    (getHart t h.val).result = hostWord wide old
      ∧ (getCopy t h.val (a / 64)).data = patchLine (getCopy s h.val (a / 64)).data (a % 64) (bytesOf (if wide then 8 else 4) (atomResult op wide old x 0).toNat)
      ∧ t = { s with coh := t.coh, harts := t.harts } := by
  have hlt : h.val < 128 := by omega
  intro t
  refine ⟨?_, ?_, rfl⟩
  · exact congrArg HartState.result ((getHart_setHart ..).trans (if_pos rfl))
  · exact congrArg Copy.data ((getCopy_setCopy s _ hlt hlt).trans (if_pos ⟨rfl, rfl⟩))

theorem exec_host_does {op : HostOp} (hrun : running s = true) (hhart : hartRuns s h.val = true) (hwaits : hartWaits s h.val = false) :
    exec (.hostCoreLoadStore h op) s = .next (hostDo (if op = .taken then s else setHart s h.val { getHart s h.val with accessFault := false }) h op) := by
  rw [exec_hostCoreLoadStore, execHostCoreLoadStore, clocked_running hrun]
  split
  · rfl
  · rw [if_neg (by simp [hhart, hwaits])]
end

/-! ### Tallies (R342, R506) -/

theorem exec_dieTallyAdd_adds {s : State} {d : CDie} {level : TallyLevel} {index : Fin 4096} {v : W32} (hrun : running s = true) (hclock : bitAt s.brd.clockLost d.val = false) (hphase : s.err.phase < 2) :
    exec (.dieTallyAdd d level index v) s = .next (tallyAdd s (windowTally d level index.val) v) := by
  rw [exec_dieTallyAdd, execDieTallyAdd, clocked_running hrun]
  dsimp only
  rw [if_neg (by simp [hclock]), if_neg (Nat.not_le.2 hphase)]

theorem tallyAdd_spec (s : State) (k : Nat) (v : W32) : let t := tallyAdd s k v
    (∀ j, smGet 0 t.tallies j = if j = k then smGet 0 s.tallies j + v else smGet 0 s.tallies j) ∧ t = { s with tallies := t.tallies, stc := t.stc } :=
  ⟨fun j => smGet_smMod_if 0 s.tallies k j (· + v), rfl⟩

/-- Settles O59. -/
theorem registersAndHostCores : Obligations.RegistersAndHostCores := by
  refine ⟨?registers, ?held, ?hosts, ?tallies⟩
  case registers =>
    intro s hart addr p u hrun hwaits hgated hreset hp htaken hu
    have hreach {width : Nat} {write : Bool} {v : W64} : regAccess s hart.val addr.toNat width write v = regDeliver u hart.val addr.toNat width write v := by
      rw [hu]
      exact regAccess_delivers hwaits hgated hreset htaken
    have hself : getHart u hart.val = getHart s hart.val := by
      rw [hu]
      exact getHart_hartKept ..
    have hwaiting : (getHart u hart.val).waiting = false := by rw [hself, hartWaits_waiting hwaits]
    have honly : u = { s with harts := u.harts } := by rw [hu]; rfl
    refine ⟨fun width hbad => ?_, fun halign hdead => ?_, fun halign hdead hstuck hbehind => ?_⟩
    · have hbad' : width.toNat ≠ 8 ∨ addr.toNat % 8 ≠ 0 := hbad.imp_left fun h e => h (BitVec.eq_of_toNat_eq e)
      rw [exec_registerMisaligned, execRegisterMisaligned, clocked_running hrun, if_neg (not_and_or.2 hbad), hreach, regDeliver_misaligned hp hbad']
      rfl
    · rw [exec_registerDeadDieTimeout, execRegisterDeadDieTimeout, clocked_running hrun, hp]
      dsimp only
      rw [if_pos (by simp [hdead, halign, hgated, hreset, hwaits])]
      rfl
    have hperform {write : Bool} {v : W64} : regAccess s hart.val addr.toNat 8 write v = regPerform u hart.val p addr.toNat write v := by
      have hdead' : deadDie u p = false := by rw [hu, ← hdead]; rfl
      have hbehind' : regBehind u hart.val addr.toNat = false := by rw [hu, ← hbehind]; rfl
      exact hreach.trans (regDeliver_performs hp halign hdead' hstuck hbehind')
    have hwrite (v : W64) : exec (.registerWrite hart addr v) s = .next (regPerform u hart.val p addr.toNat true v) := by
      rw [exec_registerWrite, execRegisterWrite, clocked_running hrun, hperform]
    have hread : exec (.registerReadClear hart addr) s = .next (regPerform u hart.val p addr.toNat false 0) := by
      rw [exec_registerReadClear, execRegisterReadClear, clocked_running hrun, hperform]
    have hreg (r : Reg) : getR u r = getR s r := by rw [hu]; rfl
    refine ⟨fun w v hw => ⟨fun hinval hmap => ?_, fun t ht => ⟨fun k hslot hk hclears hvalid => ?_, fun hslot hoff => ?_⟩, fun hslot hlegal hrw => ?_, fun hsync hsteal hrc => ?_, fun hsync hsteal hrc => ?_⟩, fun hnone hnone' hinval hmap => ⟨?_, ?_⟩⟩
    · rw [hwrite, regPerform_writes hw hinval hmap]
    · rw [ht] at hvalid ⊢
      rw [hwrite, regPerform_holds hw hslot hk hclears hvalid]
    · rw [ht, hwrite, regPerform_invalidates hw hslot hoff]
    · have hinval : p.slot = 0x0E → p.off < 0x1000 := fun h => by omega
      have hmap : ∀ k, p.slot = 0x0F → nth p.off 0x20000 8 16384 = some k → clearsValid u k v = false ∨ bitAt (mapEntry (placeWrite u p addr.toNat w.reg v) k) 0 = false := fun k h => by omega
      refine ⟨setR u w.reg _, ?_, getR_setR .., rfl⟩
      rw [hwrite, regPerform_writes hw hinval hmap, placeWrite_plain _ hslot hlegal hrw, hreg]
    · rw [hread, regPerform_reads hw ((readEffect_eq hsync hsteal).trans (if_pos hrc)) hwaiting, hself]
    · have heffect := (readEffect_eq (s := u) (h := some hart.val) hsync hsteal).trans (if_neg hrc)
      refine ⟨_, hread.trans (congrArg _ (regPerform_reads hw heffect hwaiting)), ?_, ?_, ?_⟩
      · exact congrArg HartState.result ((getHart_setHart ..).trans (if_pos rfl))
      · exact (getR_setR ..).trans (by rw [hreg])
      · rw [honly]
        rfl
    · rw [exec_unmappedAccess, execUnmappedAccess, clocked_running hrun, hp]
      dsimp only
      rw [if_pos (by rw [hnone]; rfl), hperform, regPerform_unmapped_write hnone' hinval hmap]
      rfl
    · rw [exec_unmappedAccess, execUnmappedAccess, clocked_running hrun, hp]
      dsimp only
      rw [if_pos (by rw [hnone]; rfl), hperform, regPerform_unmapped_read hnone' hwaiting, hself]
      rfl
  case held =>
    intro s hart addr write v p rest hrun hheld hp hfree hstuck
    rw [exec_registerAccessHeld, execRegisterAccessHeld, clocked_running hrun]
    dsimp only
    rw [hheld, List.find?_cons_of_pos (by simp), if_neg (not_not_intro rfl), hp]
    dsimp only
    rw [if_neg (by simpa [hstuck] using fun h => hfree.resolve_left (by simp [h])), List.erase_cons_head]
  case hosts =>
    intro s h c u hrun hhart hwaits hc hu
    have hexec (op : HostOp) : exec (.hostCoreLoadStore h op) s = .next (hostDo (if op = .taken then s else u) h op) := by
      rw [hu, hc]
      exact exec_host_does hrun hhart hwaits
    have hself : getHart u h.val = c := by rw [hu, getHart_setHart, if_pos rfl]
    have hcopy (line : Nat) : getCopy u h.val line = getCopy s h.val line := by rw [hu]; rfl
    have honly : u = { s with harts := u.harts } := by rw [hu]; rfl
    refine ⟨hexec, fun a w hmem hroom => ?_, fun a w hmem hloads hstores hfit hok hst => ?_, fun a w v hmem hloads hok => ?_, fun a wide v aq rl hlost => ?_, fun hstores => ?_, fun a wide op x aq rl hmem halign hloads hstores hok hst => ?_⟩
    · rw [hexec, if_neg nofun, hostDo, loadBegin_issues hmem (by rw [hself]; exact hroom), hself]
    · rw [hexec, if_neg nofun, hostDo, hostLoad_held hmem (by rw [hself]; exact hloads) (by rw [hself]; exact hstores) (Nat.two_pow_pos _) hfit hok (by rw [hcopy]; exact hst), hself, hcopy]
    · rw [hexec, if_neg nofun, hostDo, storeTo_buffers hmem (by rw [hself]; exact hloads) hok, hself]
    · rw [hexec, if_neg nofun, hostDo, hostConditional_lost (by rw [hself]; exact hlost), hself]
    · rw [hexec, if_neg nofun, hostDo, hostFenceI_forgets (by rw [hself]; exact hstores), hself]
    · have hdone := hostAmo_owned (op := op) (x := x) (rl := rl) hmem halign (by rw [hself]; exact hloads) (by rw [hself]; exact hstores) hok (by rw [hcopy]; exact hst)
      rw [hcopy] at hdone
      obtain ⟨hresult, hdata, hkept⟩ := amoDone_spec (s := u) (h := h) a.toNat wide op x (lineWord (getCopy s h.val (a.toNat / 64)).data (a.toNat % 64) wide)
      rw [hcopy] at hdata
      refine ⟨_, (by rw [hexec, if_neg nofun, hostDo, hdone]), _, rfl, hresult, hdata, ?_⟩
      generalize amoDone u h a.toNat wide op x _ = t at hkept ⊢
      rw [hkept, honly]
  case tallies =>
    intro s d level index v hrun hclock
    refine ⟨fun hphase => ⟨_, exec_dieTallyAdd_adds hrun hclock hphase, tallyAdd_spec ..⟩, fun hphase => ?_⟩
    rw [exec_dieTallyAdd, execDieTallyAdd, clocked_running hrun]
    dsimp only
    rw [if_neg (by simp [hclock]), if_pos hphase]

end Sys2Proof.Machine
end
